-- ==== Sys2Proof/Word.lean ====
section
/-! DEFINITION. The word types of the NZ846 and their plainest arithmetic (00_scope R4 to R8, 07_encoding R196). -/

namespace Sys2Proof

/-- A byte of memory. -/
abbrev Byte := BitVec 8

/-- A 64-bit scalar register's contents, or a virtual address before it is checked (R75). -/
abbrev Word := BitVec 64

/-- A 32-bit vector element (R196). -/
abbrev Elem := BitVec 32

/-- A sparse memory: (address, byte) pairs, addresses rising, no entry equal to what an unlisted address reads as. -/
abbrev Mem := List Host.Cell

/-- A sparse table from numbers to values; a number it does not list has the table's default value. -/
abbrev Tbl (α : Type) := List (Nat × α)

end Sys2Proof
end

