-- ==== Sys2Proof/Machine/Float.lean ====
section
/-! DEFINITION. Number formats (06_formats): exact values, rounding once into a format, conversions (R155 to R181). A number is
held exactly, as a sign and m times 2 to the e. -/

namespace Sys2Proof.Machine

/-- An exact value: NaN, an infinity, or (-1)^neg m 2^e, where m = 0 is a zero of that sign. -/
inductive FV where
  | nan | inf (neg : Bool) | num (neg : Bool) (m : Nat) (e : Int)
  deriving DecidableEq, Repr

/-- Rounding modes (R170, R175). -/
inductive RMode where
  | rne | rtz | rdn | rup
  deriving DecidableEq, Repr

def RMode.of (b : BitVec 2) : RMode := if b = 0 then .rne else if b = 1 then .rtz else if b = 2 then .rdn else .rup

/-- A binary format: mantissa and exponent field widths, bias, whether it has infinities, and its greatest finite code
(R157, R175). -/
structure Fmt where
  mbits : Nat
  ebits : Nat
  bias : Nat
  hasInf : Bool
  maxCode : Nat
  nanCode : Nat
  deriving DecidableEq, Repr

def f32 : Fmt := ⟨23, 8, 127, true, 0x7F7FFFFF, 0x7FC00000⟩
def bf16 : Fmt := ⟨7, 8, 127, true, 0x7F7F, 0x7FC0⟩
def f16 : Fmt := ⟨10, 5, 15, true, 0x7BFF, 0x7E00⟩
def e4m3 : Fmt := ⟨3, 4, 7, false, 0x7E, 0x7F⟩
def e5m2 : Fmt := ⟨2, 5, 15, true, 0x7B, 0x7E⟩
def e2m1 : Fmt := ⟨1, 2, 1, false, 7, 0⟩
def e2m3 : Fmt := ⟨3, 2, 1, false, 31, 0⟩
def e3m2 : Fmt := ⟨2, 3, 3, false, 31, 0⟩
def e3m4 : Fmt := ⟨4, 3, 3, false, 127, 0⟩

/-- Bit length of a number: 0 for 0. -/
def blen (m : Nat) : Nat := if m = 0 then 0 else Nat.log2 m + 1

/-- The value of a code (R157). -/
def Fmt.decode (f : Fmt) (x : Nat) : FV :=
  let neg := x / 2 ^ (f.mbits + f.ebits) % 2 == 1
  let e := x / 2 ^ f.mbits % 2 ^ f.ebits
  let m := x % 2 ^ f.mbits
  if f.hasInf ∧ e = 2 ^ f.ebits - 1 then (if m = 0 then .inf neg else .nan)
  else if f.nanCode ≠ 0 ∧ !f.hasInf ∧ x % 2 ^ (f.mbits + f.ebits) = f.nanCode then .nan
  else if e = 0 then .num neg m (1 - (f.bias : Int) - f.mbits)
  else .num neg (2 ^ f.mbits + m) ((e : Int) - f.bias - f.mbits)

/-- m 2^e rounded to a whole multiple of 2^u: the multiple's count (R170, R171). -/
def roundAt (mode : RMode) (neg : Bool) (m : Nat) (e u : Int) : Nat :=
  if u ≤ e then m * 2 ^ (e - u).toNat
  else
    let k := (u - e).toNat
    let q := m / 2 ^ k
    let r := m % 2 ^ k
    let half := 2 ^ (k - 1)
    let up := match mode with
      | .rne => decide (half < r) || (r == half && q % 2 == 1)
      | .rtz => false
      | .rdn => neg && r != 0
      | .rup => !neg && r != 0
    if up then q + 1 else q

def Fmt.signBit (f : Fmt) (neg : Bool) : Nat := if neg then 2 ^ (f.mbits + f.ebits) else 0

/-- The code of an infinity; a format without one has its NaN there (R171, R172). -/
def Fmt.infCode (f : Fmt) (neg : Bool) : Nat :=
  if f.hasInf then f.signBit neg + (2 ^ f.ebits - 1) * 2 ^ f.mbits else f.nanCode

/-- What an overflow gives (R171). -/
def Fmt.overflow (f : Fmt) (mode : RMode) (sat neg : Bool) : Nat :=
  let toInf := !sat && match mode with | .rne => true | .rtz => false | .rdn => neg | .rup => !neg
  if toInf then f.infCode neg else f.signBit neg + f.maxCode

/-- The magnitude code of q 2^u, where q has at most mbits + 1 bits or is 2^(mbits + 1): it may pass the greatest finite. -/
def Fmt.magCode (f : Fmt) (q : Nat) (u : Int) : Nat :=
  if q < 2 ^ f.mbits then q
  else
    let (q, u) := if q = 2 ^ (f.mbits + 1) then (2 ^ f.mbits, u + 1) else (q, u)
    (u + f.mbits + f.bias).toNat * 2 ^ f.mbits + (q - 2 ^ f.mbits)

/-- An exact value rounded once into a format (R171, R172, R175, R176). -/
def Fmt.round (f : Fmt) (mode : RMode) (sat : Bool) : FV → Nat
  | .nan => f.nanCode
  | .inf neg => if sat then f.signBit neg + f.maxCode else f.infCode neg
  | .num neg m e =>
    if m = 0 then f.signBit neg
    else
      let top := e + (blen m : Int) - 1
      let u := max top (1 - (f.bias : Int)) - f.mbits
      let code := f.magCode (roundAt mode neg m e u) u
      if code ≤ f.maxCode then f.signBit neg + code else f.overflow mode sat neg

/-! ### Exact arithmetic -/

def FV.isNan : FV → Bool | .nan => true | _ => false
def FV.isZero : FV → Bool | .num _ m _ => m == 0 | _ => false
def FV.neg : FV → FV
  | .nan => .nan | .inf n => .inf (!n) | .num n m e => .num (!n) m e
def FV.signed : FV → Bool | .nan => false | .inf n => n | .num n _ _ => n

/-- A finite value as a whole multiple of 2^u, for u at or below its exponent. -/
def FV.units (x : FV) (u : Int) : Int :=
  match x with
  | .num n m e => let v : Int := (m * 2 ^ (e - u).toNat : Nat); if n then -v else v
  | _ => 0

def FV.exp : FV → Int | .num _ _ e => e | _ => 0

def ofUnits (v u : Int) (zeroNeg : Bool) : FV :=
  if v = 0 then .num zeroNeg 0 0 else .num (decide (v < 0)) v.natAbs u

/-- An exact zero sum: of terms of one sign it keeps the sign, otherwise +0, or -0 under RDN (R176, R179). -/
def zeroSign (mode : RMode) (l : List FV) : Bool :=
  if l.all fun x => x.isZero && x.signed then true
  else if l.all fun x => x.isZero && !x.signed then false
  else mode == .rdn

/-- An exact sum of terms (R176, R179): NaN if a term is, or if infinities of both signs are among them. -/
def sumExact (mode : RMode) (l : List FV) : FV :=
  if l.any FV.isNan then .nan
  else
    let pos := l.any fun x => x == .inf false
    let ng := l.any fun x => x == .inf true
    if pos && ng then .nan
    else if pos then .inf false
    else if ng then .inf true
    else
      let u := l.foldl (fun u x => min u x.exp) 0
      ofUnits (l.foldl (fun a x => a + x.units u) 0) u (zeroSign mode l)

/-- An exact product (R164). -/
def mulExact (a b : FV) : FV :=
  match a, b with
  | .nan, _ | _, .nan => .nan
  | .inf n, .inf k => .inf (n != k)
  | .inf n, .num k m _ => if m = 0 then .nan else .inf (n != k)
  | .num n m _, .inf k => if m = 0 then .nan else .inf (n != k)
  | .num n m e, .num k q g => .num (n != k) (m * q) (e + g)

/-- Comparison of numbers, -0 equal to +0: none where either is NaN. -/
def FV.lt? (a b : FV) : Option Bool :=
  match a, b with
  | .nan, _ | _, .nan => none
  | .inf n, .inf k => some (n && !k)
  | .inf n, _ => some n
  | _, .inf k => some (!k)
  | x, y => let u := min x.exp y.exp; some (decide (x.units u < y.units u))

def FV.eq? (a b : FV) : Option Bool :=
  match a.lt? b, b.lt? a with
  | some x, some y => some (!x && !y)
  | _, _ => none

/-- Whether a is below b with -0 below +0 (R177). -/
def FV.below (a b : FV) : Bool :=
  match a.lt? b with
  | some true => true
  | some false => a.isZero && b.isZero && a.signed && !b.signed
  | none => false

/-- minimumNumber and maximumNumber (R177) on codes of a format. -/
def Fmt.minNum (f : Fmt) (a b : Nat) : Nat :=
  let x := f.decode a
  let y := f.decode b
  if x.isNan && y.isNan then f.nanCode else if x.isNan then b else if y.isNan then a
  else if y.below x then b else a

def Fmt.maxNum (f : Fmt) (a b : Nat) : Nat :=
  let x := f.decode a
  let y := f.decode b
  if x.isNan && y.isNan then f.nanCode else if x.isNan then b else if y.isNan then a
  else if x.below y then b else a

/-- Sum, product and fused forms on codes of a format, rounded once (R175, R176). -/
def Fmt.add (f : Fmt) (mode : RMode) (a b : Nat) : Nat :=
  f.round mode false (sumExact mode [f.decode a, f.decode b])
def Fmt.sub (f : Fmt) (mode : RMode) (a b : Nat) : Nat :=
  f.round mode false (sumExact mode [f.decode a, (f.decode b).neg])
def Fmt.mul (f : Fmt) (mode : RMode) (a b : Nat) : Nat :=
  f.round mode false (mulExact (f.decode a) (f.decode b))
def Fmt.fma (f : Fmt) (mode : RMode) (a b c : Nat) : Nat :=
  f.round mode false (sumExact mode [mulExact (f.decode a) (f.decode b), f.decode c])
def Fmt.fms (f : Fmt) (mode : RMode) (a b c : Nat) : Nat :=
  f.round mode false (sumExact mode [(mulExact (f.decode a) (f.decode b)).neg, f.decode c])

/-- The code with its sign bit cleared or inverted; the canonical NaN for a NaN (R218, R291). -/
def Fmt.abs (f : Fmt) (a : Nat) : Nat :=
  if (f.decode a).isNan then f.nanCode else a % 2 ^ (f.mbits + f.ebits)
def Fmt.flip (f : Fmt) (a : Nat) : Nat :=
  if (f.decode a).isNan then f.nanCode
  else a % 2 ^ (f.mbits + f.ebits) + (if (f.decode a).signed then 0 else 2 ^ (f.mbits + f.ebits))

/-- Rounding to an integral value in the same format (R291). -/
def Fmt.rndi (f : Fmt) (mode : RMode) (a : Nat) : Nat :=
  match f.decode a with
  | .num n m e => f.round mode false (.num n (roundAt mode n m e 0) 0)
  | x => f.round mode false x

/-- A whole number as an exact value: zero is +0. -/
def ofInt (v : Int) : FV := .num (decide (v < 0)) v.natAbs 0

/-- A value rounded to an integer and clamped to lo … hi; NaN gives 0 (R173, R180). -/
def toIntClamp (mode : RMode) (lo hi : Int) : FV → Int
  | .nan => 0
  | .inf n => if n then lo else hi
  | .num n m e =>
    let q : Int := (roundAt mode n m e 0 : Nat)
    let v := if n then -q else q
    if v < lo then lo else if hi < v then hi else v

/-- A conversion between formats, rounded once under VRMODE, overflow without saturation (R180). -/
def convert (src dst : Fmt) (mode : RMode) (a : Nat) : Nat := dst.round mode false (src.decode a)

/-- The exact quotient of two positive numbers of units, to 2^k places with its remainder kept as a lowest bit: it rounds as
the quotient does wherever k is large against the format (R337). -/
def quotient (neg : Bool) (n d : Nat) (k : Nat) : FV :=
  if d = 0 then .nan
  else .num neg (2 * (n * 2 ^ k / d) + (if n * 2 ^ k % d = 0 then 0 else 1)) (-(k : Int) - 1)

/-- A bit vector's value as a code. -/
def bits32 (x : Nat) : BitVec 32 := BitVec.ofNat 32 x

/-! ### Special functions (R178): each value is computed in fixed point with 400 fraction bits and rounded once. -/

/-- Fraction bits of the fixed-point values. -/
def fpBits : Nat := 400
def fpOne : Nat := 2 ^ fpBits

/-- Sum of x^n / n! for n below the fuel, from the term t at index i. -/
def expSeries (x : Nat) : Nat → Nat → Nat → Nat
  | 0, _, _ => 0
  | fuel + 1, i, t => t + expSeries x fuel (i + 1) (t * x / fpOne / (i + 1))

/-- ln 2 as the sum of 1 / (k 2^k). -/
def ln2Series : Nat → Nat → Nat
  | 0, _ => 0
  | fuel + 1, k => fpOne / (k * 2 ^ k) + ln2Series fuel (k + 1)
def ln2 : Nat := ln2Series 410 1

/-- arctan (1 / q), terms alternating: the sums of even and of odd terms. -/
def atanSeries (q : Nat) : Nat → Nat → Nat → Int
  | 0, _, _ => 0
  | fuel + 1, k, p => (if k % 2 = 0 then (1 : Int) else -1) * ((p / (2 * k + 1) : Nat) : Int) + atanSeries q fuel (k + 1) (p / (q * q))

/-- pi, by Machin's formula. -/
def fpPi : Nat := (16 * atanSeries 5 180 0 (fpOne / 5) - 4 * atanSeries 239 60 0 (fpOne / 239)).toNat

/-- Sum of z^(2k+1) / (2k+1), from the power p at index k. -/
def atanhSeries (z2 : Nat) : Nat → Nat → Nat → Nat
  | 0, _, _ => 0
  | fuel + 1, k, p => p / (2 * k + 1) + atanhSeries z2 fuel (k + 1) (p * z2 / fpOne)

/-- Alternating series of sine (from term x, index 1) and cosine (from term 1, index 0). -/
def trigSeries (x2 : Nat) : Nat → Nat → Nat → Int
  | 0, _, _ => 0
  | fuel + 1, i, t => (t : Int) - trigSeries x2 fuel (i + 2) (t * x2 / fpOne / ((i + 1) * (i + 2)))

/-- An inexact value: the fixed-point number with a bit below it. -/
def fpInexact (neg : Bool) (v : Nat) (e : Int) : FV := .num neg (2 * v + 1) (e - fpBits - 1)

/-- 2^x (R178). -/
def exp2Val : FV → FV
  | .nan => .nan
  | .inf n => if n then .num false 0 0 else .inf false
  | .num n m e =>
    if m = 0 then .num false 1 0
    else if 9 < e + (blen m : Int) then (if n then .num false 1 (-2000) else .num false 1 2000)
    else
      let k := (-e).toNat
      let den := 2 ^ k
      let v : Int := if 0 ≤ e then ((m * 2 ^ e.toNat * den : Nat) : Int) else (m : Int)
      let v := if n then -v else v
      let whole := v / (den : Int)
      let frac := (v % (den : Int)).toNat
      if frac = 0 then .num false 1 whole
      else
        let x := frac * ln2 / den
        fpInexact false (expSeries x 100 0 fpOne) whole

/-- log2 x (R178). -/
def log2Val : FV → FV
  | .nan => .nan
  | .inf n => if n then .nan else .inf false
  | .num n m e =>
    if m = 0 then .inf true
    else if n then .nan
    else
      let k := blen m - 1
      let top := e + (k : Int)
      if m = 2 ^ k then ofInt top
      else
        let z := (m - 2 ^ k) * fpOne / (m + 2 ^ k)
        let l := 2 * atanhSeries (z * z / fpOne) 130 0 z * fpOne / ln2
        let v : Int := top * (fpOne : Int) + (l : Int)
        .num (decide (v < 0)) (2 * v.natAbs + 1) (-(fpBits : Int) - 1)

/-- The fraction of a turn of |x|, as units of 2^-k, and k. -/
def turnOf (m : Nat) (e : Int) : Nat × Nat :=
  let k := max 3 (-e).toNat
  (m * 2 ^ (e + k).toNat % 2 ^ k, k)

/-- sin (2 pi r) for 0 < r < 1/4, and cos by its complement: the angle in fixed point. -/
def sinAngle (r k : Nat) : Nat :=
  let x := r * 2 * fpPi / 2 ^ k
  (trigSeries (x * x / fpOne) 60 1 x).toNat

def cosAngle (r k : Nat) : Nat :=
  let x := r * 2 * fpPi / 2 ^ k
  (trigSeries (x * x / fpOne) 60 0 fpOne).toNat

/-- sin (2 pi r 2^-k) for 0 ≤ r < 2^k, k ≥ 3: near an axis by sine, farther by cosine (R178). -/
def sinTurn (neg : Bool) (r k : Nat) : FV :=
  let q := 2 ^ (k - 2)
  let quad := r / q
  let r1 := r % q
  let neg := neg != decide (2 ≤ quad)
  if r1 = 0 then (if quad % 2 = 1 then .num neg 1 0 else .num false 0 0)
  else
    let r2 := if quad % 2 = 0 then r1 else q - r1
    fpInexact neg (if 2 * r2 ≤ q then sinAngle r2 k else cosAngle (q - r2) k) 0

/-- sin (2 pi x) and cos (2 pi x), x in turns (R178). -/
def sinVal : FV → FV
  | .nan | .inf _ => .nan
  | .num n m e => if m = 0 then .num n 0 0 else let (r, k) := turnOf m e; sinTurn n r k

def cosVal : FV → FV
  | .nan | .inf _ => .nan
  | .num _ m e => let (r, k) := turnOf m e; sinTurn false ((r + 2 ^ (k - 2)) % 2 ^ k) k

/-- 1 / x (R178). -/
def rcpVal : FV → FV
  | .nan => .nan
  | .inf n => .num n 0 0
  | .num n m e => if m = 0 then .inf n else
    match quotient n 1 m 600 with
    | .num n q g => .num n q (g - e)
    | x => x

/-- The integer square root of n, by bisection on its bits. -/
def isqrtFrom (n : Nat) : Nat → Nat → Nat
  | 0, r => r
  | b + 1, r => let t := r + 2 ^ b; isqrtFrom n b (if t * t ≤ n then t else r)

def isqrt (n : Nat) : Nat := isqrtFrom n (blen n / 2 + 1) 0

/-- 1 / sqrt x (R178). -/
def rsqVal : FV → FV
  | .nan => .nan
  | .inf n => if n then .nan else .num false 0 0
  | .num n m e =>
    if m = 0 then .inf n
    else if n then .nan
    else
      let odd := (e % 2) == 1
      let m := if odd then 2 * m else m
      let e := if odd then e - 1 else e
      let s := 2 ^ 400 / m
      let r := isqrt s
      let exact := r * r = s ∧ 2 ^ 400 % m = 0
      .num false (2 * r + (if exact then 0 else 1)) (-201 - e / 2)

end Sys2Proof.Machine
end

