-- ==== Sys2Proof/Config.lean ====
section
/-! DEFINITION. What the NZ846 fixes as sizes, and the free values of this model: constants with no body, of which nothing
can be proved but what holds for every value. -/

namespace Sys2Proof.Config

/-- Columns across and down (00_scope, 01_columns R16, R17). -/
def colsAcross : Nat := 64
def rowsDown : Nat := 36
/-- General control threads of a column (R35) and the numbers of its other threads (log 1). -/
def generalThreads : Nat := 24
def tidT3 : Nat := 24
def tidD0 : Nat := 32
def tidD1 : Nat := 33
/-- Queue backing starts here in every partition's firmware window, the launch argument block below it (R410, R426). -/
def fwWindow : Nat := 0x2000000000
def queueBacking : Nat := 0x2000010000
def fwWindowEnd : Nat := 0x3000000000
/-- The image window (R410). -/
def imgWindow : Nat := 0x1000000000
/-- Pages that the image window holds. -/
def windowPages : Nat := 0x100000
/-- The scratch region (R77, R78, R81). -/
def scratchBase : Nat := 0x7E0000000000
def homeBase : Nat := 0x7F0000000000
def loftBase : Nat := 0x7F0000100000
def windowEnd : Nat := 0x7F0000300000
/-- Thread record slots (R48, R79). -/
def recordSlots : Nat := 0x7F00000FFA00
/-- Cellar physical addresses lie below this (R436). -/
def cellarEnd : Nat := 0x2000000000

/-- The free choice number n of the device, where the spec says that the device chooses among several outcomes and gives
no rule (a tag number, R102; NONCE, 24's table): log 2. -/
opaque pick : Nat → Nat

/-- The bytes of the n-th value the spec calls random (NONCE): log 2. -/
opaque random64 : Nat → BitVec 64

/-- The PUF seed that the helper data in flash gives, or none where it fails (R463): the device's own, log 6. -/
opaque pufSeed : List Byte → Option (List Byte)

/-- The Plarax root public key, whose hash is fused on the die (R455): log 6. -/
opaque rootKey : List Byte

/-- The emitter drive that calibration forms from a column's calibration plane, a pixel, its colour class, its lit value and the factor
of R457 while it stands (R18, R345): the spec gives neither the plane's layout nor the arithmetic (log 86). -/
opaque emitterDrive : Mem → Nat → Nat → BitVec 16 → Option Nat → Nat

end Sys2Proof.Config
end

