-- ==== Sys2Proof/Syntax.lean ====
section
/-! DEFINITION. The instructions and events of the NZ846: one constructor of `Instr` per row of spec/opcode_table.json
(07_encoding R190, R195, the instruction chapters' tables, 95_what_each_step_holds). An encoded instruction's fields are
the fields of its word; an event's arguments name whom it concerns, and carry what its surroundings or the firmware
choose (a sensor's reading, a host's bytes, the frames firmware takes). -/

namespace Sys2Proof

/-- A hardware thread: its column's address and its number in the column (0 to 23 general control threads under R35,
24 + j the service thread T3 of core Cj, 32 D0, 33 D1). -/
structure ThreadRef where
  ca : Nat
  tid : Nat
  deriving DecidableEq, Repr

/-- A guard: predicate and invert bit (R192). -/
structure Guard where
  p : BitVec 3
  inv : Bool
  deriving DecidableEq, Repr

/-- A check structure (R449): the column it stands in, and its STRUCT. -/
structure Checker where
  ca : Nat
  unit : Nat
  deriving DecidableEq, Repr

/-- The sensors that can trip (24_fleet R457): a column's TEMP, a cellar channel. -/
inductive Sensor where
  | column (ca : Nat) | cellar (ch : Nat)
  deriving DecidableEq, Repr

/-- The CMP and CMPI conditions (R215). -/
inductive CmpCond where
  | eq | ne | lt | ge | ltz | gez | tst | ntst
  deriving DecidableEq, Repr

/-- The FCMP conditions (R219). -/
inductive FcmpCond where
  | eq | lt | le | un
  deriving DecidableEq, Repr

/-- The FCVT forms, minor 0x10 to 0x17, destination before source (R218). -/
inductive FcvtKind where
  | f32s64 | f32z64 | s64f32 | z64f32 | f16f32 | f32f16 | bf16f32 | f32bf16
  deriving DecidableEq, Repr

/-- The RED operations (R236). -/
inductive RedOp where
  | add | opMin | opMax | opAnd | opOr | opXor
  deriving DecidableEq, Repr

/-- The WS code of RED and AMO (R236). -/
inductive WidthSign where
  | s32 | s64 | z32 | z64
  deriving DecidableEq, Repr

/-- The EW field of VMEM (R241). -/
inductive ElemWidth where
  | e8 | e16 | e32
  deriving DecidableEq, Repr

/-- The width of SEXT and ZEXT (R210). -/
inductive SubWidth where
  | w8 | w16 | w32
  deriving DecidableEq, Repr

/-- The integer element types, TY 0 to 3 (R287). -/
inductive IntTy where
  | s32 | z32 | s16 | z16
  deriving DecidableEq, Repr

/-- The floating element types, TY 4 to 6 (R287). -/
inductive FpTy where
  | f32 | f16 | bf16
  deriving DecidableEq, Repr

/-- The TY codes VCMP accepts (R295). -/
inductive VcmpTy where
  | s32 | z32 | f32
  deriving DecidableEq, Repr

/-- The VCMP conditions (R295). -/
inductive VCond where
  | eq | ne | lt | le | gt | ge | un | tst
  deriving DecidableEq, Repr

/-- The VDOT source types (R296). -/
inductive DotTy where
  | f16 | bf16 | s8 | z8 | e4m3 | e5m2
  deriving DecidableEq, Repr

/-- The VCVT forms, destination before source (R293). -/
inductive CvtKind where
  | f32s32 | f32z32 | s32f32 | z32f32 | f16f32 | bf16f32 | f32f16 | f32bf16 | s16s32 | z16z32 | s32s16 | z32z16 | s8s16 | z8z16 | e4m3f16 | e5m2f16 | f16e4m3 | f16e5m2 | s16s8 | z16z8
  deriving DecidableEq, Repr

/-- The VRED operations (R299). -/
inductive RedKind where
  | add | opMin | opMax | opAnd | opOr | opXor
  deriving DecidableEq, Repr

/-- The VRED types (R299). -/
inductive RedTy where
  | s32 | z32 | f32
  deriving DecidableEq, Repr

/-- The FENCE scopes (R135). -/
inductive Scope where
  | thread | column | dom1 | dom2 | dom3 | dom4 | partition | device
  deriving DecidableEq, Repr

/-- The BARV operations (R61, R255). -/
inductive VoteOp where
  | opAnd | opOr | opMax
  deriving DecidableEq, Repr

/-- The PDEPTH conditions (R338). -/
inductive DepthCond where
  | lt | le | eq | ne | gt | ge | al
  deriving DecidableEq, Repr

/-- The PBLEND operations (R340). -/
inductive BlendOp where
  | rep | over | add | opMax | opMin
  deriving DecidableEq, Repr

/-- The pixel planes (R339). -/
inductive Plane where
  | drg | db | lrg | lb | dep | aux
  deriving DecidableEq, Repr

/-- The COLL kinds (R329). -/
inductive CollKind where
  | sumf | sumx | gather | bcast
  deriving DecidableEq, Repr

/-- The VFPUSH formats (R276). -/
inductive FifoFmt where
  | w32 | w32h | h16
  deriving DecidableEq, Repr

/-- One step of the machine: an encoded instruction, or one of the events of the table. -/
inductive Instr where
  /-- SYSR (R354). -/
  | sysr (s : BitVec 5) (r : BitVec 12)
  /-- SYSW (R354). -/
  | sysw (s : BitVec 5) (r : BitVec 12)
  /-- SYSX (R354). -/
  | sysx (s : BitVec 5) (r : BitVec 12)
  /-- ERET (R365). -/
  | eret
  /-- SCALL (R357). -/
  | scall (c : BitVec 12)
  /-- BKPT (R357). -/
  | bkpt (c : BitVec 12)
  /-- PPOINT (R358). -/
  | ppoint
  /-- IFENCE (R229). -/
  | ifence
  /-- HALT (R359). -/
  | halt (c : BitVec 12)
  /-- FENCE (R136). -/
  | fence (s : Scope)
  /-- TIME (R349). -/
  | time (d : BitVec 5)
  /-- WAIT (R202). -/
  | wait (l : BitVec 5) (s : BitVec 5) (c : BitVec 5) (t : BitVec 5) (x : BitVec 5)
  /-- BR (R223). -/
  | br (o : BitVec 21)
  /-- BRC (R223). -/
  | brc (p : BitVec 3) (inv : Bool) (o : BitVec 21)
  /-- JAL (R224). -/
  | jal (d : BitVec 5) (i : BitVec 20)
  /-- JALR (R224). -/
  | jalr (d : BitVec 5) (a : BitVec 5) (i : BitVec 15)
  /-- LOOP (R225). -/
  | loop (a : BitVec 5) (i : BitVec 15)
  /-- LD (R233). -/
  | ld (d : BitVec 5) (b : BitVec 5) (h : BitVec 2) (t : BitVec 3) (o : BitVec 10)
  /-- ST (R233). -/
  | st (d : BitVec 5) (b : BitVec 5) (h : BitVec 2) (t : BitVec 2) (o : BitVec 10)
  /-- LDX (R235). -/
  | ldx (d : BitVec 5) (a : BitVec 5) (b : BitVec 5) (g : Guard) (t : BitVec 3)
  /-- RED_OP (R237). -/
  | redOp (a : BitVec 5) (b : BitVec 5) (g : Guard) (o : RedOp) (w : WidthSign)
  /-- RED_X (R238). -/
  | redX (a : BitVec 5) (b : BitVec 5) (g : Guard)
  /-- AMO_SWAP (R239). -/
  | amoSwap (d : BitVec 5) (a : BitVec 5) (b : BitVec 5) (g : Guard) (w : WidthSign)
  /-- AMO_CAS (R239). -/
  | amoCas (d : BitVec 5) (a : BitVec 5) (b : BitVec 5) (g : Guard) (w : WidthSign)
  /-- AMO_ADD (R239). -/
  | amoAdd (d : BitVec 5) (a : BitVec 5) (b : BitVec 5) (g : Guard) (w : WidthSign)
  /-- VLD (R242). -/
  | vld (d : BitVec 4) (k : BitVec 2) (b : BitVec 5) (e : ElemWidth) (x : Bool)
  /-- VST (R242). -/
  | vst (d : BitVec 4) (k : BitVec 2) (b : BitVec 5) (e : ElemWidth)
  /-- VLDS (R242). -/
  | vlds (d : BitVec 4) (c : BitVec 4) (k : BitVec 2) (b : BitVec 5) (e : ElemWidth) (x : Bool)
  /-- VSTS (R242). -/
  | vsts (d : BitVec 4) (c : BitVec 4) (k : BitVec 2) (b : BitVec 5) (e : ElemWidth)
  /-- VGATH (R242). -/
  | vgath (d : BitVec 4) (i : BitVec 4) (k : BitVec 2) (b : BitVec 5) (e : ElemWidth) (x : Bool)
  /-- VSCAT (R242). -/
  | vscat (d : BitVec 4) (i : BitVec 4) (k : BitVec 2) (b : BitVec 5) (e : ElemWidth)
  /-- CTXNEW (R101). -/
  | ctxnew (d : BitVec 5) (a : BitVec 5) (g : Guard)
  /-- CTXSET (R102). -/
  | ctxset (a : BitVec 5) (g : Guard)
  /-- CTXFOLD (R107). -/
  | ctxfold (a : BitVec 5) (g : Guard)
  /-- CTXRET (R108). -/
  | ctxret (a : BitVec 5) (g : Guard)
  /-- CTXQ (R249). -/
  | ctxq (d : BitVec 5) (a : BitVec 5) (g : Guard)
  /-- TLOD (R251). -/
  | tlod (d : BitVec 4) (a : BitVec 4) (b : BitVec 4) (k : BitVec 2) (s : BitVec 5) (c : BitVec 2)
  /-- TSMP (R251). -/
  | tsmp (d : BitVec 4) (a : BitVec 4) (b : BitVec 4) (k : BitVec 2) (s : BitVec 5) (c : BitVec 2)
  /-- RESQ (R252). -/
  | resq (d : BitVec 4) (a : BitVec 4) (k : BitVec 2) (s : BitVec 5)
  /-- RESW (R253). -/
  | resw (d : BitVec 4) (a : BitVec 4) (k : BitVec 2) (s : BitVec 5) (t : Bool)
  /-- RMFENCE (R254). -/
  | rmfence (s : BitVec 5)
  /-- SPAWNR (R256). -/
  | spawnr (d : BitVec 5) (a : BitVec 5) (b : BitVec 5) (g : Guard)
  /-- SPAWNC (R259). -/
  | spawnc (a : BitVec 5) (g : Guard)
  /-- TEND (R260). -/
  | tend
  /-- AWAIT (R261). -/
  | await (a : BitVec 5)
  /-- JOIN (R263). -/
  | join (a : BitVec 5) (g : Guard)
  /-- STAMP (R258). -/
  | stamp (d : BitVec 5) (a : BitVec 5) (b : BitVec 5) (g : Guard)
  /-- YIELD (R262). -/
  | yield
  /-- BAR (R264). -/
  | bar (l : BitVec 3)
  /-- BAR_X (R264). -/
  | barX (l : BitVec 3)
  /-- BARV (R264). -/
  | barv (d : BitVec 5) (a : BitVec 5) (b : VoteOp) (l : BitVec 3)
  /-- BARV_X (R264). -/
  | barvX (d : BitVec 5) (a : BitVec 5) (b : VoteOp) (l : BitVec 3)
  /-- DOMQ (R265). -/
  | domq (d : BitVec 5) (g : Guard) (l : BitVec 3)
  /-- SEND (R267). -/
  | send (a : BitVec 5) (b : BitVec 5) (g : Guard)
  /-- RECV (R268). -/
  | recv (d : BitVec 5) (a : BitVec 5) (c : BitVec 5)
  /-- RECVQ (R269). -/
  | recvq (d : BitVec 5) (c : BitVec 5) (g : Guard)
  /-- RPLAY (R269). -/
  | rplay (d : BitVec 5) (a : BitVec 5) (g : Guard)
  /-- XSEND (R274). -/
  | xsend (r : BitVec 5) (s : BitVec 5) (l : BitVec 10)
  /-- XRECV (R275). -/
  | xrecv (c : BitVec 5) (k : BitVec 14)
  /-- MLEASE (R309). -/
  | mlease (n : BitVec 6)
  /-- MREL (R309). -/
  | mrel
  /-- MCLR (R313). -/
  | mclr (r : BitVec 2) (c : BitVec 2) (m : BitVec 2) (n : BitVec 2)
  /-- MROT (R319). -/
  | mrot (a : BitVec 5) (b : BitVec 5) (k : BitVec 6)
  /-- MRD (R324). -/
  | mrd (a : BitVec 5) (b : BitVec 5)
  /-- MRDV (R325). -/
  | mrdv (b : BitVec 5) (v : BitVec 4)
  /-- MMA (R314). -/
  | mma (a : BitVec 5) (b : BitVec 5) (r : BitVec 2) (c : BitVec 2) (m : BitVec 2) (n : BitVec 2) (k : BitVec 6)
  /-- CPY (R327). -/
  | cpy (a : BitVec 5) (b : BitVec 5) (l : BitVec 12)
  /-- CPY2D (R327). -/
  | cpy2d (a : BitVec 5) (b : BitVec 5) (r : BitVec 6) (l : BitVec 6)
  /-- CPYG (R327). -/
  | cpyg (a : BitVec 5) (b : BitVec 5) (l : BitVec 12)
  /-- COLL (R329). -/
  | coll (a : BitVec 5) (b : BitVec 5) (k : CollKind) (e : BitVec 3) (l : BitVec 6)
  /-- PSETUP (R336). -/
  | psetup (d : BitVec 4) (a : BitVec 4)
  /-- PCOVER (R337). -/
  | pcover (d : BitVec 4) (a : BitVec 4) (c : BitVec 2) (l : BitVec 2) (m : BitVec 2) (s : BitVec 5)
  /-- PDEPTH (R338). -/
  | pdepth (e : BitVec 2) (a : BitVec 4) (w : Bool) (m : BitVec 2) (s : BitVec 5) (c : DepthCond)
  /-- PBLEND (R341). -/
  | pblend (r : Bool) (a : BitVec 4) (b : BitVec 4) (m : BitVec 2) (s : BitVec 5) (o : BlendOp)
  /-- PBLEND_C (R342). -/
  | pblendC (r : Bool) (a : BitVec 4) (b : BitVec 4) (m : BitVec 2) (s : BitVec 5) (o : BlendOp)
  /-- PLD (R339). -/
  | pld (d : BitVec 4) (m : BitVec 2) (s : BitVec 5) (l : Plane)
  /-- PST (R339). -/
  | pst (d : BitVec 4) (m : BitVec 2) (s : BitVec 5) (l : Plane)
  /-- PST_X (R339). -/
  | pstX (d : BitVec 4) (a : BitVec 4) (m : BitVec 2) (l : Plane)
  /-- EMIT (R344). -/
  | emit (a : BitVec 5) (b : BitVec 5)
  /-- EMITQ (R347). -/
  | emitq (a : BitVec 5) (b : BitVec 5)
  /-- VFPUSH (R277). -/
  | vfpush (a : BitVec 4) (s : BitVec 5) (f : FifoFmt)
  /-- VFPOP (R278). -/
  | vfpop (d : BitVec 4) (s : BitVec 5)
  /-- VFFREE (R278). -/
  | vffree (s : BitVec 5)
  /-- VCLAIM (R279). -/
  | vclaim (d : BitVec 5) (a : BitVec 5) (g : Guard)
  /-- VREL (R279). -/
  | vrel (g : Guard)
  /-- ADD (R210). -/
  | add (d : BitVec 5) (a : BitVec 5) (b : BitVec 5) (g : Guard)
  /-- SUB (R210). -/
  | sub (d : BitVec 5) (a : BitVec 5) (b : BitVec 5) (g : Guard)
  /-- AND (R210). -/
  | and (d : BitVec 5) (a : BitVec 5) (b : BitVec 5) (g : Guard)
  /-- OR (R210). -/
  | or (d : BitVec 5) (a : BitVec 5) (b : BitVec 5) (g : Guard)
  /-- XOR (R210). -/
  | xor (d : BitVec 5) (a : BitVec 5) (b : BitVec 5) (g : Guard)
  /-- ANDN (R210). -/
  | andn (d : BitVec 5) (a : BitVec 5) (b : BitVec 5) (g : Guard)
  /-- ORN (R210). -/
  | orn (d : BitVec 5) (a : BitVec 5) (b : BitVec 5) (g : Guard)
  /-- SLL (R210). -/
  | sll (d : BitVec 5) (a : BitVec 5) (b : BitVec 5) (g : Guard)
  /-- SRL (R210). -/
  | srl (d : BitVec 5) (a : BitVec 5) (b : BitVec 5) (g : Guard)
  /-- SRA (R210). -/
  | sra (d : BitVec 5) (a : BitVec 5) (b : BitVec 5) (g : Guard)
  /-- ROL (R210). -/
  | rol (d : BitVec 5) (a : BitVec 5) (b : BitVec 5) (g : Guard)
  /-- ROR (R210). -/
  | ror (d : BitVec 5) (a : BitVec 5) (b : BitVec 5) (g : Guard)
  /-- MIN (R210). -/
  | min (d : BitVec 5) (a : BitVec 5) (b : BitVec 5) (g : Guard)
  /-- MAX (R210). -/
  | max (d : BitVec 5) (a : BitVec 5) (b : BitVec 5) (g : Guard)
  /-- MINZ (R210). -/
  | minz (d : BitVec 5) (a : BitVec 5) (b : BitVec 5) (g : Guard)
  /-- MAXZ (R210). -/
  | maxz (d : BitVec 5) (a : BitVec 5) (b : BitVec 5) (g : Guard)
  /-- ADDSH (R210). -/
  | addsh (d : BitVec 5) (a : BitVec 5) (b : BitVec 5) (g : Guard) (s : BitVec 3)
  /-- SEXT (R210). -/
  | sext (d : BitVec 5) (a : BitVec 5) (g : Guard) (w : SubWidth)
  /-- ZEXT (R210). -/
  | zext (d : BitVec 5) (a : BitVec 5) (g : Guard) (w : SubWidth)
  /-- CLZ (R210). -/
  | clz (d : BitVec 5) (a : BitVec 5) (g : Guard)
  /-- CTZ (R210). -/
  | ctz (d : BitVec 5) (a : BitVec 5) (g : Guard)
  /-- POPC (R210). -/
  | popc (d : BitVec 5) (a : BitVec 5) (g : Guard)
  /-- BSWAP (R210). -/
  | bswap (d : BitVec 5) (a : BitVec 5) (g : Guard)
  /-- SEL (R211). -/
  | sel (d : BitVec 5) (a : BitVec 5) (b : BitVec 5) (p : BitVec 3) (inv : Bool)
  /-- ADDI (R212). -/
  | addi (d : BitVec 5) (a : BitVec 5) (i : BitVec 15)
  /-- ANDI (R212). -/
  | andi (d : BitVec 5) (a : BitVec 5) (i : BitVec 15)
  /-- ORI (R212). -/
  | ori (d : BitVec 5) (a : BitVec 5) (i : BitVec 15)
  /-- XORI (R212). -/
  | xori (d : BitVec 5) (a : BitVec 5) (i : BitVec 15)
  /-- SLLI (R213). -/
  | slli (d : BitVec 5) (a : BitVec 5) (m : BitVec 6)
  /-- SRLI (R213). -/
  | srli (d : BitVec 5) (a : BitVec 5) (m : BitVec 6)
  /-- SRAI (R213). -/
  | srai (d : BitVec 5) (a : BitVec 5) (m : BitVec 6)
  /-- ROLI (R213). -/
  | roli (d : BitVec 5) (a : BitVec 5) (m : BitVec 6)
  /-- RORI (R213). -/
  | rori (d : BitVec 5) (a : BitVec 5) (m : BitVec 6)
  /-- LDHI (R214). -/
  | ldhi (d : BitVec 5) (i : BitVec 20)
  /-- CMP (R215). -/
  | cmp (p : BitVec 3) (a : BitVec 5) (b : BitVec 5) (g : Guard) (c : CmpCond)
  /-- CMPI (R216). -/
  | cmpi (p : BitVec 3) (a : BitVec 5) (c : CmpCond) (i : BitVec 12)
  /-- MUL (R217). -/
  | mul (d : BitVec 5) (a : BitVec 5) (b : BitVec 5) (g : Guard)
  /-- MULH (R217). -/
  | mulh (d : BitVec 5) (a : BitVec 5) (b : BitVec 5) (g : Guard)
  /-- MULHZ (R217). -/
  | mulhz (d : BitVec 5) (a : BitVec 5) (b : BitVec 5) (g : Guard)
  /-- DIV (R217). -/
  | div (d : BitVec 5) (a : BitVec 5) (b : BitVec 5) (g : Guard)
  /-- DIVZ (R217). -/
  | divz (d : BitVec 5) (a : BitVec 5) (b : BitVec 5) (g : Guard)
  /-- REM (R217). -/
  | rem (d : BitVec 5) (a : BitVec 5) (b : BitVec 5) (g : Guard)
  /-- REMZ (R217). -/
  | remz (d : BitVec 5) (a : BitVec 5) (b : BitVec 5) (g : Guard)
  /-- FADD (R218). -/
  | fadd (d : BitVec 5) (a : BitVec 5) (b : BitVec 5) (g : Guard)
  /-- FSUB (R218). -/
  | fsub (d : BitVec 5) (a : BitVec 5) (b : BitVec 5) (g : Guard)
  /-- FMUL (R218). -/
  | fmul (d : BitVec 5) (a : BitVec 5) (b : BitVec 5) (g : Guard)
  /-- FFMA (R218). -/
  | ffma (d : BitVec 5) (a : BitVec 5) (b : BitVec 5) (g : Guard)
  /-- FMIN (R218). -/
  | fmin (d : BitVec 5) (a : BitVec 5) (b : BitVec 5) (g : Guard)
  /-- FMAX (R218). -/
  | fmax (d : BitVec 5) (a : BitVec 5) (b : BitVec 5) (g : Guard)
  /-- FABS (R218). -/
  | fabs (d : BitVec 5) (a : BitVec 5) (g : Guard)
  /-- FNEG (R218). -/
  | fneg (d : BitVec 5) (a : BitVec 5) (g : Guard)
  /-- FCMP (R219). -/
  | fcmp (p : BitVec 3) (a : BitVec 5) (b : BitVec 5) (g : Guard) (c : FcmpCond)
  /-- FCVT (R218). -/
  | fcvt (d : BitVec 5) (a : BitVec 5) (g : Guard) (c : FcvtKind)
  /-- BFX (R220). -/
  | bfx (d : BitVec 5) (a : BitVec 5) (p : BitVec 6) (w : BitVec 6)
  /-- BFXZ (R220). -/
  | bfxz (d : BitVec 5) (a : BitVec 5) (p : BitVec 6) (w : BitVec 6)
  /-- BFI (R220). -/
  | bfi (d : BitVec 5) (a : BitVec 5) (p : BitVec 6) (w : BitVec 6)
  /-- VADD_INT (R289). -/
  | vaddInt (d : BitVec 4) (a : BitVec 4) (b : BitVec 4) (k : BitVec 2) (t : IntTy) (s : Bool)
  /-- VSUB_INT (R289). -/
  | vsubInt (d : BitVec 4) (a : BitVec 4) (b : BitVec 4) (k : BitVec 2) (t : IntTy) (s : Bool)
  /-- VMUL_INT (R289). -/
  | vmulInt (d : BitVec 4) (a : BitVec 4) (b : BitVec 4) (k : BitVec 2) (t : IntTy) (s : Bool)
  /-- VMULH (R289). -/
  | vmulh (d : BitVec 4) (a : BitVec 4) (b : BitVec 4) (k : BitVec 2) (t : IntTy) (s : Bool)
  /-- VMIN_INT (R289). -/
  | vminInt (d : BitVec 4) (a : BitVec 4) (b : BitVec 4) (k : BitVec 2) (t : IntTy) (s : Bool)
  /-- VMAX_INT (R289). -/
  | vmaxInt (d : BitVec 4) (a : BitVec 4) (b : BitVec 4) (k : BitVec 2) (t : IntTy) (s : Bool)
  /-- VAND (R289). -/
  | vand (d : BitVec 4) (a : BitVec 4) (b : BitVec 4) (k : BitVec 2) (t : IntTy) (s : Bool)
  /-- VOR (R289). -/
  | vor (d : BitVec 4) (a : BitVec 4) (b : BitVec 4) (k : BitVec 2) (t : IntTy) (s : Bool)
  /-- VXOR (R289). -/
  | vxor (d : BitVec 4) (a : BitVec 4) (b : BitVec 4) (k : BitVec 2) (t : IntTy) (s : Bool)
  /-- VANDN (R289). -/
  | vandn (d : BitVec 4) (a : BitVec 4) (b : BitVec 4) (k : BitVec 2) (t : IntTy) (s : Bool)
  /-- VSLL (R289). -/
  | vsll (d : BitVec 4) (a : BitVec 4) (b : BitVec 4) (k : BitVec 2) (t : IntTy) (s : Bool)
  /-- VSRL (R289). -/
  | vsrl (d : BitVec 4) (a : BitVec 4) (b : BitVec 4) (k : BitVec 2) (t : IntTy) (s : Bool)
  /-- VSRA (R289). -/
  | vsra (d : BitVec 4) (a : BitVec 4) (b : BitVec 4) (k : BitVec 2) (t : IntTy) (s : Bool)
  /-- VADDS (R289). -/
  | vadds (d : BitVec 4) (a : BitVec 4) (b : BitVec 4) (k : BitVec 2) (t : IntTy) (s : Bool)
  /-- VSUBS (R289). -/
  | vsubs (d : BitVec 4) (a : BitVec 4) (b : BitVec 4) (k : BitVec 2) (t : IntTy) (s : Bool)
  /-- VABS_INT (R289). -/
  | vabsInt (d : BitVec 4) (a : BitVec 4) (k : BitVec 2) (t : IntTy)
  /-- VDIV (R289). -/
  | vdiv (d : BitVec 4) (a : BitVec 4) (b : BitVec 4) (k : BitVec 2) (t : IntTy) (s : Bool)
  /-- VREM (R289). -/
  | vrem (d : BitVec 4) (a : BitVec 4) (b : BitVec 4) (k : BitVec 2) (t : IntTy) (s : Bool)
  /-- VMERGE (R290). -/
  | vmerge (d : BitVec 4) (a : BitVec 4) (b : BitVec 4) (k : BitVec 2) (t : IntTy) (s : Bool)
  /-- VADD_FP (R291). -/
  | vaddFp (d : BitVec 4) (a : BitVec 4) (b : BitVec 4) (k : BitVec 2) (t : FpTy) (s : Bool)
  /-- VSUB_FP (R291). -/
  | vsubFp (d : BitVec 4) (a : BitVec 4) (b : BitVec 4) (k : BitVec 2) (t : FpTy) (s : Bool)
  /-- VMUL_FP (R291). -/
  | vmulFp (d : BitVec 4) (a : BitVec 4) (b : BitVec 4) (k : BitVec 2) (t : FpTy) (s : Bool)
  /-- VFMA (R291). -/
  | vfma (d : BitVec 4) (a : BitVec 4) (b : BitVec 4) (k : BitVec 2) (t : FpTy) (s : Bool)
  /-- VFMS (R291). -/
  | vfms (d : BitVec 4) (a : BitVec 4) (b : BitVec 4) (k : BitVec 2) (t : FpTy) (s : Bool)
  /-- VMIN_FP (R291). -/
  | vminFp (d : BitVec 4) (a : BitVec 4) (b : BitVec 4) (k : BitVec 2) (t : FpTy) (s : Bool)
  /-- VMAX_FP (R291). -/
  | vmaxFp (d : BitVec 4) (a : BitVec 4) (b : BitVec 4) (k : BitVec 2) (t : FpTy) (s : Bool)
  /-- VABS_FP (R291). -/
  | vabsFp (d : BitVec 4) (a : BitVec 4) (k : BitVec 2) (t : FpTy)
  /-- VNEG (R291). -/
  | vneg (d : BitVec 4) (a : BitVec 4) (k : BitVec 2) (t : FpTy)
  /-- VRNDI (R291). -/
  | vrndi (d : BitVec 4) (a : BitVec 4) (k : BitVec 2) (t : FpTy)
  /-- VCVT (R293). -/
  | vcvt (d : BitVec 4) (a : BitVec 4) (b : BitVec 4) (k : BitVec 2) (c : CvtKind) (h : Bool)
  /-- XTOF (R294). -/
  | xtof (d : BitVec 4) (a : BitVec 4) (k : BitVec 2)
  /-- VRCP (R292). -/
  | vrcp (d : BitVec 4) (a : BitVec 4) (k : BitVec 2) (t : FpTy)
  /-- VRSQ (R292). -/
  | vrsq (d : BitVec 4) (a : BitVec 4) (k : BitVec 2) (t : FpTy)
  /-- VEXP2 (R292). -/
  | vexp2 (d : BitVec 4) (a : BitVec 4) (k : BitVec 2) (t : FpTy)
  /-- VLOG2 (R292). -/
  | vlog2 (d : BitVec 4) (a : BitVec 4) (k : BitVec 2) (t : FpTy)
  /-- VSIN (R292). -/
  | vsin (d : BitVec 4) (a : BitVec 4) (k : BitVec 2) (t : FpTy)
  /-- VCOS (R292). -/
  | vcos (d : BitVec 4) (a : BitVec 4) (k : BitVec 2) (t : FpTy)
  /-- VRED (R299). -/
  | vred (d : BitVec 4) (a : BitVec 4) (k : BitVec 2) (o : RedKind) (t : RedTy)
  /-- VPERM (R300). -/
  | vperm (d : BitVec 4) (a : BitVec 4) (b : BitVec 4) (k : BitVec 2)
  /-- VSLIDE (R301). -/
  | vslide (d : BitVec 4) (a : BitVec 4) (k : BitVec 2) (r : Bool) (n : BitVec 6)
  /-- VBCAST (R302). -/
  | vbcast (d : BitVec 4) (a : BitVec 4) (k : BitVec 2) (n : BitVec 6)
  /-- VIOTA (R302). -/
  | viota (d : BitVec 4) (k : BitVec 2)
  /-- VCMP (R295). -/
  | vcmp (e : BitVec 2) (a : BitVec 4) (b : BitVec 4) (k : BitVec 2) (t : VcmpTy) (s : Bool) (c : VCond)
  /-- VDOT (R297). -/
  | vdot (d : BitVec 4) (a : BitVec 4) (b : BitVec 4) (k : BitVec 2) (t : DotTy) (i : Bool) (s : Bool)
  /-- VINS (R303). -/
  | vins (d : BitVec 4) (s : BitVec 5) (n : BitVec 6)
  /-- VEXT_S32 (R303). -/
  | vextS32 (a : BitVec 4) (s : BitVec 5) (n : BitVec 6)
  /-- VSPLAT (R303). -/
  | vsplat (d : BitVec 4) (k : BitVec 2) (s : BitVec 5)
  /-- VINS_K (R303). -/
  | vinsK (e : BitVec 2) (s : BitVec 5)
  /-- VEXT_K (R303). -/
  | vextK (e : BitVec 2) (s : BitVec 5)
  /-- VEXT_Z32 (R303). -/
  | vextZ32 (a : BitVec 4) (s : BitVec 5) (n : BitVec 6)
  /-- SYSTEM_REGISTER_WRITE (R355). -/
  | systemRegisterWrite (t : ThreadRef) (r : BitVec 12) (v : Word)
  /-- LOFTWAYS_WRITE (R84). -/
  | loftwaysWrite (t : ThreadRef) (v : Word)
  /-- LOFTWAYS_SWITCH (R84). -/
  | loftwaysSwitch (ca : Nat)
  /-- LOFTWAYS_TIMEOUT (R85). -/
  | loftwaysTimeout (ca : Nat)
  /-- GRBASE_WRITE (R123). -/
  | grbaseWrite (t : ThreadRef) (v : Word)
  /-- GRTAIL_WRITE (R124). -/
  | grtailWrite (t : ThreadRef) (v : Word)
  /-- UPGATE_WRITE (R350). -/
  | upgateWrite (t : ThreadRef) (v : Word)
  /-- DRIVE_GATE (R350). -/
  | driveGate (ca : Nat)
  /-- LAUNCH_DOORBELL (R425). -/
  | launchDoorbell (fn : Nat) (tail : Nat)
  /-- HOST_REGISTER_WRITE (R419). -/
  | hostRegisterWrite (fn : Nat) (off : Nat) (v : Word)
  /-- LAUNCH_RECORD (R425). -/
  | launchRecord (fn : Nat) (frames : List Nat)
  /-- LAUNCH_COMPLETE (R260). -/
  | launchComplete (part : Nat)
  /-- COMPLETION_RECORD (R427). -/
  | completionRecord (part : Nat)
  /-- LAUNCH_TIMEOUT (R427). -/
  | launchTimeout (part : Nat)
  /-- TASK_POP (R47). -/
  | taskPop (t : ThreadRef)
  /-- RECORD_AGING (R46). -/
  | recordAging (ca : Nat) (prio : Nat)
  /-- ORDERED_COMMIT (R53). -/
  | orderedCommit (t : ThreadRef)
  /-- STALL_RESUME (R37). -/
  | stallResume (t : ThreadRef)
  /-- LEASE_GRANT (R67). -/
  | leaseGrant (ca : Nat)
  /-- SPAWN_STALL_LIMIT (R44). -/
  | spawnStallLimit (t : ThreadRef)
  /-- CONTEXT_STALL_LIMIT (R101). -/
  | contextStallLimit (t : ThreadRef)
  /-- BARRIER_RELEASE (R59). -/
  | barrierRelease (part : Nat) (level : Nat) (id : Nat)
  /-- BARRIER_WATCHDOG (R60). -/
  | barrierWatchdog (part : Nat) (level : Nat) (id : Nat)
  /-- EXCHANGE_LAUNCH (R63). -/
  | exchangeLaunch (x : Nat)
  /-- TRANSFER_LANDING (R275). -/
  | transferLanding (x : Nat) (ca : Nat)
  /-- XRECV_DEADLINE (R275). -/
  | xrecvDeadline (t : ThreadRef)
  /-- MESSAGE_DELIVERY (R267). -/
  | messageDelivery (m : Nat)
  /-- SPILL_WAKE (R270). -/
  | spillWake (ca : Nat) (drv : Bool)
  /-- FIFO_ENTRY (R277). -/
  | fifoEntry (ca : Nat)
  /-- LOAD_RETURN (R199). -/
  | loadReturn (t : ThreadRef) (a : Nat)
  /-- STORE_PERFORMED (R199). -/
  | storePerformed (t : ThreadRef) (a : Nat)
  /-- ENGINE_REGISTRATION (R144). -/
  | engineRegistration (c : Nat)
  /-- COPY_COMPLETE (R199). -/
  | copyComplete (c : Nat)
  /-- MATRIX_COMMAND_COMPLETE (R199). -/
  | matrixCommandComplete (c : Nat)
  /-- MROT_LANDING (R320). -/
  | mrotLanding (c : Nat)
  /-- PREEMPT_REQUEST (R72). -/
  | preemptRequest (part : Nat)
  /-- PREEMPT_DISTANCE_EXPIRY (R73). -/
  | preemptDistanceExpiry (t : ThreadRef)
  /-- TRAP_DELIVERY (R364). -/
  | trapDelivery (t : ThreadRef)
  /-- EMISSION_COPY (R344). -/
  | emissionCopy (ca : Nat) (e : Nat)
  /-- EMISSION_END (R344). -/
  | emissionEnd (ca : Nat) (e : Nat)
  /-- CELLAR_REFRESH (R29). -/
  | cellarRefresh (ch : Nat)
  /-- CELLAR_SENSOR_CHANGE (R29). -/
  | cellarSensorChange (ch : Nat) (temp : Nat)
  /-- THSENSE_REFRESH (R367). -/
  | thsenseRefresh (ca : Nat) (temp : BitVec 16) (droop : BitVec 16)
  /-- THALLOW_WINDOW (R366). -/
  | thallowWindow (ca : Nat) (hold : BitVec 16)
  /-- FILTER_ENTRY_EXPIRY (R127). -/
  | filterEntryExpiry (ca : Nat)
  /-- HOST_BAR2_READ (R419). -/
  | hostBar2Read (fn : Nat) (off : Nat) (len : Nat)
  /-- HOST_BAR2_WRITE (R419). -/
  | hostBar2Write (fn : Nat) (off : Nat) (bytes : List Byte)
  /-- SCENE_MESSAGE (R420). -/
  | sceneMessage (fn : Nat)
  /-- PCREATE (R422). -/
  | pcreate (slot : Nat)
  /-- PDESTROY (R422). -/
  | pdestroy (part : Nat)
  /-- PBIND (R422). -/
  | pbind (vf : Nat) (part : Nat)
  /-- PUNBIND (R422). -/
  | punbind (vf : Nat)
  /-- PEVICT (R422). -/
  | pevict (part : Nat)
  /-- QUANTUM_EXPIRY (R429). -/
  | quantumExpiry (part : Nat)
  /-- PREEMPTION (R429). -/
  | preemption (part : Nat)
  /-- COLUMN_CONTEXT_EXCHANGE (R430). -/
  | columnContextExchange (ca : Nat) (part : Nat)
  /-- FIRMWARE_COMMAND (R428). -/
  | firmwareCommand (link : Nat)
  /-- REFERENCE_PULSE (R433). -/
  | referencePulse (sec : Nat)
  /-- SLEW_END (R433). -/
  | slewEnd
  /-- REFERENCE_LOSS (R435). -/
  | referenceLoss
  /-- SETROOT (R440). -/
  | setroot (part : Nat) (root : Word)
  /-- INVAL (R441). -/
  | inval (part : Nat) (va : Word) (size : Nat)
  /-- RESOLVE (R445). -/
  | resolve (part : Nat) (va : Word) (outcome : Nat)
  /-- FAULT_COMBINE (R443). -/
  | faultCombine (f : Nat)
  /-- FAULT_BATCH_DELIVERY (R444). -/
  | faultBatchDelivery (ca : Nat)
  /-- PAGE_FAULT_SERVICE (R445). -/
  | pageFaultService (part : Nat) (page : Nat) (frame : Nat)
  /-- PARTITION_KILL (R451). -/
  | partitionKill (part : Nat) (unit : Checker) (line : Nat)
  /-- THERMAL_TRIP (R457). -/
  | thermalTrip (sensor : Sensor)
  /-- STAGE (R458). -/
  | stage (addr : Nat) (len : Nat)
  /-- ACTIVATE (R460). -/
  | activate
  /-- CONFIRM (R461). -/
  | confirm
  /-- ROLLBACK (R462). -/
  | rollback (addr : Nat)
  /-- FLOOR (R459). -/
  | floor (addr : Nat)
  /-- QUOTE (R464). -/
  | quote (part : Nat) (nonce : List Byte) (out : Nat)
  /-- TELSNAP (R465). -/
  | telsnap (out : Nat)
  /-- TRIAL_TIMEOUT (R461). -/
  | trialTimeout
  /-- DEVICE_RESET (R460). -/
  | deviceReset
  /-- EMITTER_LAYER_SENSOR_CHANGE (R457). -/
  | emitterLayerSensorChange (temp : Nat)
  deriving DecidableEq, Repr

end Sys2Proof
end

