-- ==== Sys2Proof/Machine/State.lean ====
section
/-! DEFINITION. The state of an NZ846, as plain data: every piece of state spec/ names (INVENTORY.md, '## State'), the
reasons a step can stop, and the state after reset. Fields marked "the model's" are not the spec's. -/

namespace Sys2Proof.Machine

/-- Why a step stops with a fault. -/
inductive Fault where
  /-- The current thread's name names no hardware thread of the device (R12, R17, R35). Raised by every encoded
  instruction when `State.cur` is such a name, and by nothing else. Safe: no state that runs from reset has one. -/
  | noSuchThread
  deriving DecidableEq, Repr

/-- Why a step is refused. -/
inductive Refusal where
  /-- An instruction that this model gives no meaning, by its mnemonic. Raised by exec's refused arms alone. Safe. -/
  | notModelled (mnemonic : String)
  deriving DecidableEq, Repr

/-- The trap causes, codes 0x01 to 0x19 in this order (14_isa_system R360). -/
inductive Cause where
  | illegalInstr | illegalBundle | misaligned | addrRange | pageAbsent | protection | rangeLock | scratchAbsent
  | ctxExhausted | cellHeapFull | ctxDead | queueFull | xslot | stampTie | fifoMisuse | leaseMisuse | engineInOrdered
  | laneClaim | priv | breakpoint | syscall | ifetch | quota | machineCheck | preempt
  deriving DecidableEq, Repr

/-- A register that an instruction may read or write (R187, R196). -/
inductive Reg where
  | s (n : BitVec 5) | p (n : BitVec 3) | v (n : BitVec 4) | k (n : BitVec 2) | vl | sys (n : BitVec 12)
  deriving DecidableEq, Repr

/-- The five counters (R199). -/
inductive Ctr where
  | ld | st | cp | tl | fx
  deriving DecidableEq, Repr

/-- Thread states (R37), with the dormant service thread (R36). -/
inductive Run where
  | ready | stalled | waiting | parked | idle | dormant
  deriving DecidableEq, Repr

/-- What a Stalled, Waiting or Parked thread waits for. -/
inductive Wait where
  | none
  /-- an outstanding access must write these registers first (R199) -/
  | regs (rs : List Reg)
  /-- a counter stands at 31 (R200) -/
  | room (c : Ctr)
  /-- counters above these limits (R202, R136) -/
  | limits (ld st cp tl fx : Nat)
  /-- stores to a slot (R259) -/
  | slot (addr : Nat)
  | mlease (n : Nat)
  | spawn (ca prio : Nat)
  | tagFree
  /-- the stores a CTXFOLD or CTXRET waits for (R248) -/
  | foldStores
  /-- engine commands naming one of these tags (R109) -/
  | engineTags (tags : List (BitVec 12))
  /-- emissions whose copy is awaited (R346) -/
  | copies (ids : List Nat)
  | sequencer
  | fifo
  /-- the thread's own RESW writes to a map (R254) -/
  | resw (map : Nat)
  /-- the lookups and RESQs, by their numbers, that have read bits of a map and have not completed (R131, R254) -/
  | lookups (ids : List Nat)
  | barrier (level : Nat) (x : Bool) (vote : Option (VoteOp × BitVec 16 × BitVec 5))
  | recv (ch : Nat)
  | xrecv (d : BitVec 5) (count : Nat) (deadline : Nat)
  | commit
  /-- firmware serves an absent page for this thread (R360, R445); `defer`: met by a load whose fault is marked deferred -/
  | page (part addr : Nat) (defer : Bool)
  /-- the thread's own accesses to the lines the instruction reads, or its returning AMO; the instruction repeats (R133, R140,
  R150) -/
  | again
  /-- its SYSW or SYSX of a column, partition or drive register has yet to take force (R355), with SYSX's destination -/
  | sysw (r : BitVec 12) (v : Word) (d : Option (BitVec 5))
  deriving DecidableEq, Repr

/-- Why a thread is Parked. -/
inductive Park where
  | no
  /-- its trap waits for the service thread (R364) -/
  | trap
  /-- its handler runs -/
  | handled
  /-- a pre-emption, with the run state to return to (R72) -/
  | preempt (was : Run)
  /-- firmware works on its page fault (R360) -/
  | firmware
  deriving DecidableEq, Repr

/-- A destination that an outstanding access will write: a scalar register, or an element of a vector register. -/
inductive Dest where
  | s (n : BitVec 5) | v (n : BitVec 4) (i : Nat)
  deriving DecidableEq, Repr

/-- Returning atomics (R239). -/
inductive AmoKind where
  | swap | cas | add
  deriving DecidableEq, Repr

/-- One element of an access: its element number, address, width in bytes and store data. -/
structure Piece where
  idx : Nat
  addr : Nat
  w : Nat
  data : Word
  deriving DecidableEq, Repr

/-- One element of a lookup (R251). -/
structure Lookup where
  idx : Nat
  u : Elem
  v : Elem
  lreq : Nat
  deriving DecidableEq, Repr

/-- A descriptor's fields (R114). -/
structure LodDesc where
  base : Nat
  map : Nat
  ring : Nat
  w0 : Nat
  h0 : Nat
  levels : Nat
  tail : Nat
  fmt : Nat
  rid : Nat
  deriving DecidableEq, Repr

/-- What an element has found in the map: the level its taps come from, and the pages that it offers (R120, R127). -/
structure LevelFound where
  level : Nat
  pages : List Nat
  deriving DecidableEq, Repr

/-- What a lookup has read before its taps: its descriptor, and its elements' findings (R131, R251). -/
structure Seen where
  desc : LodDesc
  found : List LevelFound
  deriving DecidableEq, Repr

/-- A continuation record (R39). -/
structure Rec where
  code : Word
  frame : Word
  parent : Word
  stamp : Word
  o : Bool
  x : Bool
  c : Bool
  tag : BitVec 12
  pclass : BitVec 3
  prio : BitVec 2
  join : BitVec 32
  arg0 : Word
  arg1 : Word
  arg2 : Word
  deriving DecidableEq, Repr

/-- What an access does when it performs. -/
inductive AccOp where
  | ld (d : BitVec 5) (sgn : Bool)
  | vld (d : BitVec 4) (sgn : Bool)
  | st
  | red (op : RedOp) (w : WidthSign)
  | redx
  | amo (k : AmoKind) (w : WidthSign) (d : BitVec 5) (cmp : Word)
  | join
  /-- SPAWNC at a column that another partition still runs: its record, column, queue slot and threads it goes back to (R432) -/
  | spawn (r : Rec) (ca : Nat) (addr : Nat) (lin : List ThreadRef)
  /-- TLOD or TSMP; `seen` once it has read its descriptor and its map bits -/
  | tex (bilinear : Bool) (d : BitVec 4) (n : Nat) (desc : Nat) (els : List Lookup) (seen : Option Seen)
  | resq (d : BitVec 4) (map : Nat) (els : List (Nat × Option Nat))
  | resw (d : BitVec 4) (map : Nat) (bit : Bool) (els : List (Nat × Option Nat))
  deriving DecidableEq, Repr

/-- Where an access, or an engine command, stands. -/
inductive Status where
  | pending
  /-- it met an absent page at an address, and firmware serves the page (R445) -/
  | firmware (addr : Nat)
  /-- it faulted; the fault is to be delivered (R92, R317, R328) -/
  | fault (c : Cause) (addr : Nat) (unres : Bool)
  deriving DecidableEq, Repr

/-- An outstanding access of a thread (R92, R199). -/
structure Access where
  id : Nat
  op : AccOp
  pieces : List Piece
  /-- the context the access was issued in (R102) -/
  tag : BitVec 12
  /-- destinations still to be written, less those a later instruction has written (R304) -/
  dests : List Dest
  status : Status
  /-- its context has been freed since, so that the tag's number names another one (R102, R109) -/
  stale : Bool
  deriving DecidableEq, Repr

/-- An active hardware loop (R225). -/
structure Loop where
  start : Word
  last : Word
  count : Word
  deriving DecidableEq, Repr

/-- A record in a queue (R46): its commit number, the tick at which it entered its present queue, the threads its spawning
goes back to, the last of them first (R59), its slot, and the SPAWNC whose thread's earlier accesses are ordered before its
task: the thread, and the first number of its later accesses (R259). -/
structure QRec where
  r : Rec
  seq : Nat
  enter : Nat
  lin : List ThreadRef
  addr : Nat
  after : Option (ThreadRef × Nat)
  /-- the number of its first commit at a queue, or of the SPAWNC that an ordered task held back (R59) -/
  born : Nat
  deriving DecidableEq, Repr

/-- The task a thread runs (R48): its record as at entry and the threads its spawning goes back to. -/
structure Task where
  r : Rec
  lin : List ThreadRef
  deriving DecidableEq, Repr

/-- A fault that an abandoned engine command left for its thread (R317, R328). -/
structure EngFault where
  ctr : Ctr
  cause : Cause
  addr : Nat
  unres : Bool
  /-- the counter before the lowering -/
  before : Nat
  deriving DecidableEq, Repr

/-- A hardware thread (R37, R38, R196, R198, R199, R308, R360 to R362). -/
structure Thread where
  run : Run
  wait : Wait
  park : Park
  pc : Word
  /-- the address of the instruction being issued: the model's (log 1) -/
  ipc : Word
  /-- whether the instruction being issued took a control transfer: the model's (log 1) -/
  taken : Bool
  /-- whether it trapped or stalled, so that it did not execute: the model's (log 1) -/
  held : Bool
  s : Vector Word 32
  p : BitVec 8
  v : Vector (Vector Elem 64) 16
  k : Vector Word 4
  vl : Nat
  vrmode : BitVec 2
  ctxcur : BitVec 12
  tscur : Word
  mfmta : BitVec 5
  mfmtb : BitVec 5
  mscla : Word
  msclb : Word
  mstra : BitVec 16
  mstrb : BitVec 16
  mpend : Bool
  mdone : BitVec 7
  cstrs : BitVec 32
  cstrd : BitVec 32
  tcause : BitVec 8
  taddr : Word
  tpc : Word
  tstat : BitVec 32
  cntLd : Nat
  cntSt : Nat
  cntCp : Nat
  cntTl : Nat
  cntFx : Nat
  loops : List Loop
  out : List Access
  engFaults : List EngFault
  /-- the access whose deferred fault was delivered, to be reissued on resumption (R92, R365) -/
  reissue : Option Nat
  /-- instruction buffer: pairs by their address (R97) -/
  ibuf : List (Nat × Word)
  /-- lane groups asked for and held (R66) -/
  laneReq : Nat
  laneHeld : Nat
  task : Option Task
  /-- STAMP_TIE is being handled for it at TEND (R55) -/
  tied : Bool
  /-- addresses of the slots it has reserved (R256) -/
  resv : List Nat
  /-- an open exchange phase's t0 (R63) -/
  phase : Option Nat
  /-- messages sent, by channel and inbox (R266 SEQ) -/
  sent : List ((Nat × Nat × Bool) × Nat)
  /-- the tick at which it stalled (R44, R101, R60) -/
  since : Nat
  /-- the instruction to issue next has stalled before: the model's (log 1) -/
  waited : Bool
  /-- a pre-emption request it has not answered, and its tick (R72, R73) -/
  preReq : Option Nat
  /-- the next number when it began to wait in place: the model's (R59) -/
  mark : Nat
  deriving DecidableEq, Repr

/-- A line of memory as locks name it (R144): by its virtual line number in a partition, or by its place in scratch. -/
inductive Line where
  | mem (part line : Nat) | home (ca line : Nat) | loft (ca line : Nat) | drive (ca line : Nat)
  deriving DecidableEq, Repr

/-- A range lock: its line, whether it is a write lock, and the number of the command or transfer that holds it. -/
structure Lock where
  line : Line
  wr : Bool
  owner : Nat
  deriving DecidableEq, Repr

/-- An engine operand: address and context (R112, R307). -/
structure Opnd where
  addr : Nat
  tag : BitVec 12
  deriving DecidableEq, Repr

/-- A matrix operand as sampled at issue (R308, R314). -/
structure MatOpnd where
  at_ : Opnd
  fmt : BitVec 5
  str : Nat
  scl : Nat
  sstr : Nat
  deriving DecidableEq, Repr

/-- A read-out word's controls (R323). -/
structure ReadOut where
  dst : Nat
  mode : Nat
  sat : Bool
  p : Int
  deriving DecidableEq, Repr

/-- Engine commands, with the values they sampled at issue. -/
inductive CmdOp where
  | cpy (src dst : Opnd) (rows lines : Nat) (ss ds : Int)
  | cpyg (dst : Opnd) (idx : Nat) (lines : Nat) (ctx : BitVec 12)
  | coll (kind : CollKind) (level lines src dst seq id : Nat)
  | mclr (r c m n : Nat)
  | mma (r c m n k : Nat) (a b : MatOpnd) (cont : Bool)
  | mrot (k : Nat) (aq bq asub bsub aoff boff : Nat) (fa fb : BitVec 5) (sa sb : Nat) (num : Nat)
  | mrd (dst : Opnd) (dstr : Nat) (r c m n : Nat) (ro : ReadOut) (scl sstr : Nat)
  | mrdv (d : BitVec 4) (row col : Nat) (ro : ReadOut) (vl : Nat)
  deriving DecidableEq, Repr

/-- An engine command in flight: number, issuing thread, locks still to register, rows already done. -/
structure Cmd where
  id : Nat
  t : ThreadRef
  op : CmdOp
  todo : List (Line × Bool)
  registered : Bool
  rows : Nat
  status : Status
  /-- the addresses whose absent pages it waits for, one of each page (R328, R445) -/
  waits : List Nat
  /-- CPYG's source lines, once it has read its index array (R327) -/
  srcs : List Opnd
  /-- MROT: its products are done, and the buffers it sent, as (column, offset, bytes) (R319, R320) -/
  sentOn : Bool
  sends : List (Nat × Nat × List Byte)
  deriving DecidableEq, Repr

/-- A message on its way or in an inbox: 16-byte header and 64-byte payload (R266). -/
structure Msg where
  id : Nat
  /-- the sending thread, none for the host -/
  from_ : Option ThreadRef
  ca : Nat
  drv : Bool
  hdr : BitVec 128
  pay : BitVec 512
  /-- the partition it was sent to (R432), and the sender's: 16 + n for host function n -/
  part : Nat
  fromPart : Nat
  deriving DecidableEq, Repr

/-- An entry of the vertical FIFO, or a push on its way to it (R277). -/
structure Push where
  id : Nat
  t : ThreadRef
  entry : BitVec 1024
  tag : BitVec 16
  /-- its thread's partition (R430) -/
  part : Nat
  deriving DecidableEq, Repr

/-- An accumulator cell: value field, special code 0 to 3, residue modulo 255 (R165, R168). -/
structure AccCell where
  v : BitVec 256
  code : BitVec 2
  residue : Nat
  deriving DecidableEq, Repr

/-- A pixel cell (R18). -/
structure Pixel where
  drawR : BitVec 16
  drawG : BitVec 16
  drawB : BitVec 16
  litR : BitVec 16
  litG : BitVec 16
  litB : BitVec 16
  depth : BitVec 32
  aux : BitVec 16
  deriving DecidableEq, Repr

/-- A held emission (R344). -/
structure Emission where
  id : Nat
  t : Nat
  stop : Nat
  x0 : Nat
  y0 : Nat
  w : Nat
  h : Nat
  cls : BitVec 3
  copied : Bool
  deriving DecidableEq, Repr

/-- A pixel's blend source (R340). -/
structure BlendPix where
  idx : Nat
  r : BitVec 16
  g : BitVec 16
  b : BitVec 16
  a : BitVec 16
  deriving DecidableEq, Repr

/-- A blend-buffer entry (R341). -/
structure Blend where
  op : BlendOp
  token : Nat
  pix : List BlendPix
  deriving DecidableEq, Repr

/-- A duplicate-filter key (R127). -/
structure FilterKey where
  rid : Nat
  level : Nat
  page : Nat
  born : Nat
  deriving DecidableEq, Repr

/-- A LOFTWAYS change in progress (R84); `gone`: its thread's task has been aborted since, and no thread waits for it (R53). -/
structure LoftChange where
  t : ThreadRef
  ways : Nat
  start : Nat
  gone : Bool
  deriving DecidableEq, Repr

/-- A column (01_columns). Threads 0 to 23 general, 24 to 31 T3 of C0 to C7, 32 D0, 33 D1. -/
structure Column where
  threads : Tbl Thread
  /-- the partition whose context the control side holds (R19, R430) -/
  holder : Option Nat
  home : Mem
  loft : Mem
  drive : Mem
  ways : Nat
  loftStatus : BitVec 2
  loftChange : Option LoftChange
  thallow : BitVec 32
  droop : BitVec 16
  temp : BitVec 16
  /-- above 100 °C since it was last below 95 °C (R457) -/
  hot : Bool
  upReq : Bool
  upState : Bool
  domLevel : BitVec 3
  domX : Bool
  domEpoch : BitVec 16
  domid : BitVec 32
  q0 : List QRec
  q1 : List QRec
  q2 : List QRec
  q3 : List QRec
  inbox : List Msg
  replay : List Msg
  spill : Tbl Nat
  dinbox : List Msg
  dreplay : List Msg
  dspill : Tbl Nat
  fifo : List Push
  pushes : List Push
  acc : Tbl AccCell
  lease : Option (Nat × Nat)
  /-- after a trap of the holder: the lease ends when its matrix commands numbered below this have ended (R67, R312) -/
  leaseUntil : Option Nat
  lastLease : Nat
  mrots : Nat
  /-- the numbers of its MROTs that have read their operands and sent their buffers (R320) -/
  rotsSent : List Nat
  colls : List ((Nat × Nat) × Nat)
  pixels : Tbl Pixel
  calib : Mem
  late : Bool
  missed : Bool
  lateCnt : BitVec 16
  missCnt : BitVec 16
  seqr : List Emission
  blend : List Blend
  filter : List FilterKey
  xcount : Nat
  xopen : List Nat
  xt0 : Nat
  /-- a participant of the phase has completed its XRECV, and the landed transfers whose lines stay locked till then (R149) -/
  xrecvd : Bool
  xlanded : List Nat
  /-- last thread issued on each core, 8 for the drive core (R68) -/
  lastIssue : Tbl Nat
  deriving DecidableEq, Repr

/-- What a column's context exchange saves (R430): its control side, and the messages that arrived for it meanwhile; and whether
an uncorrected error of the shadow storage lies in it (R449, R452). -/
structure Saved where
  part : Nat
  ca : Nat
  col : Column
  bad : Bool
  deriving DecidableEq, Repr

/-- A context tag that is not free (R99, R100). -/
structure TagInfo where
  live : Bool
  parent : BitVec 12
  depth : Nat
  deriving DecidableEq, Repr

/-- A materialised cell (R104, R106). -/
structure Cell where
  tag : BitVec 12
  line : Nat
  data : BitVec 512
  mask : BitVec 64
  deriving DecidableEq, Repr

/-- A queue slot (R257): reserved by `owner` until it is committed. -/
structure Slot where
  addr : Nat
  owner : ThreadRef
  ca : Nat
  pclass : BitVec 3
  prio : BitVec 2
  data : BitVec 512
  deriving DecidableEq, Repr

/-- A spawn an ordered task holds back (R52). -/
structure HeldSpawn where
  r : Rec
  ca : Nat
  addr : Nat
  born : Nat
  deriving DecidableEq, Repr

/-- A started, uncommitted ordered task (R52, R53): its own tag, original record, read lines, buffered reductions in issue
order, held spawns, and its place in the order of starts. -/
structure OTask where
  tag : BitVec 12
  orig : Rec
  ca : Nat
  lin : List ThreadRef
  reads : List Nat
  buf : List Access
  spawns : List HeldSpawn
  started : Nat
  /-- it has read a line that a task of its stamp, uncommitted beside it, committed; and the lines such tasks committed (R55) -/
  tie : Bool
  tieLines : List Nat
  /-- its record's `born` -/
  born : Nat
  deriving DecidableEq, Repr

/-- A written-back AWAIT record (R49, R261). -/
structure WrittenBack where
  addr : Nat
  ca : Nat
  prio : BitVec 2
  lin : List ThreadRef
  /-- the own tag of the ordered task that suspended, 0 for a plain one -/
  otag : BitVec 12
  deriving DecidableEq, Repr

/-- A domain's placement counts (R69). -/
structure PlaceCount where
  level : Nat
  id : Nat
  n : Nat
  actual : Tbl Nat
  deriving DecidableEq, Repr

/-- A policy record's body (R423), after its checks. -/
structure Policy where
  part : Nat
  roles : BitVec 3
  forig : Nat
  frows : Nat
  fcols : Nat
  prio : Nat
  pdist : BitVec 4
  thdisp : BitVec 16
  quantum : Nat
  distmax : Nat
  taglim : Nat
  spawnlim : Nat
  ctxlim : Nat
  reconf : Nat
  barwd : Nat
  loftq : Nat
  memq : Nat
  cellq : Nat
  qback : Nat
  allow : BitVec 16
  chmask : BitVec 15
  reslo : Nat
  reshi : Nat
  masks : List (Nat × Nat × Nat × Nat)
  deriving DecidableEq, Repr

/-- A launch that runs or has ended and awaits its completion record (R424 to R427). -/
structure Launch where
  fn : Nat
  cookie : Word
  tlimit : Nat
  /-- the tick of the first thread start, once one has started, and its earlier residencies' run time -/
  start : Option Nat
  ran : Nat
  dist : Nat
  control : Word
  drive : Option Word
  spill : Option Word
  dspill : Option Word
  /-- status, code, stranded records and end tick, once it has ended -/
  ended : Option (Nat × Nat × Nat × Nat)
  deriving DecidableEq, Repr

/-- A page that the finaliser or the migration maps by itself (R409, R410): page number (va / 64 KiB) and leaf entry. -/
structure FwPage where
  page : Nat
  leaf : Word
  deriving DecidableEq, Repr

/-- A migrated page (R447): page number, host address, frame, whether it is writable. -/
structure Migrated where
  page : Nat
  host : Nat
  frame : Nat
  wr : Bool
  entry : Nat
  deriving DecidableEq, Repr

/-- A partition that exists (R19, R421). -/
structure Partition where
  pol : Policy
  resident : Bool
  root : Word
  launch : Option Launch
  tvecEn : Bool
  tvecAddr : Word
  thdisp : BitVec 16
  pdist : BitVec 4
  grbase : Word
  grhead : BitVec 32
  grtail : BitVec 32
  govf : Word
  tags : Tbl TagInfo
  /-- the held-back place holds a tag (R99) -/
  heldBack : Bool
  cells : List Cell
  slots : List Slot
  places : List PlaceCount
  wb : List WrittenBack
  otasks : List OTask
  /-- barriers waited at: level, ID and the tick at which the wait began (R60) -/
  barWait : List ((Nat × Nat) × Nat)
  fwPages : List FwPage
  argBlock : Mem
  migrated : List Migrated
  mapped : Nat
  /-- pages whose mapping was refused, as first address and size (R423, R456) -/
  refused : List (Nat × Nat)
  img : List Byte
  /-- the tick at which its present residency began to count, and whether it has used its QUANTUM since (R429, R431) -/
  quantumFrom : Nat
  spent : Bool
  /-- it waits for its fields since this tick (R429) -/
  wants : Option Nat
  evicted : Bool
  /-- its pre-emption is under way, and the request has reached its threads (R430, R72) -/
  leaving : Bool
  asked : Bool
  /-- it has been chosen to become resident (R429) -/
  coming : Bool
  /-- its field controllers have been sent the launch that is to start (R428) -/
  told : Bool
  /-- its residency's time counts: from its first column's arrival till its last has left (R431) -/
  clocked : Bool
  /-- records by which the field controller has grown a queue's backing, by 4 × column address + priority (R44) -/
  grown : Tbl Nat
  negJoins : Nat
  dropXfers : Nat
  ctxExhausted : Nat
  ctxStallTicks : Nat
  quotaTraps : Nat
  highCells : Nat
  highMem : Nat
  launches : Nat
  kills : Nat
  lastOvf : Word
  deriving DecidableEq, Repr

/-- The counters of a partition number, which count from boot and outlive a partition (R465). -/
structure Tally where
  negJoins : Nat
  dropXfers : Nat
  ctxExhausted : Nat
  ctxStallTicks : Nat
  quotaTraps : Nat
  highCells : Nat
  highMem : Nat
  launches : Nat
  kills : Nat
  lastOvf : Word
  deriving DecidableEq, Repr

/-- Where poison lies (R449): a line of the cellar, of a column's home scratch or of its loft scratch, a cell of a tag, the backing line
of a slot or of a queued record, or a line of a launch argument block. -/
inductive Place where
  | cellar (line : Nat) | home (ca line : Nat) | loft (ca line : Nat) | cell (part : Nat) (tag : BitVec 12) (line : Nat) | slot (part addr : Nat)
  | arg (part line : Nat)
  deriving DecidableEq, Repr

/-- A poisoned line: its place, the STRUCT of the error and the column that detected it (R446, R449). -/
structure Poison where
  at_ : Place
  unit : Nat
  ca : Nat
  deriving DecidableEq, Repr

/-- An exchange transfer between its XSEND and its last landing (R149, R272 to R275). -/
structure Xfer where
  id : Nat
  t : ThreadRef
  soff : Nat
  doff : Nat
  lines : Nat
  slot : Nat
  t0 : Nat
  targets : List Nat
  launched : Bool
  data : List Byte
  /-- source read locks still to register (R144), and the columns where its first beat has landed, each with the number that
  holds its write locks (R149) -/
  todo : List (Line × Bool)
  landing : List (Nat × Nat)
  /-- the links it crosses, and whether it shares one in a slot with another transfer (R376, R474) -/
  links : List (Nat × Nat)
  clash : Bool
  deriving DecidableEq, Repr

/-- A page fault on its way to the field controller (R443): the router it stands at. -/
structure FaultMsg where
  id : Nat
  part : Nat
  page : Nat
  ca : Nat
  wr : Bool
  fetch : Bool
  malformed : Bool
  engine : Bool
  /-- the column in whose slice or engine it was raised -/
  origin : Nat
  deriving DecidableEq, Repr

/-- A router's fault-table entry (R443): key and wake mask (four links and the column itself). -/
structure RouterEntry where
  ca : Nat
  part : Nat
  page : Nat
  wake : BitVec 5
  deriving DecidableEq, Repr

/-- A fault that reached the global scheduler, with the number of its pages (R443 to R445). -/
structure Posted where
  part : Nat
  page : Nat
  count : Nat
  ca : Nat
  wr : Bool
  fetch : Bool
  malformed : Bool
  engine : Bool
  deriving DecidableEq, Repr

/-- An engine fault in a batch: partition, page, whether of a write, and whether an entry of its walk was malformed (R444, R446). -/
structure BatchEntry where
  part : Nat
  page : Nat
  wr : Bool
  mal : Bool
  deriving DecidableEq, Repr

/-- A batch of a column's engine faults, at most 32, and the tick of its first entry (R444). -/
structure Batch where
  ca : Nat
  start : Nat
  entries : List BatchEntry
  deriving DecidableEq, Repr

/-- A function's BAR0 registers and counters (22, 23, 24). Function 0 is the PF. -/
structure HostFn where
  bound : Option Nat
  drop : BitVec 32
  lqbase : Word
  lqsize : Nat
  lqtail : Nat
  lqhead : Nat
  cqbase : Word
  cqsize : Nat
  cqtail : Nat
  cqhead : Nat
  cqphase : Bool
  msgtgt : BitVec 13
  msgbuf : BitVec 512
  /-- BAR2 holds 2^barBits bytes (R417) -/
  barBits : Nat
  winbase : Word
  vfwin : Word
  pfcmd : BitVec 512
  tcmd : BitVec 512
  fwcmd : BitVec 512
  /-- a command of FWCMD, of PFCMD, of TCMD waits for its status (R458, R422, R440); the one of PFCMD, of TCMD has been sent to the
  field controllers (R428) -/
  fwBusy : Bool
  pfBusy : Bool
  pfStarted : Bool
  tBusy : Bool
  tStarted : Bool
  evbase : Word
  evsize : Nat
  evtail : Nat
  evhead : Nat
  evlost : BitVec 32
  /-- scene messages sent to each inbox (R420 SEQ) -/
  scenes : List ((Nat × Bool) × Nat)
  /-- MSI-X vectors signalled, newest last (R417) -/
  msix : List Nat
  /-- read completions returned through BAR2, none for Unsupported Request -/
  reads : List (Option (List Byte))
  deriving DecidableEq, Repr

/-- A cellar channel (R29, R30). -/
structure Channel where
  temp : Nat
  maxTemp : Nat
  doubled : Bool
  since : Nat
  ticks : Nat
  refreshes : Nat
  /-- above 95 °C since it was last below 90 °C (R457) -/
  hot : Bool
  deriving DecidableEq, Repr

/-- The reference input (R433, R435). -/
structure Reference where
  state : BitVec 2
  err : BitVec 32
  /-- ticks still to add (positive) or withhold (negative), and ticks since the pulse -/
  slew : Int
  phase : Nat
  deriving DecidableEq, Repr

/-- A copy of the boot-control record (R460): its sequence number, ACTIVE, TRIAL, TRIES and its SHAKE256 check. -/
structure BootCopy where
  seq : Nat
  active : Bool
  trial : Bool
  tries : Nat
  check : List Byte
  deriving DecidableEq, Repr

/-- Firmware slots, boot control, keys and measurements (R459 to R463). -/
structure Boot where
  slotA : List Byte
  slotB : List Byte
  active : Bool
  /-- the slot that runs -/
  slot : Bool
  trial : Bool
  tries : Nat
  running : Bool
  recovery : Bool
  rolledBack : Bool
  /-- the two copies of the boot-control record, and which of them governs; ACTIVE, TRIAL and TRIES above are the governing copy's -/
  copyA : BootCopy
  copyB : BootCopy
  bcCopy : Bool
  floor : Nat
  nonce : Word
  mreg0 : List Byte
  mreg1 : List Byte
  mreg2 : List Byte
  mreg3 : List Byte
  /-- the identity's public key, none where the helper data failed (R463) -/
  identity : Option (List Byte)
  alias_ : Option (List Byte)
  aliasCert : List Byte
  devid : Word
  bootTick : Nat
  /-- a THERMAL trip since the last snapshot (R465), launches barred until it cools, and the sensors that have tripped since they last
  stood at their limits or below (R457) -/
  thermal : Bool
  barred : Bool
  trips : List Sensor
  snapSeq : Nat
  deriving DecidableEq, Repr

/-- Telemetry of a column (R465). -/
structure ColTele where
  maxTemp : Nat
  throttled : Nat
  soft : Tbl Nat
  lateTotal : Nat
  missTotal : Nat
  deriving DecidableEq, Repr

/-- A command on a link (R428): the partition it is about, 16 for none, its 64 bytes, and the page fault that it posts (R443, R444). -/
structure LinkCmd where
  part : Nat
  bytes : BitVec 512
  fault : Option Posted
  deriving DecidableEq, Repr

/-- A command link between the scheduler and a field controller, one for each direction (R428): permits, and commands in flight,
oldest first. -/
structure Link where
  permits : Nat
  cmds : List LinkCmd
  deriving DecidableEq, Repr

/-- What happens next (log 1): an event, a thread, the almanac; an error that a check structure of a column corrects (log 45); one
that it does not, at a place or in a context of a partition (R449); the host sets the size of a function's BAR2 (R417); firmware asks a
service thread to serve a request, at an entry and with values for TCAUSE, TADDR and TPC (R36, R362, log 68). -/
inductive Choice where
  | ev (i : Instr) | run (t : ThreadRef) | tick (n : Nat) | soft (ca unit : Nat) | spoil (part ca unit : Nat) (x : Place)
  | resize (fn bits : Nat) | request (t : ThreadRef) (pc : Word) (cause : BitVec 8) (addr tpc : Word)
  deriving DecidableEq, Repr

/-- The device. -/
structure State where
  /-- the moves to come, the model's (log 1); when empty the default order applies -/
  sched : List Choice
  /-- the thread whose instruction is being issued, the model's (log 1) -/
  cur : ThreadRef
  /-- counters of the model's own: free values used (log 2), and numbers given to accesses, commands and messages -/
  freeCtr : Nat
  nextId : Nat
  almanac : Word
  cols : Tbl Column
  parts : Tbl Partition
  /-- the counters of partition numbers whose partition is gone (R465) -/
  tallies : Tbl Tally
  saved : List Saved
  cellar : Mem
  hostMem : Mem
  poison : List Poison
  chans : Tbl Channel
  /-- while the emitter layer is hot: the factor by which firmware scales its drive through the calibration gain (R457) -/
  emitterScale : Option Nat
  retired : List Nat
  retiredLinks : List (Nat × Nat)
  ref : Reference
  almOff : Word
  boot : Boot
  flash : List (Nat × List Byte)
  colTele : Tbl ColTele
  fns : Tbl HostFn
  links : Tbl Link
  net : List Msg
  xfers : List Xfer
  cmds : List Cmd
  locks : List Lock
  faults : List FaultMsg
  routers : List RouterEntry
  posted : List Posted
  records : List (Nat × Nat)
  batches : List Batch
  /-- ranges delivered to field controllers that wait for a permit of the link to the scheduler (R428, R444) -/
  ranges : List Posted
  deriving DecidableEq, Repr

/-- A register file's value when nothing has been written (R198). -/
def zeroVec : Vector Elem 64 := Vector.replicate 64 0#32

/-- A thread when a partition is created (R198). -/
def Thread.reset : Thread where
  run := .idle
  wait := .none
  park := .no
  pc := 0
  ipc := 0
  taken := false
  held := false
  s := Vector.replicate 32 0#64
  p := 1#8
  v := Vector.replicate 16 zeroVec
  k := Vector.replicate 4 0#64
  vl := 0
  vrmode := 0
  ctxcur := 0
  tscur := 0
  mfmta := 0
  mfmtb := 0
  mscla := 0
  msclb := 0
  mstra := 0
  mstrb := 0
  mpend := false
  mdone := 0
  cstrs := 0
  cstrd := 0
  tcause := 0
  taddr := 0
  tpc := 0
  tstat := 0
  cntLd := 0
  cntSt := 0
  cntCp := 0
  cntTl := 0
  cntFx := 0
  loops := []
  out := []
  engFaults := []
  reissue := none
  ibuf := []
  laneReq := 0
  laneHeld := 0
  task := none
  tied := false
  resv := []
  phase := none
  sent := []
  since := 0
  waited := false
  preReq := none
  mark := 0

/-- Thread number tid of a column at reset: service threads are dormant (R36), drive threads have VL 16 (R12). -/
def Thread.resetAt (tid : Nat) : Thread :=
  if tid < 24 then Thread.reset
  else if tid < 32 then { Thread.reset with run := .dormant }
  else if tid = 32 then { Thread.reset with vl := 16 }
  else { Thread.reset with run := .dormant, vl := 16 }

/-- An accumulator cell at partition creation (R311). -/
def AccCell.reset : AccCell := ⟨0, 0, 0⟩

/-- A pixel cell at reset (R18). -/
def Pixel.reset : Pixel := ⟨0, 0, 0, 0, 0, 0, 0xFFFFFFFF#32, 0⟩

/-- A column at reset: LOFTWAYS 16 (R83), THALLOW's default (R366), everything else empty or zero. -/
def Column.reset : Column where
  threads := []
  holder := none
  home := []
  loft := []
  drive := []
  ways := 16
  loftStatus := 0
  loftChange := none
  thallow := 0x00EE#32
  droop := 0
  temp := 0
  hot := false
  upReq := false
  upState := false
  domLevel := 0
  domX := false
  domEpoch := 0
  domid := 0
  q0 := []
  q1 := []
  q2 := []
  q3 := []
  inbox := []
  replay := []
  spill := []
  dinbox := []
  dreplay := []
  dspill := []
  fifo := []
  pushes := []
  acc := []
  lease := none
  leaseUntil := none
  lastLease := 23
  mrots := 0
  rotsSent := []
  colls := []
  pixels := []
  calib := []
  late := false
  missed := false
  lateCnt := 0
  missCnt := 0
  seqr := []
  blend := []
  filter := []
  xcount := 0
  xopen := []
  xt0 := 0
  xrecvd := false
  xlanded := []
  lastIssue := []

/-- A function's registers at reset (22's table). -/
def HostFn.reset : HostFn where
  bound := none
  drop := 0
  lqbase := 0
  lqsize := 0
  lqtail := 0
  lqhead := 0
  cqbase := 0
  cqsize := 0
  cqtail := 0
  cqhead := 0
  cqphase := false
  msgtgt := 0
  msgbuf := 0
  barBits := 30
  winbase := 0
  vfwin := 0
  pfcmd := 0
  tcmd := 0
  fwcmd := 0
  fwBusy := false
  pfBusy := false
  pfStarted := false
  tBusy := false
  tStarted := false
  evbase := 0
  evsize := 0
  evtail := 0
  evhead := 0
  evlost := 0
  scenes := []
  msix := []
  reads := []

/-- The policy of no partition: R423's defaults, no extent, no roles, no memory. -/
def Policy.blank : Policy where
  part := 16
  roles := 0
  forig := 0
  frows := 0
  fcols := 0
  prio := 0
  pdist := 4
  thdisp := 0x005F
  quantum := 10000
  distmax := 1048576
  taglim := 4096
  spawnlim := 16384
  ctxlim := 16384
  reconf := 32768
  barwd := 0
  loftq := 0x200000
  memq := 0
  cellq := 0x100000
  qback := 4096
  allow := 0x00EE
  chmask := 0
  reslo := 0
  reshi := 0
  masks := []

/-- A partition of a policy, as PCREATE makes it: swapped out, with empty memory (R422). -/
def Partition.create (pol : Policy) : Partition where
  pol := pol
  resident := false
  root := 0
  launch := none
  tvecEn := false
  tvecAddr := 0
  thdisp := pol.thdisp
  pdist := pol.pdist
  grbase := 0
  grhead := 0
  grtail := 0
  govf := 0
  tags := []
  heldBack := true
  cells := []
  slots := []
  places := []
  wb := []
  otasks := []
  barWait := []
  fwPages := []
  argBlock := []
  migrated := []
  mapped := 0
  refused := []
  img := []
  quantumFrom := 0
  spent := false
  wants := none
  evicted := false
  leaving := false
  asked := false
  coming := false
  told := false
  clocked := false
  grown := []
  negJoins := 0
  dropXfers := 0
  ctxExhausted := 0
  ctxStallTicks := 0
  quotaTraps := 0
  highCells := 0
  highMem := 0
  launches := 0
  kills := 0
  lastOvf := 0

/-- A cellar channel at reset. -/
def Channel.reset : Channel := ⟨0, 0, false, 0, 0, 0, false⟩

/-- A column's telemetry at boot (R465). -/
def ColTele.reset : ColTele := ⟨0, 0, [], 0, 0⟩

/-- A measurement register at reset (R463). -/
def zeroMreg : List Byte := List.replicate 64 0#8

/-- A copy of the boot-control record where flash holds none (log 6): no check verifies it. -/
def BootCopy.blank : BootCopy := ⟨0, false, false, 0, []⟩

/-- Boot state with empty flash (log 6). -/
def Boot.reset : Boot where
  slotA := []
  slotB := []
  active := false
  slot := false
  trial := false
  tries := 0
  running := false
  recovery := false
  rolledBack := false
  copyA := BootCopy.blank
  copyB := BootCopy.blank
  bcCopy := false
  floor := 0
  nonce := Config.random64 0
  mreg0 := zeroMreg
  mreg1 := zeroMreg
  mreg2 := zeroMreg
  mreg3 := zeroMreg
  identity := none
  alias_ := none
  aliasCert := []
  devid := 0
  bootTick := 0
  thermal := false
  barred := false
  trips := []
  snapSeq := 0

/-- The device right after reset: no partition exists, every register at its reset value (INVENTORY.md '## State'). -/
def State.reset : State where
  sched := []
  cur := ⟨0, 0⟩
  freeCtr := 1
  nextId := 0
  almanac := 0
  cols := []
  parts := []
  tallies := []
  saved := []
  cellar := []
  hostMem := []
  poison := []
  chans := []
  emitterScale := none
  retired := []
  retiredLinks := []
  ref := ⟨0, 0, 0, 0⟩
  almOff := 0
  boot := Boot.reset
  flash := []
  colTele := []
  fns := []
  links := []
  net := []
  xfers := []
  cmds := []
  locks := []
  faults := []
  routers := []
  posted := []
  records := []
  batches := []
  ranges := []

end Sys2Proof.Machine
end

