-- ==== Sys2Proof/Machine/Table.lean ====
section
/-! DEFINITION. Reading and writing the sparse tables and memories that the state holds. -/

namespace Sys2Proof.Machine

/-- The entry of number n, d where the table lists none. -/
def tget {α : Type} : Tbl α → Nat → α → α
  | [], _, d => d
  | (k, v) :: r, n, d => if k = n then v else tget r n d

/-- The table with v as entry n, numbers rising. -/
def tset {α : Type} : Tbl α → Nat → α → Tbl α
  | [], n, v => [(n, v)]
  | (k, w) :: r, n, v =>
    if k = n then (n, v) :: r else if n < k then (n, v) :: (k, w) :: r else (k, w) :: tset r n v

/-- The table without entry n. -/
def tdel {α : Type} (t : Tbl α) (n : Nat) : Tbl α := t.filter (fun e => e.1 != n)

/-- Whether the table lists n. -/
def tmem {α : Type} (t : Tbl α) (n : Nat) : Bool := t.any (fun e => e.1 == n)

/-- What a byte of memory that nothing has written reads as: log 4 (DESIGN CHOICE, unsafe). -/
def unlisted : Byte := 0

/-- A memory's byte at a. -/
def mget : Mem → Nat → Byte
  | [], _ => unlisted
  | (k, v) :: r, a => if k = a then v else mget r a

/-- Places a byte that is not `unlisted`, addresses rising. -/
def mins : Mem → Nat → Byte → Mem
  | [], a, b => [(a, b)]
  | (k, v) :: r, a, b =>
    if k = a then (a, b) :: r else if a < k then (a, b) :: (k, v) :: r else (k, v) :: mins r a b

/-- The memory with byte b at a; writing `unlisted` removes the entry. -/
def mset (m : Mem) (a : Nat) (b : Byte) : Mem :=
  if b = unlisted then m.filter (fun c => c.1 != a) else mins m a b

/-- n bytes from a on, in address order. -/
def mread (m : Mem) (a : Nat) : Nat → List Byte
  | 0 => []
  | n + 1 => mget m a :: mread m (a + 1) n

/-- Writes bytes from a on. -/
def mwrite (m : Mem) (a : Nat) : List Byte → Mem
  | [] => m
  | b :: r => mwrite (mset m a b) (a + 1) r

/-- Bytes in address order as a number, the lowest address least significant (R7). -/
def leNat : List Byte → Nat
  | [] => 0
  | b :: r => b.toNat + 256 * leNat r

/-- The n bytes of a number, least significant first (R7). -/
def leBytes : Nat → Nat → List Byte
  | 0, _ => []
  | n + 1, x => BitVec.ofNat 8 x :: leBytes n (x / 256)

/-- Whether a memory's addresses rise strictly above lo - 1 and no entry is `unlisted`. -/
def memWfFrom : Nat → Mem → Bool
  | _, [] => true
  | lo, (k, v) :: r => decide (lo ≤ k) && v != unlisted && memWfFrom (k + 1) r

/-- The canonical form of a memory. -/
def Memory.wf (m : Mem) : Bool := memWfFrom 0 m

/-- Sign or zero extension of w bytes to 64 bits (ext of 09_isa_memory). -/
def extend (w : Nat) (sgn : Bool) (x : Nat) : Word :=
  let v := x % 2 ^ (8 * w)
  if sgn && decide (2 ^ (8 * w - 1) ≤ v) then BitVec.ofInt 64 ((v : Int) - (2 ^ (8 * w) : Nat)) else BitVec.ofNat 64 v

/-- The numbers 0 to n - 1. -/
def upto (n : Nat) : List Nat := List.range n

end Sys2Proof.Machine
end

