-- ==== Sys2Proof/Machine/Exact.lean ====
section
/-! DEFINITION. The exact accumulator: special codes, products and sums (R164 to R168), exact cells in memory (R169),
read-out (R170 to R174), and the matrix operand formats (R155 to R163). -/

namespace Sys2Proof.Machine

/-- Special codes: 0 finite, 1 +Inf, 2 -Inf, 3 NaN (R165). -/
def joinCode (a b : BitVec 2) : BitVec 2 := if a = 0 then b else if b = 0 then a else if a = b then a else 3

/-- The special class of a value as a code; 0 for a finite one. -/
def codeOf : FV → BitVec 2 | .nan => 3 | .inf n => if n then 2 else 1 | .num .. => 0

/-- A finite value times 2^128, exact for every product (R167). -/
def cellUnits : FV → Int
  | .num n m e => let v : Int := (roundAt .rne n m e (-128) : Nat); if n then -v else v
  | _ => 0

/-- A product added into an accumulator cell (R166). Its residue is counted from the operands, a wrap of V too: 2^256 is 1
modulo 255 (R168). -/
def AccCell.addTerm (c : AccCell) (p : FV) : AccCell :=
  match p with
  | .num .. =>
    let sum : Int := (c.v.toNat : Int) + cellUnits p
    ⟨c.v + BitVec.ofInt 256 (cellUnits p), c.code, (((c.residue : Int) + cellUnits p - sum / (2 ^ 256 : Nat)) % 255).toNat⟩
  | s => { c with code := joinCode c.code (codeOf s) }

/-- The residue check of a cell (R168). -/
def AccCell.checks (c : AccCell) : Bool := c.residue == c.v.toNat % 255

/-- An accumulator cell's exact value scaled by 2^P (R170). -/
def AccCell.value (c : AccCell) (p : Int) : FV :=
  if c.code = 0 then .num (decide (c.v.toInt < 0)) c.v.toInt.natAbs (p - 128)
  else if c.code = 1 then .inf false else if c.code = 2 then .inf true else .nan

/-- RED.x of an FP32 code into a 32-byte exact cell (R169). -/
def exactAdd (cell : Nat) (x : Nat) : Nat :=
  let code := BitVec.ofNat 2 (cell / 2 ^ 254)
  let v := cell % 2 ^ 254
  match f32.decode x with
  | .num n m e =>
    if 125 < e + (blen m : Int) then (joinCode code (if n then 2 else 1)).toNat * 2 ^ 254 + v
    else
      let d : Int := (v : Int) + cellUnits (.num n m e)
      code.toNat * 2 ^ 254 + (d % (2 ^ 254 : Int)).toNat
  | s => (joinCode code (codeOf s)).toNat * 2 ^ 254 + v

/-- The sum of two exact cells (R329 SUMX). -/
def exactJoin (a b : Nat) : Nat :=
  (joinCode (BitVec.ofNat 2 (a / 2 ^ 254)) (BitVec.ofNat 2 (b / 2 ^ 254))).toNat * 2 ^ 254 + (a + b) % 2 ^ 254

/-- An exact cell's value (R169). -/
def exactValue (cell : Nat) : FV :=
  let code := cell / 2 ^ 254 % 4
  let v := cell % 2 ^ 254
  if code = 0 then
    if v < 2 ^ 253 then .num false v (-128) else .num true (2 ^ 254 - v) (-128)
  else if code = 1 then .inf false else if code = 2 then .inf true else .nan

/-- A read-out's x as a value to round: a zero is +0 (R171). -/
def readValue (v : FV) : FV := match v with | .num n m e => .num (n && m != 0) m e | x => x

/-- Read-out to FP32 as XTOF and SUMF do: no saturation, no post-scale (R169). -/
def exactToF32 (mode : RMode) (cell : Nat) : Nat := f32.round mode false (readValue (exactValue cell))

/-! ### Read-out (R170 to R174) -/

/-- The floating-point destinations, DST 0 to 4. -/
def dstFmt : Nat → Option Fmt
  | 0 => some f32 | 1 => some bf16 | 2 => some f16 | 3 => some e4m3 | 4 => some e5m2 | _ => none

/-- The bits one read-out element takes, 0 for a reserved destination (R324). -/
def dstWidth : Nat → Nat
  | 0 => 32 | 1 => 16 | 2 => 16 | 3 => 8 | 4 => 8 | 5 => 8 | 6 => 32 | 7 => 8 | 8 => 8 | 9 => 4 | 10 => 4 | _ => 0

/-- One cell converted to DST 0 to 6 (R171 to R173). -/
def readCell (dst : Nat) (mode : RMode) (sat : Bool) (v : FV) : Nat :=
  match dstFmt dst with
  | some f => f.round mode sat (readValue v)
  | none =>
    if dst = 5 then (toIntClamp mode (-128) 127 v % 256).toNat
    else (toIntClamp mode (-2147483648) 2147483647 v % 4294967296).toNat

/-- The greatest element of a block destination (R174). -/
def blockMax : Nat → Nat | 7 => 448 | 8 => 127 | 9 => 6 | _ => 7

/-- Whether |x| ≤ emax 2^(E - 32). -/
def fitsAt (emax : Nat) (x : FV) (e : Nat) : Bool :=
  match x with
  | .num _ m g => (FV.num false (emax) ((e : Int) - 32)).lt? (.num false m g) != some true
  | _ => false

/-- The least E of e … e + n - 1 at which every |x| fits, or 62. -/
def leastExp (emax : Nat) (l : List FV) : Nat → Nat → Nat
  | 0, _ => 62
  | n + 1, e => if l.all fun x => fitsAt emax x e then e else leastExp emax l n (e + 1)

/-- One element of a block at scale 2^(E - 32), clamped to emax; a value that rounds to zero is +0 (R174). -/
def blockElem (dst : Nat) (mode : RMode) (e : Nat) (x : FV) : Nat :=
  let scaled := match x with | .num n m g => FV.num n m (g - ((e : Int) - 32)) | y => y
  match dst with
  | 7 => let c := e4m3.round mode true (readValue scaled); if c % 128 = 0 then 0 else c
  | 9 => let c := e2m1.round mode true (readValue scaled); if c % 8 = 0 then 0 else c
  | 8 => (toIntClamp mode (-127) 127 scaled % 256).toNat
  | _ => (toIntClamp mode (-7) 7 scaled % 16).toNat

/-- A block of 8 cells to DST 7 to 10: its scale byte and its elements (R174). -/
def readBlock (dst : Nat) (mode : RMode) (l : List FV) : Nat × List Nat :=
  let ty := if dst = 7 ∨ dst = 9 then 0x40 else 0
  if l.any fun x => match x with | .num .. => false | _ => true then (ty + 63, l.map fun _ => 0)
  else
    let e := if l.all FV.isZero then 32 else leastExp (blockMax dst) l 63 0
    (ty + e, l.map (blockElem dst mode e))

/-- Elements of w bits packed little-endian into bytes (R160): w is 4, 8, 16 or 32. -/
def packBytes (w : Nat) : List Nat → List Byte
  | [] => []
  | a :: [] => leBytes ((w + 7) / 8) a
  | a :: b :: r =>
    if w = 4 then BitVec.ofNat 8 (a + 16 * b) :: packBytes w r
    else leBytes (w / 8) a ++ packBytes w (b :: r)

/-! ### Operand formats (R155 to R163) -/

/-- How the elements of a format code take their values. -/
inductive ElemKind where
  | int (signed : Bool) | mini (f : Fmt) | p4 | hyb | scaled
  deriving DecidableEq, Repr

/-- A matrix format: width in bits, element kind, 2:4 sparse (R155). -/
structure MatFmt where
  w : Nat
  kind : ElemKind
  sparse : Bool
  deriving DecidableEq, Repr

def matFmt (code : Nat) : MatFmt :=
  match code with
  | 0x00 => ⟨4, .int true, false⟩ | 0x01 => ⟨4, .int false, false⟩ | 0x02 => ⟨4, .mini e2m1, false⟩ | 0x03 => ⟨4, .p4, false⟩
  | 0x04 => ⟨4, .hyb, false⟩ | 0x05 => ⟨6, .int true, false⟩ | 0x06 => ⟨6, .int false, false⟩ | 0x07 => ⟨6, .mini e2m3, false⟩
  | 0x08 => ⟨6, .mini e3m2, false⟩ | 0x09 => ⟨6, .hyb, false⟩ | 0x0A => ⟨8, .int true, false⟩ | 0x0B => ⟨8, .int false, false⟩
  | 0x0C => ⟨8, .mini e4m3, false⟩ | 0x0D => ⟨8, .mini e5m2, false⟩ | 0x0E => ⟨8, .mini e3m4, false⟩
  | 0x0F => ⟨16, .mini f16, false⟩ | 0x10 => ⟨4, .scaled, false⟩ | 0x11 => ⟨6, .scaled, false⟩ | 0x12 => ⟨8, .scaled, false⟩
  | 0x13 => ⟨4, .int true, true⟩ | 0x14 => ⟨4, .int false, true⟩ | 0x15 => ⟨4, .mini e2m1, true⟩ | 0x16 => ⟨4, .hyb, true⟩
  | 0x17 => ⟨4, .scaled, true⟩ | 0x18 => ⟨6, .int true, true⟩ | 0x19 => ⟨6, .mini e2m3, true⟩ | 0x1A => ⟨6, .scaled, true⟩
  | 0x1B => ⟨8, .int true, true⟩ | 0x1C => ⟨8, .mini e4m3, true⟩ | 0x1D => ⟨8, .mini e5m2, true⟩
  | 0x1E => ⟨8, .scaled, true⟩ | _ => ⟨16, .mini f16, true⟩

/-- Bytes that k logical elements of a row take (R160, R162). -/
def MatFmt.rowBytes (f : MatFmt) (k : Nat) : Nat := if f.sparse then k / 32 * (2 * f.w + 4) else k * f.w / 8

/-- A P4 magnitude code (R158). -/
def p4Val (x : Nat) : FV := let m := x % 8; .num (decide (8 ≤ x % 16)) (if m = 0 then 0 else 1) ((m : Int) - 4)

/-- An H4 or H6 code (R158). -/
def hybVal (w x : Nat) : FV :=
  let neg := decide (2 ^ (w - 1) ≤ x)
  let m := x % 2 ^ (w - 1)
  if w = 4 then
    if m < 4 then .num neg m 0 else .num neg (2 + (m - 4) % 2) (1 + ((m - 4) / 2 : Nat))
  else
    if m < 16 then .num neg m 0 else let j := m - 16; .num neg (8 + j % 8) (1 + (j / 8 : Nat))

def intVal (w : Nat) (signed : Bool) (x : Nat) : FV :=
  if signed && decide (2 ^ (w - 1) ≤ x) then .num true (2 ^ w - x) 0 else .num false x 0

/-- The value of an unscaled element code. -/
def elemVal (w : Nat) (k : ElemKind) (x : Nat) : FV :=
  match k with
  | .int s => intVal w s x
  | .mini f => f.decode x
  | .p4 => p4Val x
  | .hyb => hybVal w x
  | .scaled => .nan

/-- The meaning TYPE selects at a width (R161). -/
def scaledKind (w ty : Nat) : ElemKind :=
  if w = 4 then (if ty = 0 then .int true else if ty = 1 then .mini e2m1 else if ty = 2 then .p4 else .hyb)
  else if w = 6 then (if ty = 0 then .int true else if ty = 1 then .mini e2m3 else if ty = 2 then .mini e3m2 else .hyb)
  else (if ty = 0 then .int true else if ty = 1 then .mini e4m3 else if ty = 2 then .mini e5m2 else .mini e3m4)

/-- The value of an element under its block's scale byte (R161). -/
def scaledVal (w x scale : Nat) : FV :=
  if scale % 64 = 63 then .nan
  else match elemVal w (scaledKind w (scale / 64)) x with
    | .num n m e => .num n m (e + (scale % 64 : Nat) - 32)
    | y => y

/-- Stored code number i of packed bytes (R160). -/
def codeAt (bs : List Byte) (w i : Nat) : Nat :=
  let lo := w * i
  let b (j : Nat) : Nat := (bs.getD j 0).toNat
  (b (lo / 8) + 256 * b (lo / 8 + 1) + 65536 * b (lo / 8 + 2)) / 2 ^ (lo % 8) % 2 ^ w

/-- Logical element t of a row of bytes: its code, or none where its group is malformed (R162, R163); 0 where a sparse
group does not name it. -/
def rowCode (f : MatFmt) (bs : List Byte) (t : Nat) : Option Nat :=
  if !f.sparse then some (codeAt bs f.w t)
  else
    let chunk := bs.drop (t / 32 * (2 * f.w + 4))
    let g := t % 32 / 4
    let nib := (chunk.getD (2 * f.w + g / 2) 0).toNat / (if g % 2 = 0 then 1 else 16) % 16
    let p0 := nib % 4
    let p1 := nib / 4
    if p1 ≤ p0 then none
    else if t % 4 = p0 then some (codeAt chunk f.w (2 * g))
    else if t % 4 = p1 then some (codeAt chunk f.w (2 * g + 1))
    else some 0

/-- Logical element t of a row: a position a sparse group does not name is 0 (R162). -/
def rowElem (f : MatFmt) (bs scales : List Byte) (t : Nat) : FV :=
  match rowCode f bs t with
  | none => .nan
  | some x =>
    match f.kind with
    | .scaled => scaledVal f.w x (scales.getD (t / 8) 0).toNat
    | k => elemVal f.w k x

/-- Adds the products of two rows over k elements into a cell (R166). -/
def dotInto (c : AccCell) (a b : List FV) : AccCell :=
  (a.zip b).foldl (fun c ab => c.addTerm (mulExact ab.1 ab.2)) c

/-- The k elements of a row. -/
def rowElems (f : MatFmt) (bs scales : List Byte) (k : Nat) : List FV := (upto k).map (rowElem f bs scales)

end Sys2Proof.Machine
end

