-- ==== Sys2Proof/Machine/Base.lean ====
section
/-! DEFINITION. The named operations over threads, columns, partitions and registers that every meaning uses: who a thread is,
its registers and counters, stalling, records and queues, the host's event ring, and poisoned places. -/

namespace Sys2Proof.Machine

/-! ### Names of threads and columns -/

/-- Whether CA names a column (R17). -/
def caOk (ca : Nat) : Bool := decide (ca / 64 < 36)

/-- The column's row and col (R16). -/
def caRow (ca : Nat) : Nat := ca / 64
def caCol (ca : Nat) : Nat := ca % 64

/-- A drive thread, D0 or D1 (R12). -/
def isDrive (t : ThreadRef) : Bool := decide (32 ≤ t.tid)

/-- A service thread, T3 or D1 (R352). -/
def isService (t : ThreadRef) : Bool := (decide (24 ≤ t.tid) && decide (t.tid < 32)) || t.tid == 33

/-- A hardware thread of the device. -/
def threadOk (t : ThreadRef) : Bool := caOk t.ca && decide (t.tid < 34)

/-- The service thread of a general thread's core (R35, R364). -/
def serviceOf (t : ThreadRef) : ThreadRef :=
  if isDrive t then ⟨t.ca, 33⟩ else ⟨t.ca, 24 + t.tid / 3⟩

/-- The thread index that programs see: 0 for D0, 1 for D1 (R266, R362). -/
def threadIndex (t : ThreadRef) : Nat := if isDrive t then t.tid - 32 else t.tid

/-! ### Columns, threads and partitions in the state -/

def State.col (s : State) (ca : Nat) : Column := tget s.cols ca Column.reset

def State.setCol (s : State) (ca : Nat) (c : Column) : State := { s with cols := tset s.cols ca c }

def State.updCol (s : State) (ca : Nat) (f : Column → Column) : State := s.setCol ca (f (s.col ca))

def State.thread (s : State) (t : ThreadRef) : Thread := tget (s.col t.ca).threads t.tid (Thread.resetAt t.tid)

def State.setThread (s : State) (t : ThreadRef) (th : Thread) : State :=
  s.setCol t.ca { s.col t.ca with threads := tset (s.col t.ca).threads t.tid th }

def State.updThread (s : State) (t : ThreadRef) (f : Thread → Thread) : State := s.setThread t (f (s.thread t))

/-- The thread whose instruction issues. -/
def State.th (s : State) : Thread := s.thread s.cur

def State.upd (s : State) (f : Thread → Thread) : State := s.updThread s.cur f

/-- The column of the thread whose instruction issues. -/
def State.here (s : State) : Column := s.col s.cur.ca

def State.updHere (s : State) (f : Column → Column) : State := s.updCol s.cur.ca f

def State.part (s : State) (p : Nat) : Partition := tget s.parts p (Partition.create Policy.blank)

def State.setPart (s : State) (p : Nat) (x : Partition) : State :=
  if tmem s.parts p then { s with parts := tset s.parts p x } else s

def State.updPart (s : State) (p : Nat) (f : Partition → Partition) : State := s.setPart p (f (s.part p))

def State.fn (s : State) (n : Nat) : HostFn := tget s.fns n HostFn.reset

def State.updFn (s : State) (n : Nat) (f : HostFn → HostFn) : State := { s with fns := tset s.fns n (f (s.fn n)) }

def State.chan (s : State) (n : Nat) : Channel := tget s.chans n Channel.reset

/-- The presentation role, the residency role and the torus bit of a policy (R423). -/
def Policy.pres (p : Policy) : Bool := p.roles.getLsbD 0
def Policy.resid (p : Policy) : Bool := p.roles.getLsbD 1
def Policy.torus (p : Policy) : Bool := p.roles.getLsbD 2

/-- The partition that holds the presentation role (R21). -/
def State.presHolder (s : State) : Option Nat := (s.parts.find? (fun e => e.2.pol.pres)).map (·.1)

/-- The partition a thread belongs to (R14, R19, R21). -/
def State.partOf (s : State) (t : ThreadRef) : Option Nat :=
  if isDrive t then s.presHolder else (s.col t.ca).holder

/-- The number of the issuing thread's partition, 16 where it has none. -/
def State.pid (s : State) : Nat := (s.partOf s.cur).getD 16

def State.curPart (s : State) : Partition := s.part s.pid

def State.updCurPart (s : State) (f : Partition → Partition) : State := s.updPart s.pid f

/-- The partition's origin column address, and its extent in columns (R20). -/
def Policy.originRow (p : Policy) : Nat := 4 * (p.forig / 8)
def Policy.originCol (p : Policy) : Nat := 8 * (p.forig % 8)
def Policy.origin (p : Policy) : Nat := 64 * p.originRow + p.originCol
def Policy.rows (p : Policy) : Nat := 4 * p.frows
def Policy.cols (p : Policy) : Nat := 8 * p.fcols

/-- Whether a column lies in the partition's rectangle (R20). -/
def Policy.has (p : Policy) (ca : Nat) : Bool :=
  decide (p.originRow ≤ caRow ca) && decide (caRow ca < p.originRow + p.rows) &&
  decide (p.originCol ≤ caCol ca) && decide (caCol ca < p.originCol + p.cols)

/-- The rectangle's columns in ascending column address order. -/
def Policy.columns (p : Policy) : List Nat :=
  (upto p.rows).flatMap fun r => (upto p.cols).map fun c => 64 * (p.originRow + r) + p.originCol + c

/-- The partition's non-retired columns, in ascending column address order (R32). -/
def State.members (s : State) (p : Policy) : List Nat := p.columns.filter fun ca => !s.retired.contains ca

/-- Every column of the device. -/
def allColumns : List Nat := upto (Config.colsAcross * Config.rowsDown)

/-- The domain ID of a column at a level (R58). -/
def domIdAt (domid : BitVec 32) (level : Nat) : Nat :=
  if level = 0 then 0 else domid.toNat / 2 ^ (8 * (level - 1)) % 256

/-- Partition p's view of a column's control side: the column itself, or p's saved context while another holds it (R430). -/
def State.colOf (s : State) (p ca : Nat) : Column :=
  if (s.col ca).holder = some p then s.col ca
  else match s.saved.find? (fun v => v.part == p && v.ca == ca) with
    | some v => v.col
    | none => Column.reset

def State.updColOf (s : State) (p ca : Nat) (f : Column → Column) : State :=
  if (s.col ca).holder = some p then s.updCol ca f
  else
    let bad := s.saved.any fun v => v.part == p && v.ca == ca && v.bad
    let x : Saved := ⟨p, ca, f (s.colOf p ca), bad⟩
    { s with saved := s.saved.filter (fun v => !(v.part == x.part && v.ca == x.ca)) ++ [x] }

/-- The view of a column in which its UPGATE stands: the presentation partition's, whatever partition holds the column (R350). -/
def State.gate (s : State) (ca : Nat) : Column := match s.presHolder with | some p => s.colOf p ca | none => s.col ca

/-- A thread of a column. -/
def Column.thread (c : Column) (tid : Nat) : Thread := tget c.threads tid (Thread.resetAt tid)

def Column.updThread (c : Column) (tid : Nat) (f : Thread → Thread) : Column :=
  { c with threads := tset c.threads tid (f (c.thread tid)) }

/-- A thread of partition p as p's view has it; drive threads are never moved (R26). -/
def State.threadOf (s : State) (p : Nat) (t : ThreadRef) : Thread :=
  if isDrive t then s.thread t else (s.colOf p t.ca).thread t.tid

def State.updThreadOf (s : State) (p : Nat) (t : ThreadRef) (f : Thread → Thread) : State :=
  if isDrive t then s.updThread t f else s.updColOf p t.ca fun c => c.updThread t.tid f

/-- The domain of a partition at a level and ID, in ascending column address order (R58). -/
def State.domain (s : State) (p : Policy) (level id : Nat) : List Nat :=
  (s.members p).filter fun ca => level == 0 || domIdAt (s.colOf p.part ca).domid level == id

/-- The numbers of a partition's general threads in a column: 24 control threads. -/
def generalTids : List Nat := upto Config.generalThreads

/-- Folds a change over a list. -/
def State.each {α : Type} (s : State) (l : List α) (f : State → α → State) : State := l.foldl f s

/-- Whether an access raises the load counter (R199). -/
def AccOp.isLoad : AccOp → Bool
  | .ld .. | .vld .. | .amo .. | .tex .. | .resq .. => true
  | .st | .red .. | .redx | .join | .resw .. | .spawn .. => false

/-- Whether an access has faulted, or waits for firmware. -/
def Access.faulted (a : Access) : Bool := a.status != .pending

/-- A returning atomic, a full fence before and after itself (R140). -/
def AccOp.isAmo : AccOp → Bool | .amo .. => true | _ => false

/-- A load that is no returning atomic. -/
def AccOp.plainLoad (o : AccOp) : Bool := o.isLoad && !o.isAmo

/-- Every access that the thread issued before number n has performed (R137, R259). -/
def Thread.allBefore (th : Thread) (n : Nat) : Bool := th.out.all fun a => decide (n ≤ a.id)

/-- A plain load whose fault is to be delivered: it will not perform, and holds back no later command (R145, R92). -/
def Access.mayPass (a : Access) : Bool := a.op.plainLoad && match a.status with | .fault .. => true | _ => false

/-- Every store and returning AMO that the thread issued before number n has performed, and every load but those whose fault is to be
delivered (R145, R140). -/
def Thread.doneBefore (th : Thread) (n : Nat) : Bool := th.out.all fun a => decide (n ≤ a.id) || a.mayPass

/-- Every store and returning AMO that the thread issued before number n has performed (R149, R277, R140). -/
def Thread.storesBefore (th : Thread) (n : Nat) : Bool := th.out.all fun a => decide (n ≤ a.id) || a.op.plainLoad

def State.performedBefore (s : State) (t : ThreadRef) (n : Nat) : Bool := (s.thread t).doneBefore n

/-! ### Registers (R196, R197, R304) -/

/-- Takes a register off the destinations of outstanding accesses: a later write in program order remains (R304). -/
def dropDest (d : Dest) (out : List Access) : List Access :=
  out.map fun a => { a with dests := a.dests.filter (fun e => e != d) }

def Thread.rs (th : Thread) (n : BitVec 5) : Word := if n = 0 then 0 else th.s[n.toNat]'(by omega)

def Thread.ws (th : Thread) (n : BitVec 5) (v : Word) : Thread :=
  if n = 0 then th
  else { th with s := th.s.set n.toNat v (by omega), out := dropDest (.s n) th.out }

def Thread.rp (th : Thread) (n : BitVec 3) : Bool := n == 0 || th.p.getLsbD n.toNat

def Thread.wp (th : Thread) (n : BitVec 3) (b : Bool) : Thread :=
  if n = 0 then th
  else { th with p := if b then th.p ||| (1#8 <<< n.toNat) else th.p &&& ~~~(1#8 <<< n.toNat) }

/-- Element i of a vector register, 0 at or above the 64 (R196). -/
def Thread.rv (th : Thread) (n : BitVec 4) (i : Nat) : Elem := (th.v[n.toNat]'(by omega)).getD i 0

def Thread.wv (th : Thread) (n : BitVec 4) (i : Nat) (x : Elem) : Thread :=
  { th with v := th.v.set n.toNat ((th.v[n.toNat]'(by omega)).setIfInBounds i x) (by omega),
            out := dropDest (.v n i) th.out }

/-- A mask register; k0 reads all ones, 16 of them on a drive core (R196, R197). -/
def Thread.rk (th : Thread) (drive : Bool) (n : BitVec 2) : Word :=
  if n = 0 then (if drive then 0xFFFF#64 else BitVec.allOnes 64) else th.k[n.toNat]'(by omega)

def Thread.wk (th : Thread) (drive : Bool) (n : BitVec 2) (m : Word) : Thread :=
  if n = 0 then th
  else { th with k := th.k.set n.toNat (if drive then m &&& 0xFFFF#64 else m) (by omega) }

def State.rs (s : State) (n : BitVec 5) : Word := s.th.rs n
def State.rp (s : State) (n : BitVec 3) : Bool := s.th.rp n
def State.rv (s : State) (n : BitVec 4) (i : Nat) : Elem := s.th.rv n i
def State.rk (s : State) (n : BitVec 2) : Word := s.th.rk (isDrive s.cur) n
def State.ws (s : State) (n : BitVec 5) (v : Word) : State := s.upd fun th => th.ws n v
def State.wp (s : State) (n : BitVec 3) (b : Bool) : State := s.upd fun th => th.wp n b
def State.wv (s : State) (n : BitVec 4) (i : Nat) (x : Elem) : State := s.upd fun th => th.wv n i x
def State.wk (s : State) (n : BitVec 2) (m : Word) : State := s.upd fun th => th.wk (isDrive s.cur) n m

/-- The number of elements a core's vector registers hold (R196). -/
def State.lanes (s : State) : Nat := if isDrive s.cur then 16 else 64

/-- Element i is active: below VL with its mask bit set (R242, R281). -/
def State.active (s : State) (k : BitVec 2) (i : Nat) : Bool := decide (i < s.th.vl) && (s.rk k).getLsbD i

/-- The active elements in ascending order. -/
def State.actives (s : State) (k : BitVec 2) : List Nat := (upto s.lanes).filter (s.active k)

/-- Writes elements of a vector register, each value computed from the state before any is written (R281). -/
def State.wvs (s : State) (d : BitVec 4) (els : List Nat) (f : Nat → Elem) : State :=
  s.upd fun th => els.foldl (fun t i => t.wv d i (f i)) th

/-! ### Counters (R199, R200) -/

def Thread.cnt (th : Thread) : Ctr → Nat
  | .ld => th.cntLd | .st => th.cntSt | .cp => th.cntCp | .tl => th.cntTl | .fx => th.cntFx

def Thread.setCnt (th : Thread) (c : Ctr) (n : Nat) : Thread :=
  match c with
  | .ld => { th with cntLd := n } | .st => { th with cntSt := n } | .cp => { th with cntCp := n }
  | .tl => { th with cntTl := n } | .fx => { th with cntFx := n }

def Thread.bump (th : Thread) (c : Ctr) : Thread := th.setCnt c (th.cnt c + 1)
def Thread.lower (th : Thread) (c : Ctr) : Thread := th.setCnt c (th.cnt c - 1)

/-! ### Numbers and free values -/

/-- The next free value of this device, and the state after it was taken (log 2). -/
def State.free (s : State) : Nat × State := (Config.pick s.freeCtr, { s with freeCtr := s.freeCtr + 1 })

/-- A new number for an access, a command, a transfer or a message. -/
def State.newId (s : State) : Nat × State := (s.nextId, { s with nextId := s.nextId + 1 })

/-- The almanac as a number. -/
def State.now (s : State) : Nat := s.almanac.toNat

/-! ### Stalling -/

/-- The instruction does not execute: its thread waits for w and issues it again (R37). -/
def State.holdAs (r : Run) (w : Wait) (s : State) : State :=
  s.upd fun th => { th with run := r, wait := w, pc := th.ipc, held := true, taken := false,
                            since := if th.waited then th.since else s.now }

def State.stall (w : Wait) (s : State) : State := s.holdAs .stalled w

/-- The thread waits in place; the instruction has issued (R37). -/
def State.waitAt (w : Wait) (s : State) : State :=
  s.upd fun th => { th with run := .waiting, wait := w, since := s.now, mark := s.nextId }

/-- Runs f unless counter c stands at 31 (R200). -/
def State.raising (c : Ctr) (f : State → State) (s : State) : State :=
  if s.th.cnt c ≥ 31 then s.stall (.room c) else f s

/-! ### Ordered tasks (R39, R52, R110) -/

def Thread.ordered (th : Thread) : Bool := match th.task with | some t => t.r.o | none => false

/-- An ordered task's own tag, which its record holds while it runs (R49, R52). -/
def Thread.ownTag (th : Thread) : BitVec 12 := match th.task with | some t => t.r.tag | none => 0

/-- A partition's tag: base is always live (R99). -/
def Partition.tag (p : Partition) (t : BitVec 12) : Option TagInfo :=
  if t = 0 then some ⟨true, 0, 0⟩ else (p.tags.find? (fun e => e.1 == t.toNat)).map (·.2)

def Partition.live (p : Partition) (t : BitVec 12) : Bool := match p.tag t with | some i => i.live | none => false

/-- Whether tag t is a or lies below a, walking at most n parents. -/
def Partition.below (p : Partition) (a : BitVec 12) : Nat → BitVec 12 → Bool
  | 0, t => t == a
  | n + 1, t => t == a || (t != 0 && match p.tag t with | some i => p.below a n i.parent | none => false)

/-- In an ordered task: a tag outside the task's subtree (R110). -/
def State.outside (s : State) (t : BitVec 12) : Bool := s.th.ordered && !s.curPart.below s.th.ownTag 4 t

/-! ### Records (R39) as 64 bytes -/

def Rec.flags (r : Rec) : Nat :=
  r.tag.toNat + (if r.c then 0x2000 else 0) + (if r.x then 0x4000 else 0) + (if r.o then 0x8000 else 0)

def Rec.bytes (r : Rec) : List Byte :=
  leBytes 8 r.code.toNat ++ leBytes 8 r.frame.toNat ++ leBytes 8 r.parent.toNat ++ leBytes 8 r.stamp.toNat ++
  leBytes 2 r.flags ++ leBytes 2 (r.pclass.toNat * 4 + r.prio.toNat) ++ leBytes 4 r.join.toNat ++
  leBytes 8 r.arg0.toNat ++ leBytes 8 r.arg1.toNat ++ leBytes 8 r.arg2.toNat

/-- Bits lo … lo + n - 1 of a 64-byte record held as a number. -/
def field512 (x : BitVec 512) (lo n : Nat) : Nat := x.toNat / 2 ^ lo % 2 ^ n

def Rec.ofBits (x : BitVec 512) : Rec where
  code := BitVec.ofNat 64 (field512 x 0 64)
  frame := BitVec.ofNat 64 (field512 x 64 64)
  parent := BitVec.ofNat 64 (field512 x 128 64)
  stamp := BitVec.ofNat 64 (field512 x 192 64)
  tag := BitVec.ofNat 12 (field512 x 256 12)
  c := field512 x 269 1 == 1
  x := field512 x 270 1 == 1
  o := field512 x 271 1 == 1
  prio := BitVec.ofNat 2 (field512 x 272 2)
  pclass := BitVec.ofNat 3 (field512 x 274 3)
  join := BitVec.ofNat 32 (field512 x 288 32)
  arg0 := BitVec.ofNat 64 (field512 x 320 64)
  arg1 := BitVec.ofNat 64 (field512 x 384 64)
  arg2 := BitVec.ofNat 64 (field512 x 448 64)

def Rec.bits (r : Rec) : BitVec 512 := BitVec.ofNat 512 (leNat r.bytes)

/-! ### Queues (R46) -/

def Column.queue (c : Column) (prio : Nat) : List QRec :=
  match prio with | 0 => c.q0 | 1 => c.q1 | 2 => c.q2 | _ => c.q3

def Column.setQueue (c : Column) (prio : Nat) (q : List QRec) : Column :=
  match prio with | 0 => { c with q0 := q } | 1 => { c with q1 := q } | 2 => { c with q2 := q } | _ => { c with q3 := q }

/-- Commits a record at the tail of a partition's queue of a column (R46); `after` and `born` as in QRec. -/
def State.enqueueAs (s : State) (p ca : Nat) (prio : Nat) (r : Rec) (lin : List ThreadRef) (addr : Nat)
    (after : Option (ThreadRef × Nat)) (born : Option Nat) : State :=
  let (n, s) := s.newId
  s.updColOf p ca fun c => c.setQueue prio (c.queue prio ++ [⟨r, n, s.now, lin, addr, after, born.getD n⟩])

def State.enqueue (s : State) (p ca : Nat) (prio : Nat) (r : Rec) (lin : List ThreadRef) (addr : Nat) : State :=
  s.enqueueAs p ca prio r lin addr none none

/-- A partition's records in queues, with their columns. -/
def State.queued (s : State) (p : Policy) : List (Nat × QRec) :=
  p.columns.flatMap fun ca => let c := s.colOf p.part ca; (c.q0 ++ c.q1 ++ c.q2 ++ c.q3).map fun q => (ca, q)

/-! ### Host event ring and interrupts (R417, R446) -/

def State.signal (s : State) (fn vec : Nat) : State := s.updFn fn fun f => { f with msix := f.msix ++ [vec] }

def State.writeHost (s : State) (a : Nat) (bs : List Byte) : State := { s with hostMem := mwrite s.hostMem a bs }

/-- An event record of 32 bytes (R446). -/
def eventBytes (kind part ca info count addr time detail : Nat) : List Byte :=
  leBytes 1 kind ++ leBytes 1 part ++ leBytes 2 ca ++ leBytes 2 info ++ leBytes 2 count ++ leBytes 8 addr ++
  leBytes 8 time ++ leBytes 8 detail

/-- Whether the PF's event ring is configured and has room (R446). -/
def State.evRoom (s : State) : Bool :=
  let f := s.fn 0
  f.evbase != 0 && decide (f.evtail - f.evhead < 2 ^ f.evsize)

/-- Posts an event record to the PF's event ring; a full or missing ring loses it (R446). -/
def State.postEvent (s : State) (bs : List Byte) : State :=
  let f := s.fn 0
  if s.evRoom then
    let s := s.writeHost (f.evbase.toNat + 32 * (f.evtail % 2 ^ f.evsize)) bs
    (s.updFn 0 fun f => { f with evtail := f.evtail + 1 }).signal 0 3
  else s.updFn 0 fun f => { f with evlost := if f.evlost = BitVec.allOnes 32 then f.evlost else f.evlost + 1 }

/-! ### Poison (R449, R450) -/

/-- The place is poisoned (R449). -/
def State.tainted (s : State) (x : Place) : Bool := s.poison.any fun e => e.at_ == x

/-- The cellar line is poisoned. -/
def State.bad (s : State) (line : Nat) : Bool := s.tainted (.cellar line)

/-- A place is poisoned, or its poison is cleared. -/
def State.taintAt (s : State) (ca unit : Nat) (x : Place) : State :=
  { s with poison := s.poison.filter (fun e => e.at_ != x) ++ [⟨x, unit, ca⟩] }

def State.cleanAt (s : State) (x : Place) : State := { s with poison := s.poison.filter fun e => e.at_ != x }

end Sys2Proof.Machine
end

