-- ==== Sys2Proof/Machine/Memory.lean ====
section
/-! DEFINITION. The address space: regions (R75 to R82), translation (R436 to R439), homing (R90), context cells (R103 to
R109), range locks (R145), and reading and writing bytes at an address in a context. -/

namespace Sys2Proof.Machine

/-! ### Regions, and the checks the issuing core makes (R231) -/

/-- A scratch address: R78's table, and every canonical address above it (log 71: DESIGN CHOICE). -/
def inScratch (addr : Nat) : Bool := decide (Config.scratchBase ≤ addr)
def inRemote (addr : Nat) : Bool := decide (Config.scratchBase ≤ addr) && decide (addr < Config.homeBase)

/-- The parts of a remote scratch address (R81). -/
def remoteRow (addr : Nat) : Nat := (addr - Config.scratchBase) / 2 ^ 28 % 64
def remoteCol (addr : Nat) : Nat := (addr - Config.scratchBase) / 2 ^ 22 % 64
def remoteOff (addr : Nat) : Nat := (addr - Config.scratchBase) % 2 ^ 22
def remoteCa (addr : Nat) : Nat := 64 * remoteRow addr + remoteCol addr
def remoteHigh (addr : Nat) : Nat := (addr - Config.scratchBase) / 2 ^ 34

/-- Bytes of loft scratch a column has (R78). -/
def Column.loftSize (c : Column) : Nat := (16 - c.ways) * 0x20000

/-- ADDR_RANGE: a byte at or beyond 2^48 (R75), or a remote scratch address with a nonzero high part or no such row (R81). -/
def addrBad (addr w : Nat) : Bool :=
  decide (2 ^ 48 < addr + w) || decide (2 ^ 48 ≤ addr) ||
  (inRemote addr && (remoteHigh addr != 0 || decide (35 < remoteRow addr)))

/-- A scratch offset of a column as the home and loft windows lay it out: present or not (R78, R81). -/
def Column.scratchHas (c : Column) (off w : Nat) : Bool :=
  decide (off + w ≤ 0x100000) ||
  (decide (0x100000 ≤ off) && decide (off - 0x100000 + w ≤ c.loftSize))

/-- SCRATCH_ABSENT (R78, R81, R14), for an address that is not ADDR_RANGE. -/
def State.absentBad (s : State) (t : ThreadRef) (addr w : Nat) : Bool :=
  if !inScratch addr then false
  else if isDrive t then
    inRemote addr || decide (0x10000 < addr - Config.homeBase + w)
  else if inRemote addr then
    s.retired.contains (remoteCa addr) || !(s.col (remoteCa addr)).scratchHas (remoteOff addr) w
  else !(s.col t.ca).scratchHas (addr - Config.homeBase) w

/-- PROTECTION: a remote scratch column outside the partition (R81). -/
def State.remoteBad (s : State) (t : ThreadRef) (addr : Nat) : Bool :=
  inRemote addr && !isDrive t && !(s.part ((s.partOf t).getD 16)).pol.has (remoteCa addr)

/-- MISALIGNED: the bytes lie in two lines (R76), or the address is no multiple of a stricter alignment. -/
def misBad (addr w align : Nat) : Bool := decide (64 < addr % 64 + w) || addr % align != 0

/-- The issuing core's checks on one access, steps 2 to 5 of R231, with the address they report. -/
def State.accessCheck (s : State) (t : ThreadRef) (addr w align : Nat) : Option Cause :=
  if addrBad addr w then some .addrRange
  else if misBad addr w align then some .misaligned
  else if s.absentBad t addr w then some .scratchAbsent
  else if s.remoteBad t addr then some .protection
  else none

/-! ### Page tables (R436 to R439) -/

def bitsOf (x : Word) (lo n : Nat) : Nat := x.toNat / 2 ^ lo % 2 ^ n

def read64 (m : Mem) (a : Nat) : Word := BitVec.ofNat 64 (leNat (mread m a 8))

/-- The class codes of R437. -/
inductive PageClass where
  | shared | priv | sync | replicated | lod | host
  deriving DecidableEq, Repr

def PageClass.ofCode : Nat → Option PageClass
  | 0 => some .shared | 1 => some .priv | 2 => some .sync | 3 => some .replicated | 4 => some .lod | 5 => some .host | _ => none

/-- A leaf entry's fields (R437). -/
structure Leaf where
  cls : PageClass
  hm : Bool
  home : Nat
  w : Bool
  x : Bool
  noext : Bool
  mig : Bool
  frame : Nat
  deriving DecidableEq, Repr

/-- A leaf entry, unless R436 to R438 call it malformed. `base`: an L3 entry, of a 64 KiB page. -/
def leafOf (e : Word) (base : Bool) : Option Leaf :=
  match PageClass.ofCode (bitsOf e 2 3) with
  | none => none
  | some cls =>
    let l : Leaf := ⟨cls, bitsOf e 8 1 == 1, if bitsOf e 8 1 == 1 then bitsOf e 52 12 else bitsOf e 52 3, bitsOf e 5 1 == 1,
                     bitsOf e 6 1 == 1, bitsOf e 7 1 == 1, bitsOf e 9 1 == 1, bitsOf e 16 32 * 0x10000⟩
    let reserved := bitsOf e 48 4 != 0 || bitsOf e 10 6 != 0 || (!l.hm && bitsOf e 55 9 != 0)
    let combo := match cls with
      | .shared => !l.mig && (!l.noext || base)
      | .priv => l.hm && !l.mig && !l.noext
      | .sync => !l.x && !l.mig && !l.noext
      | .replicated => !l.hm && !l.mig && !l.noext
      | .lod => !l.hm && !l.w && !l.x && !l.mig && !l.noext
      | .host => !l.hm && !l.x && !l.noext && (!l.mig || base)
    let frame := (base || bitsOf e 16 5 == 0) &&
      (cls == .host || l.noext || decide (l.frame < Config.cellarEnd))
    if !reserved && combo && frame then some l else none

/-- What a walk finds: a poisoned line; absent, with whether an entry was malformed and the L3 entry's place where the walk reached one;
or a leaf, with the size of its page. -/
inductive Walk where
  | absent (malformed : Bool) (l3 : Option Nat)
  /-- an entry's line is poisoned (R450) -/
  | poisoned (line : Nat)
  | leaf (l : Leaf) (size : Nat)
  deriving DecidableEq, Repr

/-- The walk from table t over the remaining levels, each with its lowest VA bit and index width; `bad` is the poisoned lines
(R436). -/
def walkFrom (m : Mem) (bad : Nat → Bool) (va : Nat) : Nat → List (Nat × Nat) → Walk
  | _, [] => .absent true none
  | t, (lo, n) :: rest =>
    let a := t + 8 * (va / 2 ^ lo % 2 ^ n)
    let e := read64 m a
    let here := if rest.isEmpty then some a else none
    if bad (a / 64) then .poisoned (a / 64)
    else if bitsOf e 0 1 = 0 then .absent false here
    else if bitsOf e 1 1 = 1 then
      if 21 < lo then .absent true here
      else match leafOf e (lo == 16) with
        | some l => .leaf l (2 ^ lo)
        | none => .absent true here
    else if lo = 16 || bitsOf e 2 6 != 0 || bitsOf e 48 16 != 0 then .absent true here
    else walkFrom m bad va (bitsOf e 8 40 * 256) rest

/-- The four levels of R436. -/
def levels : List (Nat × Nat) := [(39, 9), (30, 9), (21, 9), (16, 5)]

/-- The walk of an address; entries from index 252 of the L0 table on are never read (R436, R77). -/
def State.walk (s : State) (root va : Nat) : Walk :=
  if Config.scratchBase ≤ va then .absent false none else walkFrom s.cellar s.bad va root levels

/-! ### Translation of an address of a partition -/

/-- Where a translated byte is held. -/
inductive Backing where
  | cellar (pa : Nat) | host (bus : Nat) | slot (addr : Nat) | arg (off : Nat)
  deriving DecidableEq, Repr

/-- A translated address: class, permissions, whether contexts extend it, the line its lock and cells go by, its home and
its place. -/
structure Xlat where
  cls : PageClass
  w : Bool
  x : Bool
  ext : Bool
  line : Nat
  hm : Bool
  home : Nat
  back : Backing
  deriving DecidableEq, Repr

/-- Why an access does not perform. -/
inductive Stop where
  | fault (c : Cause)
  /-- the page is absent; `malformed` as in R446 -/
  | absent (malformed : Bool)
  /-- data that the access uses is poisoned (R450) -/
  | poison (x : Place)
  deriving DecidableEq, Repr

def PageClass.extends : PageClass → Bool
  | .shared | .priv | .replicated | .lod => true
  | .sync | .host => false

/-- A leaf's translation of va. -/
def Leaf.xlat (l : Leaf) (size va : Nat) : Xlat :=
  let pa := l.frame + va % size
  ⟨l.cls, l.w, l.x, l.cls.extends && !l.noext, va / 64, l.hm, l.home,
   if l.cls = .host then .host pa else .cellar pa⟩

/-- What a partition's page tables map an address to; a refused mapping does not translate (R436, R423). -/
def State.mapsTo (s : State) (part : Partition) (va : Nat) : Except Stop (Leaf × Nat) :=
  match s.walk part.root.toNat va with
  | .absent mal _ => .error (.absent mal)
  | .poisoned line => .error (.poison (.cellar line))
  | .leaf l size => if part.refused.contains (va / size * size, size) then .error (.absent false) else .ok (l, size)

/-- A fill alias: SHARED, and absent where its LOD address does not translate as one of the partition's page tables (R439). -/
def State.aliasOf (s : State) (part : Partition) (l : Leaf) (lva : Nat) : Except Stop Xlat :=
  if Config.imgWindow ≤ lva ∧ lva < Config.fwWindowEnd then .error (.absent false)
  else match s.mapsTo part lva with
    | .error (.poison x) => .error (.poison x)
    | .error _ => .error (.absent false)
    | .ok (l2, size2) =>
      if l2.cls = .lod then .ok { l2.xlat size2 lva with cls := .shared, w := l.w, x := l.x, ext := false }
      else .error (.absent false)

/-- Translation in partition p (R436, R439, R410, R257, R426). -/
def State.translate (s : State) (p : Nat) (va : Nat) : Except Stop Xlat :=
  let part := s.part p
  if Config.scratchBase ≤ va then .error (.absent false)
  else if Config.imgWindow ≤ va ∧ va < Config.fwWindow then
    match part.fwPages.find? (fun f => f.page == va / 0x10000) with
    | some f =>
      match leafOf f.leaf true with
      | some l => .ok (l.xlat 0x10000 va)
      | none => .error (.absent true)
    | none => .error (.absent false)
  else if Config.fwWindow ≤ va ∧ va < Config.queueBacking then
    if part.launch.isSome then .ok ⟨.shared, false, false, true, va / 64, false, 0, .arg (va - Config.fwWindow)⟩
    else .error (.absent false)
  else if Config.queueBacking ≤ va ∧ va < Config.fwWindowEnd then
    .ok ⟨.shared, true, false, false, va / 64, false, 0, .slot va⟩
  else match s.mapsTo part va with
    | .error e => .error e
    | .ok (l, size) => if l.noext then s.aliasOf part l (l.frame + va % 0x10000) else .ok (l.xlat size va)

/-- The members of a mask entry: 0 the whole partition, 1 to 7 a rectangle counted from the origin (R90, R401, R423). -/
def State.mask (s : State) (pol : Policy) (n : Nat) : List Nat :=
  if n = 0 then s.members pol
  else match pol.masks[n - 1]? with
    | some (r0, c0, rows, cols) => (s.members pol).filter fun ca =>
        decide (pol.originRow + r0 ≤ caRow ca) && decide (caRow ca < pol.originRow + r0 + rows) &&
        decide (pol.originCol + c0 ≤ caCol ca) && decide (caCol ca < pol.originCol + c0 + cols)
    | none => []

/-- The hash of R90. -/
def homeHash (line : Nat) : Nat :=
  ((line % 4096) ^^^ (line / 2 ^ 12 % 4096)) ^^^ ((line / 2 ^ 24 % 4096) ^^^ (line / 2 ^ 36 % 64))

/-- The home column of a translated line (R90). A retired column is no line's home (R32): one that an entry names yields to the
hash over mask 0 (log 62). -/
def State.homeOf (s : State) (p : Nat) (x : Xlat) : Nat :=
  if x.hm && !s.retired.contains x.home then x.home
  else
    let m := s.mask (s.part p).pol (if x.hm then 0 else x.home)
    m.getD (homeHash x.line % m.length) 0

/-! ### Lines, locks (R144, R145) -/

/-- The line of an address as locks name it: by its owner in scratch, by its number in the partition otherwise. -/
def State.lineOf (s : State) (t : ThreadRef) (addr : Nat) : Line :=
  if inScratch addr then
    let ca := if inRemote addr then remoteCa addr else t.ca
    let off := if inRemote addr then remoteOff addr else addr - Config.homeBase
    if isDrive t then .drive ca (off / 64)
    else if off < 0x100000 then .home ca (off / 64) else .loft ca ((off - 0x100000) / 64)
  else
    let p := (s.partOf t).getD 16
    match s.translate p addr with
    | .ok x => .mem p x.line
    | .error _ => .mem p (addr / 64)

/-- The line of a home or loft scratch offset as locks name it. -/
def scratchLine (ca off : Nat) : Line := if off < 0x100000 then .home ca (off / 64) else .loft ca ((off - 0x100000) / 64)

/-- A line by the number that its page gives it now: a fill alias that was absent when a lock was taken goes by its LOD line once it
is mapped (R144, R439). -/
def State.lineNow (s : State) : Line → Line
  | .mem p n => match s.translate p (64 * n) with | .ok x => .mem p x.line | .error _ => .mem p n
  | l => l

def State.readLocked (s : State) (l : Line) : Bool := s.locks.any fun k => s.lineNow k.line == l && !k.wr
def State.writeLocked (s : State) (l : Line) : Bool := s.locks.any fun k => s.lineNow k.line == l && k.wr

/-! ### Bytes in scratch -/

def Column.scratchRead (c : Column) (off w : Nat) : List Byte :=
  if off < 0x100000 then mread c.home off w else mread c.loft (off - 0x100000) w

def Column.scratchWrite (c : Column) (off : Nat) (bs : List Byte) : Column :=
  if off < 0x100000 then { c with home := mwrite c.home off bs } else { c with loft := mwrite c.loft (off - 0x100000) bs }

/-- The column and offset a checked scratch address of a thread reaches (R14, R78, R81). -/
def scratchAt (t : ThreadRef) (addr : Nat) : Nat × Nat :=
  if inRemote addr then (remoteCa addr, remoteOff addr) else (t.ca, addr - Config.homeBase)

def State.readScratch (s : State) (t : ThreadRef) (addr w : Nat) : List Byte :=
  let (ca, off) := scratchAt t addr
  if isDrive t then mread (s.col ca).drive off w else (s.col ca).scratchRead off w

/-- The place of a line of a column's home or loft scratch (R78). -/
def windowPlace (ca off : Nat) : Place := if off < 0x100000 then .home ca (off / 64) else .loft ca ((off - 0x100000) / 64)

/-- The place of a scratch address's line where a check structure may find it poisoned: home and loft scratch lie in the loft's banks;
drive scratch has no structure of R449's table (R449, log 45). -/
def scratchPlace (t : ThreadRef) (addr : Nat) : Option Place :=
  let (ca, off) := scratchAt t addr
  if isDrive t then none else some (windowPlace ca off)

/-- The poison that a use of a scratch line meets (R450). -/
def State.scratchTaint (s : State) (t : ThreadRef) (addr : Nat) : Option Place := (scratchPlace t addr).filter s.tainted

/-- The starts of the lines that n bytes at off cover whole. -/
def wholeLines (off n : Nat) : List Nat :=
  ((upto (n / 64)).map fun i => (off + 63) / 64 * 64 + 64 * i).filter fun l => decide (l + 64 ≤ off + n)

/-- n bytes are written at an offset of a column's home and loft scratch: all 64 of a line clear its poison (R450). -/
def State.cleanWindow (s : State) (ca off n : Nat) : State :=
  { s with poison := s.poison.filter fun e => !(wholeLines off n).any fun l => windowPlace ca l == e.at_ }

/-- Bytes written to scratch; all 64 of a line clear its poison (R450). -/
def State.writeScratch (s : State) (t : ThreadRef) (addr : Nat) (bs : List Byte) : State :=
  let (ca, off) := scratchAt t addr
  let s := if isDrive t || bs.length < 64 then s else s.cleanWindow ca off bs.length
  s.updCol ca fun c => if isDrive t then { c with drive := mwrite c.drive off bs } else c.scratchWrite off bs

/-! ### Bytes in memory, base and cells (R103, R104) -/

def Partition.slotAt (p : Partition) (addr : Nat) : Option Slot := p.slots.find? fun x => x.addr == addr / 64 * 64

def bytesOf (bits : List Byte) : Nat := leNat bits

/-- Byte i of a line held as 512 bits. -/
def lineByte (d : BitVec 512) (i : Nat) : Byte := BitVec.ofNat 8 (d.toNat / 2 ^ (8 * i))

/-- A line with byte i replaced. -/
def setLineByte (d : BitVec 512) (i : Nat) (b : Byte) : BitVec 512 :=
  (d &&& ~~~(BitVec.ofNat 512 (0xFF * 2 ^ (8 * i)))) ||| BitVec.ofNat 512 (b.toNat * 2 ^ (8 * i))

/-- A line with bytes written from offset off on. -/
def setLineBytes (d : BitVec 512) (off : Nat) : List Byte → BitVec 512
  | [] => d
  | b :: r => setLineBytes (setLineByte d off b) (off + 1) r

/-- w bytes at a backing place in base. -/
def State.readBase (s : State) (p : Nat) (b : Backing) (w : Nat) : List Byte :=
  match b with
  | .cellar pa => mread s.cellar pa w
  | .host bus => mread s.hostMem bus w
  | .arg off => mread (s.part p).argBlock off w
  | .slot a =>
    match (s.part p).slotAt a with
    | some sl => (upto w).map fun i => lineByte sl.data (a % 64 + i)
    | none => (upto w).map fun _ => 0

/-- The line of a backing place where poison may lie, and the place's offset in it; none in host memory (R449). -/
def Backing.place (p : Nat) : Backing → Option (Place × Nat)
  | .cellar pa => some (.cellar (pa / 64), pa % 64)
  | .host _ => none
  | .slot a => some (.slot p (a / 64 * 64), a % 64)
  | .arg off => some (.arg p (off / 64), off % 64)

/-- n bytes are written at a backing place: all 64 of a line clear its poison (R450). -/
def State.overwritten (s : State) (p : Nat) (b : Backing) (n : Nat) : State :=
  match b.place p with
  | some (x, 0) => if n = 64 then s.cleanAt x else s
  | _ => s

/-- Bytes written at a backing place in base. -/
def State.writeBase (s : State) (p : Nat) (b : Backing) (bs : List Byte) : State :=
  let s := s.overwritten p b bs.length
  match b with
  | .cellar pa => { s with cellar := mwrite s.cellar pa bs }
  | .host bus => s.writeHost bus bs
  | .arg _ => s
  | .slot a => s.updPart p fun x => { x with slots := x.slots.map fun sl =>
      if sl.addr = a / 64 * 64 then { sl with data := setLineBytes sl.data (a % 64) bs } else sl }

def Partition.cellAt (p : Partition) (tag : BitVec 12) (line : Nat) : Option Cell :=
  p.cells.find? fun c => c.tag == tag && c.line == line

/-- The first cell of a line along a tag's chain, at most n parents up (R103). -/
def Partition.viewCell (p : Partition) (line : Nat) : Nat → BitVec 12 → Option Cell
  | 0, _ => none
  | n + 1, tag =>
    if tag = 0 then none
    else match p.cellAt tag line with
      | some c => some c
      | none => match p.tag tag with
        | some i => p.viewCell line n i.parent
        | none => none

/-- The backing place of the first byte of the line a place lies in. -/
def Backing.lineStart : Backing → Backing
  | .cellar pa => .cellar (pa / 64 * 64) | .host b => .host (b / 64 * 64) | .slot a => .slot (a / 64 * 64)
  | .arg o => .arg (o / 64 * 64)

/-- w bytes of a translated address as context tag sees them (R103): va mod 64 is the byte's place in its line. -/
def State.readXlat (s : State) (p : Nat) (x : Xlat) (tag : BitVec 12) (va w : Nat) : List Byte :=
  match (if x.ext then (s.part p).viewCell x.line 5 tag else none) with
  | some c => (upto w).map fun i => lineByte c.data (va % 64 + i)
  | none => s.readBase p x.back w

/-- The whole line of a translated address as context tag sees it. -/
def State.readLine (s : State) (p : Nat) (x : Xlat) (tag : BitVec 12) : BitVec 512 :=
  BitVec.ofNat 512 (leNat (s.readXlat p { x with back := x.back.lineStart } tag 0 64))

/-- Whether a write in context tag needs a new cell (R104). -/
def State.needsCell (s : State) (p : Nat) (x : Xlat) (tag : BitVec 12) : Bool :=
  x.ext && tag != 0 && ((s.part p).cellAt tag x.line).isNone

/-- Whether the cell heap or the cell quota is exhausted (R106); the heap is as large as the quota (log 75: DESIGN CHOICE). -/
def Partition.heapFull (p : Partition) : Bool := decide (p.pol.cellq ≤ p.cells.length)

/-- Bytes written in context tag: base, or the tag's cell, materialised when it is the first store (R104). -/
def State.writeXlat (s : State) (p : Nat) (x : Xlat) (tag : BitVec 12) (va : Nat) (bs : List Byte) : State :=
  if x.ext && tag != 0 then
    let s := if s.needsCell p x tag then
        let d := s.readLine p x tag
        (s.cleanAt (.cell p tag x.line)).updPart p fun q =>
          { q with cells := q.cells ++ [⟨tag, x.line, d, 0⟩], highCells := max q.highCells (q.cells.length + 1) }
      else s
    s.updPart p fun q => { q with cells := q.cells.map fun c =>
      if c.tag = tag && c.line == x.line then
        { c with data := setLineBytes c.data (va % 64) bs,
                 mask := (upto bs.length).foldl (fun m i => m ||| (1#64 <<< (va % 64 + i))) c.mask }
      else c }
  else s.writeBase p x.back bs

/-! ### Judging an access at its home (R89, R92, R231) -/

/-- What an access does to its bytes, as permissions see it. -/
inductive Kind where
  | load | store | red | redx | amo
  deriving DecidableEq, Repr

def Kind.writes : Kind → Bool
  | .load => false | _ => true

/-- Whether the class permits the access (R88, R89, R237 to R239, R142), from column ca. -/
def Xlat.permits (x : Xlat) (k : Kind) (ca : Nat) (ordered : Bool) : Bool :=
  (!k.writes || x.w) &&
  match x.cls, k with
  | .lod, _ => false
  | .priv, .amo => false
  | .priv, _ => x.home == ca
  | .sync, .store => !ordered
  | .sync, _ => true
  | .host, .store => !ordered
  | .host, .load | .host, .red => true
  | .host, _ => false
  | .replicated, .load | .replicated, .store => true
  | .replicated, _ => false
  | .shared, .amo => false
  | .shared, _ => true

/-- A slot is the holder's own to load and store (R257). -/
def State.slotOk (s : State) (p : Nat) (t : ThreadRef) (b : Backing) : Bool :=
  match b with
  | .slot a => match (s.part p).slotAt a with | some sl => sl.owner == t && (s.thread t).resv.contains sl.addr | none => false
  | _ => true

/-- A context-extended access in a dead tag (R102), or in one that has been freed since the access was issued (`stale`, R109);
reductions act on base. -/
def Xlat.deadTag (x : Xlat) (part : Partition) (k : Kind) (tag : BitVec 12) (stale : Bool) : Bool :=
  x.ext && (k == .load || k == .store) && (stale || !part.live tag)

/-- Judges one translated access (R231): PAGE_ABSENT, PROTECTION, CTX_DEAD, RANGE_LOCK, CELL_HEAP_FULL. Of several that one element
meets the first of this order is raised (log 78: DESIGN CHOICE). -/
def State.judge (s : State) (t : ThreadRef) (k : Kind) (tag : BitVec 12) (stale ordered : Bool) (addr : Nat) : Except Stop Xlat :=
  let p := (s.partOf t).getD 16
  match s.translate p addr with
  | .error e => .error e
  | .ok x =>
    if !x.permits k t.ca ordered || !s.slotOk p t x.back then .error (.fault .protection)
    else if x.deadTag (s.part p) k tag stale then .error (.fault .ctxDead)
    else if s.writeLocked (.mem p x.line) || (k.writes && s.readLocked (.mem p x.line)) then .error (.fault .rangeLock)
    else if k == .store && s.needsCell p x tag && (s.part p).heapFull then .error (.fault .cellHeapFull)
    else .ok x

/-- Whether a backing place of partition p is poisoned at its line (R449). -/
def State.poisoned (s : State) (p : Nat) (b : Backing) : Bool := (b.place p).any fun x => s.tainted x.1

/-- The line that an access in a context uses: the context's cell, or base (R103). -/
def State.placeOf (s : State) (p : Nat) (x : Xlat) (tag : BitVec 12) : Option Place :=
  match (if x.ext then (s.part p).viewCell x.line 5 tag else none) with
  | some c => some (.cell p c.tag c.line)
  | none => (x.back.place p).map (·.1)

/-- The poison that an access in a context uses (R450). -/
def State.taint (s : State) (p : Nat) (x : Xlat) (tag : BitVec 12) : Option Place := (s.placeOf p x tag).filter s.tainted

/-- RANGE_LOCK for a scratch access that thread t issued as number id (R145): the source locks of its own later exchange
transfers do not hold it back (R149). -/
def State.scratchLock (s : State) (t : ThreadRef) (k : Kind) (addr id : Nat) : Bool :=
  let l := s.lineOf t addr
  s.locks.any fun x => x.line == l && (x.wr || k.writes) &&
    !(s.xfers.any fun y => y.id == x.owner && y.t == t && decide (id < y.id))

end Sys2Proof.Machine
end

