-- ==== Sys2Proof/Machine/Ops.lean ====
section
/-! DEFINITION. The operations in which a run ends or is interrupted: the end of a partition's launch (R359, R451), parking, and taking
a trap (14_isa_system R360 to R365). -/

namespace Sys2Proof.Machine

/-! ### The end of a partition's run (R201, R359, R451) -/

/-- What a teardown takes from a column's control side (R359, R280). -/
def Column.clearControl (c : Column) : Column :=
  { c with threads := c.threads.filter (fun e => decide (32 ≤ e.1)), q0 := [], q1 := [], q2 := [], q3 := [],
           inbox := [], replay := [], spill := [], loftChange := none, lease := none, leaseUntil := none, lastLease := 23, mrots := 0,
           rotsSent := [], colls := [], xcount := 0, xopen := [], xrecvd := false, xlanded := [], lastIssue := c.lastIssue.filter (fun e => e.1 == 8) }

/-- What a kill resets besides (R451 step 3). -/
def Column.killControl (c : Column) : Column :=
  { c.clearControl with acc := [], loft := [], ways := 16, loftStatus := 0, domid := 0, domLevel := 0, domX := false,
                        domEpoch := 0, filter := [] }

/-- Every drive thread of the device stops (R25, R27). -/
def Column.stopDrive (c : Column) : Column :=
  { c with threads := c.threads.filter (fun e => decide (e.1 < 32)) }

/-- The drive side at its reset values: pixels dark and cleared, emissions cut, scratch and inboxes empty (R25). -/
def Column.clearDrive (c : Column) : Column :=
  { c.stopDrive with pixels := [], drive := [], dinbox := [], dreplay := [], dspill := [], fifo := [], pushes := [],
                     seqr := [], blend := [], late := false, missed := false, lateCnt := 0, missCnt := 0,
                     upReq := false, upState := false }

/-- A list of columns changed by f, those with a listed entry first and the others after. -/
def State.updCols (s : State) (cas : List Nat) (f : Column → Column) : State := s.each cas fun s ca => s.updCol ca f

/-- Every column the state lists: the others stand at reset, which clearing does not change. -/
def State.listed (s : State) : List Nat := s.cols.map (·.1)

/-- The control thread t belongs to partition p; a drive thread belongs to the presentation partition. -/
def State.owns (s : State) (p : Nat) (t : ThreadRef) : Bool :=
  if isDrive t then (s.part p).pol.pres else (s.part p).pol.has t.ca && (s.col t.ca).holder == some p

/-- A place whose data goes with a partition's run: its cells, its slots, and the loft scratch of columns that it holds. -/
def Place.goesWith (p : Nat) (held : List Nat) : Place → Bool
  | .cell q _ _ | .slot q _ => q == p
  | .loft ca _ => held.contains ca
  | .cellar _ | .home .. | .arg .. => false

/-- A fault of partition p that a command on a link posts is posted no more; the command goes on its way (R428, R359). -/
def Link.forget (l : Link) (p : Nat) : Link :=
  { l with cmds := l.cmds.map fun c => match c.fault with
      | some f => if f.part = p then { c with fault := none, part := 16 } else c
      | none => c }

/-- Discards a partition's engine commands, transfers, messages, faults, reservations, tasks, tags and cells (R201, R359,
R451 step 2). -/
def State.discard (s : State) (p : Nat) : State :=
  let gone := (s.cmds.filter (fun c => s.owns p c.t)).map (·.id) ++
    (s.xfers.filter (fun x => s.owns p x.t)).flatMap fun x => x.id :: x.landing.map (·.2)
  let held := (s.part p).pol.columns.filter fun ca => (s.col ca).holder == some p
  let landed := held.flatMap fun ca => (s.col ca).xlanded
  { (s.updPart p fun x => { x with slots := [], wb := [], otasks := [], tags := [], heldBack := true, cells := [], barWait := [],
                                   places := [] }) with
      cmds := s.cmds.filter (fun c => !s.owns p c.t)
      xfers := s.xfers.filter (fun x => !s.owns p x.t)
      locks := s.locks.filter (fun l => !gone.contains l.owner && !landed.contains l.owner)
      net := s.net.filter (fun m => !(m.fromPart == p || (m.part == p && !m.drv)))
      poison := s.poison.filter (fun e => !e.at_.goesWith p held)
      faults := s.faults.filter (fun f => f.part != p)
      routers := s.routers.filter (fun r => r.part != p)
      posted := s.posted.filter (fun f => f.part != p)
      ranges := s.ranges.filter (fun f => f.part != p)
      links := s.links.map fun e => (e.1, e.2.forget p)
      records := s.records.filter (fun r => r.1 != p)
      batches := (s.batches.map fun b => { b with entries := b.entries.filter (fun e => e.part != p) }).filter
        fun b => !b.entries.isEmpty
      saved := s.saved.filter (fun v => v.part != p) }

/-- The JOIN field that a written-back record has in memory; none where its page does not translate. -/
def State.joinOf (s : State) (p : Nat) (w : WrittenBack) : Option (BitVec 32) :=
  match s.translate p (w.addr + 36) with
  | .ok x => some (BitVec.ofNat 32 (leNat (s.readXlat p x 0 (w.addr + 36) 4)))
  | .error _ => none

/-- Records of a partition left written back with JOIN above 0 (R260, R427). One whose page is absent counts too (log 97: DESIGN
CHOICE). -/
def State.stranded (s : State) (p : Nat) : Nat :=
  ((s.part p).wb.filter fun w => (s.joinOf p w).all fun j => decide (0 < j.toInt)).length

/-- A launch of the partition runs. -/
def Partition.running (p : Partition) : Bool := match p.launch with | some l => l.ended.isNone | none => false

/-- Marks the partition's launch as ended (R427). -/
def State.endLaunch (s : State) (p status code : Nat) : State :=
  s.updPart p fun x => { x with launch := x.launch.map fun l =>
    match l.ended with
    | some _ => l
    | none => { l with ended := some (status, code, s.stranded p, s.now) } }

/-- The columns whose control side partition p holds. -/
def State.heldBy (s : State) (p : Nat) : List Nat :=
  (s.part p).pol.columns.filter fun ca => (s.col ca).holder == some p

/-- Stops every thread of a partition and ends its launch with a status and code (R359); emissions run on. -/
def State.haltPart (s : State) (p status code : Nat) : State :=
  let s := s.endLaunch p status code
  let held := s.heldBy p
  let pres := (s.part p).pol.pres
  let s := (s.discard p).updCols held Column.clearControl
  if pres then s.updCols s.listed (fun c => { c.stopDrive with dinbox := [], dreplay := [], dspill := [], fifo := [], pushes := [] })
  else s

/-- The partition has columns and its time counts (R421, R431): it is resident, or its columns come in or leave. -/
def Partition.here (x : Partition) : Bool := x.resident || x.clocked

/-- A kill of the partition fences it until its completion record is written (R451, R452). -/
def Partition.fenced (x : Partition) : Bool :=
  match x.launch with
  | some l => match l.ended with | some (st, _) => st == 3 | none => false
  | none => false

/-- An error record (R446). DETAIL, the syndrome, is a free value, and so is INFO where no check structure found the error (log 61). -/
def State.errorRecord (s : State) (p ca : Nat) (unit : Option Nat) (addr : Nat) : State :=
  let (x, s) := s.free
  s.postEvent (eventBytes 3 p ca (unit.getD (x / 2 ^ 64 % 2 ^ 16)) 0 addr s.now (x % 2 ^ 64))

/-- A partition's half of a swap, once it is killed (R452): its columns go to the partition that comes. -/
def Partition.abandonSwap (x : Partition) : Partition :=
  { x with kills := x.kills + 1, leaving := false, asked := false, wants := none, resident := x.resident && !x.leaving,
           clocked := x.clocked && !x.leaving }

/-- A kill (R451, R27): steps 1 to 3, and the kill record of step 4, detected in column ca; `mark` marks it (R457). -/
def State.killCore (s : State) (p code mark ca : Nat) : State :=
  let s := s.endLaunch p 3 code
  let held := s.heldBy p
  let pres := (s.part p).pol.pres
  let leaving := (s.part p).leaving
  let s := (s.discard p).updCols held fun c => if leaving then { c.killControl with holder := none } else c.killControl
  let s := if pres then s.updCols s.listed Column.clearDrive else s
  let s := s.updPart p Partition.abandonSwap
  s.postEvent (eventBytes 4 p ca (code + 256 * mark) 0 0 s.now 0)

/-- A kill and the error record of step 4; the completion record follows with COMPLETION_RECORD. Where a kill of the partition is
under way, an error adds its record and there is no second kill (R452). -/
def State.kill (s : State) (p code mark ca : Nat) (unit : Option Nat) (addr : Nat) : State :=
  if !tmem s.parts p then s
  else if (s.part p).fenced then (if unit.isSome then s.errorRecord p ca unit addr else s)
  else (s.killCore p code mark ca).errorRecord p ca unit addr

/-- A kill that no check structure's error causes. -/
def State.killPart (s : State) (p code : Nat) : State := s.kill p code 0 (s.part p).pol.origin none 0

/-! ### Traps (R360 to R364) -/

def Cause.code : Cause → Nat
  | .illegalInstr => 0x01 | .illegalBundle => 0x02 | .misaligned => 0x03 | .addrRange => 0x04 | .pageAbsent => 0x05
  | .protection => 0x06 | .rangeLock => 0x07 | .scratchAbsent => 0x08 | .ctxExhausted => 0x09 | .cellHeapFull => 0x0A
  | .ctxDead => 0x0B | .queueFull => 0x0C | .xslot => 0x0D | .stampTie => 0x0E | .fifoMisuse => 0x0F
  | .leaseMisuse => 0x10 | .engineInOrdered => 0x11 | .laneClaim => 0x12 | .priv => 0x13 | .breakpoint => 0x14
  | .syscall => 0x15 | .ifetch => 0x16 | .quota => 0x17 | .machineCheck => 0x18 | .preempt => 0x19

/-- What a trap records besides its cause and address (R362). -/
structure TrapKind where
  deferred : Bool
  engine : Bool
  unres : Bool
  deriving DecidableEq, Repr

/-- A synchronous trap. -/
def TrapKind.sync : TrapKind := ⟨false, false, false⟩

/-- TSTAT of a trap of thread t (R362). -/
def tstatOf (t : ThreadRef) (ordered : Bool) (k : TrapKind) : BitVec 32 :=
  BitVec.ofNat 32 ((if k.deferred then 1 else 0) + (if k.engine then 2 else 0) +
    (if k.deferred then 4 else 0) + 64 * (if isDrive t then 0 else t.tid) +
    (if isDrive t then 0x800 else 0) + (if ordered then 0x1000 else 0) + (if k.unres then 0x10000 else 0))

/-- A trap in the holder ends its lease once its matrix commands in flight finish; its count stands till then (R67, R312). -/
def State.endLease (s : State) (t : ThreadRef) : State :=
  match (s.col t.ca).lease with
  | some (h, _) =>
    if h == t.tid && !isDrive t then
      s.updCol t.ca fun c =>
        if (s.thread t).cntTl = 0 then { c with lease := none, leaseUntil := none }
        else { c with leaseUntil := some (c.leaseUntil.getD s.nextId) }
    else s
  | none => s

/-- Parks a thread with its trap state (R364 step 1): the handler-level trap waits for the service thread. -/
def Thread.park1 (th : Thread) (c : Cause) (addr : Nat) (tpc : Word) (tstat : BitVec 32) : Thread :=
  { th with run := .parked, park := .trap, wait := .none, held := true, taken := false, pc := tpc, tpc := tpc,
            tcause := BitVec.ofNat 8 c.code, taddr := BitVec.ofNat 64 addr, tstat := tstat, waited := false,
            ibuf := [] }

/-- The trapped thread's partition is killed and the kill reported (R363, R364, R360). -/
def State.killFor (s : State) (t : ThreadRef) (c : Cause) : State :=
  let s := match s.partOf t with | some p => s.kill p c.code 0 t.ca none 0 | none => s
  s.updThread t fun th => { th with run := if isService t then .dormant else .idle, held := true }

/-- An uncorrected error of a check structure is consumed at thread t: its partition is killed with MACHINE_CHECK (R450). -/
def State.checkFails (s : State) (t : ThreadRef) (ca unit addr : Nat) : State :=
  let s := match s.partOf t with | some p => s.kill p Cause.machineCheck.code 0 ca (some unit) addr | none => s
  s.updThread t fun th => { th with run := if isService t then .dormant else .idle, held := true }

/-- A second mismatch at a check structure of thread t's column (R168, R230, R305). -/
def State.uncorrected (s : State) (t : ThreadRef) (unit : Nat) : State := s.checkFails t t.ca unit 0

/-- The error behind a poisoned place: that of the structure that found it (R446). -/
def State.errorAt (s : State) (x : Place) (ca : Nat) : Poison := (s.poison.find? fun e => e.at_ == x).getD ⟨x, 3, ca⟩

/-- The address that an error record gives a place: a cellar line's, else 0 (R446). -/
def Place.addr : Place → Nat | .cellar line => 64 * line | _ => 0

/-- Thread t consumes poison (R450). -/
def State.consume (s : State) (t : ThreadRef) (x : Place) : State :=
  let e := s.errorAt x t.ca
  s.checkFails t e.ca e.unit x.addr

/-- A walk, firmware or a swap consumes poison of partition p (R450). -/
def State.consumeFor (s : State) (p : Nat) (x : Place) : State :=
  let e := s.errorAt x (s.part p).pol.origin
  s.kill p Cause.machineCheck.code 0 e.ca (some e.unit) x.addr

/-- TAKING A TRAP (R360 to R364): thread t takes cause c with TADDR addr and TPC tpc. A service thread's trap, a MACHINE_CHECK
and a handler-level trap while TVEC.EN = 0 kill the partition. -/
def State.takeTrap (s : State) (t : ThreadRef) (c : Cause) (addr : Nat) (tpc : Word) (k : TrapKind) : State :=
  let s := if c == .quota then s.updPart ((s.partOf t).getD 16) fun x => { x with quotaTraps := x.quotaTraps + 1 } else s
  if isService t || c == .machineCheck || !(s.part ((s.partOf t).getD 16)).tvecEn then s.killFor t c
  else (s.updThread t fun th => th.park1 c addr tpc (tstatOf t th.ordered k)).endLease t

/-- The issuing instruction traps: TPC is its own address (R188, R361). -/
def State.trapAt (c : Cause) (addr : Nat) (s : State) : State := s.takeTrap s.cur c addr s.th.ipc TrapKind.sync

/-- As `trapAt`, for the causes whose TADDR is 0. -/
def State.trap (c : Cause) (s : State) : State := s.trapAt c 0

/-- A thread parked while firmware serves an absent page (R360). -/
def Thread.parkPage (th : Thread) (part addr : Nat) (defer : Bool) : Thread :=
  { th with run := .parked, park := .firmware, wait := .page part addr defer, pc := th.ipc, held := true, taken := false, ibuf := [] }

/-- The thread waits, parked, while firmware serves an absent page (R360); its instruction issues again after it. It has trapped, which
ends its lease (R67, R312). -/
def State.parkFirmware (s : State) (t : ThreadRef) (part addr : Nat) (defer : Bool) : State :=
  (s.updThread t fun th => th.parkPage part addr defer).endLease t

/-- Delivery of a deferred fault at the issuing instruction (R92): an absent page parks the thread for firmware; otherwise
the trap, marked deferred, whose access is reissued on resumption. -/
def State.deliver (s : State) (a : Access) : State :=
  match a.status with
  | .pending => s
  | .firmware addr => s.parkFirmware s.cur s.pid addr true
  | .fault c addr unres =>
    let s := s.upd fun th => { th with reissue := some a.id }
    s.takeTrap s.cur c addr s.th.ipc ⟨true, false, unres⟩

/-- Delivery of an abandoned engine command's fault (R317, R328): the counter falls to what the command left. -/
def State.deliverEngine (s : State) (e : EngFault) : State :=
  let s := s.upd fun th => { th with engFaults := th.engFaults.filter (fun x => x != e) }
  s.takeTrap s.cur e.cause e.addr s.th.ipc ⟨false, true, e.unres⟩

end Sys2Proof.Machine
end

