-- ==== Sys2Proof/Machine/Access.lean ====
section
/-! DEFINITION. Accesses: how a memory instruction issues one (R92, R199, R231), when it may perform (R133, R139, R140, R146),
what performing it does (R233 to R243), and the faults it leaves (R92, R443). Lookups and residency accesses have their own
file; this one performs the others. -/

namespace Sys2Proof.Machine

/-- Bytes of a WS code's width, and its signedness (R236). -/
def wsBytes : WidthSign → Nat | .s32 => 4 | .z32 => 4 | .s64 => 8 | .z64 => 8
def wsSigned : WidthSign → Bool | .s32 => true | .s64 => true | .z32 => false | .z64 => false

/-- A number of w bytes as its type reads it. -/
def wsInt (t : WidthSign) (x : Nat) : Int :=
  let n := 8 * wsBytes t
  if wsSigned t && decide (2 ^ (n - 1) ≤ x) then (x : Int) - (2 ^ n : Nat) else x

/-- The reduction operations on w-byte numbers (R237). -/
def redApply (op : RedOp) (t : WidthSign) (old arg : Nat) : Nat :=
  let n := 2 ^ (8 * wsBytes t)
  match op with
  | .add => (old + arg) % n
  | .opMin => if wsInt t arg < wsInt t old then arg else old
  | .opMax => if wsInt t old < wsInt t arg then arg else old
  | .opAnd => old &&& arg
  | .opOr => old ||| arg
  | .opXor => old ^^^ arg

/-! ### Issuing an access -/

/-- The issuing thread issues an access in its current context: it goes to the end of its accesses and raises its counter
(R199). -/
def State.issueIn (tag : BitVec 12) (op : AccOp) (pieces : List Piece) (dests : List Dest) (s : State) : State :=
  let (n, s) := s.newId
  s.upd fun th => { th.bump (if op.isLoad then .ld else .st) with
    out := th.out ++ [⟨n, op, pieces, tag, dests, .pending, false⟩] }

def State.issue (op : AccOp) (pieces : List Piece) (dests : List Dest) (s : State) : State :=
  s.issueIn s.th.ctxcur op pieces dests

/-- A vector's addresses are checked element by element in ascending order: the first cause with its address (R231). -/
def State.checkPieces (s : State) (align : Nat) (ps : List Piece) : Option (Cause × Nat) :=
  ps.findSome? fun p => (s.accessCheck s.cur p.addr p.w align).map fun c => (c, p.addr)

/-- A memory instruction: the issuing core's checks on its pieces, then its access (R231), unless its counter is full. -/
def State.memOp (align : Nat) (op : AccOp) (ps : List Piece) (dests : List Dest) (s : State) : State :=
  s.raising (if op.isLoad then .ld else .st) fun s =>
    match s.checkPieces align ps with
    | some (c, a) => s.trapAt c a
    | none => s.issue op ps dests

/-! ### The tasks of ordered threads (R52, R111) -/

def Partition.otaskOf (p : Partition) (tag : BitVec 12) : Option OTask := p.otasks.find? fun o => o.tag == tag

def Partition.updOtask (p : Partition) (tag : BitVec 12) (f : OTask → OTask) : Partition :=
  { p with otasks := p.otasks.map fun o => if o.tag = tag then f o else o }

/-- Enters a line in the read signature of the ordered task that thread t runs (R111); a line that a task of its stamp has
committed beside it ties them (R55). -/
def State.noteRead (s : State) (t : ThreadRef) (line : Nat) : State :=
  let th := s.thread t
  if th.ordered then
    s.updPart ((s.partOf t).getD 16) fun p => p.updOtask th.ownTag fun o =>
      { o with reads := if o.reads.contains line then o.reads else o.reads ++ [line], tie := o.tie || o.tieLines.contains line }
  else s

/-! ### Joins (R50) -/

/-- The decrement of the JOIN word at a record's place, whose bytes 36 to 39 are `old`: a parent that reaches exactly 0 while
written back is committed to its queue; a negative value is counted (R50). -/
def State.joinEffect (s : State) (p : Nat) (rec_ : Nat) (new : BitVec 32) (bytes : List Byte) : State :=
  if new = 0 then
    match (s.part p).wb.find? (fun w => w.addr == rec_) with
    | some w =>
      let s := s.updPart p fun x => { x with wb := x.wb.filter fun y => !(y.addr == rec_) }
      let r := Rec.ofBits (BitVec.ofNat 512 (leNat bytes))
      s.enqueue p w.ca w.prio.toNat { r with join := 0 } w.lin rec_
    | none => s
  else if new.toInt < 0 then s.updPart p fun x => { x with negJoins := x.negJoins + 1 }
  else s

/-! ### Performing one piece -/

/-- The permission kind of an access. -/
def AccOp.kind : AccOp → Kind
  | .ld .. | .vld .. | .tex .. | .resq .. => .load
  | .st => .store
  | .red .. | .join => .red
  | .redx => .redx
  | .amo .. => .amo
  | .resw .. => .red
  | .spawn .. => .load

/-- The bytes an operation leaves, from the old ones (R237 to R239, R263). -/
def AccOp.newBytes (op : AccOp) (w : Nat) (old : List Byte) (data : Word) : List Byte :=
  match op with
  | .st => leBytes w data.toNat
  | .red o t => leBytes w (redApply o t (leNat old) (data.toNat % 2 ^ (8 * w)))
  | .redx => leBytes w (exactAdd (leNat old) (data.toNat % 2 ^ 32))
  | .amo .swap _ _ _ => leBytes w data.toNat
  | .amo .cas _ _ cmp => if leNat old = cmp.toNat % 2 ^ (8 * w) then leBytes w data.toNat else old
  | .amo .add _ _ _ => leBytes w (leNat old + data.toNat)
  | .join => leBytes w (leNat old + 0xFFFFFFFF)
  | _ => old

/-- The context an operation's bytes are in: reductions act on base (R105). -/
def AccOp.context (op : AccOp) (tag : BitVec 12) : BitVec 12 :=
  match op with | .red .. | .redx | .join | .resw .. => 0 | _ => tag

/-- Performs one piece at scratch or at its home (R82, R103, R104, R145); answers the old bytes as a number. -/
def State.performPiece (s : State) (t : ThreadRef) (a : Access) (pc : Piece) : Except Stop (State × Nat) :=
  let k := a.op.kind
  if inScratch pc.addr then
    if addrBad pc.addr pc.w then .error (.fault .addrRange)
    else if s.absentBad t pc.addr pc.w then .error (.fault .scratchAbsent)
    else if s.scratchLock t k pc.addr a.id then .error (.fault .rangeLock)
    else match s.scratchTaint t pc.addr with
    | some x => .error (.poison x)
    | none =>
      let old := s.readScratch t pc.addr pc.w
      .ok (if k.writes then s.writeScratch t pc.addr (a.op.newBytes pc.w old pc.data) else s, leNat old)
  else
    let p := (s.partOf t).getD 16
    let tag := a.op.context a.tag
    match s.judge t k tag a.stale (s.thread t).ordered pc.addr with
    | .error e => .error e
    | .ok x =>
      match s.taint p x tag with
      | some y => .error (.poison y)
      | none =>
        let old := s.readXlat p x tag pc.addr pc.w
        let s := if k == .load then s.noteRead t x.line else if s.needsCell p x tag then s.noteRead t x.line else s
        if k.writes then
          let new := a.op.newBytes pc.w old pc.data
          let s := s.writeXlat p x tag pc.addr new
          let s := if a.op == .join then
              let s' := s
              s'.joinEffect p (pc.addr - 36) (BitVec.ofNat 32 (leNat new))
                (s.readXlat p { x with back := x.back.lineStart } 0 0 64)
            else s
          .ok (s, leNat old)
        else .ok (s, leNat old)

/-- Performs the pieces in element order; the first that stops leaves memory as it was (R231, R242). -/
def State.performPieces (s : State) (t : ThreadRef) (a : Access) :
    List Piece → List (Nat × Nat) → Except (Stop × Nat) (State × List (Nat × Nat))
  | [], vals => .ok (s, vals)
  | p :: rest, vals =>
    match s.performPiece t a p with
    | .error e => .error (e, p.addr)
    | .ok (s, v) => s.performPieces t a rest (vals ++ [(p.idx, v)])

/-! ### When an access may perform -/

/-- The lines an access touches, by their virtual numbers, and as locks and the order of accesses name them (R81, R133). -/
def Access.lines (a : Access) : List Nat := a.pieces.map fun p => p.addr / 64

def State.linesAt (s : State) (t : ThreadRef) (a : Access) : List Line := a.pieces.map fun p => s.lineOf t p.addr

/-- The page class a thread's address has, none in scratch or where it does not translate. -/
def State.classAt (s : State) (t : ThreadRef) (addr : Nat) : Option PageClass :=
  if inScratch addr then none
  else match s.translate ((s.partOf t).getD 16) addr with | .ok x => some x.cls | .error _ => none

def State.touches (s : State) (t : ThreadRef) (a : Access) (c : PageClass) : Bool :=
  a.pieces.any fun p => s.classAt t p.addr == some c

/-- As `touches`, for an earlier access: a page that does not translate may turn out to be of any class (R139, R146). -/
def State.mayTouch (s : State) (t : ThreadRef) (a : Access) (c : PageClass) : Bool :=
  a.pieces.any fun p => !inScratch p.addr && (s.classAt t p.addr).all (· == c)

/-- A lookup or a RESQ, and a RESW: they read and write residency maps. -/
def AccOp.looks : AccOp → Bool | .tex .. | .resq .. => true | _ => false
def AccOp.isResw : AccOp → Bool | .resw .. => true | _ => false

/-! ### Commands that have not registered (R144, R389) -/

/-- The command is still to lock one of these lines in conflict with a use of it, `wr` a write; a CPYG that has not read its index array
may lock any. -/
def State.toLock (s : State) (c : Cmd) (ls : List Line) (wr : Bool) : Bool :=
  !c.registered && ((match c.op with | .cpyg .. => c.srcs.isEmpty | _ => false) ||
    c.todo.any fun x => ls.contains (s.lineNow x.1) && (wr || x.2))

/-- The numbers of a thread's commands and transfers, issued before number n, that are still to lock one of these lines so. A use of
the line after them waits: their locks are those of their issue. -/
def State.lockers (s : State) (t : ThreadRef) (n : Nat) (ls : List Line) (wr : Bool) : List Nat :=
  ((s.cmds.filter fun c => c.t == t && decide (c.id < n) && s.toLock c ls wr).map (·.id)) ++
  (s.xfers.filter fun x => x.t == t && decide (x.id < n) && x.todo.any fun y => ls.contains y.1 && (wr || y.2)).map (·.id)

/-- Whether an earlier access b holds back a later access a of the same thread: the same line (R133), a returning AMO
(R140), SYNC order (R139), REPLICATED stores (R146), a RESW's release (R129), a map's lines (R133), and a command between them that
registers its locks only after b (R144, R145). -/
def State.before (s : State) (t : ThreadRef) (b a : Access) : Bool :=
  (!b.mayPass && (s.lockers t a.id (s.linesAt t a) a.op.kind.writes).any fun n => decide (b.id < n)) ||
  ((s.linesAt t b).any fun l => (s.linesAt t a).contains l) || a.op.isAmo || b.op.isAmo ||
  (a.op.isResw && (!b.op.isLoad || b.op.looks)) || (a.op.looks && b.op.isResw) ||
  (s.touches t a .sync && s.mayTouch t b .sync) ||
  (a.op.kind.writes && b.op.kind.writes && s.touches t a .replicated && s.mayTouch t b .replicated)

/-- A remote scratch access, or a spawn, waits while its column still runs another partition (R432). -/
def State.remoteReady (s : State) (t : ThreadRef) (a : Access) : Bool :=
  (a.pieces.all fun p => !inRemote p.addr || (s.col (remoteCa p.addr)).holder == s.partOf t) &&
  match a.op with | .spawn _ ca _ _ => (s.col ca).holder == s.partOf t | _ => true

/-- The earlier accesses of a thread. -/
def earlier (l : List Access) (id : Nat) : List Access := l.takeWhile fun a => a.id != id

/-- The access may perform now. -/
def State.canPerform (s : State) (t : ThreadRef) (a : Access) : Bool :=
  a.status == .pending && s.remoteReady t a && (s.lockers t a.id (s.linesAt t a) a.op.kind.writes).isEmpty &&
  (earlier (s.thread t).out a.id).all fun b => !s.before t b a

/-! ### Accesses held back by a fault (R92) -/

/-- The accesses of a thread that cannot perform while those of `root` do not: they, and those held behind one of them. -/
def State.stuck (s : State) (t : ThreadRef) (root : Access → Bool) : List Access :=
  (s.thread t).out.foldl (fun held a => if root a || held.any (fun b => s.before t b a) then held ++ [a] else held) []

/-- Every outstanding access of a thread is one of `root`, or is held behind one. -/
def State.onlyStuck (s : State) (t : ThreadRef) (root : Access → Bool) : Bool :=
  let held := s.stuck t root
  (s.thread t).out.all fun a => held.any fun b => b.id == a.id

/-- A faulted access of a thread that one of `want` is, or is held behind (R92, log 54). -/
def State.blocker (s : State) (t : ThreadRef) (want : Access → Bool) : Option Access :=
  (s.thread t).out.find? fun b => b.faulted && (s.stuck t fun a => a.id == b.id).any want

/-- Runs f once the thread has no outstanding access of `want`; a fault that one is, or waits for, is delivered there (R92). -/
def State.afterDone (want : Access → Bool) (w : Wait) (f : State → State) (s : State) : State :=
  match s.blocker s.cur want with
  | some b => s.deliver b
  | none => if s.th.out.any want then s.stall w else f s

/-- The lines of n bytes at an address, and whether an access touches one (R133). -/
def State.linesOver (s : State) (t : ThreadRef) (addr n : Nat) : List Line :=
  (upto ((addr % 64 + n + 63) / 64)).map fun i => s.lineOf t (addr / 64 * 64 + 64 * i)

def State.overlaps (s : State) (t : ThreadRef) (a : Access) (addr n : Nat) : Bool :=
  (s.linesAt t a).any fun l => (s.linesOver t addr n).contains l

/-- The starts of the lines that n bytes at addr touch. -/
def linesOf (addr n : Nat) : List Nat := (upto ((addr % 64 + n + 63) / 64)).map fun i => addr / 64 * 64 + 64 * i

/-- The poison that a read of n bytes of scratch uses, and that a write of them uses, of a line that it does not replace whole (R450). -/
def State.spanTaint (s : State) (t : ThreadRef) (addr n : Nat) : Option Place := (linesOf addr n).findSome? (s.scratchTaint t)
def State.edgeTaint (s : State) (t : ThreadRef) (addr n : Nat) : Option Place :=
  ((linesOf addr n).filter fun l => !(wholeLines addr n).contains l).findSome? (s.scratchTaint t)

/-- A thread's commands and transfers that have not registered all their locks. -/
def State.unregistered (s : State) (t : ThreadRef) : List Nat :=
  ((s.cmds.filter fun c => c.t == t && !c.registered).map (·.id)) ++ (s.xfers.filter fun x => x.t == t && !x.todo.isEmpty).map (·.id)

/-- A faulted access that keeps a later command of its thread from registering (R144, R145). -/
def State.lockBlocker (s : State) (t : ThreadRef) : Option Access :=
  (s.thread t).out.find? fun b => b.faulted && !b.mayPass && (s.unregistered t).any fun n => decide (b.id < n)

/-- Runs f once the thread's commands have locked what they are to lock of these lines (R144, R389). -/
def State.afterLocks (ls : List Line) (f : State → State) (s : State) : State :=
  if (s.lockers s.cur s.nextId ls true).isEmpty then f s
  else match s.lockBlocker s.cur with
    | some b => s.deliver b
    | none => s.stall .again

/-- Runs f, which accesses n bytes at addr at once, after the thread's accesses to their lines and its returning AMO (R133,
R140, R150), and after its commands have registered their locks on them (R144). -/
def State.afterOwn (addr n : Nat) (f : State → State) (s : State) : State :=
  s.afterDone (fun a => a.op.isAmo || s.overlaps s.cur a addr n) .again
    (State.afterLocks (s.linesOver s.cur addr n) f)

/-! ### Waiting for counters (R202) -/

/-- The access whose fault WAIT with limits ld and st delivers: a load's, else a store's, else one that holds such an access
back (R202, R92). -/
def State.waitFault (s : State) (t : ThreadRef) (ld st : Nat) : Option Access :=
  let th := s.thread t
  let above (a : Access) : Bool := if a.op.isLoad then decide (ld < th.cntLd) else decide (st < th.cntSt)
  match th.out.find? fun a => a.faulted && a.op.isLoad && above a with
  | some a => some a
  | none =>
    match th.out.find? fun a => a.faulted && above a with
    | some a => some a
    | none => s.blocker t above

/-- The abandoned engine command whose fault WAIT delivers (R317, R328). -/
def Thread.waitEngine (th : Thread) (cp tl fx : Nat) : Option EngFault :=
  th.engFaults.find? fun e => match e.ctr with
    | .cp => decide (cp < e.before) | .tl => decide (tl < e.before) | _ => decide (fx < e.before)

/-- Counters at or below these limits (R202). -/
def Thread.within (th : Thread) (ld st cp tl fx : Nat) : Bool :=
  decide (th.cntLd ≤ ld) && decide (th.cntSt ≤ st) && decide (th.cntCp ≤ cp) && decide (th.cntTl ≤ tl) && decide (th.cntFx ≤ fx)

/-- WAIT with limits, run before f: deliver the faults the limits cover, stall while a counter is above its limit, else go
on with f (R202); `w` is what the thread waits for. -/
def State.waitingFor (w : Wait) (ld st cp tl fx : Nat) (f : State → State) (s : State) : State :=
  match s.waitFault s.cur ld st with
  | some a => s.deliver a
  | none =>
    match s.th.waitEngine cp tl fx with
    | some e => s.deliverEngine e
    | none => if s.th.within ld st cp tl fx then f s else s.stall w

def State.waiting (ld st cp tl fx : Nat) (f : State → State) (s : State) : State :=
  s.waitingFor (.limits ld st cp tl fx) ld st cp tl fx f

/-- WAIT with every limit at 0 (R201). -/
def State.waitingAll (f : State → State) (s : State) : State := s.waiting 0 0 0 0 0 f

/-- A pre-emption request is pending at the thread and may park it (R72): no open exchange phase, no lease. -/
def State.mustPark (s : State) (t : ThreadRef) : Bool :=
  (s.thread t).preReq.isSome && (s.thread t).phase.isNone &&
  !(match (s.col t.ca).lease with | some (h, _) => h == t.tid && !isDrive t | none => false)

/-- Parks a thread for pre-emption, to return to run state `was` (R72); a stall of its begins anew (R101, R280). -/
def Thread.parkFor (th : Thread) (was : Run) : Thread :=
  { th with run := .parked, park := .preempt was, preReq := none, ibuf := [], waited := false }

/-- The thread parks before the instruction, after WAIT with every limit at 0 (R72). -/
def State.parkBefore (s : State) : State :=
  s.waitingAll fun s => s.upd fun th => { th.parkFor .ready with pc := th.ipc, held := true, taken := false }

/-- Stalls at w; under a pre-emption request that may park the thread, it parks before the instruction instead (R72, R101,
R248, R278). -/
def State.stallOrPark (w : Wait) (s : State) : State := if s.mustPark s.cur then s.parkBefore else s.stall w

/-- One of the four instructions of R72: where it has stalled and a request may park the thread, it parks before it. -/
def State.parkable (f : State → State) (s : State) : State :=
  if s.th.waited && s.mustPark s.cur then s.parkBefore else f s

/-- f at thread t. -/
def State.asThread (s : State) (t : ThreadRef) (f : State → State) : State :=
  { f { s with cur := t } with cur := s.cur }

/-! ### Faults of accesses (R92, R443) -/

/-- An access stands at a status. -/
def State.setStatus (s : State) (t : ThreadRef) (id : Nat) (st : Status) : State :=
  s.updThread t fun th => { th with out := th.out.map fun a => if a.id = id then { a with status := st } else a }

/-- The column whose slice raises a page's fault: the hash home of the line over mask 0 (R91, R443). -/
def State.faultOrigin (s : State) (p addr : Nat) : Nat :=
  let m := s.members (s.part p).pol
  m.getD (homeHash (addr / 64) % m.length) 0

/-- A slice raises PAGE_ABSENT for a page (R443). -/
def State.raiseFault (s : State) (p addr : Nat) (wr fetch malformed : Bool) : State :=
  let (n, s) := s.newId
  let ca := s.faultOrigin p addr
  { s with faults := s.faults ++ [⟨n, p, addr / 0x10000, ca, wr, fetch, malformed, false, ca⟩] }

/-- A matrix pipe raises PAGE_ABSENT: its fault enters the tree at the unit's own column (R443). -/
def State.raiseEngine (s : State) (p ca addr : Nat) (wr malformed : Bool) : State :=
  let (n, s) := s.newId
  { s with faults := s.faults ++ [⟨n, p, addr / 0x10000, ca, wr, false, malformed, true, ca⟩] }

/-- Firmware answers an absent page of the firmware window, and one beyond MEMQ's reach, with QUOTA (R423). -/
def inFwWindow (addr : Nat) : Bool := decide (Config.fwWindow ≤ addr) && decide (addr < Config.fwWindowEnd)

/-- What a stopped access leaves: PAGE_ABSENT goes to firmware; a machine check kills; the rest is to be delivered (R92). -/
def State.stopAccess (s : State) (t : ThreadRef) (a : Access) (e : Stop) (addr : Nat) : State :=
  match e with
  | .poison x => s.consume t x
  | .fault c => s.setStatus t a.id (.fault c addr false)
  | .absent mal =>
    if inFwWindow addr then s.setStatus t a.id (.fault .quota addr true)
    else
      let p := (s.partOf t).getD 16
      (s.setStatus t a.id (.firmware addr)).raiseFault p addr a.op.kind.writes false mal

/-! ### The end of an access -/

/-- The access is done: it leaves the thread and its counter falls (R199). -/
def State.finish (s : State) (t : ThreadRef) (a : Access) : State :=
  s.updThread t fun th => { th.lower (if a.op.isLoad then .ld else .st) with out := th.out.filter fun b => b.id != a.id }

/-- Writes a returned value into a scalar register if no later instruction has written it (R304). -/
def State.returnS (s : State) (t : ThreadRef) (a : Access) (d : BitVec 5) (v : Word) : State :=
  if a.dests.contains (.s d) then s.updThread t fun th => { th with s := th.s.set d.toNat v (by omega) } else s

/-- Writes a returned element, likewise. -/
def State.returnV (s : State) (t : ThreadRef) (a : Access) (d : BitVec 4) (i : Nat) (v : Elem) : State :=
  if a.dests.contains (.v d i) then
    s.updThread t fun th => { th with v := th.v.set d.toNat ((th.v[d.toNat]'(by omega)).setIfInBounds i v) (by omega) }
  else s

/-- The register writes of a load or returning AMO, from the old values of its pieces (R233, R239, R242). -/
def State.returnValues (s : State) (t : ThreadRef) (a : Access) (vals : List (Nat × Nat)) : State :=
  match a.op with
  | .ld d sgn =>
    match a.pieces, vals with
    | p :: _, (_, v) :: _ => s.returnS t a d (extend p.w sgn v)
    | _, _ => s
  | .vld d sgn =>
    let w := match a.pieces with | p :: _ => p.w | [] => 4
    s.each vals fun s iv => s.returnV t a d iv.1 ((extend w sgn iv.2).truncate 32)
  | .amo _ ty d _ =>
    match vals with
    | (_, v) :: _ => s.returnS t a d (extend (wsBytes ty) (wsSigned ty) v)
    | [] => s
  | _ => s

/-- An ordered task's reduction is checked and recorded, not applied (R240, R263); one to scratch is applied (R142). -/
def State.buffers (s : State) (t : ThreadRef) (a : Access) : Bool :=
  (s.thread t).ordered && (match a.op with | .red .. | .redx | .join => true | _ => false) && a.pieces.all fun p => !inScratch p.addr

/-- Enters a reduction in its place in issue order (R52). -/
def insertAccess (a : Access) : List Access → List Access
  | [] => [a]
  | b :: rest => if a.id < b.id then a :: b :: rest else b :: insertAccess a rest

/-- Judges the pieces of a buffered reduction (R240). -/
def State.judgePieces (s : State) (t : ThreadRef) (a : Access) : Option (Stop × Nat) :=
  a.pieces.findSome? fun pc =>
    match s.judge t a.op.kind 0 false true pc.addr with
      | .error e => some (e, pc.addr)
      | .ok _ => none

/-- The bytes that an access's stores replace, by their lines and offsets: of loft scratch, of a cell of its own context, or of base. -/
def State.storedAt (s : State) (t : ThreadRef) (a : Access) : List (Place × Nat) :=
  let p := (s.partOf t).getD 16
  a.pieces.flatMap fun pc =>
    let bytes (x : Place) (o : Nat) : List (Place × Nat) := (upto pc.w).map fun i => (x, o + i)
    if inScratch pc.addr then (match scratchPlace t pc.addr with | some x => bytes x (pc.addr % 64) | none => [])
    else match s.translate p pc.addr with
      | .error _ => []
      | .ok x =>
        if x.ext && a.tag != 0 then (if s.needsCell p x a.tag then [] else bytes (.cell p a.tag x.line) (pc.addr % 64))
        else match x.back.place p with | some y => bytes y.1 y.2 | none => []

/-- A store of all 64 bytes of a line clears its poison (R450). -/
def State.cleared (s : State) (t : ThreadRef) (a : Access) : State :=
  if a.op = .st ∧ s.poison ≠ [] then
    let bytes := s.storedAt t a
    { s with poison := s.poison.filter fun e => !(upto 64).all fun i => bytes.contains (e.at_, i) }
  else s

/-- SPAWNC's record reaches its column (R432, R259). -/
def State.spawnNow (s : State) (t : ThreadRef) (a : Access) : State :=
  match a.op with
  | .spawn r ca addr lin => s.enqueueAs ((s.partOf t).getD 16) ca r.prio.toNat r lin addr (some (t, a.id)) none
  | _ => s

/-- PERFORMING A PLAIN ACCESS (R92, R132): its effect on memory and registers, or the fault it leaves. A store performs at every
scope in this one move (log 76: DESIGN CHOICE). -/
def State.perform (s : State) (t : ThreadRef) (a : Access) : State :=
  if s.buffers t a then
    match s.judgePieces t a with
    | some (e, addr) => s.stopAccess t a e addr
    | none =>
      (s.updPart ((s.partOf t).getD 16) fun p => p.updOtask (s.thread t).ownTag fun o => { o with buf := insertAccess a o.buf }).finish t a
  else
    match (s.cleared t a).performPieces t a a.pieces [] with
    | .error (e, addr) => s.stopAccess t a e addr
    | .ok (s', vals) => ((s'.spawnNow t a).returnValues t a vals).finish t a

end Sys2Proof.Machine
end

