-- ==== Sys2Proof/WellFormed.lean ====
section
/-! DEFINITION. The checks on an instruction's fields that the field widths and the enumerations do not make by themselves
(07_encoding R191, R192 and the rules each chapter gives for its own fields). A word whose fields break one of them names
no instruction and traps with ILLEGAL_INSTR (R195). -/

namespace Sys2Proof

/-- The VCVT codes that unpack one half of their source (R293). -/
def CvtKind.isUnpack : CvtKind → Bool
  | .f32f16 | .f32bf16 | .s32s16 | .z32z16 | .f16e4m3 | .f16e5m2 | .s16s8 | .z16z8 => true
  | _ => false

/-- The VCVT codes that pack two sources (R293). -/
def CvtKind.isPack : CvtKind → Bool
  | .f16f32 | .bf16f32 | .s16s32 | .z16z32 | .s8s16 | .z8z16 | .e4m3f16 | .e5m2f16 => true
  | _ => false

/-- A guard that names p0 inverted is reserved (R192). -/
def Guard.wf (g : Guard) : Bool := !(g.p == 0 && g.inv)

/-- The well-formed instructions: those some word stands for. Events carry no word and are all well formed. -/
def Instr.wf : Instr → Bool

  | .sysr _ _ => true
  | .sysw _ _ => true
  | .sysx _ _ => true
  | .eret => true
  | .scall _ => true
  | .bkpt _ => true
  | .ppoint => true
  | .ifence => true
  | .halt _ => true
  | .fence _ => true
  | .time _ => true
  | .wait _ _ _ _ _ => true
  | .br _ => true
  | .brc p _ _ => p != 0
  | .jal _ _ => true
  | .jalr _ _ _ => true
  | .loop _ i => i != 0 && i.toNat < 16384
  | .ld _ _ _ _ _ => true
  | .st _ _ _ _ _ => true
  | .ldx _ _ _ g _ => g.wf
  | .redOp _ _ g _ _ => g.wf
  | .redX _ _ g => g.wf
  | .amoSwap _ _ _ g _ => g.wf
  | .amoCas _ _ _ g _ => g.wf
  | .amoAdd _ _ _ g _ => g.wf
  | .vld _ _ _ e x => !(e == .e32 && x)
  | .vst _ _ _ _ => true
  | .vlds _ _ _ _ e x => !(e == .e32 && x)
  | .vsts _ _ _ _ _ => true
  | .vgath _ _ _ _ e x => !(e == .e32 && x)
  | .vscat _ _ _ _ _ => true
  | .ctxnew _ _ g => g.wf
  | .ctxset _ g => g.wf
  | .ctxfold _ g => g.wf
  | .ctxret _ g => g.wf
  | .ctxq _ _ g => g.wf
  | .tlod d _ _ _ _ c => d.toNat + c.toNat + 1 ≤ 15
  | .tsmp d _ _ _ _ c => d.toNat + c.toNat + 1 ≤ 15
  | .resq _ _ _ _ => true
  | .resw _ _ _ _ _ => true
  | .rmfence _ => true
  | .spawnr _ _ _ g => g.wf
  | .spawnc _ g => g.wf
  | .tend => true
  | .await _ => true
  | .join _ g => g.wf
  | .stamp _ _ _ g => g.wf
  | .yield => true
  | .bar l => l.toNat ≤ 4
  | .barX l => l.toNat ≤ 4
  | .barv _ _ _ l => l.toNat ≤ 4
  | .barvX _ _ _ l => l.toNat ≤ 4
  | .domq _ g l => g.wf && l.toNat ≤ 4
  | .send _ _ g => g.wf
  | .recv _ _ c => c.toNat ≤ 16
  | .recvq _ c g => g.wf && c.toNat ≤ 15
  | .rplay _ _ g => g.wf
  | .xsend _ _ _ => true
  | .xrecv _ _ => true
  | .mlease n => 1 ≤ n.toNat && n.toNat ≤ 32
  | .mrel => true
  | .mclr r c m n => r.toNat + m.toNat ≤ 3 && c.toNat + n.toNat ≤ 3
  | .mrot _ _ _ => true
  | .mrd _ _ => true
  | .mrdv _ _ => true
  | .mma _ _ r c m n _ => r.toNat + m.toNat ≤ 3 && c.toNat + n.toNat ≤ 3
  | .cpy _ _ _ => true
  | .cpy2d _ _ _ _ => true
  | .cpyg _ _ _ => true
  | .coll _ _ _ e _ => e.toNat ≤ 4
  | .psetup _ _ => true
  | .pcover d _ c l _ _ => d.toNat ≤ 14 && c != l
  | .pdepth _ _ _ _ _ _ => true
  | .pblend _ _ _ _ _ _ => true
  | .pblendC _ _ _ _ _ o => o == .add || o == .opMax || o == .opMin
  | .pld _ _ _ _ => true
  | .pst _ _ _ l => l != .lrg && l != .lb
  | .pstX _ _ _ l => l != .lrg && l != .lb
  | .emit _ _ => true
  | .emitq _ _ => true
  | .vfpush _ _ _ => true
  | .vfpop d _ => d.toNat % 2 == 0
  | .vffree _ => true
  | .vclaim _ _ g => g.wf
  | .vrel g => g.wf
  | .add _ _ _ g => g.wf
  | .sub _ _ _ g => g.wf
  | .and _ _ _ g => g.wf
  | .or _ _ _ g => g.wf
  | .xor _ _ _ g => g.wf
  | .andn _ _ _ g => g.wf
  | .orn _ _ _ g => g.wf
  | .sll _ _ _ g => g.wf
  | .srl _ _ _ g => g.wf
  | .sra _ _ _ g => g.wf
  | .rol _ _ _ g => g.wf
  | .ror _ _ _ g => g.wf
  | .min _ _ _ g => g.wf
  | .max _ _ _ g => g.wf
  | .minz _ _ _ g => g.wf
  | .maxz _ _ _ g => g.wf
  | .addsh _ _ _ g _ => g.wf
  | .sext _ _ g _ => g.wf
  | .zext _ _ g _ => g.wf
  | .clz _ _ g => g.wf
  | .ctz _ _ g => g.wf
  | .popc _ _ g => g.wf
  | .bswap _ _ g => g.wf
  | .sel _ _ _ p inv => !(p == 0 && inv)
  | .addi _ _ _ => true
  | .andi _ _ _ => true
  | .ori _ _ _ => true
  | .xori _ _ _ => true
  | .slli _ _ _ => true
  | .srli _ _ _ => true
  | .srai _ _ _ => true
  | .roli _ _ _ => true
  | .rori _ _ _ => true
  | .ldhi _ _ => true
  | .cmp _ _ _ g _ => g.wf
  | .cmpi _ _ _ _ => true
  | .mul _ _ _ g => g.wf
  | .mulh _ _ _ g => g.wf
  | .mulhz _ _ _ g => g.wf
  | .div _ _ _ g => g.wf
  | .divz _ _ _ g => g.wf
  | .rem _ _ _ g => g.wf
  | .remz _ _ _ g => g.wf
  | .fadd _ _ _ g => g.wf
  | .fsub _ _ _ g => g.wf
  | .fmul _ _ _ g => g.wf
  | .ffma _ _ _ g => g.wf
  | .fmin _ _ _ g => g.wf
  | .fmax _ _ _ g => g.wf
  | .fabs _ _ g => g.wf
  | .fneg _ _ g => g.wf
  | .fcmp _ _ _ g _ => g.wf
  | .fcvt _ _ g _ => g.wf
  | .bfx _ _ p w => p.toNat + w.toNat + 1 ≤ 64
  | .bfxz _ _ p w => p.toNat + w.toNat + 1 ≤ 64
  | .bfi _ _ p w => p.toNat + w.toNat + 1 ≤ 64
  | .vaddInt _ _ _ _ _ _ => true
  | .vsubInt _ _ _ _ _ _ => true
  | .vmulInt _ _ _ _ _ _ => true
  | .vmulh _ _ _ _ _ _ => true
  | .vminInt _ _ _ _ _ _ => true
  | .vmaxInt _ _ _ _ _ _ => true
  | .vand _ _ _ _ _ _ => true
  | .vor _ _ _ _ _ _ => true
  | .vxor _ _ _ _ _ _ => true
  | .vandn _ _ _ _ _ _ => true
  | .vsll _ _ _ _ _ _ => true
  | .vsrl _ _ _ _ _ _ => true
  | .vsra _ _ _ _ _ _ => true
  | .vadds _ _ _ _ _ _ => true
  | .vsubs _ _ _ _ _ _ => true
  | .vabsInt _ _ _ t => t == .s32 || t == .s16
  | .vdiv _ _ _ _ _ _ => true
  | .vrem _ _ _ _ _ _ => true
  | .vmerge _ _ _ _ _ _ => true
  | .vaddFp _ _ _ _ _ _ => true
  | .vsubFp _ _ _ _ _ _ => true
  | .vmulFp _ _ _ _ _ _ => true
  | .vfma _ _ _ _ _ _ => true
  | .vfms _ _ _ _ _ _ => true
  | .vminFp _ _ _ _ _ _ => true
  | .vmaxFp _ _ _ _ _ _ => true
  | .vabsFp _ _ _ _ => true
  | .vneg _ _ _ _ => true
  | .vrndi _ _ _ _ => true
  | .vcvt _ _ b _ c h => (c.isUnpack || !h) && (c.isPack || b == 0)
  | .xtof _ _ _ => true
  | .vrcp _ _ _ _ => true
  | .vrsq _ _ _ _ => true
  | .vexp2 _ _ _ _ => true
  | .vlog2 _ _ _ _ => true
  | .vsin _ _ _ _ => true
  | .vcos _ _ _ _ => true
  | .vred _ _ _ o t => !(t == .f32 && (o == .opAnd || o == .opOr || o == .opXor))
  | .vperm _ _ _ _ => true
  | .vslide _ _ _ _ _ => true
  | .vbcast _ _ _ _ => true
  | .viota _ _ => true
  | .vcmp _ _ _ _ t _ c => !(c == .un && t != .f32) && !(c == .tst && t == .f32)
  | .vdot _ _ _ _ t i _ => !i || t == .s8 || t == .z8
  | .vins _ _ _ => true
  | .vextS32 _ _ _ => true
  | .vsplat _ _ _ => true
  | .vinsK _ _ => true
  | .vextK _ _ => true
  | .vextZ32 _ _ _ => true
  | .systemRegisterWrite _ _ _ => true
  | .loftwaysWrite _ _ => true
  | .loftwaysSwitch _ => true
  | .loftwaysTimeout _ => true
  | .grbaseWrite _ _ => true
  | .grtailWrite _ _ => true
  | .upgateWrite _ _ => true
  | .driveGate _ => true
  | .launchDoorbell _ _ => true
  | .hostRegisterWrite _ _ _ => true
  | .launchRecord _ _ => true
  | .launchComplete _ => true
  | .completionRecord _ => true
  | .launchTimeout _ => true
  | .taskPop _ => true
  | .recordAging _ _ => true
  | .orderedCommit _ => true
  | .stallResume _ => true
  | .leaseGrant _ => true
  | .spawnStallLimit _ => true
  | .contextStallLimit _ => true
  | .barrierRelease _ _ _ => true
  | .barrierWatchdog _ _ _ => true
  | .exchangeLaunch _ => true
  | .transferLanding _ _ => true
  | .xrecvDeadline _ => true
  | .messageDelivery _ => true
  | .spillWake _ _ => true
  | .fifoEntry _ => true
  | .loadReturn _ _ => true
  | .storePerformed _ _ => true
  | .engineRegistration _ => true
  | .copyComplete _ => true
  | .matrixCommandComplete _ => true
  | .mrotLanding _ => true
  | .preemptRequest _ => true
  | .preemptDistanceExpiry _ => true
  | .trapDelivery _ => true
  | .emissionCopy _ _ => true
  | .emissionEnd _ _ => true
  | .cellarRefresh _ => true
  | .cellarSensorChange _ _ => true
  | .thsenseRefresh _ _ _ => true
  | .thallowWindow _ _ => true
  | .filterEntryExpiry _ => true
  | .hostBar2Read _ _ _ => true
  | .hostBar2Write _ _ _ => true
  | .sceneMessage _ => true
  | .pcreate _ => true
  | .pdestroy _ => true
  | .pbind _ _ => true
  | .punbind _ => true
  | .pevict _ => true
  | .quantumExpiry _ => true
  | .preemption _ => true
  | .columnContextExchange _ _ => true
  | .firmwareCommand _ => true
  | .referencePulse _ => true
  | .slewEnd => true
  | .referenceLoss => true
  | .setroot _ _ => true
  | .inval _ _ _ => true
  | .resolve _ _ _ => true
  | .faultCombine _ => true
  | .faultBatchDelivery _ => true
  | .pageFaultService _ _ _ => true
  | .partitionKill _ _ _ => true
  | .thermalTrip _ => true
  | .stage _ _ => true
  | .activate => true
  | .confirm => true
  | .rollback _ => true
  | .floor _ => true
  | .quote _ _ _ => true
  | .telsnap _ => true
  | .trialTimeout => true
  | .deviceReset => true
  | .emitterLayerSensorChange _ => true

end Sys2Proof
end

