-- ==== Sys2Proof/Decode.lean ====
section
/-! DEFINITION. Decoding of instruction words and its inverse (07_encoding R182 to R195, and the encoding tables of the
instruction chapters). A word is read as a number; `fld` takes one of its bit fields. The decoder is total: a reserved
major, minor or field value gives `none`, which the machine raises as ILLEGAL_INSTR (R195). Bit 31 of a word is not
part of an instruction (R182): the fetch reads it. -/

namespace Sys2Proof

/-- The field of n bits of w whose lowest bit is lo (R5). -/
def fld (w lo n : Nat) : Nat := w / 2 ^ lo % 2 ^ n

/-- A field as a bit vector. -/
def fbv (w lo n : Nat) : BitVec n := BitVec.ofNat n (fld w lo n)

/-- A one-bit field. -/
def fbit (w lo : Nat) : Bool := fld w lo 1 == 1

/-- The guard of an R-format word: bits 9:7 and bit 6 (R190). -/
def fguard (w : Nat) : Guard := ⟨fbv w 7 3, fbit w 6⟩

/-- CmpCond from its code. -/
def CmpCond.ofCode : Nat → Option CmpCond
  | 0 => some .eq | 1 => some .ne | 2 => some .lt | 3 => some .ge | 4 => some .ltz | 5 => some .gez | 6 => some .tst | 7 => some .ntst | _ => none

/-- The code of a CmpCond. -/
def CmpCond.code : CmpCond → Nat
  | .eq => 0 | .ne => 1 | .lt => 2 | .ge => 3 | .ltz => 4 | .gez => 5 | .tst => 6 | .ntst => 7

/-- FcmpCond from its code. -/
def FcmpCond.ofCode : Nat → Option FcmpCond
  | 0 => some .eq | 1 => some .lt | 2 => some .le | 3 => some .un | _ => none

/-- The code of a FcmpCond. -/
def FcmpCond.code : FcmpCond → Nat
  | .eq => 0 | .lt => 1 | .le => 2 | .un => 3

/-- FcvtKind from its code. -/
def FcvtKind.ofCode : Nat → Option FcvtKind
  | 0 => some .f32s64 | 1 => some .f32z64 | 2 => some .s64f32 | 3 => some .z64f32 | 4 => some .f16f32 | 5 => some .f32f16 | 6 => some .bf16f32 | 7 => some .f32bf16 | _ => none

/-- The code of a FcvtKind. -/
def FcvtKind.code : FcvtKind → Nat
  | .f32s64 => 0 | .f32z64 => 1 | .s64f32 => 2 | .z64f32 => 3 | .f16f32 => 4 | .f32f16 => 5 | .bf16f32 => 6 | .f32bf16 => 7

/-- RedOp from its code. -/
def RedOp.ofCode : Nat → Option RedOp
  | 0 => some .add | 1 => some .opMin | 2 => some .opMax | 3 => some .opAnd | 4 => some .opOr | 5 => some .opXor | _ => none

/-- The code of a RedOp. -/
def RedOp.code : RedOp → Nat
  | .add => 0 | .opMin => 1 | .opMax => 2 | .opAnd => 3 | .opOr => 4 | .opXor => 5

/-- WidthSign from its code. -/
def WidthSign.ofCode : Nat → Option WidthSign
  | 0 => some .s32 | 1 => some .s64 | 2 => some .z32 | 3 => some .z64 | _ => none

/-- The code of a WidthSign. -/
def WidthSign.code : WidthSign → Nat
  | .s32 => 0 | .s64 => 1 | .z32 => 2 | .z64 => 3

/-- ElemWidth from its code. -/
def ElemWidth.ofCode : Nat → Option ElemWidth
  | 0 => some .e8 | 1 => some .e16 | 2 => some .e32 | _ => none

/-- The code of a ElemWidth. -/
def ElemWidth.code : ElemWidth → Nat
  | .e8 => 0 | .e16 => 1 | .e32 => 2

/-- SubWidth from its code. -/
def SubWidth.ofCode : Nat → Option SubWidth
  | 0 => some .w8 | 1 => some .w16 | 2 => some .w32 | _ => none

/-- The code of a SubWidth. -/
def SubWidth.code : SubWidth → Nat
  | .w8 => 0 | .w16 => 1 | .w32 => 2

/-- IntTy from its code. -/
def IntTy.ofCode : Nat → Option IntTy
  | 0 => some .s32 | 1 => some .z32 | 2 => some .s16 | 3 => some .z16 | _ => none

/-- The code of a IntTy. -/
def IntTy.code : IntTy → Nat
  | .s32 => 0 | .z32 => 1 | .s16 => 2 | .z16 => 3

/-- FpTy from its code. -/
def FpTy.ofCode : Nat → Option FpTy
  | 0 => some .f32 | 1 => some .f16 | 2 => some .bf16 | _ => none

/-- The code of a FpTy. -/
def FpTy.code : FpTy → Nat
  | .f32 => 0 | .f16 => 1 | .bf16 => 2

/-- VcmpTy from its code. -/
def VcmpTy.ofCode : Nat → Option VcmpTy
  | 0 => some .s32 | 1 => some .z32 | 4 => some .f32 | _ => none

/-- The code of a VcmpTy. -/
def VcmpTy.code : VcmpTy → Nat
  | .s32 => 0 | .z32 => 1 | .f32 => 4

/-- VCond from its code. -/
def VCond.ofCode : Nat → Option VCond
  | 0 => some .eq | 1 => some .ne | 2 => some .lt | 3 => some .le | 4 => some .gt | 5 => some .ge | 6 => some .un | 7 => some .tst | _ => none

/-- The code of a VCond. -/
def VCond.code : VCond → Nat
  | .eq => 0 | .ne => 1 | .lt => 2 | .le => 3 | .gt => 4 | .ge => 5 | .un => 6 | .tst => 7

/-- DotTy from its code. -/
def DotTy.ofCode : Nat → Option DotTy
  | 0 => some .f16 | 1 => some .bf16 | 2 => some .s8 | 3 => some .z8 | 4 => some .e4m3 | 5 => some .e5m2 | _ => none

/-- The code of a DotTy. -/
def DotTy.code : DotTy → Nat
  | .f16 => 0 | .bf16 => 1 | .s8 => 2 | .z8 => 3 | .e4m3 => 4 | .e5m2 => 5

/-- CvtKind from its code. -/
def CvtKind.ofCode : Nat → Option CvtKind
  | 0 => some .f32s32 | 1 => some .f32z32 | 2 => some .s32f32 | 3 => some .z32f32 | 4 => some .f16f32 | 5 => some .bf16f32 | 6 => some .f32f16 | 7 => some .f32bf16 | 8 => some .s16s32 | 9 => some .z16z32 | 10 => some .s32s16 | 11 => some .z32z16 | 12 => some .s8s16 | 13 => some .z8z16 | 15 => some .e4m3f16 | 16 => some .e5m2f16 | 17 => some .f16e4m3 | 18 => some .f16e5m2 | 19 => some .s16s8 | 20 => some .z16z8 | _ => none

/-- The code of a CvtKind. -/
def CvtKind.code : CvtKind → Nat
  | .f32s32 => 0 | .f32z32 => 1 | .s32f32 => 2 | .z32f32 => 3 | .f16f32 => 4 | .bf16f32 => 5 | .f32f16 => 6 | .f32bf16 => 7 | .s16s32 => 8 | .z16z32 => 9 | .s32s16 => 10 | .z32z16 => 11 | .s8s16 => 12 | .z8z16 => 13 | .e4m3f16 => 15 | .e5m2f16 => 16 | .f16e4m3 => 17 | .f16e5m2 => 18 | .s16s8 => 19 | .z16z8 => 20

/-- RedKind from its code. -/
def RedKind.ofCode : Nat → Option RedKind
  | 0 => some .add | 1 => some .opMin | 2 => some .opMax | 3 => some .opAnd | 4 => some .opOr | 5 => some .opXor | _ => none

/-- The code of a RedKind. -/
def RedKind.code : RedKind → Nat
  | .add => 0 | .opMin => 1 | .opMax => 2 | .opAnd => 3 | .opOr => 4 | .opXor => 5

/-- RedTy from its code. -/
def RedTy.ofCode : Nat → Option RedTy
  | 0 => some .s32 | 1 => some .z32 | 2 => some .f32 | _ => none

/-- The code of a RedTy. -/
def RedTy.code : RedTy → Nat
  | .s32 => 0 | .z32 => 1 | .f32 => 2

/-- Scope from its code. -/
def Scope.ofCode : Nat → Option Scope
  | 0 => some .thread | 1 => some .column | 2 => some .dom1 | 3 => some .dom2 | 4 => some .dom3 | 5 => some .dom4 | 6 => some .partition | 7 => some .device | _ => none

/-- The code of a Scope. -/
def Scope.code : Scope → Nat
  | .thread => 0 | .column => 1 | .dom1 => 2 | .dom2 => 3 | .dom3 => 4 | .dom4 => 5 | .partition => 6 | .device => 7

/-- VoteOp from its code. -/
def VoteOp.ofCode : Nat → Option VoteOp
  | 0 => some .opAnd | 1 => some .opOr | 2 => some .opMax | _ => none

/-- The code of a VoteOp. -/
def VoteOp.code : VoteOp → Nat
  | .opAnd => 0 | .opOr => 1 | .opMax => 2

/-- DepthCond from its code. -/
def DepthCond.ofCode : Nat → Option DepthCond
  | 0 => some .lt | 1 => some .le | 2 => some .eq | 3 => some .ne | 4 => some .gt | 5 => some .ge | 6 => some .al | _ => none

/-- The code of a DepthCond. -/
def DepthCond.code : DepthCond → Nat
  | .lt => 0 | .le => 1 | .eq => 2 | .ne => 3 | .gt => 4 | .ge => 5 | .al => 6

/-- BlendOp from its code. -/
def BlendOp.ofCode : Nat → Option BlendOp
  | 0 => some .rep | 1 => some .over | 2 => some .add | 3 => some .opMax | 4 => some .opMin | _ => none

/-- The code of a BlendOp. -/
def BlendOp.code : BlendOp → Nat
  | .rep => 0 | .over => 1 | .add => 2 | .opMax => 3 | .opMin => 4

/-- Plane from its code. -/
def Plane.ofCode : Nat → Option Plane
  | 0 => some .drg | 1 => some .db | 2 => some .lrg | 3 => some .lb | 4 => some .dep | 5 => some .aux | _ => none

/-- The code of a Plane. -/
def Plane.code : Plane → Nat
  | .drg => 0 | .db => 1 | .lrg => 2 | .lb => 3 | .dep => 4 | .aux => 5

/-- CollKind from its code. -/
def CollKind.ofCode : Nat → Option CollKind
  | 0 => some .sumf | 1 => some .sumx | 2 => some .gather | 3 => some .bcast | _ => none

/-- The code of a CollKind. -/
def CollKind.code : CollKind → Nat
  | .sumf => 0 | .sumx => 1 | .gather => 2 | .bcast => 3

/-- FifoFmt from its code. -/
def FifoFmt.ofCode : Nat → Option FifoFmt
  | 0 => some .w32 | 1 => some .w32h | 2 => some .h16 | _ => none

/-- The code of a FifoFmt. -/
def FifoFmt.code : FifoFmt → Nat
  | .w32 => 0 | .w32h => 1 | .h16 => 2

/-- The instructions of major 0x01 (R195). -/
def decodeMajor01 (w : Nat) : Option Instr :=
  if fld w 0 8 = 0 then
    some (.sysr (fbv w 20 5) (fbv w 8 12))
  else if fld w 0 8 = 1 then
    some (.sysw (fbv w 20 5) (fbv w 8 12))
  else if fld w 0 8 = 2 then
    some (.sysx (fbv w 20 5) (fbv w 8 12))
  else if fld w 0 25 = 4 then
    some (.eret)
  else if fld w 0 8 = 5 ∧ fld w 20 5 = 0 then
    some (.scall (fbv w 8 12))
  else if fld w 0 8 = 6 ∧ fld w 20 5 = 0 then
    some (.bkpt (fbv w 8 12))
  else if fld w 0 25 = 7 then
    some (.ppoint)
  else if fld w 0 25 = 8 then
    some (.ifence)
  else if fld w 0 8 = 9 ∧ fld w 20 5 = 0 then
    some (.halt (fbv w 8 12))
  else if fld w 3 22 = 2 then
    (Scope.ofCode (fld w 0 3)).bind fun s' => some (.fence s')
  else if fld w 0 20 = 0x20 then
    some (.time (fbv w 20 5))
  else none

/-- The instructions of major 0x02 (R195). -/
def decodeMajor02 (w : Nat) : Option Instr :=
  if True then
    some (.wait (fbv w 20 5) (fbv w 15 5) (fbv w 10 5) (fbv w 5 5) (fbv w 0 5))
  else none

/-- The instructions of major 0x03 (R195). -/
def decodeMajor03 (w : Nat) : Option Instr :=
  if fld w 21 4 = 0 then
    some (.br (fbv w 0 21))
  else if True then
    some (.brc (fbv w 22 3) (fbit w 21) (fbv w 0 21))
  else none

/-- The instructions of major 0x04 (R195). -/
def decodeMajor04 (w : Nat) : Option Instr :=
  if True then
    some (.jal (fbv w 20 5) (fbv w 0 20))
  else none

/-- The instructions of major 0x05 (R195). -/
def decodeMajor05 (w : Nat) : Option Instr :=
  if True then
    some (.jalr (fbv w 20 5) (fbv w 15 5) (fbv w 0 15))
  else none

/-- The instructions of major 0x06 (R195). -/
def decodeMajor06 (w : Nat) : Option Instr :=
  if fld w 20 5 = 0 then
    some (.loop (fbv w 15 5) (fbv w 0 15))
  else none

/-- The instructions of major 0x07 (R195). -/
def decodeMajor07 (w : Nat) : Option Instr :=
  if True then
    some (.ld (fbv w 20 5) (fbv w 15 5) (fbv w 13 2) (fbv w 10 3) (fbv w 0 10))
  else none

/-- The instructions of major 0x08 (R195). -/
def decodeMajor08 (w : Nat) : Option Instr :=
  if fld w 12 1 = 0 then
    some (.st (fbv w 20 5) (fbv w 15 5) (fbv w 13 2) (fbv w 10 2) (fbv w 0 10))
  else none

/-- The instructions of major 0x09 (R195). -/
def decodeMajor09 (w : Nat) : Option Instr :=
  if fld w 3 3 = 0 then
    some (.ldx (fbv w 20 5) (fbv w 15 5) (fbv w 10 5) (fguard w) (fbv w 0 3))
  else none

/-- The instructions of major 0x0A (R195). -/
def decodeMajor0A (w : Nat) : Option Instr :=
  if fld w 0 6 = 0x18 ∧ fld w 20 5 = 0 then
    some (.redX (fbv w 15 5) (fbv w 10 5) (fguard w))
  else if fld w 5 1 = 0 ∧ fld w 20 5 = 0 then
    (RedOp.ofCode (fld w 2 3)).bind fun o' => (WidthSign.ofCode (fld w 0 2)).bind fun w' => some (.redOp (fbv w 15 5) (fbv w 10 5) (fguard w) o' w')
  else if fld w 2 4 = 8 then
    (WidthSign.ofCode (fld w 0 2)).bind fun w' => some (.amoSwap (fbv w 20 5) (fbv w 15 5) (fbv w 10 5) (fguard w) w')
  else if fld w 2 4 = 9 then
    (WidthSign.ofCode (fld w 0 2)).bind fun w' => some (.amoCas (fbv w 20 5) (fbv w 15 5) (fbv w 10 5) (fguard w) w')
  else if fld w 2 4 = 0xa then
    (WidthSign.ofCode (fld w 0 2)).bind fun w' => some (.amoAdd (fbv w 20 5) (fbv w 15 5) (fbv w 10 5) (fguard w) w')
  else none

/-- The instructions of major 0x0B (R195). -/
def decodeMajor0B (w : Nat) : Option Instr :=
  if fld w 3 3 = 0 ∧ fld w 13 8 = 0 then
    (ElemWidth.ofCode (fld w 1 2)).bind fun e' => some (.vld (fbv w 21 4) (fbv w 11 2) (fbv w 6 5) e' (fbit w 0))
  else if fld w 0 1 = 0 ∧ fld w 3 3 = 1 ∧ fld w 13 8 = 0 then
    (ElemWidth.ofCode (fld w 1 2)).bind fun e' => some (.vst (fbv w 21 4) (fbv w 11 2) (fbv w 6 5) e')
  else if fld w 3 3 = 2 ∧ fld w 13 4 = 0 then
    (ElemWidth.ofCode (fld w 1 2)).bind fun e' => some (.vlds (fbv w 21 4) (fbv w 17 4) (fbv w 11 2) (fbv w 6 5) e' (fbit w 0))
  else if fld w 0 1 = 0 ∧ fld w 3 3 = 3 ∧ fld w 13 4 = 0 then
    (ElemWidth.ofCode (fld w 1 2)).bind fun e' => some (.vsts (fbv w 21 4) (fbv w 17 4) (fbv w 11 2) (fbv w 6 5) e')
  else if fld w 3 3 = 4 ∧ fld w 17 4 = 0 then
    (ElemWidth.ofCode (fld w 1 2)).bind fun e' => some (.vgath (fbv w 21 4) (fbv w 13 4) (fbv w 11 2) (fbv w 6 5) e' (fbit w 0))
  else if fld w 0 1 = 0 ∧ fld w 3 3 = 5 ∧ fld w 17 4 = 0 then
    (ElemWidth.ofCode (fld w 1 2)).bind fun e' => some (.vscat (fbv w 21 4) (fbv w 13 4) (fbv w 11 2) (fbv w 6 5) e')
  else none

/-- The instructions of major 0x0C (R195). -/
def decodeMajor0C (w : Nat) : Option Instr :=
  if fld w 0 6 = 0 ∧ fld w 10 5 = 0 then
    some (.ctxnew (fbv w 20 5) (fbv w 15 5) (fguard w))
  else if fld w 0 6 = 1 ∧ fld w 10 5 = 0 ∧ fld w 20 5 = 0 then
    some (.ctxset (fbv w 15 5) (fguard w))
  else if fld w 0 6 = 2 ∧ fld w 10 5 = 0 ∧ fld w 20 5 = 0 then
    some (.ctxfold (fbv w 15 5) (fguard w))
  else if fld w 0 6 = 3 ∧ fld w 10 5 = 0 ∧ fld w 20 5 = 0 then
    some (.ctxret (fbv w 15 5) (fguard w))
  else if fld w 0 6 = 4 ∧ fld w 10 5 = 0 then
    some (.ctxq (fbv w 20 5) (fbv w 15 5) (fguard w))
  else none

/-- The instructions of major 0x0D (R195). -/
def decodeMajor0D (w : Nat) : Option Instr :=
  if fld w 2 4 = 0 then
    some (.tlod (fbv w 21 4) (fbv w 17 4) (fbv w 13 4) (fbv w 11 2) (fbv w 6 5) (fbv w 0 2))
  else if fld w 2 4 = 2 then
    some (.tsmp (fbv w 21 4) (fbv w 17 4) (fbv w 13 4) (fbv w 11 2) (fbv w 6 5) (fbv w 0 2))
  else if fld w 0 6 = 0x10 ∧ fld w 13 4 = 0 then
    some (.resq (fbv w 21 4) (fbv w 17 4) (fbv w 11 2) (fbv w 6 5))
  else if fld w 0 2 = 0 ∧ fld w 3 3 = 3 ∧ fld w 13 4 = 0 then
    some (.resw (fbv w 21 4) (fbv w 17 4) (fbv w 11 2) (fbv w 6 5) (fbit w 2))
  else if fld w 0 6 = 0x20 ∧ fld w 11 14 = 0 then
    some (.rmfence (fbv w 6 5))
  else none

/-- The instructions of major 0x0E (R195). -/
def decodeMajor0E (w : Nat) : Option Instr :=
  if fld w 0 6 = 0 then
    some (.spawnr (fbv w 20 5) (fbv w 15 5) (fbv w 10 5) (fguard w))
  else if fld w 0 6 = 1 ∧ fld w 10 5 = 0 ∧ fld w 20 5 = 0 then
    some (.spawnc (fbv w 15 5) (fguard w))
  else if fld w 0 25 = 2 then
    some (.tend)
  else if fld w 0 15 = 3 ∧ fld w 20 5 = 0 then
    some (.await (fbv w 15 5))
  else if fld w 0 6 = 4 ∧ fld w 10 5 = 0 ∧ fld w 20 5 = 0 then
    some (.join (fbv w 15 5) (fguard w))
  else if fld w 0 6 = 5 then
    some (.stamp (fbv w 20 5) (fbv w 15 5) (fbv w 10 5) (fguard w))
  else if fld w 0 25 = 6 then
    some (.yield)
  else none

/-- The instructions of major 0x0F (R195). -/
def decodeMajor0F (w : Nat) : Option Instr :=
  if fld w 3 22 = 0 then
    some (.bar (fbv w 0 3))
  else if fld w 3 22 = 1 then
    some (.barX (fbv w 0 3))
  else if fld w 3 7 = 2 then
    (VoteOp.ofCode (fld w 10 5)).bind fun b' => some (.barv (fbv w 20 5) (fbv w 15 5) b' (fbv w 0 3))
  else if fld w 3 7 = 3 then
    (VoteOp.ofCode (fld w 10 5)).bind fun b' => some (.barvX (fbv w 20 5) (fbv w 15 5) b' (fbv w 0 3))
  else if fld w 3 3 = 4 ∧ fld w 10 10 = 0 then
    some (.domq (fbv w 20 5) (fguard w) (fbv w 0 3))
  else none

/-- The instructions of major 0x10 (R195). -/
def decodeMajor10 (w : Nat) : Option Instr :=
  if fld w 0 6 = 0 ∧ fld w 20 5 = 0 then
    some (.send (fbv w 15 5) (fbv w 10 5) (fguard w))
  else if fld w 0 10 = 1 then
    some (.recv (fbv w 20 5) (fbv w 15 5) (fbv w 10 5))
  else if fld w 0 6 = 2 ∧ fld w 15 5 = 0 then
    some (.recvq (fbv w 20 5) (fbv w 10 5) (fguard w))
  else if fld w 0 6 = 3 ∧ fld w 10 5 = 0 then
    some (.rplay (fbv w 20 5) (fbv w 15 5) (fguard w))
  else none

/-- The instructions of major 0x11 (R195). -/
def decodeMajor11 (w : Nat) : Option Instr :=
  if fld w 10 5 = 0 then
    some (.xsend (fbv w 20 5) (fbv w 15 5) (fbv w 0 10))
  else if fld w 14 6 = 1 then
    some (.xrecv (fbv w 20 5) (fbv w 0 14))
  else none

/-- The instructions of major 0x12 (R195). -/
def decodeMajor12 (w : Nat) : Option Instr :=
  if fld w 6 19 = 0 then
    some (.mlease (fbv w 0 6))
  else if fld w 0 25 = 0x800 then
    some (.mrel)
  else if fld w 8 17 = 0x10 then
    some (.mclr (fbv w 6 2) (fbv w 4 2) (fbv w 2 2) (fbv w 0 2))
  else if fld w 6 9 = 0x60 then
    some (.mrot (fbv w 20 5) (fbv w 15 5) (fbv w 0 6))
  else if fld w 0 15 = 0x2000 then
    some (.mrd (fbv w 20 5) (fbv w 15 5))
  else if fld w 4 11 = 0x280 ∧ fld w 20 5 = 0 then
    some (.mrdv (fbv w 15 5) (fbv w 0 4))
  else if fld w 14 1 = 1 then
    some (.mma (fbv w 20 5) (fbv w 15 5) (fbv w 12 2) (fbv w 10 2) (fbv w 8 2) (fbv w 6 2) (fbv w 0 6))
  else none

/-- The instructions of major 0x13 (R195). -/
def decodeMajor13 (w : Nat) : Option Instr :=
  if fld w 12 3 = 0 then
    some (.cpy (fbv w 20 5) (fbv w 15 5) (fbv w 0 12))
  else if fld w 12 3 = 1 then
    some (.cpy2d (fbv w 20 5) (fbv w 15 5) (fbv w 6 6) (fbv w 0 6))
  else if fld w 12 3 = 2 then
    some (.cpyg (fbv w 20 5) (fbv w 15 5) (fbv w 0 12))
  else if fld w 12 3 = 3 then
    (CollKind.ofCode (fld w 9 3)).bind fun k' => some (.coll (fbv w 20 5) (fbv w 15 5) k' (fbv w 6 3) (fbv w 0 6))
  else none

/-- The instructions of major 0x14 (R195). -/
def decodeMajor14 (w : Nat) : Option Instr :=
  if fld w 0 17 = 0 then
    some (.psetup (fbv w 21 4) (fbv w 17 4))
  else if fld w 0 6 = 8 then
    some (.pcover (fbv w 21 4) (fbv w 17 4) (fbv w 15 2) (fbv w 13 2) (fbv w 11 2) (fbv w 6 5))
  else if fld w 3 3 = 2 ∧ fld w 14 3 = 0 ∧ fld w 23 2 = 0 then
    (DepthCond.ofCode (fld w 0 3)).bind fun c' => some (.pdepth (fbv w 21 2) (fbv w 17 4) (fbit w 13) (fbv w 11 2) (fbv w 6 5) c')
  else if fld w 3 3 = 3 ∧ fld w 21 1 = 0 ∧ fld w 23 2 = 0 then
    (BlendOp.ofCode (fld w 0 3)).bind fun o' => some (.pblend (fbit w 22) (fbv w 17 4) (fbv w 13 4) (fbv w 11 2) (fbv w 6 5) o')
  else if fld w 3 3 = 3 ∧ fld w 21 1 = 1 ∧ fld w 23 2 = 0 then
    (BlendOp.ofCode (fld w 0 3)).bind fun o' => some (.pblendC (fbit w 22) (fbv w 17 4) (fbv w 13 4) (fbv w 11 2) (fbv w 6 5) o')
  else if fld w 3 3 = 4 ∧ fld w 13 8 = 0 then
    (Plane.ofCode (fld w 0 3)).bind fun l' => some (.pld (fbv w 21 4) (fbv w 11 2) (fbv w 6 5) l')
  else if fld w 3 3 = 5 ∧ fld w 13 8 = 0 then
    (Plane.ofCode (fld w 0 3)).bind fun l' => some (.pst (fbv w 21 4) (fbv w 11 2) (fbv w 6 5) l')
  else if fld w 3 8 = 6 ∧ fld w 13 4 = 0 then
    (Plane.ofCode (fld w 0 3)).bind fun l' => some (.pstX (fbv w 21 4) (fbv w 17 4) (fbv w 11 2) l')
  else none

/-- The instructions of major 0x15 (R195). -/
def decodeMajor15 (w : Nat) : Option Instr :=
  if fld w 0 15 = 0 then
    some (.emit (fbv w 20 5) (fbv w 15 5))
  else if fld w 0 15 = 0x4000 then
    some (.emitq (fbv w 20 5) (fbv w 15 5))
  else none

/-- The instructions of major 0x16 (R195). -/
def decodeMajor16 (w : Nat) : Option Instr :=
  if fld w 0 1 = 0 ∧ fld w 3 3 = 0 ∧ fld w 11 6 = 0 ∧ fld w 21 4 = 0 then
    (FifoFmt.ofCode (fld w 1 2)).bind fun f' => some (.vfpush (fbv w 17 4) (fbv w 6 5) f')
  else if fld w 0 6 = 8 ∧ fld w 11 10 = 0 then
    some (.vfpop (fbv w 21 4) (fbv w 6 5))
  else if fld w 0 6 = 0x10 ∧ fld w 11 14 = 0 then
    some (.vffree (fbv w 6 5))
  else none

/-- The instructions of major 0x17 (R195). -/
def decodeMajor17 (w : Nat) : Option Instr :=
  if fld w 0 6 = 0 ∧ fld w 10 5 = 0 then
    some (.vclaim (fbv w 20 5) (fbv w 15 5) (fguard w))
  else if fld w 0 6 = 1 ∧ fld w 10 15 = 0 then
    some (.vrel (fguard w))
  else none

/-- The instructions of major 0x20 (R195). -/
def decodeMajor20 (w : Nat) : Option Instr :=
  if fld w 0 6 = 0 then
    some (.add (fbv w 20 5) (fbv w 15 5) (fbv w 10 5) (fguard w))
  else if fld w 0 6 = 1 then
    some (.sub (fbv w 20 5) (fbv w 15 5) (fbv w 10 5) (fguard w))
  else if fld w 0 6 = 2 then
    some (.and (fbv w 20 5) (fbv w 15 5) (fbv w 10 5) (fguard w))
  else if fld w 0 6 = 3 then
    some (.or (fbv w 20 5) (fbv w 15 5) (fbv w 10 5) (fguard w))
  else if fld w 0 6 = 4 then
    some (.xor (fbv w 20 5) (fbv w 15 5) (fbv w 10 5) (fguard w))
  else if fld w 0 6 = 5 then
    some (.andn (fbv w 20 5) (fbv w 15 5) (fbv w 10 5) (fguard w))
  else if fld w 0 6 = 6 then
    some (.orn (fbv w 20 5) (fbv w 15 5) (fbv w 10 5) (fguard w))
  else if fld w 0 6 = 8 then
    some (.sll (fbv w 20 5) (fbv w 15 5) (fbv w 10 5) (fguard w))
  else if fld w 0 6 = 9 then
    some (.srl (fbv w 20 5) (fbv w 15 5) (fbv w 10 5) (fguard w))
  else if fld w 0 6 = 0xa then
    some (.sra (fbv w 20 5) (fbv w 15 5) (fbv w 10 5) (fguard w))
  else if fld w 0 6 = 0xb then
    some (.rol (fbv w 20 5) (fbv w 15 5) (fbv w 10 5) (fguard w))
  else if fld w 0 6 = 0xc then
    some (.ror (fbv w 20 5) (fbv w 15 5) (fbv w 10 5) (fguard w))
  else if fld w 0 6 = 0x10 then
    some (.min (fbv w 20 5) (fbv w 15 5) (fbv w 10 5) (fguard w))
  else if fld w 0 6 = 0x11 then
    some (.max (fbv w 20 5) (fbv w 15 5) (fbv w 10 5) (fguard w))
  else if fld w 0 6 = 0x12 then
    some (.minz (fbv w 20 5) (fbv w 15 5) (fbv w 10 5) (fguard w))
  else if fld w 0 6 = 0x13 then
    some (.maxz (fbv w 20 5) (fbv w 15 5) (fbv w 10 5) (fguard w))
  else if fld w 3 3 = 3 then
    some (.addsh (fbv w 20 5) (fbv w 15 5) (fbv w 10 5) (fguard w) (fbv w 0 3))
  else if fld w 2 4 = 8 ∧ fld w 10 5 = 0 then
    (SubWidth.ofCode (fld w 0 2)).bind fun w' => some (.sext (fbv w 20 5) (fbv w 15 5) (fguard w) w')
  else if fld w 2 4 = 9 ∧ fld w 10 5 = 0 then
    (SubWidth.ofCode (fld w 0 2)).bind fun w' => some (.zext (fbv w 20 5) (fbv w 15 5) (fguard w) w')
  else if fld w 0 6 = 0x28 ∧ fld w 10 5 = 0 then
    some (.clz (fbv w 20 5) (fbv w 15 5) (fguard w))
  else if fld w 0 6 = 0x29 ∧ fld w 10 5 = 0 then
    some (.ctz (fbv w 20 5) (fbv w 15 5) (fguard w))
  else if fld w 0 6 = 0x2a ∧ fld w 10 5 = 0 then
    some (.popc (fbv w 20 5) (fbv w 15 5) (fguard w))
  else if fld w 0 6 = 0x2b ∧ fld w 10 5 = 0 then
    some (.bswap (fbv w 20 5) (fbv w 15 5) (fguard w))
  else if fld w 0 6 = 0x30 then
    some (.sel (fbv w 20 5) (fbv w 15 5) (fbv w 10 5) (fbv w 7 3) (fbit w 6))
  else none

/-- The instructions of major 0x21 (R195). -/
def decodeMajor21 (w : Nat) : Option Instr :=
  if True then
    some (.addi (fbv w 20 5) (fbv w 15 5) (fbv w 0 15))
  else none

/-- The instructions of major 0x22 (R195). -/
def decodeMajor22 (w : Nat) : Option Instr :=
  if True then
    some (.andi (fbv w 20 5) (fbv w 15 5) (fbv w 0 15))
  else none

/-- The instructions of major 0x23 (R195). -/
def decodeMajor23 (w : Nat) : Option Instr :=
  if True then
    some (.ori (fbv w 20 5) (fbv w 15 5) (fbv w 0 15))
  else none

/-- The instructions of major 0x24 (R195). -/
def decodeMajor24 (w : Nat) : Option Instr :=
  if True then
    some (.xori (fbv w 20 5) (fbv w 15 5) (fbv w 0 15))
  else none

/-- The instructions of major 0x25 (R195). -/
def decodeMajor25 (w : Nat) : Option Instr :=
  if fld w 6 9 = 0 then
    some (.slli (fbv w 20 5) (fbv w 15 5) (fbv w 0 6))
  else if fld w 6 9 = 0x40 then
    some (.srli (fbv w 20 5) (fbv w 15 5) (fbv w 0 6))
  else if fld w 6 9 = 0x80 then
    some (.srai (fbv w 20 5) (fbv w 15 5) (fbv w 0 6))
  else if fld w 6 9 = 0xc0 then
    some (.roli (fbv w 20 5) (fbv w 15 5) (fbv w 0 6))
  else if fld w 6 9 = 0x100 then
    some (.rori (fbv w 20 5) (fbv w 15 5) (fbv w 0 6))
  else none

/-- The instructions of major 0x26 (R195). -/
def decodeMajor26 (w : Nat) : Option Instr :=
  if True then
    some (.ldhi (fbv w 20 5) (fbv w 0 20))
  else none

/-- The instructions of major 0x27 (R195). -/
def decodeMajor27 (w : Nat) : Option Instr :=
  if fld w 3 3 = 0 ∧ fld w 23 2 = 0 then
    (CmpCond.ofCode (fld w 0 3)).bind fun c' => some (.cmp (fbv w 20 3) (fbv w 15 5) (fbv w 10 5) (fguard w) c')
  else none

/-- The instructions of major 0x28 (R195). -/
def decodeMajor28 (w : Nat) : Option Instr :=
  if fld w 23 2 = 0 then
    (CmpCond.ofCode (fld w 12 3)).bind fun c' => some (.cmpi (fbv w 20 3) (fbv w 15 5) c' (fbv w 0 12))
  else none

/-- The instructions of major 0x29 (R195). -/
def decodeMajor29 (w : Nat) : Option Instr :=
  if fld w 0 6 = 0 then
    some (.mul (fbv w 20 5) (fbv w 15 5) (fbv w 10 5) (fguard w))
  else if fld w 0 6 = 1 then
    some (.mulh (fbv w 20 5) (fbv w 15 5) (fbv w 10 5) (fguard w))
  else if fld w 0 6 = 2 then
    some (.mulhz (fbv w 20 5) (fbv w 15 5) (fbv w 10 5) (fguard w))
  else if fld w 0 6 = 4 then
    some (.div (fbv w 20 5) (fbv w 15 5) (fbv w 10 5) (fguard w))
  else if fld w 0 6 = 5 then
    some (.divz (fbv w 20 5) (fbv w 15 5) (fbv w 10 5) (fguard w))
  else if fld w 0 6 = 6 then
    some (.rem (fbv w 20 5) (fbv w 15 5) (fbv w 10 5) (fguard w))
  else if fld w 0 6 = 7 then
    some (.remz (fbv w 20 5) (fbv w 15 5) (fbv w 10 5) (fguard w))
  else none

/-- The instructions of major 0x2A (R195). -/
def decodeMajor2A (w : Nat) : Option Instr :=
  if fld w 0 6 = 0 then
    some (.fadd (fbv w 20 5) (fbv w 15 5) (fbv w 10 5) (fguard w))
  else if fld w 0 6 = 1 then
    some (.fsub (fbv w 20 5) (fbv w 15 5) (fbv w 10 5) (fguard w))
  else if fld w 0 6 = 2 then
    some (.fmul (fbv w 20 5) (fbv w 15 5) (fbv w 10 5) (fguard w))
  else if fld w 0 6 = 3 then
    some (.ffma (fbv w 20 5) (fbv w 15 5) (fbv w 10 5) (fguard w))
  else if fld w 0 6 = 4 then
    some (.fmin (fbv w 20 5) (fbv w 15 5) (fbv w 10 5) (fguard w))
  else if fld w 0 6 = 5 then
    some (.fmax (fbv w 20 5) (fbv w 15 5) (fbv w 10 5) (fguard w))
  else if fld w 0 6 = 6 ∧ fld w 10 5 = 0 then
    some (.fabs (fbv w 20 5) (fbv w 15 5) (fguard w))
  else if fld w 0 6 = 7 ∧ fld w 10 5 = 0 then
    some (.fneg (fbv w 20 5) (fbv w 15 5) (fguard w))
  else if fld w 2 4 = 2 ∧ fld w 23 2 = 0 then
    (FcmpCond.ofCode (fld w 0 2)).bind fun c' => some (.fcmp (fbv w 20 3) (fbv w 15 5) (fbv w 10 5) (fguard w) c')
  else if fld w 3 3 = 2 ∧ fld w 10 5 = 0 then
    (FcvtKind.ofCode (fld w 0 3)).bind fun c' => some (.fcvt (fbv w 20 5) (fbv w 15 5) (fguard w) c')
  else none

/-- The instructions of major 0x2C (R195). -/
def decodeMajor2C (w : Nat) : Option Instr :=
  if fld w 12 3 = 0 then
    some (.bfx (fbv w 20 5) (fbv w 15 5) (fbv w 6 6) (fbv w 0 6))
  else if fld w 12 3 = 2 then
    some (.bfxz (fbv w 20 5) (fbv w 15 5) (fbv w 6 6) (fbv w 0 6))
  else if fld w 12 3 = 4 then
    some (.bfi (fbv w 20 5) (fbv w 15 5) (fbv w 6 6) (fbv w 0 6))
  else none

/-- The instructions of major 0x30 (R195). -/
def decodeMajor30 (w : Nat) : Option Instr :=
  if fld w 0 7 = 0 ∧ fld w 10 1 = 0 then
    (IntTy.ofCode (fld w 8 2)).bind fun t' => some (.vaddInt (fbv w 21 4) (fbv w 17 4) (fbv w 13 4) (fbv w 11 2) t' (fbit w 7))
  else if fld w 0 7 = 1 ∧ fld w 10 1 = 0 then
    (IntTy.ofCode (fld w 8 2)).bind fun t' => some (.vsubInt (fbv w 21 4) (fbv w 17 4) (fbv w 13 4) (fbv w 11 2) t' (fbit w 7))
  else if fld w 0 7 = 2 ∧ fld w 10 1 = 0 then
    (IntTy.ofCode (fld w 8 2)).bind fun t' => some (.vmulInt (fbv w 21 4) (fbv w 17 4) (fbv w 13 4) (fbv w 11 2) t' (fbit w 7))
  else if fld w 0 7 = 3 ∧ fld w 10 1 = 0 then
    (IntTy.ofCode (fld w 8 2)).bind fun t' => some (.vmulh (fbv w 21 4) (fbv w 17 4) (fbv w 13 4) (fbv w 11 2) t' (fbit w 7))
  else if fld w 0 7 = 4 ∧ fld w 10 1 = 0 then
    (IntTy.ofCode (fld w 8 2)).bind fun t' => some (.vminInt (fbv w 21 4) (fbv w 17 4) (fbv w 13 4) (fbv w 11 2) t' (fbit w 7))
  else if fld w 0 7 = 5 ∧ fld w 10 1 = 0 then
    (IntTy.ofCode (fld w 8 2)).bind fun t' => some (.vmaxInt (fbv w 21 4) (fbv w 17 4) (fbv w 13 4) (fbv w 11 2) t' (fbit w 7))
  else if fld w 0 7 = 6 ∧ fld w 10 1 = 0 then
    (IntTy.ofCode (fld w 8 2)).bind fun t' => some (.vand (fbv w 21 4) (fbv w 17 4) (fbv w 13 4) (fbv w 11 2) t' (fbit w 7))
  else if fld w 0 7 = 7 ∧ fld w 10 1 = 0 then
    (IntTy.ofCode (fld w 8 2)).bind fun t' => some (.vor (fbv w 21 4) (fbv w 17 4) (fbv w 13 4) (fbv w 11 2) t' (fbit w 7))
  else if fld w 0 7 = 8 ∧ fld w 10 1 = 0 then
    (IntTy.ofCode (fld w 8 2)).bind fun t' => some (.vxor (fbv w 21 4) (fbv w 17 4) (fbv w 13 4) (fbv w 11 2) t' (fbit w 7))
  else if fld w 0 7 = 9 ∧ fld w 10 1 = 0 then
    (IntTy.ofCode (fld w 8 2)).bind fun t' => some (.vandn (fbv w 21 4) (fbv w 17 4) (fbv w 13 4) (fbv w 11 2) t' (fbit w 7))
  else if fld w 0 7 = 0xa ∧ fld w 10 1 = 0 then
    (IntTy.ofCode (fld w 8 2)).bind fun t' => some (.vsll (fbv w 21 4) (fbv w 17 4) (fbv w 13 4) (fbv w 11 2) t' (fbit w 7))
  else if fld w 0 7 = 0xb ∧ fld w 10 1 = 0 then
    (IntTy.ofCode (fld w 8 2)).bind fun t' => some (.vsrl (fbv w 21 4) (fbv w 17 4) (fbv w 13 4) (fbv w 11 2) t' (fbit w 7))
  else if fld w 0 7 = 0xc ∧ fld w 10 1 = 0 then
    (IntTy.ofCode (fld w 8 2)).bind fun t' => some (.vsra (fbv w 21 4) (fbv w 17 4) (fbv w 13 4) (fbv w 11 2) t' (fbit w 7))
  else if fld w 0 7 = 0xd ∧ fld w 10 1 = 0 then
    (IntTy.ofCode (fld w 8 2)).bind fun t' => some (.vadds (fbv w 21 4) (fbv w 17 4) (fbv w 13 4) (fbv w 11 2) t' (fbit w 7))
  else if fld w 0 7 = 0xe ∧ fld w 10 1 = 0 then
    (IntTy.ofCode (fld w 8 2)).bind fun t' => some (.vsubs (fbv w 21 4) (fbv w 17 4) (fbv w 13 4) (fbv w 11 2) t' (fbit w 7))
  else if fld w 0 8 = 0xf ∧ fld w 10 1 = 0 ∧ fld w 13 4 = 0 then
    (IntTy.ofCode (fld w 8 2)).bind fun t' => some (.vabsInt (fbv w 21 4) (fbv w 17 4) (fbv w 11 2) t')
  else if fld w 0 7 = 0x10 ∧ fld w 10 1 = 0 then
    (IntTy.ofCode (fld w 8 2)).bind fun t' => some (.vdiv (fbv w 21 4) (fbv w 17 4) (fbv w 13 4) (fbv w 11 2) t' (fbit w 7))
  else if fld w 0 7 = 0x11 ∧ fld w 10 1 = 0 then
    (IntTy.ofCode (fld w 8 2)).bind fun t' => some (.vrem (fbv w 21 4) (fbv w 17 4) (fbv w 13 4) (fbv w 11 2) t' (fbit w 7))
  else if fld w 0 7 = 0x12 ∧ fld w 10 1 = 0 then
    (IntTy.ofCode (fld w 8 2)).bind fun t' => some (.vmerge (fbv w 21 4) (fbv w 17 4) (fbv w 13 4) (fbv w 11 2) t' (fbit w 7))
  else none

/-- The instructions of major 0x31 (R195). -/
def decodeMajor31 (w : Nat) : Option Instr :=
  if fld w 0 7 = 0 ∧ fld w 10 1 = 1 then
    (FpTy.ofCode (fld w 8 2)).bind fun t' => some (.vaddFp (fbv w 21 4) (fbv w 17 4) (fbv w 13 4) (fbv w 11 2) t' (fbit w 7))
  else if fld w 0 7 = 1 ∧ fld w 10 1 = 1 then
    (FpTy.ofCode (fld w 8 2)).bind fun t' => some (.vsubFp (fbv w 21 4) (fbv w 17 4) (fbv w 13 4) (fbv w 11 2) t' (fbit w 7))
  else if fld w 0 7 = 2 ∧ fld w 10 1 = 1 then
    (FpTy.ofCode (fld w 8 2)).bind fun t' => some (.vmulFp (fbv w 21 4) (fbv w 17 4) (fbv w 13 4) (fbv w 11 2) t' (fbit w 7))
  else if fld w 0 7 = 3 ∧ fld w 10 1 = 1 then
    (FpTy.ofCode (fld w 8 2)).bind fun t' => some (.vfma (fbv w 21 4) (fbv w 17 4) (fbv w 13 4) (fbv w 11 2) t' (fbit w 7))
  else if fld w 0 7 = 4 ∧ fld w 10 1 = 1 then
    (FpTy.ofCode (fld w 8 2)).bind fun t' => some (.vfms (fbv w 21 4) (fbv w 17 4) (fbv w 13 4) (fbv w 11 2) t' (fbit w 7))
  else if fld w 0 7 = 5 ∧ fld w 10 1 = 1 then
    (FpTy.ofCode (fld w 8 2)).bind fun t' => some (.vminFp (fbv w 21 4) (fbv w 17 4) (fbv w 13 4) (fbv w 11 2) t' (fbit w 7))
  else if fld w 0 7 = 6 ∧ fld w 10 1 = 1 then
    (FpTy.ofCode (fld w 8 2)).bind fun t' => some (.vmaxFp (fbv w 21 4) (fbv w 17 4) (fbv w 13 4) (fbv w 11 2) t' (fbit w 7))
  else if fld w 0 8 = 7 ∧ fld w 10 1 = 1 ∧ fld w 13 4 = 0 then
    (FpTy.ofCode (fld w 8 2)).bind fun t' => some (.vabsFp (fbv w 21 4) (fbv w 17 4) (fbv w 11 2) t')
  else if fld w 0 8 = 8 ∧ fld w 10 1 = 1 ∧ fld w 13 4 = 0 then
    (FpTy.ofCode (fld w 8 2)).bind fun t' => some (.vneg (fbv w 21 4) (fbv w 17 4) (fbv w 11 2) t')
  else if fld w 0 8 = 9 ∧ fld w 10 1 = 1 ∧ fld w 13 4 = 0 then
    (FpTy.ofCode (fld w 8 2)).bind fun t' => some (.vrndi (fbv w 21 4) (fbv w 17 4) (fbv w 11 2) t')
  else none

/-- The instructions of major 0x32 (R195). -/
def decodeMajor32 (w : Nat) : Option Instr :=
  if fld w 0 11 = 0x1c0 ∧ fld w 13 4 = 0 then
    some (.xtof (fbv w 21 4) (fbv w 17 4) (fbv w 11 2))
  else if fld w 0 4 = 0 then
    (CvtKind.ofCode (fld w 5 6)).bind fun c' => some (.vcvt (fbv w 21 4) (fbv w 17 4) (fbv w 13 4) (fbv w 11 2) c' (fbit w 4))
  else none

/-- The instructions of major 0x33 (R195). -/
def decodeMajor33 (w : Nat) : Option Instr :=
  if fld w 0 8 = 0 ∧ fld w 10 1 = 1 ∧ fld w 13 4 = 0 then
    (FpTy.ofCode (fld w 8 2)).bind fun t' => some (.vrcp (fbv w 21 4) (fbv w 17 4) (fbv w 11 2) t')
  else if fld w 0 8 = 1 ∧ fld w 10 1 = 1 ∧ fld w 13 4 = 0 then
    (FpTy.ofCode (fld w 8 2)).bind fun t' => some (.vrsq (fbv w 21 4) (fbv w 17 4) (fbv w 11 2) t')
  else if fld w 0 8 = 2 ∧ fld w 10 1 = 1 ∧ fld w 13 4 = 0 then
    (FpTy.ofCode (fld w 8 2)).bind fun t' => some (.vexp2 (fbv w 21 4) (fbv w 17 4) (fbv w 11 2) t')
  else if fld w 0 8 = 3 ∧ fld w 10 1 = 1 ∧ fld w 13 4 = 0 then
    (FpTy.ofCode (fld w 8 2)).bind fun t' => some (.vlog2 (fbv w 21 4) (fbv w 17 4) (fbv w 11 2) t')
  else if fld w 0 8 = 4 ∧ fld w 10 1 = 1 ∧ fld w 13 4 = 0 then
    (FpTy.ofCode (fld w 8 2)).bind fun t' => some (.vsin (fbv w 21 4) (fbv w 17 4) (fbv w 11 2) t')
  else if fld w 0 8 = 5 ∧ fld w 10 1 = 1 ∧ fld w 13 4 = 0 then
    (FpTy.ofCode (fld w 8 2)).bind fun t' => some (.vcos (fbv w 21 4) (fbv w 17 4) (fbv w 11 2) t')
  else none

/-- The instructions of major 0x34 (R195). -/
def decodeMajor34 (w : Nat) : Option Instr :=
  if fld w 0 3 = 0 ∧ fld w 8 3 = 0 ∧ fld w 13 4 = 0 then
    (RedKind.ofCode (fld w 5 3)).bind fun o' => (RedTy.ofCode (fld w 3 2)).bind fun t' => some (.vred (fbv w 21 4) (fbv w 17 4) (fbv w 11 2) o' t')
  else if fld w 0 11 = 0x100 then
    some (.vperm (fbv w 21 4) (fbv w 17 4) (fbv w 13 4) (fbv w 11 2))
  else if fld w 6 1 = 0 ∧ fld w 8 3 = 2 ∧ fld w 13 4 = 0 then
    some (.vslide (fbv w 21 4) (fbv w 17 4) (fbv w 11 2) (fbit w 7) (fbv w 0 6))
  else if fld w 6 5 = 0xc ∧ fld w 13 4 = 0 then
    some (.vbcast (fbv w 21 4) (fbv w 17 4) (fbv w 11 2) (fbv w 0 6))
  else if fld w 0 11 = 0x400 ∧ fld w 13 8 = 0 then
    some (.viota (fbv w 21 4) (fbv w 11 2))
  else none

/-- The instructions of major 0x35 (R195). -/
def decodeMajor35 (w : Nat) : Option Instr :=
  if fld w 3 4 = 0 ∧ fld w 23 2 = 0 then
    (VcmpTy.ofCode (fld w 8 3)).bind fun t' => (VCond.ofCode (fld w 0 3)).bind fun c' => some (.vcmp (fbv w 21 2) (fbv w 17 4) (fbv w 13 4) (fbv w 11 2) t' (fbit w 7) c')
  else none

/-- The instructions of major 0x36 (R195). -/
def decodeMajor36 (w : Nat) : Option Instr :=
  if fld w 0 6 = 0 then
    (DotTy.ofCode (fld w 8 3)).bind fun t' => some (.vdot (fbv w 21 4) (fbv w 17 4) (fbv w 13 4) (fbv w 11 2) t' (fbit w 7) (fbit w 6))
  else none

/-- The instructions of major 0x37 (R195). -/
def decodeMajor37 (w : Nat) : Option Instr :=
  if fld w 11 10 = 0 then
    some (.vins (fbv w 21 4) (fbv w 6 5) (fbv w 0 6))
  else if fld w 11 6 = 4 ∧ fld w 21 4 = 0 then
    some (.vextS32 (fbv w 17 4) (fbv w 6 5) (fbv w 0 6))
  else if fld w 0 6 = 0 ∧ fld w 13 8 = 2 then
    some (.vsplat (fbv w 21 4) (fbv w 11 2) (fbv w 6 5))
  else if fld w 0 6 = 0 ∧ fld w 11 10 = 0xc ∧ fld w 23 2 = 0 then
    some (.vinsK (fbv w 21 2) (fbv w 6 5))
  else if fld w 0 6 = 0 ∧ fld w 11 6 = 0x10 ∧ fld w 19 6 = 0 then
    some (.vextK (fbv w 17 2) (fbv w 6 5))
  else if fld w 11 6 = 0x14 ∧ fld w 21 4 = 0 then
    some (.vextZ32 (fbv w 17 4) (fbv w 6 5) (fbv w 0 6))
  else none

/-- An instruction word before the field checks: one decoder for each assigned major (R195). -/
def decodeRaw (w : Nat) : Option Instr :=
  match fld w 25 6 with
  | 0x01 => decodeMajor01 w
  | 0x02 => decodeMajor02 w
  | 0x03 => decodeMajor03 w
  | 0x04 => decodeMajor04 w
  | 0x05 => decodeMajor05 w
  | 0x06 => decodeMajor06 w
  | 0x07 => decodeMajor07 w
  | 0x08 => decodeMajor08 w
  | 0x09 => decodeMajor09 w
  | 0x0A => decodeMajor0A w
  | 0x0B => decodeMajor0B w
  | 0x0C => decodeMajor0C w
  | 0x0D => decodeMajor0D w
  | 0x0E => decodeMajor0E w
  | 0x0F => decodeMajor0F w
  | 0x10 => decodeMajor10 w
  | 0x11 => decodeMajor11 w
  | 0x12 => decodeMajor12 w
  | 0x13 => decodeMajor13 w
  | 0x14 => decodeMajor14 w
  | 0x15 => decodeMajor15 w
  | 0x16 => decodeMajor16 w
  | 0x17 => decodeMajor17 w
  | 0x20 => decodeMajor20 w
  | 0x21 => decodeMajor21 w
  | 0x22 => decodeMajor22 w
  | 0x23 => decodeMajor23 w
  | 0x24 => decodeMajor24 w
  | 0x25 => decodeMajor25 w
  | 0x26 => decodeMajor26 w
  | 0x27 => decodeMajor27 w
  | 0x28 => decodeMajor28 w
  | 0x29 => decodeMajor29 w
  | 0x2A => decodeMajor2A w
  | 0x2C => decodeMajor2C w
  | 0x30 => decodeMajor30 w
  | 0x31 => decodeMajor31 w
  | 0x32 => decodeMajor32 w
  | 0x33 => decodeMajor33 w
  | 0x34 => decodeMajor34 w
  | 0x35 => decodeMajor35 w
  | 0x36 => decodeMajor36 w
  | 0x37 => decodeMajor37 w
  | _ => none

/-- The instruction a word stands for, or `none` where it stands for none (R191, R195). -/
def decodeNat (w : Nat) : Option Instr :=
  (decodeRaw w).bind fun i => if i.wf then some i else none

/-- As `decodeNat`, on a 32-bit word. -/
def decodeWord (w : BitVec 32) : Option Instr := decodeNat w.toNat

/-- The decoder on a word numbered as spec/opcode_table.json numbers it. Every row is one 32-bit word, so the bits at and
above nbits are zero. -/
def decodeTableWord (nbits w : Nat) : Option Instr := decodeNat (w % 2 ^ min nbits 32)

/-- A bit as a number. -/
def bit (b : Bool) : Nat := if b then 1 else 0

/-- The guard's place in an R-format word. -/
def guardBits (g : Guard) : Nat := g.p.toNat * 0x80 + bit g.inv * 0x40

/-- The word of a well-formed instruction, with bit 31 clear; `none` for an event, which has no word. -/
def encodeNat : Instr → Option Nat
  | .sysr s r => some (0x02000000 + s.toNat * 0x100000 + r.toNat * 0x100)
  | .sysw s r => some (0x02000001 + s.toNat * 0x100000 + r.toNat * 0x100)
  | .sysx s r => some (0x02000002 + s.toNat * 0x100000 + r.toNat * 0x100)
  | .eret => some (0x02000004)
  | .scall c => some (0x02000005 + c.toNat * 0x100)
  | .bkpt c => some (0x02000006 + c.toNat * 0x100)
  | .ppoint => some (0x02000007)
  | .ifence => some (0x02000008)
  | .halt c => some (0x02000009 + c.toNat * 0x100)
  | .fence s => some (0x02000010 + s.code)
  | .time d => some (0x02000020 + d.toNat * 0x100000)
  | .wait l s c t x => some (0x04000000 + l.toNat * 0x100000 + s.toNat * 0x8000 + c.toNat * 0x400 + t.toNat * 0x20 + x.toNat)
  | .br o => some (0x06000000 + o.toNat)
  | .brc p inv o => some (0x06000000 + p.toNat * 0x400000 + bit inv * 0x200000 + o.toNat)
  | .jal d i => some (0x08000000 + d.toNat * 0x100000 + i.toNat)
  | .jalr d a i => some (0x0A000000 + d.toNat * 0x100000 + a.toNat * 0x8000 + i.toNat)
  | .loop a i => some (0x0C000000 + a.toNat * 0x8000 + i.toNat)
  | .ld d b h t o => some (0x0E000000 + d.toNat * 0x100000 + b.toNat * 0x8000 + h.toNat * 0x2000 + t.toNat * 0x400 + o.toNat)
  | .st d b h t o => some (0x10000000 + d.toNat * 0x100000 + b.toNat * 0x8000 + h.toNat * 0x2000 + t.toNat * 0x400 + o.toNat)
  | .ldx d a b g t => some (0x12000000 + d.toNat * 0x100000 + a.toNat * 0x8000 + b.toNat * 0x400 + guardBits g + t.toNat)
  | .redOp a b g o w => some (0x14000000 + a.toNat * 0x8000 + b.toNat * 0x400 + guardBits g + o.code * 0x4 + w.code)
  | .redX a b g => some (0x14000018 + a.toNat * 0x8000 + b.toNat * 0x400 + guardBits g)
  | .amoSwap d a b g w => some (0x14000020 + d.toNat * 0x100000 + a.toNat * 0x8000 + b.toNat * 0x400 + guardBits g + w.code)
  | .amoCas d a b g w => some (0x14000024 + d.toNat * 0x100000 + a.toNat * 0x8000 + b.toNat * 0x400 + guardBits g + w.code)
  | .amoAdd d a b g w => some (0x14000028 + d.toNat * 0x100000 + a.toNat * 0x8000 + b.toNat * 0x400 + guardBits g + w.code)
  | .vld d k b e x => some (0x16000000 + d.toNat * 0x200000 + k.toNat * 0x800 + b.toNat * 0x40 + e.code * 0x2 + bit x)
  | .vst d k b e => some (0x16000008 + d.toNat * 0x200000 + k.toNat * 0x800 + b.toNat * 0x40 + e.code * 0x2)
  | .vlds d c k b e x => some (0x16000010 + d.toNat * 0x200000 + c.toNat * 0x20000 + k.toNat * 0x800 + b.toNat * 0x40 + e.code * 0x2 + bit x)
  | .vsts d c k b e => some (0x16000018 + d.toNat * 0x200000 + c.toNat * 0x20000 + k.toNat * 0x800 + b.toNat * 0x40 + e.code * 0x2)
  | .vgath d i k b e x => some (0x16000020 + d.toNat * 0x200000 + i.toNat * 0x2000 + k.toNat * 0x800 + b.toNat * 0x40 + e.code * 0x2 + bit x)
  | .vscat d i k b e => some (0x16000028 + d.toNat * 0x200000 + i.toNat * 0x2000 + k.toNat * 0x800 + b.toNat * 0x40 + e.code * 0x2)
  | .ctxnew d a g => some (0x18000000 + d.toNat * 0x100000 + a.toNat * 0x8000 + guardBits g)
  | .ctxset a g => some (0x18000001 + a.toNat * 0x8000 + guardBits g)
  | .ctxfold a g => some (0x18000002 + a.toNat * 0x8000 + guardBits g)
  | .ctxret a g => some (0x18000003 + a.toNat * 0x8000 + guardBits g)
  | .ctxq d a g => some (0x18000004 + d.toNat * 0x100000 + a.toNat * 0x8000 + guardBits g)
  | .tlod d a b k s c => some (0x1A000000 + d.toNat * 0x200000 + a.toNat * 0x20000 + b.toNat * 0x2000 + k.toNat * 0x800 + s.toNat * 0x40 + c.toNat)
  | .tsmp d a b k s c => some (0x1A000008 + d.toNat * 0x200000 + a.toNat * 0x20000 + b.toNat * 0x2000 + k.toNat * 0x800 + s.toNat * 0x40 + c.toNat)
  | .resq d a k s => some (0x1A000010 + d.toNat * 0x200000 + a.toNat * 0x20000 + k.toNat * 0x800 + s.toNat * 0x40)
  | .resw d a k s t => some (0x1A000018 + d.toNat * 0x200000 + a.toNat * 0x20000 + k.toNat * 0x800 + s.toNat * 0x40 + bit t * 0x4)
  | .rmfence s => some (0x1A000020 + s.toNat * 0x40)
  | .spawnr d a b g => some (0x1C000000 + d.toNat * 0x100000 + a.toNat * 0x8000 + b.toNat * 0x400 + guardBits g)
  | .spawnc a g => some (0x1C000001 + a.toNat * 0x8000 + guardBits g)
  | .tend => some (0x1C000002)
  | .await a => some (0x1C000003 + a.toNat * 0x8000)
  | .join a g => some (0x1C000004 + a.toNat * 0x8000 + guardBits g)
  | .stamp d a b g => some (0x1C000005 + d.toNat * 0x100000 + a.toNat * 0x8000 + b.toNat * 0x400 + guardBits g)
  | .yield => some (0x1C000006)
  | .bar l => some (0x1E000000 + l.toNat)
  | .barX l => some (0x1E000008 + l.toNat)
  | .barv d a b l => some (0x1E000010 + d.toNat * 0x100000 + a.toNat * 0x8000 + b.code * 0x400 + l.toNat)
  | .barvX d a b l => some (0x1E000018 + d.toNat * 0x100000 + a.toNat * 0x8000 + b.code * 0x400 + l.toNat)
  | .domq d g l => some (0x1E000020 + d.toNat * 0x100000 + guardBits g + l.toNat)
  | .send a b g => some (0x20000000 + a.toNat * 0x8000 + b.toNat * 0x400 + guardBits g)
  | .recv d a c => some (0x20000001 + d.toNat * 0x100000 + a.toNat * 0x8000 + c.toNat * 0x400)
  | .recvq d c g => some (0x20000002 + d.toNat * 0x100000 + c.toNat * 0x400 + guardBits g)
  | .rplay d a g => some (0x20000003 + d.toNat * 0x100000 + a.toNat * 0x8000 + guardBits g)
  | .xsend r s l => some (0x22000000 + r.toNat * 0x100000 + s.toNat * 0x8000 + l.toNat)
  | .xrecv c k => some (0x22004000 + c.toNat * 0x100000 + k.toNat)
  | .mlease n => some (0x24000000 + n.toNat)
  | .mrel => some (0x24000800)
  | .mclr r c m n => some (0x24001000 + r.toNat * 0x40 + c.toNat * 0x10 + m.toNat * 0x4 + n.toNat)
  | .mrot a b k => some (0x24001800 + a.toNat * 0x100000 + b.toNat * 0x8000 + k.toNat)
  | .mrd a b => some (0x24002000 + a.toNat * 0x100000 + b.toNat * 0x8000)
  | .mrdv b v => some (0x24002800 + b.toNat * 0x8000 + v.toNat)
  | .mma a b r c m n k => some (0x24004000 + a.toNat * 0x100000 + b.toNat * 0x8000 + r.toNat * 0x1000 + c.toNat * 0x400 + m.toNat * 0x100 + n.toNat * 0x40 + k.toNat)
  | .cpy a b l => some (0x26000000 + a.toNat * 0x100000 + b.toNat * 0x8000 + l.toNat)
  | .cpy2d a b r l => some (0x26001000 + a.toNat * 0x100000 + b.toNat * 0x8000 + r.toNat * 0x40 + l.toNat)
  | .cpyg a b l => some (0x26002000 + a.toNat * 0x100000 + b.toNat * 0x8000 + l.toNat)
  | .coll a b k e l => some (0x26003000 + a.toNat * 0x100000 + b.toNat * 0x8000 + k.code * 0x200 + e.toNat * 0x40 + l.toNat)
  | .psetup d a => some (0x28000000 + d.toNat * 0x200000 + a.toNat * 0x20000)
  | .pcover d a c l m s => some (0x28000008 + d.toNat * 0x200000 + a.toNat * 0x20000 + c.toNat * 0x8000 + l.toNat * 0x2000 + m.toNat * 0x800 + s.toNat * 0x40)
  | .pdepth e a w m s c => some (0x28000010 + e.toNat * 0x200000 + a.toNat * 0x20000 + bit w * 0x2000 + m.toNat * 0x800 + s.toNat * 0x40 + c.code)
  | .pblend r a b m s o => some (0x28000018 + bit r * 0x400000 + a.toNat * 0x20000 + b.toNat * 0x2000 + m.toNat * 0x800 + s.toNat * 0x40 + o.code)
  | .pblendC r a b m s o => some (0x28200018 + bit r * 0x400000 + a.toNat * 0x20000 + b.toNat * 0x2000 + m.toNat * 0x800 + s.toNat * 0x40 + o.code)
  | .pld d m s l => some (0x28000020 + d.toNat * 0x200000 + m.toNat * 0x800 + s.toNat * 0x40 + l.code)
  | .pst d m s l => some (0x28000028 + d.toNat * 0x200000 + m.toNat * 0x800 + s.toNat * 0x40 + l.code)
  | .pstX d a m l => some (0x28000030 + d.toNat * 0x200000 + a.toNat * 0x20000 + m.toNat * 0x800 + l.code)
  | .emit a b => some (0x2A000000 + a.toNat * 0x100000 + b.toNat * 0x8000)
  | .emitq a b => some (0x2A004000 + a.toNat * 0x100000 + b.toNat * 0x8000)
  | .vfpush a s f => some (0x2C000000 + a.toNat * 0x20000 + s.toNat * 0x40 + f.code * 0x2)
  | .vfpop d s => some (0x2C000008 + d.toNat * 0x200000 + s.toNat * 0x40)
  | .vffree s => some (0x2C000010 + s.toNat * 0x40)
  | .vclaim d a g => some (0x2E000000 + d.toNat * 0x100000 + a.toNat * 0x8000 + guardBits g)
  | .vrel g => some (0x2E000001 + guardBits g)
  | .add d a b g => some (0x40000000 + d.toNat * 0x100000 + a.toNat * 0x8000 + b.toNat * 0x400 + guardBits g)
  | .sub d a b g => some (0x40000001 + d.toNat * 0x100000 + a.toNat * 0x8000 + b.toNat * 0x400 + guardBits g)
  | .and d a b g => some (0x40000002 + d.toNat * 0x100000 + a.toNat * 0x8000 + b.toNat * 0x400 + guardBits g)
  | .or d a b g => some (0x40000003 + d.toNat * 0x100000 + a.toNat * 0x8000 + b.toNat * 0x400 + guardBits g)
  | .xor d a b g => some (0x40000004 + d.toNat * 0x100000 + a.toNat * 0x8000 + b.toNat * 0x400 + guardBits g)
  | .andn d a b g => some (0x40000005 + d.toNat * 0x100000 + a.toNat * 0x8000 + b.toNat * 0x400 + guardBits g)
  | .orn d a b g => some (0x40000006 + d.toNat * 0x100000 + a.toNat * 0x8000 + b.toNat * 0x400 + guardBits g)
  | .sll d a b g => some (0x40000008 + d.toNat * 0x100000 + a.toNat * 0x8000 + b.toNat * 0x400 + guardBits g)
  | .srl d a b g => some (0x40000009 + d.toNat * 0x100000 + a.toNat * 0x8000 + b.toNat * 0x400 + guardBits g)
  | .sra d a b g => some (0x4000000A + d.toNat * 0x100000 + a.toNat * 0x8000 + b.toNat * 0x400 + guardBits g)
  | .rol d a b g => some (0x4000000B + d.toNat * 0x100000 + a.toNat * 0x8000 + b.toNat * 0x400 + guardBits g)
  | .ror d a b g => some (0x4000000C + d.toNat * 0x100000 + a.toNat * 0x8000 + b.toNat * 0x400 + guardBits g)
  | .min d a b g => some (0x40000010 + d.toNat * 0x100000 + a.toNat * 0x8000 + b.toNat * 0x400 + guardBits g)
  | .max d a b g => some (0x40000011 + d.toNat * 0x100000 + a.toNat * 0x8000 + b.toNat * 0x400 + guardBits g)
  | .minz d a b g => some (0x40000012 + d.toNat * 0x100000 + a.toNat * 0x8000 + b.toNat * 0x400 + guardBits g)
  | .maxz d a b g => some (0x40000013 + d.toNat * 0x100000 + a.toNat * 0x8000 + b.toNat * 0x400 + guardBits g)
  | .addsh d a b g s => some (0x40000018 + d.toNat * 0x100000 + a.toNat * 0x8000 + b.toNat * 0x400 + guardBits g + s.toNat)
  | .sext d a g w => some (0x40000020 + d.toNat * 0x100000 + a.toNat * 0x8000 + guardBits g + w.code)
  | .zext d a g w => some (0x40000024 + d.toNat * 0x100000 + a.toNat * 0x8000 + guardBits g + w.code)
  | .clz d a g => some (0x40000028 + d.toNat * 0x100000 + a.toNat * 0x8000 + guardBits g)
  | .ctz d a g => some (0x40000029 + d.toNat * 0x100000 + a.toNat * 0x8000 + guardBits g)
  | .popc d a g => some (0x4000002A + d.toNat * 0x100000 + a.toNat * 0x8000 + guardBits g)
  | .bswap d a g => some (0x4000002B + d.toNat * 0x100000 + a.toNat * 0x8000 + guardBits g)
  | .sel d a b p inv => some (0x40000030 + d.toNat * 0x100000 + a.toNat * 0x8000 + b.toNat * 0x400 + p.toNat * 0x80 + bit inv * 0x40)
  | .addi d a i => some (0x42000000 + d.toNat * 0x100000 + a.toNat * 0x8000 + i.toNat)
  | .andi d a i => some (0x44000000 + d.toNat * 0x100000 + a.toNat * 0x8000 + i.toNat)
  | .ori d a i => some (0x46000000 + d.toNat * 0x100000 + a.toNat * 0x8000 + i.toNat)
  | .xori d a i => some (0x48000000 + d.toNat * 0x100000 + a.toNat * 0x8000 + i.toNat)
  | .slli d a m => some (0x4A000000 + d.toNat * 0x100000 + a.toNat * 0x8000 + m.toNat)
  | .srli d a m => some (0x4A001000 + d.toNat * 0x100000 + a.toNat * 0x8000 + m.toNat)
  | .srai d a m => some (0x4A002000 + d.toNat * 0x100000 + a.toNat * 0x8000 + m.toNat)
  | .roli d a m => some (0x4A003000 + d.toNat * 0x100000 + a.toNat * 0x8000 + m.toNat)
  | .rori d a m => some (0x4A004000 + d.toNat * 0x100000 + a.toNat * 0x8000 + m.toNat)
  | .ldhi d i => some (0x4C000000 + d.toNat * 0x100000 + i.toNat)
  | .cmp p a b g c => some (0x4E000000 + p.toNat * 0x100000 + a.toNat * 0x8000 + b.toNat * 0x400 + guardBits g + c.code)
  | .cmpi p a c i => some (0x50000000 + p.toNat * 0x100000 + a.toNat * 0x8000 + c.code * 0x1000 + i.toNat)
  | .mul d a b g => some (0x52000000 + d.toNat * 0x100000 + a.toNat * 0x8000 + b.toNat * 0x400 + guardBits g)
  | .mulh d a b g => some (0x52000001 + d.toNat * 0x100000 + a.toNat * 0x8000 + b.toNat * 0x400 + guardBits g)
  | .mulhz d a b g => some (0x52000002 + d.toNat * 0x100000 + a.toNat * 0x8000 + b.toNat * 0x400 + guardBits g)
  | .div d a b g => some (0x52000004 + d.toNat * 0x100000 + a.toNat * 0x8000 + b.toNat * 0x400 + guardBits g)
  | .divz d a b g => some (0x52000005 + d.toNat * 0x100000 + a.toNat * 0x8000 + b.toNat * 0x400 + guardBits g)
  | .rem d a b g => some (0x52000006 + d.toNat * 0x100000 + a.toNat * 0x8000 + b.toNat * 0x400 + guardBits g)
  | .remz d a b g => some (0x52000007 + d.toNat * 0x100000 + a.toNat * 0x8000 + b.toNat * 0x400 + guardBits g)
  | .fadd d a b g => some (0x54000000 + d.toNat * 0x100000 + a.toNat * 0x8000 + b.toNat * 0x400 + guardBits g)
  | .fsub d a b g => some (0x54000001 + d.toNat * 0x100000 + a.toNat * 0x8000 + b.toNat * 0x400 + guardBits g)
  | .fmul d a b g => some (0x54000002 + d.toNat * 0x100000 + a.toNat * 0x8000 + b.toNat * 0x400 + guardBits g)
  | .ffma d a b g => some (0x54000003 + d.toNat * 0x100000 + a.toNat * 0x8000 + b.toNat * 0x400 + guardBits g)
  | .fmin d a b g => some (0x54000004 + d.toNat * 0x100000 + a.toNat * 0x8000 + b.toNat * 0x400 + guardBits g)
  | .fmax d a b g => some (0x54000005 + d.toNat * 0x100000 + a.toNat * 0x8000 + b.toNat * 0x400 + guardBits g)
  | .fabs d a g => some (0x54000006 + d.toNat * 0x100000 + a.toNat * 0x8000 + guardBits g)
  | .fneg d a g => some (0x54000007 + d.toNat * 0x100000 + a.toNat * 0x8000 + guardBits g)
  | .fcmp p a b g c => some (0x54000008 + p.toNat * 0x100000 + a.toNat * 0x8000 + b.toNat * 0x400 + guardBits g + c.code)
  | .fcvt d a g c => some (0x54000010 + d.toNat * 0x100000 + a.toNat * 0x8000 + guardBits g + c.code)
  | .bfx d a p w => some (0x58000000 + d.toNat * 0x100000 + a.toNat * 0x8000 + p.toNat * 0x40 + w.toNat)
  | .bfxz d a p w => some (0x58002000 + d.toNat * 0x100000 + a.toNat * 0x8000 + p.toNat * 0x40 + w.toNat)
  | .bfi d a p w => some (0x58004000 + d.toNat * 0x100000 + a.toNat * 0x8000 + p.toNat * 0x40 + w.toNat)
  | .vaddInt d a b k t s => some (0x60000000 + d.toNat * 0x200000 + a.toNat * 0x20000 + b.toNat * 0x2000 + k.toNat * 0x800 + t.code * 0x100 + bit s * 0x80)
  | .vsubInt d a b k t s => some (0x60000001 + d.toNat * 0x200000 + a.toNat * 0x20000 + b.toNat * 0x2000 + k.toNat * 0x800 + t.code * 0x100 + bit s * 0x80)
  | .vmulInt d a b k t s => some (0x60000002 + d.toNat * 0x200000 + a.toNat * 0x20000 + b.toNat * 0x2000 + k.toNat * 0x800 + t.code * 0x100 + bit s * 0x80)
  | .vmulh d a b k t s => some (0x60000003 + d.toNat * 0x200000 + a.toNat * 0x20000 + b.toNat * 0x2000 + k.toNat * 0x800 + t.code * 0x100 + bit s * 0x80)
  | .vminInt d a b k t s => some (0x60000004 + d.toNat * 0x200000 + a.toNat * 0x20000 + b.toNat * 0x2000 + k.toNat * 0x800 + t.code * 0x100 + bit s * 0x80)
  | .vmaxInt d a b k t s => some (0x60000005 + d.toNat * 0x200000 + a.toNat * 0x20000 + b.toNat * 0x2000 + k.toNat * 0x800 + t.code * 0x100 + bit s * 0x80)
  | .vand d a b k t s => some (0x60000006 + d.toNat * 0x200000 + a.toNat * 0x20000 + b.toNat * 0x2000 + k.toNat * 0x800 + t.code * 0x100 + bit s * 0x80)
  | .vor d a b k t s => some (0x60000007 + d.toNat * 0x200000 + a.toNat * 0x20000 + b.toNat * 0x2000 + k.toNat * 0x800 + t.code * 0x100 + bit s * 0x80)
  | .vxor d a b k t s => some (0x60000008 + d.toNat * 0x200000 + a.toNat * 0x20000 + b.toNat * 0x2000 + k.toNat * 0x800 + t.code * 0x100 + bit s * 0x80)
  | .vandn d a b k t s => some (0x60000009 + d.toNat * 0x200000 + a.toNat * 0x20000 + b.toNat * 0x2000 + k.toNat * 0x800 + t.code * 0x100 + bit s * 0x80)
  | .vsll d a b k t s => some (0x6000000A + d.toNat * 0x200000 + a.toNat * 0x20000 + b.toNat * 0x2000 + k.toNat * 0x800 + t.code * 0x100 + bit s * 0x80)
  | .vsrl d a b k t s => some (0x6000000B + d.toNat * 0x200000 + a.toNat * 0x20000 + b.toNat * 0x2000 + k.toNat * 0x800 + t.code * 0x100 + bit s * 0x80)
  | .vsra d a b k t s => some (0x6000000C + d.toNat * 0x200000 + a.toNat * 0x20000 + b.toNat * 0x2000 + k.toNat * 0x800 + t.code * 0x100 + bit s * 0x80)
  | .vadds d a b k t s => some (0x6000000D + d.toNat * 0x200000 + a.toNat * 0x20000 + b.toNat * 0x2000 + k.toNat * 0x800 + t.code * 0x100 + bit s * 0x80)
  | .vsubs d a b k t s => some (0x6000000E + d.toNat * 0x200000 + a.toNat * 0x20000 + b.toNat * 0x2000 + k.toNat * 0x800 + t.code * 0x100 + bit s * 0x80)
  | .vabsInt d a k t => some (0x6000000F + d.toNat * 0x200000 + a.toNat * 0x20000 + k.toNat * 0x800 + t.code * 0x100)
  | .vdiv d a b k t s => some (0x60000010 + d.toNat * 0x200000 + a.toNat * 0x20000 + b.toNat * 0x2000 + k.toNat * 0x800 + t.code * 0x100 + bit s * 0x80)
  | .vrem d a b k t s => some (0x60000011 + d.toNat * 0x200000 + a.toNat * 0x20000 + b.toNat * 0x2000 + k.toNat * 0x800 + t.code * 0x100 + bit s * 0x80)
  | .vmerge d a b k t s => some (0x60000012 + d.toNat * 0x200000 + a.toNat * 0x20000 + b.toNat * 0x2000 + k.toNat * 0x800 + t.code * 0x100 + bit s * 0x80)
  | .vaddFp d a b k t s => some (0x62000400 + d.toNat * 0x200000 + a.toNat * 0x20000 + b.toNat * 0x2000 + k.toNat * 0x800 + t.code * 0x100 + bit s * 0x80)
  | .vsubFp d a b k t s => some (0x62000401 + d.toNat * 0x200000 + a.toNat * 0x20000 + b.toNat * 0x2000 + k.toNat * 0x800 + t.code * 0x100 + bit s * 0x80)
  | .vmulFp d a b k t s => some (0x62000402 + d.toNat * 0x200000 + a.toNat * 0x20000 + b.toNat * 0x2000 + k.toNat * 0x800 + t.code * 0x100 + bit s * 0x80)
  | .vfma d a b k t s => some (0x62000403 + d.toNat * 0x200000 + a.toNat * 0x20000 + b.toNat * 0x2000 + k.toNat * 0x800 + t.code * 0x100 + bit s * 0x80)
  | .vfms d a b k t s => some (0x62000404 + d.toNat * 0x200000 + a.toNat * 0x20000 + b.toNat * 0x2000 + k.toNat * 0x800 + t.code * 0x100 + bit s * 0x80)
  | .vminFp d a b k t s => some (0x62000405 + d.toNat * 0x200000 + a.toNat * 0x20000 + b.toNat * 0x2000 + k.toNat * 0x800 + t.code * 0x100 + bit s * 0x80)
  | .vmaxFp d a b k t s => some (0x62000406 + d.toNat * 0x200000 + a.toNat * 0x20000 + b.toNat * 0x2000 + k.toNat * 0x800 + t.code * 0x100 + bit s * 0x80)
  | .vabsFp d a k t => some (0x62000407 + d.toNat * 0x200000 + a.toNat * 0x20000 + k.toNat * 0x800 + t.code * 0x100)
  | .vneg d a k t => some (0x62000408 + d.toNat * 0x200000 + a.toNat * 0x20000 + k.toNat * 0x800 + t.code * 0x100)
  | .vrndi d a k t => some (0x62000409 + d.toNat * 0x200000 + a.toNat * 0x20000 + k.toNat * 0x800 + t.code * 0x100)
  | .vcvt d a b k c h => some (0x64000000 + d.toNat * 0x200000 + a.toNat * 0x20000 + b.toNat * 0x2000 + k.toNat * 0x800 + c.code * 0x20 + bit h * 0x10)
  | .xtof d a k => some (0x640001C0 + d.toNat * 0x200000 + a.toNat * 0x20000 + k.toNat * 0x800)
  | .vrcp d a k t => some (0x66000400 + d.toNat * 0x200000 + a.toNat * 0x20000 + k.toNat * 0x800 + t.code * 0x100)
  | .vrsq d a k t => some (0x66000401 + d.toNat * 0x200000 + a.toNat * 0x20000 + k.toNat * 0x800 + t.code * 0x100)
  | .vexp2 d a k t => some (0x66000402 + d.toNat * 0x200000 + a.toNat * 0x20000 + k.toNat * 0x800 + t.code * 0x100)
  | .vlog2 d a k t => some (0x66000403 + d.toNat * 0x200000 + a.toNat * 0x20000 + k.toNat * 0x800 + t.code * 0x100)
  | .vsin d a k t => some (0x66000404 + d.toNat * 0x200000 + a.toNat * 0x20000 + k.toNat * 0x800 + t.code * 0x100)
  | .vcos d a k t => some (0x66000405 + d.toNat * 0x200000 + a.toNat * 0x20000 + k.toNat * 0x800 + t.code * 0x100)
  | .vred d a k o t => some (0x68000000 + d.toNat * 0x200000 + a.toNat * 0x20000 + k.toNat * 0x800 + o.code * 0x20 + t.code * 0x8)
  | .vperm d a b k => some (0x68000100 + d.toNat * 0x200000 + a.toNat * 0x20000 + b.toNat * 0x2000 + k.toNat * 0x800)
  | .vslide d a k r n => some (0x68000200 + d.toNat * 0x200000 + a.toNat * 0x20000 + k.toNat * 0x800 + bit r * 0x80 + n.toNat)
  | .vbcast d a k n => some (0x68000300 + d.toNat * 0x200000 + a.toNat * 0x20000 + k.toNat * 0x800 + n.toNat)
  | .viota d k => some (0x68000400 + d.toNat * 0x200000 + k.toNat * 0x800)
  | .vcmp e a b k t s c => some (0x6A000000 + e.toNat * 0x200000 + a.toNat * 0x20000 + b.toNat * 0x2000 + k.toNat * 0x800 + t.code * 0x100 + bit s * 0x80 + c.code)
  | .vdot d a b k t i s => some (0x6C000000 + d.toNat * 0x200000 + a.toNat * 0x20000 + b.toNat * 0x2000 + k.toNat * 0x800 + t.code * 0x100 + bit i * 0x80 + bit s * 0x40)
  | .vins d s n => some (0x6E000000 + d.toNat * 0x200000 + s.toNat * 0x40 + n.toNat)
  | .vextS32 a s n => some (0x6E002000 + a.toNat * 0x20000 + s.toNat * 0x40 + n.toNat)
  | .vsplat d k s => some (0x6E004000 + d.toNat * 0x200000 + k.toNat * 0x800 + s.toNat * 0x40)
  | .vinsK e s => some (0x6E006000 + e.toNat * 0x200000 + s.toNat * 0x40)
  | .vextK e s => some (0x6E008000 + e.toNat * 0x20000 + s.toNat * 0x40)
  | .vextZ32 a s n => some (0x6E00A000 + a.toNat * 0x20000 + s.toNat * 0x40 + n.toNat)
  | .systemRegisterWrite _ _ _ => none
  | .loftwaysWrite _ _ => none
  | .loftwaysSwitch _ => none
  | .loftwaysTimeout _ => none
  | .grbaseWrite _ _ => none
  | .grtailWrite _ _ => none
  | .upgateWrite _ _ => none
  | .driveGate _ => none
  | .launchDoorbell _ _ => none
  | .hostRegisterWrite _ _ _ => none
  | .launchRecord _ _ => none
  | .launchComplete _ => none
  | .completionRecord _ => none
  | .launchTimeout _ => none
  | .taskPop _ => none
  | .recordAging _ _ => none
  | .orderedCommit _ => none
  | .stallResume _ => none
  | .leaseGrant _ => none
  | .spawnStallLimit _ => none
  | .contextStallLimit _ => none
  | .barrierRelease _ _ _ => none
  | .barrierWatchdog _ _ _ => none
  | .exchangeLaunch _ => none
  | .transferLanding _ _ => none
  | .xrecvDeadline _ => none
  | .messageDelivery _ => none
  | .spillWake _ _ => none
  | .fifoEntry _ => none
  | .loadReturn _ _ => none
  | .storePerformed _ _ => none
  | .engineRegistration _ => none
  | .copyComplete _ => none
  | .matrixCommandComplete _ => none
  | .mrotLanding _ => none
  | .preemptRequest _ => none
  | .preemptDistanceExpiry _ => none
  | .trapDelivery _ => none
  | .emissionCopy _ _ => none
  | .emissionEnd _ _ => none
  | .cellarRefresh _ => none
  | .cellarSensorChange _ _ => none
  | .thsenseRefresh _ _ _ => none
  | .thallowWindow _ _ => none
  | .filterEntryExpiry _ => none
  | .hostBar2Read _ _ _ => none
  | .hostBar2Write _ _ _ => none
  | .sceneMessage _ => none
  | .pcreate _ => none
  | .pdestroy _ => none
  | .pbind _ _ => none
  | .punbind _ => none
  | .pevict _ => none
  | .quantumExpiry _ => none
  | .preemption _ => none
  | .columnContextExchange _ _ => none
  | .firmwareCommand _ => none
  | .referencePulse _ => none
  | .slewEnd => none
  | .referenceLoss => none
  | .setroot _ _ => none
  | .inval _ _ _ => none
  | .resolve _ _ _ => none
  | .faultCombine _ => none
  | .faultBatchDelivery _ => none
  | .pageFaultService _ _ _ => none
  | .partitionKill _ _ _ => none
  | .thermalTrip _ => none
  | .stage _ _ => none
  | .activate => none
  | .confirm => none
  | .rollback _ => none
  | .floor _ => none
  | .quote _ _ _ => none
  | .telsnap _ => none
  | .trialTimeout => none
  | .deviceReset => none
  | .emitterLayerSensorChange _ => none

/-- The encoder: the word of an instruction, `none` for an event or an ill-formed instruction. -/
def encode (i : Instr) : Option (BitVec 32) :=
  if i.wf then (encodeNat i).map (BitVec.ofNat 32) else none

end Sys2Proof
end

