-- ==== Sys2Proof/Machine/Operands.lean ====
section
/-! DEFINITION. What an instruction's encoding names, before its effect: its guard (R192), the registers it reads and writes
(R187, R199), the core kind and the level it needs (R12, R13, R352 to R356), and the checks every instruction makes before
its own (R194). -/

namespace Sys2Proof

open Sys2Proof.Machine (Reg)

/-- The guard an instruction carries (R192); p0 not inverted for the others. -/
def Instr.guard : Instr → Guard
  | .ldx _ _ _ g _ => g
  | .redOp _ _ g _ _ => g
  | .redX _ _ g => g
  | .amoSwap _ _ _ g _ => g
  | .amoCas _ _ _ g _ => g
  | .amoAdd _ _ _ g _ => g
  | .ctxnew _ _ g => g
  | .ctxset _ g => g
  | .ctxfold _ g => g
  | .ctxret _ g => g
  | .ctxq _ _ g => g
  | .spawnr _ _ _ g => g
  | .spawnc _ g => g
  | .join _ g => g
  | .stamp _ _ _ g => g
  | .domq _ g _ => g
  | .send _ _ g => g
  | .recvq _ _ g => g
  | .rplay _ _ g => g
  | .vclaim _ _ g => g
  | .vrel g => g
  | .add _ _ _ g => g
  | .sub _ _ _ g => g
  | .and _ _ _ g => g
  | .or _ _ _ g => g
  | .xor _ _ _ g => g
  | .andn _ _ _ g => g
  | .orn _ _ _ g => g
  | .sll _ _ _ g => g
  | .srl _ _ _ g => g
  | .sra _ _ _ g => g
  | .rol _ _ _ g => g
  | .ror _ _ _ g => g
  | .min _ _ _ g => g
  | .max _ _ _ g => g
  | .minz _ _ _ g => g
  | .maxz _ _ _ g => g
  | .addsh _ _ _ g _ => g
  | .sext _ _ g _ => g
  | .zext _ _ g _ => g
  | .clz _ _ g => g
  | .ctz _ _ g => g
  | .popc _ _ g => g
  | .bswap _ _ g => g
  | .cmp _ _ _ g _ => g
  | .mul _ _ _ g => g
  | .mulh _ _ _ g => g
  | .mulhz _ _ _ g => g
  | .div _ _ _ g => g
  | .divz _ _ _ g => g
  | .rem _ _ _ g => g
  | .remz _ _ _ g => g
  | .fadd _ _ _ g => g
  | .fsub _ _ _ g => g
  | .fmul _ _ _ g => g
  | .ffma _ _ _ g => g
  | .fmin _ _ _ g => g
  | .fmax _ _ _ g => g
  | .fabs _ _ g => g
  | .fneg _ _ g => g
  | .fcmp _ _ _ g _ => g
  | .fcvt _ _ g _ => g
  | _ => ⟨0, false⟩

/-- The register of a second operand: a vector, or the scalar of SB (R288). -/
def secondReg (b : BitVec 4) (sb : Bool) : Reg := if sb then .s (b.zeroExtend 5) else .v b

/-- The conversions that pack two sources into one register (R293). -/
def CvtKind.twoSources : CvtKind → Bool
  | .f16f32 | .bf16f32 | .s16s32 | .z16z32 | .s8s16 | .z8z16 | .e4m3f16 | .e5m2f16 => true
  | _ => false

/-- The scalar and vector registers an instruction reads as it issues (R92, R199): the interlock waits for them. -/
def Instr.reads : Instr → List Reg
  | .sysw s _ => [.s s]
  | .sysx s _ => [.s s]
  | .jalr _ a _ => [.s a]
  | .loop a _ => [.s a]
  | .ld _ b _ _ _ => [.s b]
  | .st d b _ _ _ => [.s d, .s b]
  | .ldx _ a b _ _ => [.s a, .s b]
  | .redOp a b _ _ _ => [.s a, .s b]
  | .redX a b _ => [.s a, .s b]
  | .amoSwap _ a b _ _ => [.s a, .s b]
  | .amoCas d a b _ _ => [.s a, .s b, .s d]
  | .amoAdd _ a b _ _ => [.s a, .s b]
  | .vld _ _ b _ _ => [.s b]
  | .vst d _ b _ => [.v d, .s b]
  | .vlds _ c _ b _ _ => [.s (BitVec.zeroExtend 5 c), .s b]
  | .vsts d c _ b _ => [.v d, .s (BitVec.zeroExtend 5 c), .s b]
  | .vgath _ i _ b _ _ => [.v i, .s b]
  | .vscat d i _ b _ => [.v d, .v i, .s b]
  | .ctxnew _ a _ => [.s a]
  | .ctxset a _ => [.s a]
  | .ctxfold a _ => [.s a]
  | .ctxret a _ => [.s a]
  | .ctxq _ a _ => [.s a]
  | .tlod d a b _ s _ => [.v a, .v b, .v d, .s s]
  | .tsmp d a b _ s _ => [.v a, .v b, .v d, .s s]
  | .resq _ a _ s => [.v a, .s s]
  | .resw _ a _ s _ => [.v a, .s s]
  | .rmfence s => [.s s]
  | .spawnr _ a b _ => [.s a, .s b]
  | .spawnc a _ => [.s a]
  | .await a => [.s a, .s 1, .s 2, .s 3, .s 30]
  | .join a _ => [.s a]
  | .stamp _ a b _ => [.s a, .s b]
  | .yield => [.s 1, .s 2, .s 3, .s 30]
  | .barv _ a _ _ => [.s a]
  | .barvX _ a _ _ => [.s a]
  | .send a b _ => [.s a, .s b]
  | .recv _ a _ => [.s a]
  | .rplay _ a _ => [.s a]
  | .xsend r s _ => [.s r, .s s]
  | .xrecv c _ => [.s c]
  | .mrot a b _ => [.s a, .s b]
  | .mrd a b => [.s a, .s b]
  | .mrdv b _ => [.s b]
  | .mma a b _ _ _ _ _ => [.s a, .s b]
  | .cpy a b _ => [.s a, .s b]
  | .cpy2d a b _ _ => [.s a, .s b]
  | .cpyg a b _ => [.s a, .s b]
  | .coll a b _ _ _ => [.s a, .s b]
  | .psetup _ a => [.v a]
  | .pcover _ a _ _ _ s => [.v a, .s s]
  | .pdepth _ a _ _ s _ => [.v a, .s s]
  | .pblend _ a b _ s _ => [.v a, .v b, .s s]
  | .pblendC _ a b _ s _ => [.v a, .v b, .s s]
  | .pld _ _ s _ => [.s s]
  | .pst d _ s _ => [.v d, .s s]
  | .pstX d a _ _ => [.v d, .v a]
  | .emit a b => [.s a, .s b]
  | .emitq _ b => [.s b]
  | .vfpush a s _ => [.v a, .s s]
  | .vclaim _ a _ => [.s a]
  | .add _ a b _ => [.s a, .s b]
  | .sub _ a b _ => [.s a, .s b]
  | .and _ a b _ => [.s a, .s b]
  | .or _ a b _ => [.s a, .s b]
  | .xor _ a b _ => [.s a, .s b]
  | .andn _ a b _ => [.s a, .s b]
  | .orn _ a b _ => [.s a, .s b]
  | .sll _ a b _ => [.s a, .s b]
  | .srl _ a b _ => [.s a, .s b]
  | .sra _ a b _ => [.s a, .s b]
  | .rol _ a b _ => [.s a, .s b]
  | .ror _ a b _ => [.s a, .s b]
  | .min _ a b _ => [.s a, .s b]
  | .max _ a b _ => [.s a, .s b]
  | .minz _ a b _ => [.s a, .s b]
  | .maxz _ a b _ => [.s a, .s b]
  | .addsh _ a b _ _ => [.s a, .s b]
  | .sext _ a _ _ => [.s a]
  | .zext _ a _ _ => [.s a]
  | .clz _ a _ => [.s a]
  | .ctz _ a _ => [.s a]
  | .popc _ a _ => [.s a]
  | .bswap _ a _ => [.s a]
  | .sel _ a b _ _ => [.s a, .s b]
  | .addi _ a _ => [.s a]
  | .andi _ a _ => [.s a]
  | .ori _ a _ => [.s a]
  | .xori _ a _ => [.s a]
  | .slli _ a _ => [.s a]
  | .srli _ a _ => [.s a]
  | .srai _ a _ => [.s a]
  | .roli _ a _ => [.s a]
  | .rori _ a _ => [.s a]
  | .cmp _ a b _ _ => [.s a, .s b]
  | .cmpi _ a _ _ => [.s a]
  | .mul _ a b _ => [.s a, .s b]
  | .mulh _ a b _ => [.s a, .s b]
  | .mulhz _ a b _ => [.s a, .s b]
  | .div _ a b _ => [.s a, .s b]
  | .divz _ a b _ => [.s a, .s b]
  | .rem _ a b _ => [.s a, .s b]
  | .remz _ a b _ => [.s a, .s b]
  | .fadd _ a b _ => [.s a, .s b]
  | .fsub _ a b _ => [.s a, .s b]
  | .fmul _ a b _ => [.s a, .s b]
  | .ffma d a b _ => [.s a, .s b, .s d]
  | .fmin _ a b _ => [.s a, .s b]
  | .fmax _ a b _ => [.s a, .s b]
  | .fabs _ a _ => [.s a]
  | .fneg _ a _ => [.s a]
  | .fcmp _ a b _ _ => [.s a, .s b]
  | .fcvt _ a _ _ => [.s a]
  | .bfx _ a _ _ => [.s a]
  | .bfxz _ a _ _ => [.s a]
  | .bfi d a _ _ => [.s a, .s d]
  | .vaddInt _ a b _ _ sb => [.v a, secondReg b sb]
  | .vsubInt _ a b _ _ sb => [.v a, secondReg b sb]
  | .vmulInt _ a b _ _ sb => [.v a, secondReg b sb]
  | .vmulh _ a b _ _ sb => [.v a, secondReg b sb]
  | .vminInt _ a b _ _ sb => [.v a, secondReg b sb]
  | .vmaxInt _ a b _ _ sb => [.v a, secondReg b sb]
  | .vand _ a b _ _ sb => [.v a, secondReg b sb]
  | .vor _ a b _ _ sb => [.v a, secondReg b sb]
  | .vxor _ a b _ _ sb => [.v a, secondReg b sb]
  | .vandn _ a b _ _ sb => [.v a, secondReg b sb]
  | .vsll _ a b _ _ sb => [.v a, secondReg b sb]
  | .vsrl _ a b _ _ sb => [.v a, secondReg b sb]
  | .vsra _ a b _ _ sb => [.v a, secondReg b sb]
  | .vadds _ a b _ _ sb => [.v a, secondReg b sb]
  | .vsubs _ a b _ _ sb => [.v a, secondReg b sb]
  | .vabsInt _ a _ _ => [.v a]
  | .vdiv _ a b _ _ sb => [.v a, secondReg b sb]
  | .vrem _ a b _ _ sb => [.v a, secondReg b sb]
  | .vmerge _ a b _ _ sb => [.v a, secondReg b sb]
  | .vaddFp _ a b _ _ sb => [.v a, secondReg b sb]
  | .vsubFp _ a b _ _ sb => [.v a, secondReg b sb]
  | .vmulFp _ a b _ _ sb => [.v a, secondReg b sb]
  | .vfma d a b _ _ sb => [.v a, secondReg b sb, .v d]
  | .vfms d a b _ _ sb => [.v a, secondReg b sb, .v d]
  | .vminFp _ a b _ _ sb => [.v a, secondReg b sb]
  | .vmaxFp _ a b _ _ sb => [.v a, secondReg b sb]
  | .vabsFp _ a _ _ => [.v a]
  | .vneg _ a _ _ => [.v a]
  | .vrndi _ a _ _ => [.v a]
  | .vcvt _ a b _ c _ => if c.twoSources then [.v a, .v b] else [.v a]
  | .xtof _ a _ => [.v a]
  | .vrcp _ a _ _ => [.v a]
  | .vrsq _ a _ _ => [.v a]
  | .vexp2 _ a _ _ => [.v a]
  | .vlog2 _ a _ _ => [.v a]
  | .vsin _ a _ _ => [.v a]
  | .vcos _ a _ _ => [.v a]
  | .vred _ a _ _ _ => [.v a]
  | .vperm _ a b _ => [.v a, .v b]
  | .vslide _ a _ _ _ => [.v a]
  | .vbcast _ a _ _ => [.v a]
  | .vcmp _ a b _ _ sb _ => [.v a, secondReg b sb]
  | .vdot d a b _ _ _ sb => [.v a, secondReg b sb, .v d]
  | .vins _ s _ => [.s s]
  | .vextS32 a _ _ => [.v a]
  | .vsplat _ _ s => [.s s]
  | .vinsK _ s => [.s s]
  | .vextZ32 a _ _ => [.v a]
  | _ => []

/-- The destinations an instruction names (R187); a loaded register is one. -/
def Instr.writes : Instr → List Reg
  | .sysr s _ => [.s s]
  | .sysw _ r => [.sys r]
  | .sysx s r => [.s s, .sys r]
  | .time d => [.s d]
  | .jal d _ => [.s d]
  | .jalr d _ _ => [.s d]
  | .ld d _ _ _ _ => [.s d]
  | .ldx d _ _ _ _ => [.s d]
  | .amoSwap d _ _ _ _ => [.s d]
  | .amoCas d _ _ _ _ => [.s d]
  | .amoAdd d _ _ _ _ => [.s d]
  | .vld d _ _ _ _ => [.v d]
  | .vlds d _ _ _ _ _ => [.v d]
  | .vgath d _ _ _ _ _ => [.v d]
  | .ctxnew d _ _ => [.s d]
  | .ctxset _ _ => [.sys 2]
  | .ctxq d _ _ => [.s d]
  | .resq d _ _ _ => [.v d]
  | .resw d _ _ _ _ => [.v d]
  | .spawnr d _ _ _ => [.s d]
  | .stamp d _ _ _ => [.s d]
  | .barv d _ _ _ => [.s d]
  | .barvX d _ _ _ => [.s d]
  | .domq d _ _ => [.s d]
  | .recv d _ _ => [.s d]
  | .recvq d _ _ => [.s d]
  | .rplay d _ _ => [.s d]
  | .xrecv c _ => [.s c]
  | .mrdv _ v => [.v v]
  | .psetup d _ => [.v d]
  | .pcover d _ c l _ _ => [.v d, .v (d + 1), .k c, .k l]
  | .pdepth e _ _ _ _ _ => [.k e]
  | .pld d _ _ _ => [.v d]
  | .emitq a _ => [.s a]
  | .vfpop d s => [.v d, .v (d + 1), .s s]
  | .vffree s => [.s s]
  | .vclaim d _ _ => [.s d, .vl]
  | .vrel _ => [.vl]
  | .add d _ _ _ => [.s d]
  | .sub d _ _ _ => [.s d]
  | .and d _ _ _ => [.s d]
  | .or d _ _ _ => [.s d]
  | .xor d _ _ _ => [.s d]
  | .andn d _ _ _ => [.s d]
  | .orn d _ _ _ => [.s d]
  | .sll d _ _ _ => [.s d]
  | .srl d _ _ _ => [.s d]
  | .sra d _ _ _ => [.s d]
  | .rol d _ _ _ => [.s d]
  | .ror d _ _ _ => [.s d]
  | .min d _ _ _ => [.s d]
  | .max d _ _ _ => [.s d]
  | .minz d _ _ _ => [.s d]
  | .maxz d _ _ _ => [.s d]
  | .addsh d _ _ _ _ => [.s d]
  | .sext d _ _ _ => [.s d]
  | .zext d _ _ _ => [.s d]
  | .clz d _ _ => [.s d]
  | .ctz d _ _ => [.s d]
  | .popc d _ _ => [.s d]
  | .bswap d _ _ => [.s d]
  | .sel d _ _ _ _ => [.s d]
  | .addi d _ _ => [.s d]
  | .andi d _ _ => [.s d]
  | .ori d _ _ => [.s d]
  | .xori d _ _ => [.s d]
  | .slli d _ _ => [.s d]
  | .srli d _ _ => [.s d]
  | .srai d _ _ => [.s d]
  | .roli d _ _ => [.s d]
  | .rori d _ _ => [.s d]
  | .ldhi d _ => [.s d]
  | .cmp p _ _ _ _ => [.p p]
  | .cmpi p _ _ _ => [.p p]
  | .mul d _ _ _ => [.s d]
  | .mulh d _ _ _ => [.s d]
  | .mulhz d _ _ _ => [.s d]
  | .div d _ _ _ => [.s d]
  | .divz d _ _ _ => [.s d]
  | .rem d _ _ _ => [.s d]
  | .remz d _ _ _ => [.s d]
  | .fadd d _ _ _ => [.s d]
  | .fsub d _ _ _ => [.s d]
  | .fmul d _ _ _ => [.s d]
  | .ffma d _ _ _ => [.s d]
  | .fmin d _ _ _ => [.s d]
  | .fmax d _ _ _ => [.s d]
  | .fabs d _ _ => [.s d]
  | .fneg d _ _ => [.s d]
  | .fcmp p _ _ _ _ => [.p p]
  | .fcvt d _ _ _ => [.s d]
  | .bfx d _ _ _ => [.s d]
  | .bfxz d _ _ _ => [.s d]
  | .bfi d _ _ _ => [.s d]
  | .vaddInt d _ _ _ _ _ => [.v d]
  | .vsubInt d _ _ _ _ _ => [.v d]
  | .vmulInt d _ _ _ _ _ => [.v d]
  | .vmulh d _ _ _ _ _ => [.v d]
  | .vminInt d _ _ _ _ _ => [.v d]
  | .vmaxInt d _ _ _ _ _ => [.v d]
  | .vand d _ _ _ _ _ => [.v d]
  | .vor d _ _ _ _ _ => [.v d]
  | .vxor d _ _ _ _ _ => [.v d]
  | .vandn d _ _ _ _ _ => [.v d]
  | .vsll d _ _ _ _ _ => [.v d]
  | .vsrl d _ _ _ _ _ => [.v d]
  | .vsra d _ _ _ _ _ => [.v d]
  | .vadds d _ _ _ _ _ => [.v d]
  | .vsubs d _ _ _ _ _ => [.v d]
  | .vabsInt d _ _ _ => [.v d]
  | .vdiv d _ _ _ _ _ => [.v d]
  | .vrem d _ _ _ _ _ => [.v d]
  | .vmerge d _ _ _ _ _ => [.v d]
  | .vaddFp d _ _ _ _ _ => [.v d]
  | .vsubFp d _ _ _ _ _ => [.v d]
  | .vmulFp d _ _ _ _ _ => [.v d]
  | .vfma d _ _ _ _ _ => [.v d]
  | .vfms d _ _ _ _ _ => [.v d]
  | .vminFp d _ _ _ _ _ => [.v d]
  | .vmaxFp d _ _ _ _ _ => [.v d]
  | .vabsFp d _ _ _ => [.v d]
  | .vneg d _ _ _ => [.v d]
  | .vrndi d _ _ _ => [.v d]
  | .vcvt d _ _ _ _ _ => [.v d]
  | .xtof d _ _ => [.v d]
  | .vrcp d _ _ _ => [.v d]
  | .vrsq d _ _ _ => [.v d]
  | .vexp2 d _ _ _ => [.v d]
  | .vlog2 d _ _ _ => [.v d]
  | .vsin d _ _ _ => [.v d]
  | .vcos d _ _ _ => [.v d]
  | .vred d _ _ _ _ => [.v d]
  | .vperm d _ _ _ => [.v d]
  | .vslide d _ _ _ _ => [.v d]
  | .vbcast d _ _ _ => [.v d]
  | .viota d _ => [.v d]
  | .vcmp e _ _ _ _ _ _ => [.k e]
  | .vdot d _ _ _ _ _ _ => [.v d]
  | .vins d _ _ => [.v d]
  | .vextS32 _ s _ => [.s s]
  | .vsplat d _ _ => [.v d]
  | .vinsK e _ => [.k e]
  | .vextK _ s => [.s s]
  | .vextZ32 _ s _ => [.s s]
  | .tlod d _ _ _ _ c => (List.range (c.toNat + 2)).map fun n => .v (d + BitVec.ofNat 4 n)
  | .tsmp d _ _ _ _ c => (List.range (c.toNat + 2)).map fun n => .v (d + BitVec.ofNat 4 n)
  | _ => []

/-- Which core kinds execute an instruction (R12, R13): on a drive core, or on a control core. -/
def Instr.onKind (drive : Bool) : Instr → Bool
  | .loop .. | .ctxnew .. | .ctxset .. | .ctxfold .. | .ctxret .. | .ctxq .. | .tlod .. | .tsmp .. | .resq .. | .resw ..
  | .rmfence .. | .bar .. | .barX .. | .barv .. | .barvX .. | .domq .. | .xsend .. | .xrecv .. | .mlease .. | .mrel
  | .mclr .. | .mrot .. | .mrd .. | .mrdv .. | .mma .. | .cpy .. | .cpy2d .. | .cpyg .. | .coll .. | .vclaim .. | .vrel ..
  | .spawnr .. | .spawnc .. | .await .. | .join .. | .stamp .. | .yield | .vfpush .. => !drive
  | .emit .. | .emitq .. | .vfpop .. | .pdepth .. | .pblend .. | .pblendC .. | .pld .. | .pst .. | .pstX .. => drive
  | _ => true

/-- Whether an instruction is of slot B (R182): bit 30 of its word. -/
def Instr.slotB (i : Instr) : Bool := match encodeNat i with | some w => fld w 30 1 == 1 | none => false

end Sys2Proof

namespace Sys2Proof.Machine

/-! ### System registers (R356 and the map of 14_isa_system) -/

/-- Access codes of the map (R356): RV with the role it needs. -/
inductive SysAcc where
  | rw | r | rs | svc | rvPres | rvResid
  deriving DecidableEq, Repr

/-- A register of the map: its access code, and whether control cores and drive cores have it. -/
def sysMap (n : Nat) : Option (SysAcc × Bool × Bool) :=
  match n with
  | 0x000 => some (.r, true, true)
  | 0x001 => some (.rw, true, true)
  | 0x002 => some (.r, true, true)
  | 0x003 => some (.r, true, true)
  | 0x010 | 0x011 | 0x012 | 0x013 | 0x014 | 0x015 | 0x016 | 0x018 | 0x019 => some (.rw, true, false)
  | 0x020 | 0x021 | 0x022 | 0x023 | 0x024 => some (.svc, true, true)
  | 0x030 => some (.rw, true, false)
  | 0x031 => some (.r, true, true)
  | 0x032 => some (.r, true, true)
  | 0x033 => some (.rs, true, true)
  | 0x034 => some (.rvPres, true, true)
  | 0x040 => some (.r, true, true)
  | 0x041 => some (.rw, true, false)
  | 0x042 => some (.r, true, true)
  | 0x050 => some (.rw, false, true)
  | 0x051 => some (.rs, true, true)
  | 0x060 => some (.rvResid, true, true)
  | 0x061 => some (.r, true, true)
  | 0x062 => some (.rvResid, true, true)
  | 0x063 => some (.rvResid, true, true)
  | 0x070 => some (.r, true, true)
  | _ => none

/-- The first two checks of R354 for a read (rd) and a write (wr) of register n: the decode trap, if any. EMITSTAT on a
control core traps with PRIV (R348), a firmware register with PRIV (R356). -/
def sysTrap (s : State) (n : Nat) (rd wr : Bool) : Option Cause :=
  let drive := isDrive s.cur
  if 0x800 ≤ n then some .priv
  else match sysMap n with
  | none => some .illegalInstr
  | some (acc, onControl, onDrive) =>
    if n = 0x050 && !drive then some .priv
    else if (drive && !onDrive) || (!drive && !onControl) then some .illegalInstr
    else match acc with
    | .rw | .r => none
    | .rs => if wr && !isService s.cur then some .priv else none
    | .svc => if (rd || wr) && !isService s.cur then some .priv else none
    | .rvPres => if wr && (drive || !s.curPart.pol.pres) then some .priv else none
    | .rvResid => if wr && !s.curPart.pol.resid then some .priv else none

/-- Steps 2 and 4 of R194 for a decoded instruction, but for the bundle checks: ILLEGAL_INSTR for the wrong core kind
or an absent register, PRIV for the wrong level (R352). -/
def decodeTrap (i : Instr) (s : State) : Option Cause :=
  if !i.onKind (isDrive s.cur) then some .illegalInstr
  else match i with
  | .sysr _ r => sysTrap s r.toNat true false
  | .sysw _ r => sysTrap s r.toNat false true
  | .sysx _ r => sysTrap s r.toNat true true
  | .eret | .halt _ | .rplay .. => if isService s.cur then none else some .priv
  | .recv _ _ c => if c = 16 && !isService s.cur then some .priv else none
  | _ => none

/-- What exec answers. -/
abbrev Result := Host.Outcome State Fault Refusal

/-- Whether an instruction's guard is true (R192). -/
def State.guardTrue (s : State) (g : Guard) : Bool := s.rp g.p != g.inv

/-- EVERY ENCODED INSTRUCTION ISSUES THIS WAY: the checks of R194 in their order, then the guard (R193), then its effect. -/
def issueAs (i : Instr) (s : State) (effect : State → State) : Result :=
  if threadOk s.cur then
    match decodeTrap i s with
    | some c => .next (s.trap c)
    | none => if s.guardTrue i.guard then .next (effect s) else .next s
  else .fault .noSuchThread

/-- Vector instructions trap with LANE_CLAIM when VL = 0 (R231, R282, R334). -/
def State.vector (f : State → State) (s : State) : State := if s.th.vl = 0 then s.trap .laneClaim else f s

end Sys2Proof.Machine
end

