-- ==== Sys2Proof/Machine/Flags.lean ====
section
/-! DEFINITION. Every condition the predicates and masks are computed from: CMP and CMPI (R215, R216), FCMP (R219), VCMP
(R295), PDEPTH (R338). The NZ846 has no flags register: predicates and masks are its flags. -/

namespace Sys2Proof.Machine

/-- The CMP conditions on two words (R215). -/
def cmpHolds (c : CmpCond) (x y : Word) : Bool :=
  match c with
  | .eq => x == y
  | .ne => x != y
  | .lt => x.slt y
  | .ge => !x.slt y
  | .ltz => x.ult y
  | .gez => !x.ult y
  | .tst => x &&& y != 0
  | .ntst => x &&& y == 0

/-- The FCMP conditions on two binary32 codes (R219). -/
def fcmpHolds (c : FcmpCond) (x y : Nat) : Bool :=
  let a := f32.decode x
  let b := f32.decode y
  match c with
  | .eq => a.eq? b == some true
  | .lt => a.lt? b == some true
  | .le => a.lt? b == some true || a.eq? b == some true
  | .un => a.isNan || b.isNan

/-- The VCMP conditions on integers, as their values and as bits (R295). -/
def vcmpInt (c : VCond) (x y : Int) (bx by_ : Elem) : Bool :=
  match c with
  | .eq => x == y
  | .ne => x != y
  | .lt => decide (x < y)
  | .le => decide (x ≤ y)
  | .gt => decide (y < x)
  | .ge => decide (y ≤ x)
  | .un => false
  | .tst => bx &&& by_ != 0

/-- The VCMP conditions on binary32 codes (R295). -/
def vcmpFp (c : VCond) (x y : Nat) : Bool :=
  let a := f32.decode x
  let b := f32.decode y
  match c with
  | .eq => a.eq? b == some true
  | .ne => a.eq? b != some true
  | .lt => a.lt? b == some true
  | .le => a.lt? b == some true || a.eq? b == some true
  | .gt => b.lt? a == some true
  | .ge => b.lt? a == some true || a.eq? b == some true
  | .un => a.isNan || b.isNan
  | .tst => false

/-- VCMP of two elements under its type (R295). -/
def vcmpHolds (t : VcmpTy) (c : VCond) (x y : Elem) : Bool :=
  match t with
  | .s32 => vcmpInt c x.toInt y.toInt x y
  | .z32 => vcmpInt c x.toNat y.toNat x y
  | .f32 => vcmpFp c x.toNat y.toNat

/-- The PDEPTH conditions: the element against the stored depth, unsigned (R338). -/
def depthHolds (c : DepthCond) (v z : Nat) : Bool :=
  match c with
  | .lt => decide (v < z)
  | .le => decide (v ≤ z)
  | .eq => v == z
  | .ne => v != z
  | .gt => decide (z < v)
  | .ge => decide (z ≤ v)
  | .al => true

end Sys2Proof.Machine
end

