-- ==== Sys2Proof/Machine/Scalar.lean ====
section
/-! DEFINITION. The scalar, comparison, multiply, divide, floating-point and bit-field instructions (08_isa_scalar R210 to
R220). Each is one computation on the operands its guard lets it read. -/

namespace Sys2Proof.Machine

/-! ### The computations -/

/-- Rotation left by n, 0 to 63 (R210). -/
def rotl (x : Word) (n : Nat) : Word := (x <<< n) ||| (x >>> (64 - n))

/-- Shift amount: bits 5:0 of the operand (R210). -/
def amount (x : Word) : Nat := x.toNat % 64

/-- A word with its bytes in reverse order (R210). -/
def byteSwap (x : Word) : Word := BitVec.ofNat 64 (leNat (leBytes 8 x.toNat).reverse)

/-- Bits of a sub-word width (R210). -/
def subBits : SubWidth → Nat | .w8 => 8 | .w16 => 16 | .w32 => 32

/-- Zero bits above the highest set bit; 64 for 0 (R210). -/
def countLeading (x : Word) : Nat := 64 - blen x.toNat

/-- Zero bits below the lowest set bit of n bits; n where none is set (R210). -/
def countTrailing (x : Nat) : Nat → Nat
  | 0 => 0
  | n + 1 => if x % 2 = 1 then 0 else 1 + countTrailing (x / 2) n

/-- Set bits among the lowest n (R210). -/
def countOnes (x : Nat) : Nat → Nat
  | 0 => 0
  | n + 1 => x % 2 + countOnes (x / 2) n

/-- Signed quotient toward zero with R181's exceptions (R217). -/
def sdivQ (x y : Word) : Word := if y = 0 then BitVec.allOnes 64 else BitVec.ofInt 64 (x.toInt.tdiv y.toInt)
def sdivR (x y : Word) : Word := if y = 0 then x else BitVec.ofInt 64 (x.toInt.tmod y.toInt)
def udivQ (x y : Word) : Word := if y = 0 then BitVec.allOnes 64 else BitVec.ofNat 64 (x.toNat / y.toNat)
def udivR (x y : Word) : Word := if y = 0 then x else BitVec.ofNat 64 (x.toNat % y.toNat)

/-- The sign-extended 15-bit immediate (R212). -/
def imm15 (i : BitVec 15) : Word := i.signExtend 64

/-- The field of w bits from pos of x (R220). -/
def bitField (x : Word) (pos w : Nat) : Nat := x.toNat / 2 ^ pos % 2 ^ w

/-- The rounding mode of the issuing thread (R175, R218). -/
def State.rmode (s : State) : RMode := RMode.of s.th.vrmode

/-- The binary32 code a scalar register holds (R218). -/
def State.f32s (s : State) (n : BitVec 5) : Nat := (s.rs n).toNat % 2 ^ 32

/-- A conversion of FCVT (R218, R180). -/
def fcvt (c : FcvtKind) (mode : RMode) (x : Word) : Word :=
  match c with
  | .f32s64 => BitVec.ofNat 64 (f32.round mode false (ofInt x.toInt))
  | .f32z64 => BitVec.ofNat 64 (f32.round mode false (ofInt x.toNat))
  | .s64f32 => BitVec.ofInt 64 (toIntClamp mode (-(2 ^ 63)) (2 ^ 63 - 1) (f32.decode (x.toNat % 2 ^ 32)))
  | .z64f32 => BitVec.ofInt 64 (toIntClamp mode 0 (2 ^ 64 - 1) (f32.decode (x.toNat % 2 ^ 32)))
  | .f16f32 => BitVec.ofNat 64 (convert f32 f16 mode (x.toNat % 2 ^ 32))
  | .f32f16 => BitVec.ofNat 64 (convert f16 f32 mode (x.toNat % 2 ^ 16))
  | .bf16f32 => BitVec.ofNat 64 (convert f32 bf16 mode (x.toNat % 2 ^ 32))
  | .f32bf16 => BitVec.ofNat 64 (convert bf16 f32 mode (x.toNat % 2 ^ 16))

/-! ### The ALU group (R210, R211) -/

/-- ADD (R210). -/
def execAdd (d a b : BitVec 5) (g : Guard) (s : State) : Result :=
  issueAs (.add d a b g) s fun s => s.ws d (s.rs a + s.rs b)

/-- SUB (R210). -/
def execSub (d a b : BitVec 5) (g : Guard) (s : State) : Result :=
  issueAs (.sub d a b g) s fun s => s.ws d (s.rs a - s.rs b)

/-- AND (R210). -/
def execAnd (d a b : BitVec 5) (g : Guard) (s : State) : Result :=
  issueAs (.and d a b g) s fun s => s.ws d (s.rs a &&& s.rs b)

/-- OR (R210). -/
def execOr (d a b : BitVec 5) (g : Guard) (s : State) : Result :=
  issueAs (.or d a b g) s fun s => s.ws d (s.rs a ||| s.rs b)

/-- XOR (R210). -/
def execXor (d a b : BitVec 5) (g : Guard) (s : State) : Result :=
  issueAs (.xor d a b g) s fun s => s.ws d (s.rs a ^^^ s.rs b)

/-- ANDN (R210). -/
def execAndn (d a b : BitVec 5) (g : Guard) (s : State) : Result :=
  issueAs (.andn d a b g) s fun s => s.ws d (s.rs a &&& ~~~s.rs b)

/-- ORN (R210). -/
def execOrn (d a b : BitVec 5) (g : Guard) (s : State) : Result :=
  issueAs (.orn d a b g) s fun s => s.ws d (s.rs a ||| ~~~s.rs b)

/-- SLL (R210). -/
def execSll (d a b : BitVec 5) (g : Guard) (s : State) : Result :=
  issueAs (.sll d a b g) s fun s => s.ws d (s.rs a <<< amount (s.rs b))

/-- SRL (R210). -/
def execSrl (d a b : BitVec 5) (g : Guard) (s : State) : Result :=
  issueAs (.srl d a b g) s fun s => s.ws d (s.rs a >>> amount (s.rs b))

/-- SRA (R210). -/
def execSra (d a b : BitVec 5) (g : Guard) (s : State) : Result :=
  issueAs (.sra d a b g) s fun s => s.ws d ((s.rs a).sshiftRight (amount (s.rs b)))

/-- ROL (R210). -/
def execRol (d a b : BitVec 5) (g : Guard) (s : State) : Result :=
  issueAs (.rol d a b g) s fun s => s.ws d (rotl (s.rs a) (amount (s.rs b)))

/-- ROR (R210). -/
def execRor (d a b : BitVec 5) (g : Guard) (s : State) : Result :=
  issueAs (.ror d a b g) s fun s => s.ws d (rotl (s.rs a) ((64 - amount (s.rs b)) % 64))

/-- MIN (R210). -/
def execMin (d a b : BitVec 5) (g : Guard) (s : State) : Result :=
  issueAs (.min d a b g) s fun s => s.ws d (if (s.rs b).slt (s.rs a) then s.rs b else s.rs a)

/-- MAX (R210). -/
def execMax (d a b : BitVec 5) (g : Guard) (s : State) : Result :=
  issueAs (.max d a b g) s fun s => s.ws d (if (s.rs a).slt (s.rs b) then s.rs b else s.rs a)

/-- MINZ (R210). -/
def execMinz (d a b : BitVec 5) (g : Guard) (s : State) : Result :=
  issueAs (.minz d a b g) s fun s => s.ws d (if (s.rs b).ult (s.rs a) then s.rs b else s.rs a)

/-- MAXZ (R210). -/
def execMaxz (d a b : BitVec 5) (g : Guard) (s : State) : Result :=
  issueAs (.maxz d a b g) s fun s => s.ws d (if (s.rs a).ult (s.rs b) then s.rs b else s.rs a)

/-- ADDSH (R210). -/
def execAddsh (d a b : BitVec 5) (g : Guard) (n : BitVec 3) (s : State) : Result :=
  issueAs (.addsh d a b g n) s fun s => s.ws d (s.rs a + (s.rs b <<< n.toNat))

/-- SEXT (R210). -/
def execSext (d a : BitVec 5) (g : Guard) (w : SubWidth) (s : State) : Result :=
  issueAs (.sext d a g w) s fun s => s.ws d (extend (subBits w / 8) true (s.rs a).toNat)

/-- ZEXT (R210). -/
def execZext (d a : BitVec 5) (g : Guard) (w : SubWidth) (s : State) : Result :=
  issueAs (.zext d a g w) s fun s => s.ws d (extend (subBits w / 8) false (s.rs a).toNat)

/-- CLZ (R210). -/
def execClz (d a : BitVec 5) (g : Guard) (s : State) : Result :=
  issueAs (.clz d a g) s fun s => s.ws d (BitVec.ofNat 64 (countLeading (s.rs a)))

/-- CTZ (R210). -/
def execCtz (d a : BitVec 5) (g : Guard) (s : State) : Result :=
  issueAs (.ctz d a g) s fun s => s.ws d (BitVec.ofNat 64 (countTrailing (s.rs a).toNat 64))

/-- POPC (R210). -/
def execPopc (d a : BitVec 5) (g : Guard) (s : State) : Result :=
  issueAs (.popc d a g) s fun s => s.ws d (BitVec.ofNat 64 (countOnes (s.rs a).toNat 64))

/-- BSWAP (R210). -/
def execBswap (d a : BitVec 5) (g : Guard) (s : State) : Result :=
  issueAs (.bswap d a g) s fun s => s.ws d (byteSwap (s.rs a))

/-- SEL: the selector under the truth rule of a guard (R211). -/
def execSel (d a b : BitVec 5) (p : BitVec 3) (inv : Bool) (s : State) : Result :=
  issueAs (.sel d a b p inv) s fun s => s.ws d (if s.guardTrue ⟨p, inv⟩ then s.rs a else s.rs b)

/-! ### Immediates and constants (R212 to R214) -/

/-- ADDI (R212). -/
def execAddi (d a : BitVec 5) (i : BitVec 15) (s : State) : Result :=
  issueAs (.addi d a i) s fun s => s.ws d (s.rs a + imm15 i)

/-- ANDI (R212). -/
def execAndi (d a : BitVec 5) (i : BitVec 15) (s : State) : Result :=
  issueAs (.andi d a i) s fun s => s.ws d (s.rs a &&& imm15 i)

/-- ORI (R212). -/
def execOri (d a : BitVec 5) (i : BitVec 15) (s : State) : Result :=
  issueAs (.ori d a i) s fun s => s.ws d (s.rs a ||| imm15 i)

/-- XORI (R212). -/
def execXori (d a : BitVec 5) (i : BitVec 15) (s : State) : Result :=
  issueAs (.xori d a i) s fun s => s.ws d (s.rs a ^^^ imm15 i)

/-- SLLI (R213). -/
def execSlli (d a : BitVec 5) (m : BitVec 6) (s : State) : Result :=
  issueAs (.slli d a m) s fun s => s.ws d (s.rs a <<< m.toNat)

/-- SRLI (R213). -/
def execSrli (d a : BitVec 5) (m : BitVec 6) (s : State) : Result :=
  issueAs (.srli d a m) s fun s => s.ws d (s.rs a >>> m.toNat)

/-- SRAI (R213). -/
def execSrai (d a : BitVec 5) (m : BitVec 6) (s : State) : Result :=
  issueAs (.srai d a m) s fun s => s.ws d ((s.rs a).sshiftRight m.toNat)

/-- ROLI (R213). -/
def execRoli (d a : BitVec 5) (m : BitVec 6) (s : State) : Result :=
  issueAs (.roli d a m) s fun s => s.ws d (rotl (s.rs a) m.toNat)

/-- RORI (R213). -/
def execRori (d a : BitVec 5) (m : BitVec 6) (s : State) : Result :=
  issueAs (.rori d a m) s fun s => s.ws d (rotl (s.rs a) ((64 - m.toNat) % 64))

/-- LDHI (R214). -/
def execLdhi (d : BitVec 5) (i : BitVec 20) (s : State) : Result :=
  issueAs (.ldhi d i) s fun s => s.ws d (i.signExtend 64 <<< 15)

/-! ### Comparisons (R215, R216, R219) -/

/-- CMP (R215). -/
def execCmp (p : BitVec 3) (a b : BitVec 5) (g : Guard) (c : CmpCond) (s : State) : Result :=
  issueAs (.cmp p a b g c) s fun s => s.wp p (cmpHolds c (s.rs a) (s.rs b))

/-- CMPI (R216). -/
def execCmpi (p : BitVec 3) (a : BitVec 5) (c : CmpCond) (i : BitVec 12) (s : State) : Result :=
  issueAs (.cmpi p a c i) s fun s => s.wp p (cmpHolds c (s.rs a) (i.signExtend 64))

/-- FCMP (R219). -/
def execFcmp (p : BitVec 3) (a b : BitVec 5) (g : Guard) (c : FcmpCond) (s : State) : Result :=
  issueAs (.fcmp p a b g c) s fun s => s.wp p (fcmpHolds c (s.f32s a) (s.f32s b))

/-! ### Multiply and divide (R217) -/

/-- MUL (R217). -/
def execMul (d a b : BitVec 5) (g : Guard) (s : State) : Result :=
  issueAs (.mul d a b g) s fun s => s.ws d (s.rs a * s.rs b)

/-- MULH (R217). -/
def execMulh (d a b : BitVec 5) (g : Guard) (s : State) : Result :=
  issueAs (.mulh d a b g) s fun s => s.ws d (BitVec.ofInt 64 ((s.rs a).toInt * (s.rs b).toInt / 2 ^ 64))

/-- MULHZ (R217). -/
def execMulhz (d a b : BitVec 5) (g : Guard) (s : State) : Result :=
  issueAs (.mulhz d a b g) s fun s => s.ws d (BitVec.ofNat 64 ((s.rs a).toNat * (s.rs b).toNat / 2 ^ 64))

/-- DIV (R217). -/
def execDiv (d a b : BitVec 5) (g : Guard) (s : State) : Result :=
  issueAs (.div d a b g) s fun s => s.ws d (sdivQ (s.rs a) (s.rs b))

/-- DIVZ (R217). -/
def execDivz (d a b : BitVec 5) (g : Guard) (s : State) : Result :=
  issueAs (.divz d a b g) s fun s => s.ws d (udivQ (s.rs a) (s.rs b))

/-- REM (R217). -/
def execRem (d a b : BitVec 5) (g : Guard) (s : State) : Result :=
  issueAs (.rem d a b g) s fun s => s.ws d (sdivR (s.rs a) (s.rs b))

/-- REMZ (R217). -/
def execRemz (d a b : BitVec 5) (g : Guard) (s : State) : Result :=
  issueAs (.remz d a b g) s fun s => s.ws d (udivR (s.rs a) (s.rs b))

/-! ### Scalar floating point (R218) -/

/-- FADD (R218). -/
def execFadd (d a b : BitVec 5) (g : Guard) (s : State) : Result :=
  issueAs (.fadd d a b g) s fun s => s.ws d (BitVec.ofNat 64 (f32.add s.rmode (s.f32s a) (s.f32s b)))

/-- FSUB (R218). -/
def execFsub (d a b : BitVec 5) (g : Guard) (s : State) : Result :=
  issueAs (.fsub d a b g) s fun s => s.ws d (BitVec.ofNat 64 (f32.sub s.rmode (s.f32s a) (s.f32s b)))

/-- FMUL (R218). -/
def execFmul (d a b : BitVec 5) (g : Guard) (s : State) : Result :=
  issueAs (.fmul d a b g) s fun s => s.ws d (BitVec.ofNat 64 (f32.mul s.rmode (s.f32s a) (s.f32s b)))

/-- FFMA (R218). -/
def execFfma (d a b : BitVec 5) (g : Guard) (s : State) : Result :=
  issueAs (.ffma d a b g) s fun s => s.ws d (BitVec.ofNat 64 (f32.fma s.rmode (s.f32s a) (s.f32s b) (s.f32s d)))

/-- FMIN (R218). -/
def execFmin (d a b : BitVec 5) (g : Guard) (s : State) : Result :=
  issueAs (.fmin d a b g) s fun s => s.ws d (BitVec.ofNat 64 (f32.minNum (s.f32s a) (s.f32s b)))

/-- FMAX (R218). -/
def execFmax (d a b : BitVec 5) (g : Guard) (s : State) : Result :=
  issueAs (.fmax d a b g) s fun s => s.ws d (BitVec.ofNat 64 (f32.maxNum (s.f32s a) (s.f32s b)))

/-- FABS (R218). -/
def execFabs (d a : BitVec 5) (g : Guard) (s : State) : Result :=
  issueAs (.fabs d a g) s fun s => s.ws d (BitVec.ofNat 64 (f32.abs (s.f32s a)))

/-- FNEG (R218). -/
def execFneg (d a : BitVec 5) (g : Guard) (s : State) : Result :=
  issueAs (.fneg d a g) s fun s => s.ws d (BitVec.ofNat 64 (f32.flip (s.f32s a)))

/-- FCVT (R218). -/
def execFcvt (d a : BitVec 5) (g : Guard) (c : FcvtKind) (s : State) : Result :=
  issueAs (.fcvt d a g c) s fun s => s.ws d (fcvt c s.rmode (s.rs a))

/-! ### Bit fields (R220): w is the width field plus 1 -/

/-- BFX (R220). -/
def execBfx (d a : BitVec 5) (p w : BitVec 6) (s : State) : Result :=
  issueAs (.bfx d a p w) s fun s => s.ws d (BitVec.ofInt 64 (BitVec.ofNat (w.toNat + 1) (bitField (s.rs a) p.toNat (w.toNat + 1))).toInt)

/-- BFXZ (R220). -/
def execBfxz (d a : BitVec 5) (p w : BitVec 6) (s : State) : Result :=
  issueAs (.bfxz d a p w) s fun s => s.ws d (BitVec.ofNat 64 (bitField (s.rs a) p.toNat (w.toNat + 1)))

/-- BFI (R220). -/
def execBfi (d a : BitVec 5) (p w : BitVec 6) (s : State) : Result :=
  issueAs (.bfi d a p w) s fun s => s.ws d ((s.rs d &&& ~~~(BitVec.ofNat 64 (2 ^ (w.toNat + 1) - 1) <<< p.toNat)) |||
    (BitVec.ofNat 64 (bitField (s.rs a) 0 (w.toNat + 1)) <<< p.toNat))

end Sys2Proof.Machine
end

