-- ==== Sys2Proof/Machine/Control.lean ====
section
/-! DEFINITION. Control transfers, hardware loops, IFENCE, WAIT, FENCE and TIME (08_isa_scalar R221 to R229, 07_encoding R202,
09_isa_memory R244, 13_isa_pixel R349). Issue has set the thread's pc to the link value of R222. -/

namespace Sys2Proof.Machine

/-- Whether an address lies in a loop's body: its pairs from S to E (R225). -/
def Loop.holds (l : Loop) (a : Word) : Bool := decide (l.start.toNat ≤ a.toNat) && decide (a.toNat < l.last.toNat + 8)

/-- The loops a taken transfer to a leaves active, innermost first (R227). -/
def loopsAfter (a : Word) : List Loop → List Loop
  | [] => []
  | l :: rest => if l.holds a then l :: rest else loopsAfter a rest

/-- A taken transfer (R221), which may end loops (R227). -/
def State.transfer (a : Word) (s : State) : State :=
  s.upd fun th => { th with pc := a, taken := true, loops := loopsAfter a th.loops }

/-- BR (R223). -/
def execBr (o : BitVec 21) (s : State) : Result :=
  issueAs (.br o) s fun s => s.transfer (s.th.ipc + 4 * o.signExtend 64)

/-- BRC: taken when its guard is true (R223). -/
def execBrc (p : BitVec 3) (inv : Bool) (o : BitVec 21) (s : State) : Result :=
  issueAs (.brc p inv o) s fun s => if s.guardTrue ⟨p, inv⟩ then s.transfer (s.th.ipc + 4 * o.signExtend 64) else s

/-- JAL (R224). -/
def execJal (d : BitVec 5) (i : BitVec 20) (s : State) : Result :=
  issueAs (.jal d i) s fun s => (s.ws d s.th.pc).transfer (s.th.ipc + 4 * i.signExtend 64)

/-- JALR: reads sa before it writes d (R224). -/
def execJalr (d a : BitVec 5) (i : BitVec 15) (s : State) : Result :=
  issueAs (.jalr d a i) s fun s => (s.ws d s.th.pc).transfer (s.rs a + imm15 i)

/-- The start of the pair an address lies in. -/
def pairOf (a : Word) : Word := a &&& ~~~7#64

/-- LOOP (R225). -/
def execLoop (a : BitVec 5) (i : BitVec 15) (s : State) : Result :=
  issueAs (.loop a i) s fun s =>
    let q := pairOf s.th.ipc
    let e := q + 8 * i.zeroExtend 64
    let full := decide (2 ≤ s.th.loops.length) || match s.th.loops with | l :: _ => !e.ult l.last | [] => false
    if full then s.trap .illegalInstr
    else if s.rs a = 0 then s.upd fun th => { th with pc := e + 8, taken := true }
    else s.upd fun th => { th with loops := ⟨q + 8, e, s.rs a⟩ :: th.loops }

/-- IFENCE discards the instruction buffer (R229). -/
def execIfence (s : State) : Result := issueAs .ifence s fun s => s.upd fun th => { th with ibuf := [] }

/-- WAIT (R202). -/
def execWait (l st c t x : BitVec 5) (s : State) : Result :=
  issueAs (.wait l st c t x) s (State.waiting l.toNat st.toNat c.toNat t.toNat x.toNat id)

/-- FENCE waits for the thread's loads, stores, reductions and returning AMOs (R136, R244). -/
def execFence (sc : Scope) (s : State) : Result := issueAs (.fence sc) s (State.waiting 0 0 31 31 31 id)

/-- TIME reads the almanac (R349). -/
def execTime (d : BitVec 5) (s : State) : Result := issueAs (.time d) s fun s => s.ws d s.almanac

end Sys2Proof.Machine
end

