-- ==== Sys2Proof/Machine/Ordered.lean ====
section
/-! DEFINITION. Context tags and cells (R99 to R109) and ordered tasks: the commit frontier, commit and abort (R52 to R56). -/

namespace Sys2Proof.Machine

/-! ### Tags (R99, R100) -/

/-- Every thread of a partition that holds registers: in the columns it holds, saved, and of drive cores (R100). -/
def State.heldThreads (s : State) (p : Nat) : List Thread :=
  s.cols.flatMap (fun c =>
    (c.2.threads.filter fun e => if 32 ≤ e.1 then (s.part p).pol.pres else c.2.holder == some p).map (·.2)) ++
  (s.saved.filter fun v => v.part == p).flatMap fun v => v.col.threads.map (·.2)

/-- The tag that the record of a waiting SPAWNC names (R432). -/
def AccOp.spawnTag : AccOp → Option (BitVec 12) | .spawn r .. => some r.tag | _ => none

/-- Records that name a tag: in queues, in reserved slots, and of SPAWNCs that wait at their senders. -/
def State.recordNames (s : State) (p : Nat) (t : BitVec 12) : Bool :=
  let part := s.part p
  ((s.queued part.pol).any fun q => q.2.r.tag == t) ||
  (part.slots.any fun sl => (Rec.ofBits sl.data).tag == t) || (part.wb.any fun w => w.otag == t) ||
  (s.heldThreads p).any fun th => th.out.any fun a => a.op.spawnTag == some t

/-- The contexts an engine command names (R112). -/
def CmdOp.tags : CmdOp → List (BitVec 12)
  | .cpy a b _ _ _ _ => [a.tag, b.tag]
  | .cpyg d _ _ x => [d.tag, x]
  | .mma _ _ _ _ _ a b _ => [a.at_.tag, b.at_.tag]
  | .mrd d _ _ _ _ _ _ _ _ => [d.tag]
  | _ => []

def State.engineNames (s : State) (p : Nat) (t : BitVec 12) : Bool :=
  s.cmds.any fun c => s.owns p c.t && (c.op.tags ++ c.srcs.map (·.tag)).contains t

/-- Whether a dead tag is free again (R100). -/
def State.tagFreed (s : State) (p : Nat) (t : BitVec 12) : Bool :=
  !((s.part p).cells.any fun c => c.tag == t) && !((s.heldThreads p).any fun th => th.ctxcur == t) &&
  !s.recordNames p t && !s.engineNames p t

/-- The thread that runs the ordered task of a tag, if one does. -/
def State.runner (s : State) (p : Nat) (tag : BitVec 12) : Option ThreadRef :=
  ((s.part p).pol.columns.flatMap fun ca => generalTids.map fun tid => (⟨ca, tid⟩ : ThreadRef)).find? fun t =>
    let th := s.threadOf p t
    th.ordered && th.ownTag == tag

/-- Timestamps of the partition's ordered records: in queues, running, written back or waiting. -/
def State.orderedStamps (s : State) (p : Nat) : List Nat :=
  ((s.queued (s.part p).pol).filter fun q => q.2.r.o).map (fun q => q.2.r.stamp.toNat) ++
  (s.part p).otasks.map fun o => o.orig.stamp.toNat

/-- The commit frontier, all ones while no ordered record exists (R53, CFRONT). -/
def State.frontier (s : State) (p : Nat) : Nat := (s.orderedStamps p).foldl min (2 ^ 64 - 1)

/-- A CTXNEW waits for a tag, stalled or about to issue again. -/
def Thread.wantsTag (th : Thread) : Bool := th.wait == .tagFree && (th.run == .stalled || (th.run == .ready && th.waited))

/-- A task at the commit frontier waits for a tag (R56). -/
def State.frontierWants (s : State) (p : Nat) : Bool :=
  ((s.part p).otasks.filter fun o => o.orig.stamp.toNat == s.frontier p).any fun o =>
    match s.runner p o.tag with
    | some t => (s.threadOf p t).wantsTag
    | none => false

/-- A thread's outstanding accesses in contexts that are freed. -/
def Thread.outlive (th : Thread) (gone : List Nat) : Thread :=
  { th with out := th.out.map fun a => if gone.contains a.tag.toNat then { a with stale := true } else a }

/-- A column's threads of the control side, or of the drive side, outlive freed contexts. -/
def Column.outlive (c : Column) (gone : List Nat) (drive : Bool) : Column :=
  { c with threads := c.threads.map fun e => if decide (32 ≤ e.1) == drive then (e.1, e.2.outlive gone) else e }

/-- The accesses of partition p that are outstanding in a context outlive it: the context stays dead to them (R102, R109). -/
def State.outlive (s : State) (p : Nat) (gone : List Nat) : State :=
  let s := s.updCols (s.heldBy p) fun c => c.outlive gone false
  let s := if (s.part p).pol.pres then s.updCols s.listed fun c => c.outlive gone true else s
  { s with saved := s.saved.map fun (v : Saved) => if v.part = p then { v with col := v.col.outlive gone false } else v }

/-- Dead tags that nothing names any more become free. The first refills the held-back place (R99), unless a CTXNEW of the
frontier task waits for it (R56). -/
def State.sweep (s : State) (p : Nat) : State :=
  let gone := (s.part p).tags.filter fun e => !e.2.live && s.tagFreed p (BitVec.ofNat 12 e.1)
  if gone.isEmpty then s
  else
    let refill := decide (1 < gone.length) || !s.frontierWants p
    (s.outlive p (gone.map (·.1))).updPart p fun x => { x with heldBack := x.heldBack || refill, tags := x.tags.filter fun e => !(gone.any fun g => g.1 == e.1) }

/-- Free tag numbers, ascending. -/
def Partition.freeTags (p : Partition) : List Nat := (upto p.pol.taglim).filter fun n => n != 0 && !tmem p.tags n

/-- Free tags of the pool: all but the one held back (R99). -/
def Partition.pool (p : Partition) : Nat := p.freeTags.length - (if p.heldBack then 1 else 0)

/-- Makes a free tag live under a parent. Which number it has, the spec leaves open: a free value (R102, log 2). -/
def State.allocTag (s : State) (p : Nat) (parent : BitVec 12) (depth : Nat) : BitVec 12 × State :=
  let (k, s) := s.free
  let l := (s.part p).freeTags
  let n := l.getD (k % l.length) 1
  (BitVec.ofNat 12 n, s.updPart p fun x => { x with tags := tset x.tags n ⟨true, parent, depth⟩ })

/-- A tag and its live descendants die, and their cells are freed unwritten (R108). -/
def Partition.retire (p : Partition) (t : BitVec 12) : Partition :=
  let hit (n : BitVec 12) : Bool := p.live n && p.below t 4 n
  { p with cells := p.cells.filter fun c => !hit c.tag,
           tags := p.tags.map fun e => if hit (BitVec.ofNat 12 e.1) then (e.1, { e.2 with live := false }) else e }

/-! ### Folding (R107) -/

/-- The bytes of a cell that its mask marks, as (offset, byte). -/
def Cell.marked (c : Cell) : List (Nat × Byte) :=
  ((upto 64).filter fun i => c.mask.getLsbD i).map fun i => (i, lineByte c.data i)

def State.dropCell (s : State) (p : Nat) (c : Cell) : State :=
  s.updPart p fun x => { x with cells := x.cells.filter fun y => !(y.tag == c.tag && y.line == c.line) }

/-- Writes a cell's marked bytes into a translated line as context `into` has it; all 64 of them clear its poison (R450). -/
def State.mergeCell (s : State) (p : Nat) (x : Xlat) (c : Cell) (into : BitVec 12) : State :=
  if c.mask = BitVec.allOnes 64 then s.writeXlat p x into 0 ((upto 64).map (lineByte c.data))
  else s.each c.marked fun s ib =>
    s.writeXlat p { x with back := match x.back with
      | .cellar pa => .cellar (pa + ib.1) | .host b => .host (b + ib.1) | y => y } into ib.1 [ib.2]

/-- The poison that folding a cell uses: the cell's own, and that of the line it is merged into, unless all 64 bytes replace it. -/
def State.cellTaint (s : State) (p : Nat) (x : Xlat) (c : Cell) (into : BitVec 12) : Option Place :=
  if s.tainted (.cell p c.tag c.line) then some (.cell p c.tag c.line)
  else if c.mask = BitVec.allOnes 64 && !s.needsCell p x into then none
  else s.taint p x into

/-- Folds a cell into context `into` (base or the parent's cell) and frees it (R107). -/
def State.foldCell (s : State) (p : Nat) (c : Cell) (into : BitVec 12) : Except Stop State :=
  match s.translate p (c.line * 64) with
  | .error e => .error e
  | .ok x =>
    if s.needsCell p x into && (s.part p).heapFull then .error (.fault .cellHeapFull)
    else match (if c.mask = 0 then none else s.cellTaint p x c into) with
    | some y => .error (.poison y)
    | none => .ok ((s.mergeCell p x c into).dropCell p c)

/-- Folds cells one after another; what stops it, with the line's address, and the cells merged so far (R109). -/
def State.foldCells (s : State) (p : Nat) (into : BitVec 12) : List Cell → State × Option (Stop × Nat)
  | [] => (s, none)
  | c :: rest =>
    match s.foldCell p c into with
    | .error e => (s, some (e, c.line * 64))
    | .ok s => s.foldCells p into rest

/-! ### Abort (R53) -/

/-- A thread without program or task: registers and counters as at reset, its trap state gone (R37). Its lane claim stays
until its next task starts (R66). -/
def Thread.idle (th : Thread) : Thread :=
  { Thread.reset with sent := th.sent, resv := th.resv, preReq := th.preReq, laneReq := th.laneReq, laneHeld := th.laneHeld }

/-- A lease that a thread holds is released (R51). -/
def State.releaseLease (s : State) (t : ThreadRef) : State :=
  match (s.col t.ca).lease with
  | some (h, _) => if h == t.tid && !isDrive t then s.updCol t.ca fun c => { c with lease := none, leaseUntil := none } else s
  | none => s

/-- The reservations of a task's held spawns are released (R53, R256). -/
def State.releaseHeld (s : State) (p : Nat) (o : OTask) : State :=
  s.updPart p fun x => { x with slots := x.slots.filter fun sl => !(o.spawns.any fun h => h.addr == sl.addr) }

/-- An ordered abort (R53): cells, buffered reductions and held spawns discarded, the tag retired, the task's thread or
suspended continuation withdrawn, the original record committed again. -/
def State.abortTask (s : State) (p : Nat) (o : OTask) : State :=
  let s := match s.runner p o.tag with
    | some t => s.updColOf p t.ca fun c =>
        { c with loftChange := c.loftChange.map fun (ch : LoftChange) => if ch.t.tid = t.tid then { ch with gone := true } else ch,
                 lease := match c.lease with | some (h, n) => if h = t.tid then none else some (h, n) | none => none,
                 leaseUntil := match c.lease with | some (h, _) => if h = t.tid then none else c.leaseUntil | none => none,
                 threads := tset c.threads t.tid (c.thread t.tid).idle }
    | none => s
  let keep (q : List QRec) : List QRec := q.filter fun r => !(r.r.o && r.r.tag == o.tag)
  let holds := (s.part p).pol.columns.filter fun ca =>
    let c := s.colOf p ca
    (c.q0 ++ c.q1 ++ c.q2 ++ c.q3).any fun r => r.r.o && r.r.tag == o.tag
  let s := s.each holds fun s ca => s.updColOf p ca fun c =>
    { c with q0 := keep c.q0, q1 := keep c.q1, q2 := keep c.q2, q3 := keep c.q3 }
  let s := (s.releaseHeld p o).updPart p fun x =>
    { x.retire o.tag with wb := x.wb.filter fun w => !(w.otag == o.tag), otasks := x.otasks.filter fun y => !(y.tag == o.tag) }
  s.enqueueAs p o.ca o.orig.prio.toNat o.orig o.lin 0 none (some o.born)

/-! ### Commit (R53) -/

/-- Applies one buffered reduction or JOIN at base; commit never faults on it (R240). -/
def State.applyBuffered (s : State) (p : Nat) (a : Access) : State :=
  s.each a.pieces fun s pc =>
    match s.translate p pc.addr with
      | .error _ => s
      | .ok x =>
        let new := a.op.newBytes pc.w (s.readXlat p x 0 pc.addr pc.w) pc.data
        let s := s.writeXlat p x 0 pc.addr new
        if a.op == .join then
          s.joinEffect p (pc.addr - 36) (BitVec.ofNat 32 (leNat new)) (s.readXlat p { x with back := x.back.lineStart } 0 0 64)
        else s

/-- The lines a commit writes: its own tag's marked cells and its reductions (R53). -/
def State.writeSet (s : State) (p : Nat) (o : OTask) : List Nat :=
  (((s.part p).cells.filter fun c => c.tag == o.tag && c.mask != 0).map (·.line)) ++
  o.buf.flatMap fun a => a.pieces.map fun pc =>
    match s.translate p pc.addr with | .ok x => x.line | .error _ => pc.addr / 64

/-- A JOIN decrement of a parent record at base (R50, R260), at once; a commit judges neither the page's permissions and class nor
the address's alignment (log 79: DESIGN CHOICE). -/
def State.joinNow (s : State) (p : Nat) (parent : Nat) : State :=
  s.applyBuffered p ⟨0, .join, [⟨0, parent + 36, 4, 0⟩], 0, [], .pending, false⟩

/-- Every line that a commit writes has a page, and the columns of its spawns are its partition's: a commit never faults, and waits
for a page that has been taken away (R240, R141, log 55) and for a column that another partition still runs (R432). -/
def State.commitReady (s : State) (p : Nat) (o : OTask) : Bool :=
  let maps (addr : Nat) : Bool := match s.translate p addr with | .ok _ => true | .error _ => false
  (((s.part p).cells.filter fun c => c.tag == o.tag).all fun c => maps (c.line * 64)) &&
  (o.buf.all fun a => a.pieces.all fun pc => maps pc.addr) && (!o.orig.c || maps (o.orig.parent.toNat + 36)) &&
  o.spawns.all fun h => (s.col h.ca).holder == some p

/-- Poison that a commit would use (R450). -/
def State.commitTaint (s : State) (p : Nat) (o : OTask) : Option Place :=
  let at_ (addr : Nat) : Option Place := match s.translate p addr with | .ok x => s.taint p x 0 | .error (.poison l) => some l | _ => none
  let cells := ((s.part p).cells.filter fun c => c.tag == o.tag).findSome? fun c =>
    match s.foldCell p c 0 with | .error (.poison l) => some l | _ => none
  match cells with
  | some l => some l
  | none => ((o.buf.flatMap fun a => a.pieces.map (·.addr)) ++ (if o.orig.c then [o.orig.parent.toNat + 36] else [])).findSome? at_

/-- An ordered commit of thread t's task (R53): one step towards every other agent. The read sets it is judged by are exact, of
any size (log 67: DESIGN CHOICE); it happens once every written line translates (log 55: DESIGN CHOICE). -/
def State.commitTask (s : State) (p : Nat) (t : ThreadRef) (o : OTask) : State :=
  let written := s.writeSet p o
  let (s, _) := s.foldCells p 0 ((s.part p).cells.filter fun c => c.tag == o.tag)
  let s := s.each o.buf fun s a => s.applyBuffered p a
  let s := s.each o.spawns fun s h => s.enqueueAs p h.ca h.r.prio.toNat h.r (t :: o.lin) h.addr none (some h.born)
  let s := if o.orig.c then s.joinNow p o.orig.parent.toNat else s
  let s := (s.releaseHeld p o).updPart p fun x =>
    { x.retire o.tag with otasks := (x.otasks.filter fun y => !(y.tag == o.tag)).map fun y =>
        if y.orig.stamp = o.orig.stamp then
          { y with tie := y.tie || y.reads.any written.contains, tieLines := y.tieLines ++ written }
        else y }
  let hit := (s.part p).otasks.filter fun y => y.orig.stamp != o.orig.stamp && y.reads.any written.contains
  s.each hit fun s y => s.abortTask p y

/-- The started, uncommitted ordered task with the largest timestamp, other than any at the frontier (R56); of several with the
same one, the first listed (log 70: DESIGN CHOICE). -/
def State.latestTask (s : State) (p : Nat) : Option OTask :=
  (s.part p).otasks.foldl (fun best o =>
    if o.orig.stamp.toNat = s.frontier p then best
    else match best with
      | none => some o
      | some b => if b.orig.stamp.toNat < o.orig.stamp.toNat then some o else best) none

end Sys2Proof.Machine
end

