-- ==== Sys2Proof/Machine/Context.lean ====
section
/-! DEFINITION. The context instructions (04_contexts_lod R99 to R110, 09_isa_memory R246 to R249). -/

namespace Sys2Proof.Machine

/-- The tag an operand names, none where a bit of 63:12 is set (R246). -/
def tagOperand (x : Word) : Option (BitVec 12) := if x.toNat < 4096 then some (x.truncate 12) else none

/-- The thread runs a task at its partition's commit frontier (R53). -/
def State.atFrontier (s : State) (t : ThreadRef) : Bool :=
  (s.thread t).ordered && match (s.thread t).task with
    | some k => k.r.stamp.toNat == s.frontier ((s.partOf t).getD 16) | none => false

/-- CTXNEW's stall for a tag; in the frontier task it first makes the device abort the latest ordered task (R56, R101). -/
def State.waitTag (s : State) : State :=
  let p := s.pid
  let s := if s.atFrontier s.cur then
      match s.latestTask p with
      | some o => s.abortTask p o
      | none => s
    else s
  s.stallOrPark .tagFree

/-- A task at the frontier waits for the first tag that becomes free, and the issuing thread's is none such (R56). -/
def State.frontierWaits (s : State) : Bool := !s.atFrontier s.cur && s.frontierWants s.pid

/-- CTXNEW (R101, R247). -/
def execCtxnew (d a : BitVec 5) (g : Guard) (s : State) : Result :=
  issueAs (.ctxnew d a g) s (State.parkable fun s =>
    let p := s.pid
    match tagOperand (s.rs a) with
    | none => s.trap .ctxDead
    | some parent =>
      match s.curPart.tag parent with
      | none => s.trap .ctxDead
      | some i =>
        if !i.live then s.trap .ctxDead
        else if i.depth = 3 || s.outside parent then s.trap .protection
        else
          let s := s.sweep p
          if s.curPart.pool = 0 || s.frontierWaits then s.waitTag
          else
            let (t, s) := s.allocTag p parent (i.depth + 1)
            s.ws d (t.zeroExtend 64))

/-- CTXSET (R102, R110, R247). -/
def execCtxset (a : BitVec 5) (g : Guard) (s : State) : Result :=
  issueAs (.ctxset a g) s fun s =>
    match tagOperand (s.rs a) with
    | none => s.trap .ctxDead
    | some t =>
      if !s.curPart.live t then s.trap .ctxDead
      else if s.outside t then s.trap .protection
      else s.upd fun th => { th with ctxcur := t }

/-- The checks and waits of CTXFOLD and CTXRET, before f acts on the tag (R248). -/
def State.withTag (x : Word) (f : BitVec 12 → State → State) (s : State) : State :=
  if x = 0 || (s.th.ordered && x == s.th.ownTag.zeroExtend 64) then s.trap .protection
  else match tagOperand x with
  | none => s.trap .ctxDead
  | some t =>
    if !s.curPart.live t then s.trap .ctxDead
    else if s.outside t then s.trap .protection
    else
      let wait (s : State) : State :=
        if s.th.cntSt ≠ 0 then s.stallOrPark .foldStores
        else s.afterDone (fun a => a.op.isAmo) .again (f t)
      match s.waitFault s.cur 31 0 with
      | some a => s.deliver a
      | none => wait s

/-- An absent page met by the instruction itself: the thread parks for firmware, and the instruction repeats (R360). -/
def State.absentHere (s : State) (addr : Nat) (wr malformed defer : Bool) : State :=
  let p := s.pid
  (s.raiseFault p addr wr false malformed).parkFirmware s.cur p addr defer

/-- A stop that the instruction itself meets, delivered at it: a machine check kills, the rest trap, marked deferred or not. -/
def State.stopAs (defer : Bool) (e : Stop) (addr : Nat) (wr : Bool) (s : State) : State :=
  match e with
  | .poison x => s.consume s.cur x
  | .fault c => s.takeTrap s.cur c addr s.th.ipc ⟨defer, false, false⟩
  | .absent mal =>
    if inFwWindow addr then s.takeTrap s.cur .quota addr s.th.ipc ⟨defer, false, true⟩ else s.absentHere addr wr mal defer

/-- As `stopAs`, precise at the instruction. -/
def State.stopHere (e : Stop) (addr : Nat) (wr : Bool) (s : State) : State := s.stopAs false e addr wr

/-- CTXFOLD (R107, R109, R248). -/
def execCtxfold (a : BitVec 5) (g : Guard) (s : State) : Result :=
  issueAs (.ctxfold a g) s (State.parkable fun s => s.withTag (s.rs a) fun t s =>
    let p := s.pid
    if s.engineNames p t then s.stallOrPark (.engineTags [t])
    else
      let parent := match s.curPart.tag t with | some i => i.parent | none => 0
      match s.foldCells p parent (s.curPart.cells.filter fun c => c.tag == t) with
      | (s, none) => s
      | (s, some (e, addr)) => s.stopHere e addr true)

/-- CTXRET (R108, R109, R248). -/
def execCtxret (a : BitVec 5) (g : Guard) (s : State) : Result :=
  issueAs (.ctxret a g) s (State.parkable fun s => s.withTag (s.rs a) fun t s =>
    let p := s.pid
    let sub := (s.curPart.tags.map fun e => BitVec.ofNat 12 e.1).filter fun n => s.curPart.live n && s.curPart.below t 4 n
    if sub.any fun n => s.engineNames p n then s.stallOrPark (.engineTags sub)
    else s.updPart p fun x => x.retire t)

/-- The state word of a tag (R249). -/
def Partition.tagWord (p : Partition) (t : BitVec 12) : Word :=
  match p.tag t with
  | none => 0
  | some i =>
    let cells := if t = 0 then 0 else (p.cells.filter fun c => c.tag == t).length
    BitVec.ofNat 64 ((if i.live then 1 else 2) + 4 * i.depth + 65536 * i.parent.toNat + 2 ^ 32 * min cells 0xFFFFFFFF)

/-- CTXQ (R249, R110). -/
def execCtxq (d a : BitVec 5) (g : Guard) (s : State) : Result :=
  issueAs (.ctxq d a g) s fun s =>
    match tagOperand (s.rs a) with
    | none => s.ws d 0
    | some t =>
      if s.outside t then s.trap .protection
      else
        let s := s.sweep s.pid
        s.ws d (s.curPart.tagWord t)

end Sys2Proof.Machine
end

