-- ==== Sys2Proof/Machine/LoadStore.lean ====
section
/-! DEFINITION. Loads, stores, reductions, returning atomics and vector accesses (09_isa_memory R231 to R243): what the
issuing core does; the access performs by LOAD_RETURN or STORE_PERFORMED. -/

namespace Sys2Proof.Machine

/-- The address base + offset times size, with no wrap: one below 0 lies beyond every canonical address (R233, R75). -/
def effAddr (base : Word) (off : Int) : Nat :=
  let a : Int := (base.toNat : Int) + off
  if a < 0 then 2 ^ 64 + (a % (2 ^ 64 : Int)).toNat else a.toNat

/-- LD (R233). -/
def execLd (d b : BitVec 5) (h : BitVec 2) (t : BitVec 3) (o : BitVec 10) (s : State) : Result :=
  issueAs (.ld d b h t o) s fun s =>
    let w : Nat := 2 ^ (t.toNat % 4)
    s.memOp 1 (.ld d (decide (t.toNat < 4))) [⟨0, effAddr (s.rs b) (o.toInt * (w : Int)), w, 0⟩] (if d = 0 then [] else [.s d])

/-- ST: the data field is the source (R233). -/
def execSt (d b : BitVec 5) (h t : BitVec 2) (o : BitVec 10) (s : State) : Result :=
  issueAs (.st d b h t o) s fun s =>
    let w : Nat := 2 ^ t.toNat
    s.memOp 1 .st [⟨0, effAddr (s.rs b) (o.toInt * (w : Int)), w, s.rs d⟩] []

/-- LDX: the walk starts at the named tag (R235). TADDR of its precise CTX_DEAD is 0 (log 31: DEDUCED). -/
def execLdx (d a b : BitVec 5) (g : Guard) (t : BitVec 3) (s : State) : Result :=
  issueAs (.ldx d a b g t) s (State.raising .ld fun s =>
    let w : Nat := 2 ^ (t.toNat % 4)
    let tag : BitVec 12 := (s.rs b).truncate 12
    if !s.curPart.live tag then s.trap .ctxDead
    else match s.accessCheck s.cur (s.rs a).toNat w 1 with
      | some c => s.trapAt c (s.rs a).toNat
      | none =>
        if s.outside tag then s.trapAt .protection (s.rs a).toNat
        else s.issueIn tag (.ld d (decide (t.toNat < 4))) [⟨0, (s.rs a).toNat, w, 0⟩] (if d = 0 then [] else [.s d]))

/-- RED.op (R236, R237). -/
def execRedOp (a b : BitVec 5) (g : Guard) (o : RedOp) (w : WidthSign) (s : State) : Result :=
  issueAs (.redOp a b g o w) s fun s =>
    s.memOp (wsBytes w) (.red o w) [⟨0, (s.rs a).toNat, wsBytes w, s.rs b⟩] []

/-- RED.x (R238). -/
def execRedX (a b : BitVec 5) (g : Guard) (s : State) : Result :=
  issueAs (.redX a b g) s fun s => s.memOp 32 .redx [⟨0, (s.rs a).toNat, 32, s.rs b⟩] []

/-- A returning AMO: refused in scratch and in an ordered task, at issue; then as FENCE before itself (R231, R239, R240, R140). -/
def State.amoOp (k : AmoKind) (w : WidthSign) (d a b : BitVec 5) (s : State) : State :=
  s.raising .ld fun s =>
    let ad := (s.rs a).toNat
    match s.accessCheck s.cur ad (wsBytes w) (wsBytes w) with
    | some c => s.trapAt c ad
    | none =>
      if inScratch ad || s.th.ordered then s.trapAt .protection ad
      else s.waiting 0 0 31 31 31 fun s =>
        s.issue (.amo k w d (s.rs d)) [⟨0, ad, wsBytes w, s.rs b⟩] (if d = 0 then [] else [.s d])

/-- AMO.swap (R239). -/
def execAmoSwap (d a b : BitVec 5) (g : Guard) (w : WidthSign) (s : State) : Result :=
  issueAs (.amoSwap d a b g w) s (State.amoOp .swap w d a b)

/-- AMO.cas: d is the comparand (R239). -/
def execAmoCas (d a b : BitVec 5) (g : Guard) (w : WidthSign) (s : State) : Result :=
  issueAs (.amoCas d a b g w) s (State.amoOp .cas w d a b)

/-- AMO.add (R239). -/
def execAmoAdd (d a b : BitVec 5) (g : Guard) (w : WidthSign) (s : State) : Result :=
  issueAs (.amoAdd d a b g w) s (State.amoOp .add w d a b)

/-! ### Vector accesses (R241 to R243) -/

def ewBytes : ElemWidth → Nat | .e8 => 1 | .e16 => 2 | .e32 => 4

/-- A vector load of the active elements, each at its address (R242). -/
def State.vload (d : BitVec 4) (k : BitVec 2) (e : ElemWidth) (sgn : Bool) (addr : Nat → Nat) (s : State) : State :=
  let els := s.actives k
  s.memOp 1 (.vld d sgn) (els.map fun i => ⟨i, addr i, ewBytes e, 0⟩) (els.map fun i => .v d i)

/-- A vector store, its data captured at issue (R242, R243). -/
def State.vstore (d : BitVec 4) (k : BitVec 2) (e : ElemWidth) (addr : Nat → Nat) (s : State) : State :=
  s.memOp 1 .st ((s.actives k).map fun i => ⟨i, addr i, ewBytes e, (s.rv d i).zeroExtend 64⟩) []

/-- Element addresses of the three shapes (R242). -/
def unitAddr (base : Word) (e : ElemWidth) (i : Nat) : Nat := effAddr base ((i * ewBytes e : Nat) : Int)
def strideAddr (base stride : Word) (i : Nat) : Nat := effAddr base ((i : Int) * stride.toInt)
def gatherAddr (s : State) (base : Word) (idx : BitVec 4) (i : Nat) : Nat := effAddr base ((s.rv idx i).toNat : Int)

/-- VLD (R242). -/
def execVld (d : BitVec 4) (k : BitVec 2) (b : BitVec 5) (e : ElemWidth) (x : Bool) (s : State) : Result :=
  issueAs (.vld d k b e x) s (State.vector fun s => s.vload d k e x (unitAddr (s.rs b) e))

/-- VST (R242). -/
def execVst (d : BitVec 4) (k : BitVec 2) (b : BitVec 5) (e : ElemWidth) (s : State) : Result :=
  issueAs (.vst d k b e) s (State.vector fun s => s.vstore d k e (unitAddr (s.rs b) e))

/-- VLDS (R242). -/
def execVlds (d c : BitVec 4) (k : BitVec 2) (b : BitVec 5) (e : ElemWidth) (x : Bool) (s : State) : Result :=
  issueAs (.vlds d c k b e x) s (State.vector fun s => s.vload d k e x (strideAddr (s.rs b) (s.rs (c.zeroExtend 5))))

/-- VSTS (R242). -/
def execVsts (d c : BitVec 4) (k : BitVec 2) (b : BitVec 5) (e : ElemWidth) (s : State) : Result :=
  issueAs (.vsts d c k b e) s (State.vector fun s => s.vstore d k e (strideAddr (s.rs b) (s.rs (c.zeroExtend 5))))

/-- VGATH (R242). -/
def execVgath (d i : BitVec 4) (k : BitVec 2) (b : BitVec 5) (e : ElemWidth) (x : Bool) (s : State) : Result :=
  issueAs (.vgath d i k b e x) s (State.vector fun s => s.vload d k e x (gatherAddr s (s.rs b) i))

/-- VSCAT (R242). -/
def execVscat (d i : BitVec 4) (k : BitVec 2) (b : BitVec 5) (e : ElemWidth) (s : State) : Result :=
  issueAs (.vscat d i k b e) s (State.vector fun s => s.vstore d k e (gatherAddr s (s.rs b) i))

end Sys2Proof.Machine
end

