-- ==== Sys2Proof/Machine/Task.lean ====
section
/-! DEFINITION. Tasks: reserving and committing queue records, ending, suspending and joining (02_execution R39 to R57, R69 to
R71, 10_isa_tasks R256 to R263). -/

namespace Sys2Proof.Machine

/-! ### Placement (R69) -/

/-- A column's THSENSE reading (R367). -/
def Column.reading (c : Column) : Nat := min 0xFFFF (c.temp.toNat / 16 + 2 * c.droop.toNat)

/-- The counts of a domain, zero before its first placement. -/
def Partition.placeOf (p : Partition) (level id : Nat) : PlaceCount :=
  (p.places.find? fun x => x.level == level && x.id == id).getD ⟨level, id, 0, []⟩

def Partition.setPlace (p : Partition) (x : PlaceCount) : Partition :=
  { p with places := p.places.filter (fun y => !(y.level == x.level && y.id == x.id)) ++ [x] }

/-- The plain count q of member j of n after k placements. -/
def plainCount (k n j : Nat) : Nat := (k + n - 1 - j) / n

/-- Member j's deviation. -/
def PlaceCount.dev (x : PlaceCount) (n j : Nat) : Int := ((tget x.actual j 0 : Nat) : Int) - (plainCount x.n n j : Nat)

/-- The choice among n members with the readings rd, from the plain choice j0: the allowed member with the lowest reading at
or below thdisp, the first in cyclic order after j0 (R69). -/
def PlaceCount.choose (x : PlaceCount) (n : Nat) (rd : Nat → Nat) (thdisp pdist : Nat) : Nat :=
  let j0 := x.n % n
  if rd j0 ≤ thdisp then j0
  else
    let allowed (j : Nat) : Bool :=
      j == j0 || (decide (x.dev n j + 1 ≤ (pdist : Int)) && decide (-(pdist : Int) ≤ x.dev n j0 - 1))
    let best := (upto n).foldl (fun (b : Option Nat) i =>
      let j := (j0 + 1 + i) % n
      if allowed j && decide (rd j ≤ thdisp) then
        match b with
        | some k => if rd j < rd k then some j else b
        | none => some j
      else b) none
    best.getD j0

/-- PLACEMENT of a spawn in a domain of the issuing column: the column chosen, the counts advanced (R69). -/
def State.place (s : State) (level : Nat) : Nat × State :=
  let p := s.pid
  let id := domIdAt s.here.domid level
  let m := s.domain s.curPart.pol level id
  if m.isEmpty then (s.cur.ca, s)
  else
    let x := s.curPart.placeOf level id
    let j := x.choose m.length (fun j => (s.col (m.getD j 0)).reading) s.curPart.thdisp.toNat s.curPart.pdist.toNat
    (m.getD j 0, s.updPart p fun q =>
      q.setPlace { x with n := x.n + 1, actual := tset x.actual j (tget x.actual j 0 + 1) })

/-! ### Slots (R43, R256, R257) -/

/-- Records that a column queue and the reservations on it hold. -/
def State.queueUse (s : State) (p ca prio : Nat) : Nat :=
  ((s.colOf p ca).queue prio).length + ((s.part p).slots.filter fun x => x.ca == ca && x.prio.toNat == prio).length

/-- Whether head buffer and backing of a column queue are full, the backing as far as the field controller has grown it (R44). -/
def State.queueFull (s : State) (p ca prio : Nat) : Bool := decide (32 + (s.part p).pol.qback + tget (s.part p).grown (4 * ca + prio) 0 ≤ s.queueUse p ca prio)

/-- A slot address that no reservation has. Which one, the spec leaves open: a free value (log 2). -/
def State.newSlotAddr (s : State) (p : Nat) : Nat × State :=
  let (k, s) := s.free
  let used := (s.part p).slots.map (·.addr)
  let place (i : Nat) : Nat := Config.queueBacking + 64 * ((k + i) % 2 ^ 29)
  (place (((upto (used.length + 1)).find? fun i => !used.contains (place i)).getD 0), s)

/-- The slot that the issuing thread holds at an address (R256). -/
def State.heldSlot (s : State) (a : Word) : Option Slot :=
  if s.th.resv.contains a.toNat then s.curPart.slots.find? fun x => x.addr == a.toNat && x.owner == s.cur else none

/-- Reserves a slot at a column queue and writes it (R256 steps 3 and 4). -/
def State.reserve (ca : Nat) (pclass : BitVec 3) (prio : BitVec 2) (d : BitVec 5) (s : State) : State :=
  let (a, s) := s.newSlotAddr s.pid
  let s := s.cleanAt (.slot s.pid a)
  let data := BitVec.ofNat 512 ((pclass.toNat * 4 + prio.toNat) * 2 ^ 272)
  let s := s.updCurPart fun p => { p with slots := p.slots ++ [⟨a, s.cur, ca, pclass, prio, data⟩] }
  (s.upd fun th => { th with resv := th.resv ++ [a], wait := .none }).ws d (BitVec.ofNat 64 a)

/-- SPAWNR (R256, R42, R44). A target chosen at once stands through its stall, and through a parking (R280); the counts its choice
has advanced stand through a QUEUE_FULL too (log 84: DESIGN CHOICE). -/
def execSpawnr (d a b : BitVec 5) (g : Guard) (s : State) : Result :=
  issueAs (.spawnr d a b g) s fun s =>
    let prio : BitVec 2 := (s.rs b).truncate 2
    let pclass : BitVec 3 := BitVec.ofNat 3 (bitsOf (s.rs b) 2 3)
    let ca := bitsOf (s.rs a) 0 12
    if 5 < pclass.toNat then s.trap .illegalInstr
    else if pclass = 0 && !caOk ca then s.trap .addrRange
    else if pclass = 0 && (!s.curPart.pol.has ca || s.retired.contains ca) then s.trap .protection
    else if 8 ≤ (s.curPart.slots.filter fun x => x.owner == s.cur).length then
      s.takeTrap s.cur .queueFull 8 s.th.ipc ⟨false, false, true⟩
    else
      let (ca, s) := if pclass = 0 then (ca, s)
        else match s.th.wait with
          | .spawn kept _ => (kept, s)
          | _ => s.place (if pclass = 5 then 0 else pclass.toNat)
      if s.queueFull s.pid ca prio.toNat then s.stall (.spawn ca prio.toNat)
      else s.reserve ca pclass prio d

/-- The checks of R41 on a record in a slot, in their order, and R55's. -/
def State.recordTrap (s : State) (data : BitVec 512) : Option Cause :=
  let r := Rec.ofBits data
  if data.getLsbD 268 || (r.o && r.tag != 0) || (r.c && r.parent == 0) then some .illegalInstr
  else if 2 ^ 48 ≤ r.code.toNat then some .addrRange
  else if r.code.toNat % 8 ≠ 0 then some .misaligned
  else if !r.o && !s.curPart.live r.tag then some .ctxDead
  else match s.th.task with
    | some t => if t.r.o && r.o && r.stamp.ult t.r.stamp then some .stampTie else none
    | none => none

/-- The threads that a spawning of the issuing thread goes back to (R59). -/
def State.lineage (s : State) : List ThreadRef := s.cur :: (match s.th.task with | some t => t.lin | none => [])

/-- A store to the line of a slot (R259). -/
def storesTo (addr : Nat) (x : Access) : Bool := !x.op.isLoad && x.lines.contains (addr / 64)

/-- SPAWNC (R259, R41, R42, R52). Its thread's earlier accesses are ordered before the task's by QRec.after. At a column that
another partition still runs, it waits as a store of the thread (R432). -/
def execSpawnc (a : BitVec 5) (g : Guard) (s : State) : Result :=
  issueAs (.spawnc a g) s fun s =>
    match s.heldSlot (s.rs a) with
    | none => s.trapAt .protection (s.rs a).toNat
    | some sl =>
      s.afterDone (storesTo sl.addr) (.slot sl.addr) fun s =>
        if s.tainted (.slot s.pid sl.addr) then s.consume s.cur (.slot s.pid sl.addr)
        else match s.recordTrap sl.data with
        | some c => s.trap c
        | none =>
          let r := { Rec.ofBits sl.data with x := sl.ca != s.cur.ca, pclass := sl.pclass, prio := sl.prio }
          let s' := s.upd fun th => { th with resv := th.resv.filter fun x => x != sl.addr }
          if s.th.ordered then
            let (n, s') := s'.newId
            s'.updCurPart fun p => p.updOtask s.th.ownTag fun o => { o with spawns := o.spawns ++ [⟨r, sl.ca, sl.addr, n⟩] }
          else
            let s' := s'.updCurPart fun p => { p with slots := p.slots.filter fun x => x.addr != sl.addr }
            if (s.col sl.ca).holder = some s.pid then
              s'.enqueueAs s.pid sl.ca sl.prio.toNat r s.lineage sl.addr (some (s.cur, s.nextId)) none
            else if 31 ≤ s.th.cntSt then s.stall (.room .st)
            else s'.issue (.spawn r sl.ca sl.addr s.lineage) [] []

/-- STAMP (R258). -/
def execStamp (d a b : BitVec 5) (g : Guard) (s : State) : Result :=
  issueAs (.stamp d a b g) s fun s =>
    match s.heldSlot (s.rs a) with
    | none => s.trapAt .protection (s.rs a).toNat
    | some sl =>
      let n := s.th.tscur.toNat + (s.rs b).toNat
      let t : Word := if 2 ^ 64 ≤ n then BitVec.allOnes 64 else BitVec.ofNat 64 n
      s.raising .st fun s => (s.issue .st [⟨0, sl.addr + 24, 8, t⟩] []).ws d t

/-! ### Ending a task (R260) -/

/-- A thread ends: its lease and lane claim released, its loops cleared, Idle (R260 step 4). -/
def State.endThread (s : State) (t : ThreadRef) : State :=
  (s.releaseLease t).updThread t fun th =>
    { th.idle with laneReq := 0, laneHeld := 0, vl := if isDrive t then 16 else 0,
                   run := if isService t then .dormant else .idle }

/-- A JOIN decrement that the instruction itself performs (R260 step 3), and f after it. PARENT is judged as JOIN judges its record,
its 64-byte alignment too (log 79: DESIGN CHOICE). -/
def State.joinHere (parent : Nat) (f : State → State) (s : State) : State :=
  match s.accessCheck s.cur parent 64 64 with
  | some c => s.trapAt c parent
  | none =>
    if inScratch parent then s.trapAt .protection parent
    else match s.performPiece s.cur ⟨0, .join, [], 0, [], .pending, false⟩ ⟨0, parent + 36, 4, 0⟩ with
      | .error e => s.stopHere e (parent + 36) true
      | .ok (s, _) => f s

/-- STAMP_TIE at the TEND of thread t (R55). -/
def State.tieTrap (s : State) (t : ThreadRef) : State :=
  (s.updThread t fun th => { th with tied := true }).takeTrap t .stampTie 0 (s.thread t).ipc TrapKind.sync

/-- Steps 2 to 4 of TEND, after its wait. -/
def State.endTask (s : State) : State :=
  match s.th.task with
  | none => s.endThread s.cur
  | some t =>
    if t.r.o then
      match s.curPart.otaskOf t.r.tag with
      | some o => if o.tie then s.tieTrap s.cur else s.waitAt .commit
      | none => s.waitAt .commit
    else if t.r.c then s.joinHere t.r.parent.toNat fun s => s.endThread s.cur
    else s.endThread s.cur

/-! ### Suspending a task (R49, R261, R262) -/

/-- A point at which a pre-emption request parks the thread before the instruction; its wait comes first (R72, R280). -/
def State.pointBefore (f : State → State) (s : State) : State :=
  s.waitingAll fun s => if s.mustPark s.cur then s.parkBefore else f s

/-- AWAIT and YIELD, points of every thread but a service thread (R72, R364). -/
def State.taskPoint (f : State → State) (s : State) : State :=
  if isService s.cur then s.waitingAll f else s.pointBefore f

/-- Whether the issuing thread holds the lease of its column. -/
def State.leaseHeld (s : State) : Bool :=
  !isDrive s.cur && match s.here.lease with | some (h, _) => h == s.cur.tid | none => false

/-- The continuation of the issuing thread's task (R49); a launched program's is a plain one of priority 0. -/
def State.continuation (s : State) : Rec :=
  let base : Rec := match s.th.task with
    | some t => t.r
    | none => ⟨0, 0, 0, 0, false, false, false, 0, 0, 0, 0, 0, 0, 0⟩
  { base with code := s.th.pc, frame := s.rs 30, arg0 := s.rs 1, arg1 := s.rs 2, arg2 := s.rs 3 }

/-- The issuing thread goes Idle; its registers are lost (R49). -/
def State.suspend (s : State) : State :=
  s.upd fun th => { th.idle with vl := th.vl, run := if isService s.cur then .dormant else .idle }

/-- The page of an AWAIT record at its home slice: SHARED and writable (R261). -/
def State.awaitPage (s : State) (addr : Nat) : Except Stop Xlat :=
  match s.judge s.cur .store 0 false false addr with
  | .error e => .error e
  | .ok x =>
    if x.cls != .shared then .error (.fault .protection)
    else match s.taint s.pid x 0 with | some y => .error (.poison y) | none => .ok x

/-- Bytes 0 to 35 and 40 to 63 of a record written over a line, JOIN untouched (R49). -/
def keepJoin (old : BitVec 512) (r : Rec) : BitVec 512 :=
  let j := old.toNat / 2 ^ 288 % 2 ^ 32
  ({ r with join := BitVec.ofNat 32 j } : Rec).bits

/-- AWAIT's write and its JOIN step, at once (R261). -/
def State.awaitWrite (addr : Nat) (s : State) : State :=
  match s.awaitPage addr with
  | .error e => s.stopHere e addr true
  | .ok x =>
    let p := s.pid
    let old := s.readLine p x 0
    let r := s.continuation
    let s := s.writeXlat p { x with back := x.back.lineStart } 0 0 (leBytes 64 (keepJoin old r).toNat)
    let join := BitVec.ofNat 32 (old.toNat / 2 ^ 288 % 2 ^ 32)
    if 0 < join.toInt then
      (s.updPart p fun q => { q with wb := q.wb.filter (fun w => w.addr != addr) ++
        [⟨addr, s.cur.ca, r.prio, s.lineage.drop 1, if r.o then r.tag else 0⟩] }).suspend
    else s

/-- AWAIT (R49, R51, R261); LEASE_MISUSE comes before the checks of sa (log 85: DESIGN CHOICE). -/
def execAwait (a : BitVec 5) (s : State) : Result :=
  issueAs (.await a) s fun s =>
    let addr := (s.rs a).toNat
    if s.leaseHeld then s.trap .leaseMisuse
    else if 2 ^ 48 < addr + 64 then s.trapAt .addrRange addr
    else if addr % 64 ≠ 0 then s.trapAt .misaligned addr
    else if inScratch addr then s.trapAt .protection addr
    else s.taskPoint (State.awaitWrite addr)

/-- The place of the issuing thread's record slot in home scratch (R48). -/
def slotOffset (t : ThreadRef) : Nat := Config.recordSlots - Config.homeBase + 64 * t.tid

/-- YIELD's write, its commit and its suspension (R262); JOIN is read from the slot, whose poison it would use (R450). -/
def State.yieldNow (s : State) : State :=
  let off := slotOffset s.cur
  match s.scratchTaint s.cur (Config.homeBase + off) with
  | some x => s.consume s.cur x
  | none =>
    let r := s.continuation
    let r := { r with join := BitVec.ofNat 32 (leNat (mread s.here.home (off + 36) 4)) }
    let s := if isService s.cur then s else s.updHere fun c => { c with home := mwrite c.home off r.bytes }
    (s.enqueue s.pid s.cur.ca r.prio.toNat r (s.lineage.drop 1) 0).suspend

/-- YIELD (R49, R51, R262). -/
def execYield (s : State) : Result :=
  issueAs .yield s fun s => if s.leaseHeld then s.trap .leaseMisuse else s.taskPoint State.yieldNow

/-- JOIN (R263): its word has a home slice, so a scratch address is refused. -/
def execJoin (a : BitVec 5) (g : Guard) (s : State) : Result :=
  issueAs (.join a g) s (State.raising .st fun s =>
    let addr := (s.rs a).toNat
    match s.accessCheck s.cur addr 64 64 with
    | some c => s.trapAt c addr
    | none =>
      if inScratch addr then s.trapAt .protection addr
      else s.issue .join [⟨0, addr + 36, 4, 0⟩] [])

end Sys2Proof.Machine
end

