-- ==== Sys2Proof/Machine/Sync.lean ====
section
/-! DEFINITION. Barriers, votes and domain queries (02_execution R58 to R63, 10_isa_tasks R264, R265) and lane claims (R66,
R279). -/

namespace Sys2Proof.Machine

/-! ### Lanes (R66) -/

/-- The control threads of a column. -/
def controlTids : List Nat := upto 32

/-- Groups in a column's free pool. -/
def State.freeGroups (s : State) (ca : Nat) : Nat :=
  8 - (controlTids.map fun n => (s.thread ⟨ca, n⟩).laneHeld).foldl (· + ·) 0

/-- The claimants of a column, and whether a thread other than t is a short one. -/
def State.claimants (s : State) (ca : Nat) : Nat := (controlTids.filter fun n => 0 < (s.thread ⟨ca, n⟩).laneReq).length

def State.otherShort (s : State) (t : ThreadRef) : Bool :=
  controlTids.any fun n => n != t.tid && decide ((s.thread ⟨t.ca, n⟩).laneHeld < (s.thread ⟨t.ca, n⟩).laneReq)

/-- Step 2 of a renegotiation: the cut (R66). -/
def State.cutLanes (s : State) (t : ThreadRef) : State :=
  let n := s.claimants t.ca
  let share := (8 + n - 1) / n
  let held := (s.thread t).laneHeld
  let held := if 1 < held && s.otherShort t then min held share else held
  s.updThread t fun th => { th with laneHeld := held, vl := 8 * held }

/-- A renegotiation at a release or a PPOINT of thread t: a short claimant takes free groups up to its request (R66). -/
def State.renegotiate (s : State) (t : ThreadRef) : State :=
  let free := s.freeGroups t.ca
  (s.updThread t fun th => { th with laneHeld := max th.laneHeld (min th.laneReq (th.laneHeld + free)) }).cutLanes t

/-- VCLAIM (R66, R279). -/
def execVclaim (d a : BitVec 5) (g : Guard) (s : State) : Result :=
  issueAs (.vclaim d a g) s fun s =>
    let n := (s.rs a).toNat
    if 8 < n then s.trap .illegalInstr
    else
      let free := s.freeGroups s.cur.ca
      let s := (s.upd fun th => { th with laneReq := n, laneHeld := min n (free + th.laneHeld) }).cutLanes s.cur
      s.ws d (BitVec.ofNat 64 s.th.laneHeld)

/-- VREL (R66, R279). -/
def execVrel (g : Guard) (s : State) : Result :=
  issueAs (.vrel g) s fun s => s.upd fun th => { th with laneReq := 0, laneHeld := 0, vl := 0 }

/-! ### Barriers (R59, R264) -/

/-- A request parks the thread where it waits in place; a barrier is no point of a service thread (R72, R364). -/
def State.parksInPlace (s : State) (t : ThreadRef) : Bool :=
  s.mustPark t && !(isService t && match (s.thread t).wait with | .barrier .. => true | _ => false)

/-- A thread that waits in place is judged again: a fault of an access before its barrier is delivered there (R92, R137). Under a
pre-emption request it parks as after WAIT with every limit at 0, to resume still waiting (R72, R201). -/
def State.settle (s : State) (t : ThreadRef) : State :=
  let th := s.thread t
  if th.run == .waiting && (s.parksInPlace t || match th.wait with | .barrier .. => true | _ => false) then
    match s.waitFault t 0 0 with
    | some a => s.asThread t fun s => s.deliver a
    | none =>
      if s.parksInPlace t then
        match th.waitEngine 0 0 0 with
        | some e => s.asThread t fun s => s.deliverEngine e
        | none => if th.within 0 0 0 0 0 then s.updThread t fun th => th.parkFor .waiting else s
      else s
  else s

/-- A barrier's wait is measured from the first general thread that waits at its level and ID (R60). -/
def State.noteWait (s : State) (level : Nat) : State :=
  let key := (level, domIdAt s.here.domid level)
  if isService s.cur || s.curPart.barWait.any fun b => b.1 == key then s
  else s.updCurPart fun q => { q with barWait := q.barWait ++ [(key, s.now)] }

/-- BAR and BARV: the traps of R264, faults of earlier accesses (R92, R137, log 56), then the wait in place. -/
def State.barrier (level : BitVec 3) (x : Bool) (vote : Option (VoteOp × BitVec 16 × BitVec 5)) (s : State) : State :=
  if s.leaseHeld then s.trap .leaseMisuse
  else if s.th.ordered then s.trap .protection
  else if s.th.phase.isSome then s.trap .xslot
  else match s.waitFault s.cur 0 0 with
  | some a => s.deliver a
  | none =>
    let go (s : State) : State := ((s.noteWait level.toNat).waitAt (.barrier level.toNat x vote)).settle s.cur
    if s.mustPark s.cur && !isService s.cur then s.waitingAll go else go s

/-- BAR (R264). -/
def execBar (l : BitVec 3) (s : State) : Result := issueAs (.bar l) s (State.barrier l false none)

/-- BAR.x (R264, R63). -/
def execBarX (l : BitVec 3) (s : State) : Result := issueAs (.barX l) s (State.barrier l true none)

/-- BARV (R264, R61). -/
def execBarv (d a : BitVec 5) (o : VoteOp) (l : BitVec 3) (s : State) : Result :=
  issueAs (.barv d a o l) s fun s => s.barrier l false (some (o, (s.rs a).truncate 16, d))

/-- BARV.x (R264, R61, R63). -/
def execBarvX (d a : BitVec 5) (o : VoteOp) (l : BitVec 3) (s : State) : Result :=
  issueAs (.barvX d a o l) s fun s => s.barrier l true (some (o, (s.rs a).truncate 16, d))

/-- DOMQ (R265). -/
def execDomq (d : BitVec 5) (g : Guard) (l : BitVec 3) (s : State) : Result :=
  issueAs (.domq d g l) s fun s =>
    let id := domIdAt s.here.domid l.toNat
    let m := s.domain s.curPart.pol l.toNat id
    let rank := (m.filter fun ca => decide (ca < s.cur.ca)).length
    s.ws d (BitVec.ofNat 64 (id + 2 ^ 8 * m.length + 2 ^ 20 * rank))

/-! ### Release (R59 to R63) -/

/-- The barrier at which a thread waits in place: level and ID. -/
def State.barrierOf (s : State) (t : ThreadRef) : Option (Nat × Nat) :=
  match (s.thread t).run, (s.thread t).wait with
  | .waiting, .barrier l _ _ => some (l, domIdAt (s.col t.ca).domid l)
  | _, _ => none

/-- Whether the partition's tag pool has a tag besides the held-back one that an ordered record may take (R47, R56). -/
def Partition.mayPopOrdered (p : Partition) : Bool := p.pool != 0

/-- Whether an idle thread could take this record, other than as the frontier's (R47 step 3); the first tag goes to a CTXNEW of
the frontier task (R56). -/
def State.qualifies (s : State) (p : Nat) (q : QRec) : Bool :=
  !(q.r.o && q.r.tag == 0) || ((s.part p).mayPopOrdered && !s.frontierWants p)

/-- Whether a record of a column's queues could be popped by an idle thread of it (R47), once the accesses ordered before its
task have performed (R259). -/
def State.poppable (s : State) (p ca : Nat) : Bool :=
  let c := s.col ca
  (c.q0 ++ c.q1 ++ c.q2 ++ c.q3).any fun q => s.qualifies p q || q.r.stamp.toNat == s.frontier p

/-- A column has arrived at a barrier (R59). -/
def State.arrived (s : State) (p level id ca : Nat) : Bool :=
  generalTids.all fun n =>
    let t : ThreadRef := ⟨ca, n⟩
    s.barrierOf t == some (level, id) || ((s.thread t).run == .idle && !s.poppable p ca)

/-- The threads that wait at a barrier of a domain, in column and thread order. -/
def State.waiters (s : State) (level id : Nat) (cas : List Nat) : List ThreadRef :=
  cas.flatMap fun ca => (controlTids.map fun n => (⟨ca, n⟩ : ThreadRef)).filter fun t => s.barrierOf t == some (level, id)

/-- Every ordered task that goes back to one of the threads ws, spawned before that thread's BAR, has committed (R59). -/
def State.orderedDone (s : State) (p : Nat) (ws : List ThreadRef) : Bool :=
  let mine (l : List ThreadRef) (born : Nat) : Bool := l.any fun t => ws.contains t && decide (born < (s.thread t).mark)
  !((s.part p).otasks.any fun o => mine o.lin o.born) && !((s.queued (s.part p).pol).any fun q => q.2.r.o && mine q.2.lin q.2.born)

/-- The barrier of a level and ID may release: what stands before it has performed, loads too (R59, R137). -/
def State.mayRelease (s : State) (p level id : Nat) : Bool :=
  let s := s.sweep p
  let part := s.part p
  let cas := s.domain part.pol level id
  let ws := s.waiters level id cas
  part.here && !ws.isEmpty && (cas.all fun ca => (s.col ca).holder == some p && s.arrived p level id ca) &&
  (ws.all fun t => (s.thread t).cntSt == 0 && (s.thread t).cntLd == 0) && s.orderedDone p ws

/-- What a thread brought to its barrier. -/
def State.voteOf (s : State) (t : ThreadRef) : Bool × Option (VoteOp × BitVec 16 × BitVec 5) :=
  match (s.thread t).wait with | .barrier _ x v => (x, v) | _ => (false, none)

/-- Whether the participants agree on form and operation (R61). -/
def votesAgree : List (Bool × Option (VoteOp × BitVec 16 × BitVec 5)) → Bool
  | [] => true
  | v :: rest => rest.all fun w => w.1 == v.1 && w.2.map (·.1) == v.2.map (·.1)

def voteStep (o : VoteOp) (a b : BitVec 16) : BitVec 16 :=
  match o with | .opAnd => a &&& b | .opOr => a ||| b | .opMax => if a.ult b then b else a

/-- The vote's result: the operation over all values (R61). -/
def voteResult (l : List (VoteOp × BitVec 16 × BitVec 5)) : BitVec 16 :=
  match l with
  | [] => 0
  | (o, v, _) :: rest => rest.foldl (fun a w => voteStep o a w.2.1) v

/-- The instruction at ipc is the last of the pair at the innermost loop's E (R226); `two`: of a paired bundle. -/
def Thread.atLoopEnd (th : Thread) (two : Bool) : Bool :=
  match th.loops with
  | l :: _ => l.last == pairOf th.ipc && (two || th.ipc.getLsbD 2)
  | [] => false

/-- The loop's count falls and the body repeats, or the loop ends (R226). -/
def Thread.loopBack (th : Thread) : Thread :=
  match th.loops with
  | l :: rest => if 1 < l.count.toNat then { th with loops := { l with count := l.count - 1 } :: rest, pc := l.start } else { th with loops := rest }
  | [] => th

/-- An instruction that waited in place completes, a barrier at its release: the loop whose last instruction it is acts now (R226,
R228). -/
def Thread.passBarrier (th : Thread) : Thread := if th.atLoopEnd (th.pc == th.ipc + 8) then th.loopBack else th

/-- One thread goes on after a release at t0: its vote's result, its phase, its lanes (R61, R63, R66). -/
def State.goOn (s : State) (t : ThreadRef) (x : Bool) (r : BitVec 16) (d : Option (BitVec 5)) : State :=
  let s := s.updThread t fun th => { th.passBarrier with run := .ready, wait := .none, phase := if x then some s.now else none }
  let s := match d with | some d => s.updThread t fun th => th.ws d (r.zeroExtend 64) | none => s
  s.renegotiate t

/-- What the release leaves in a column that arrived, idle ones too (R63, R275, R320, R368). -/
def Column.released (c : Column) (level : Nat) (x : Bool) (tids : List Nat) (now : Nat) : Column :=
  let c := { c with domLevel := BitVec.ofNat 3 level, domX := x, domEpoch := c.domEpoch + 1, mrots := 0, rotsSent := [] }
  if x then { c with xcount := 0, xopen := tids, xt0 := now, xrecvd := false } else c

/-- A BARRIER RELEASE: every participant goes on at one tick, or traps where they do not agree (R59, R61, R63, R70). Participants that
trap keep the lanes they hold: such a release renegotiates none (log 92: DESIGN CHOICE). -/
def State.release (s : State) (p level id : Nat) : State :=
  let part := s.part p
  let cas := s.domain part.pol level id
  let ws := s.waiters level id cas
  let votes := ws.map s.voteOf
  let s := s.updPart p fun q => { q with barWait := q.barWait.filter (fun b => b.1 != (level, id)),
                                         places := q.places.filter fun x => !(x.level == level && x.id == id) }
  if votesAgree votes then
    let x := votes.any (·.1)
    let r := voteResult (votes.filterMap (·.2))
    let s := s.each cas fun s ca =>
      s.updCol ca fun c => c.released level x ((ws.filter fun t => t.ca == ca).map (·.tid)) s.now
    s.each (ws.zip votes) fun s tv => s.goOn tv.1 x r (tv.2.2.map (·.2.2))
  else (s.updCols cas fun c => c.released level false [] s.now).each ws fun s t => s.takeTrap t .illegalInstr 0 (s.thread t).ipc TrapKind.sync

end Sys2Proof.Machine
end

