-- ==== Sys2Proof/Machine/Engine.lean ====
section
/-! DEFINITION. Engine commands: operand words and range checks (12_isa_engines R307), lock registration (05_ordering R144),
operand reads and writes (R89, R112), completion, faults and abandonment (R316, R317, R328). -/

namespace Sys2Proof.Machine

/-! ### Operands and ranges -/

/-- An engine operand word: none where a reserved bit is set (R307). -/
def State.operand (s : State) (x : Word) : Option Opnd :=
  if bitsOf x 48 15 ≠ 0 then none
  else some ⟨bitsOf x 0 48, if bitsOf x 63 1 = 1 then s.th.ctxcur else 0⟩

/-- A range of bytes: start and length. -/
abbrev Range := Nat × Nat

/-- The first range with a line of which f holds, by its start. -/
def badRange (f : Nat → Bool) (rs : List Range) : Option Nat :=
  (rs.find? fun r => (linesOf r.1 r.2).any f).map (·.1)

/-- ADDR_RANGE, MISALIGNED, SCRATCH_ABSENT and PROTECTION over ranges (R315, R327). The first components of `starts`, addresses
and strides, must be multiples of align; the second are the data addresses that they misalign (R361). -/
def State.rangeTrap (s : State) (align : Nat) (starts : List (Nat × Nat)) (rs : List Range) : Option (Cause × Nat) :=
  match badRange (fun l => addrBad l 64) rs with
  | some a => some (.addrRange, a)
  | none =>
    match starts.find? (fun a => a.1 % align != 0) with
    | some a => some (.misaligned, a.2)
    | none =>
      match badRange (fun l => s.absentBad s.cur l 64) rs with
      | some a => some (.scratchAbsent, a)
      | none => (badRange (fun l => s.remoteBad s.cur l) rs).map fun a => (.protection, a)

/-! ### Locks (R144) -/

/-- The place of a line in the order of registration: addresses rising, scratch by its remote window's address. -/
def Line.key : Line → Nat
  | .mem _ l => l
  | .home ca l => 2 ^ 60 + ca * 2 ^ 20 + l
  | .loft ca l => 2 ^ 60 + ca * 2 ^ 20 + 0x4000 + l
  | .drive ca l => 2 ^ 61 + ca * 2 ^ 20 + l

def insertLock (x : Line × Bool) : List (Line × Bool) → List (Line × Bool)
  | [] => [x]
  | y :: r => if x.1.key < y.1.key then x :: y :: r else if x = y then y :: r else y :: insertLock x r

/-- The locks of a command in the order in which it registers them (R144 rule 1). -/
def sortLocks (l : List (Line × Bool)) : List (Line × Bool) := l.foldr insertLock []

/-- The locks over ranges of bytes as thread t names them. -/
def State.locksOver (s : State) (t : ThreadRef) (wr : Bool) (rs : List Range) : List (Line × Bool) :=
  rs.flatMap fun r => (linesOf r.1 r.2).map fun a => (s.lineOf t a, wr)

/-- A line locked in conflict by another (R144 rule 2). -/
def State.conflict (s : State) (id : Nat) (x : Line × Bool) : Bool :=
  s.locks.any fun k => s.lineNow k.line == s.lineNow x.1 && k.owner != id && (k.wr || x.2)

/-- Registers locks up to the first that conflicts; the rest remain. -/
def State.takeLocks (s : State) (id : Nat) : List (Line × Bool) → State × List (Line × Bool)
  | [] => (s, [])
  | x :: rest =>
    if s.conflict id x then (s, x :: rest)
    else ({ s with locks := s.locks ++ [⟨x.1, x.2, id⟩] } : State).takeLocks id rest

/-- A thread's commands and transfers before number n have registered all their locks (R144 rule 3). -/
def State.registeredBefore (s : State) (t : ThreadRef) (n : Nat) : Bool :=
  (s.cmds.all fun x => x.t != t || decide (n ≤ x.id) || x.registered) &&
  (s.xfers.all fun x => x.t != t || decide (n ≤ x.id) || x.todo.isEmpty)

/-- A transfer registers the source locks that are free (R144, R149). -/
def State.registerXfer (s : State) (x : Xfer) : State :=
  if s.registeredBefore x.t x.id then
    let (s, rest) := s.takeLocks x.id x.todo
    { s with xfers := s.xfers.map fun y => if y.id = x.id then { y with todo := rest } else y }
  else s

/-! ### Commands -/

/-- A command's counter (R199). -/
def CmdOp.ctr : CmdOp → Ctr
  | .cpy .. | .cpyg .. | .coll .. => .cp
  | _ => .tl

def CmdOp.isMatrix (o : CmdOp) : Bool := match o.ctr with | .tl => true | _ => false

def State.updCmd (s : State) (id : Nat) (f : Cmd → Cmd) : State :=
  { s with cmds := s.cmds.map fun c => if c.id = id then f c else c }

/-- Issues a command with the locks it needs and raises its counter; a command without locks has registered. -/
def State.command (op : CmdOp) (todo : List (Line × Bool)) (registered : Bool) (rows : Nat) (s : State) : State :=
  let (n, s) := s.newId
  let s := s.upd fun th => th.bump op.ctr
  { s with cmds := s.cmds ++ [⟨n, s.cur, op, sortLocks todo, registered, rows, .pending, [], [], false, []⟩] }

/-- The matrix commands that a holder had in flight when it trapped have ended (R67, R312). -/
def State.leaseOver (s : State) (t : ThreadRef) : Bool :=
  match (s.col t.ca).lease, (s.col t.ca).leaseUntil with
  | some (h, _), some n => h == t.tid && !isDrive t && s.cmds.all fun x => x.t != t || !x.op.isMatrix || decide (n ≤ x.id)
  | _, _ => false

/-- Lowers a thread's engine counter; the last matrix command in flight of a holder that trapped ends its lease (R67, R312). -/
def State.lowerEngine (s : State) (t : ThreadRef) (c : Ctr) : State :=
  let s := s.updThread t fun th => th.lower c
  if s.leaseOver t then s.updCol t.ca fun x => { x with lease := none, leaseUntil := none } else s

/-- A command ends: its locks are released and its counter falls (R144 rule 4, R199). -/
def State.endCmd (s : State) (c : Cmd) : State :=
  (({ s with cmds := s.cmds.filter (fun x => x.id != c.id), locks := s.locks.filter (fun l => l.owner != c.id) } : State).lowerEngine
    c.t c.op.ctr).settle c.t

/-- A command is abandoned; its fault waits for its thread, and the thread's later matrix commands are discarded (R317, R328). -/
def State.abandon (s : State) (c : Cmd) (cause : Cause) (addr : Nat) (unres : Bool) : State :=
  let before := (s.thread c.t).cnt c.op.ctr
  let s := s.updThread c.t fun th => { th with engFaults := th.engFaults ++ [⟨c.op.ctr, cause, addr, unres, before⟩] }
  let s := match c.op with
    | .mma .. => s.updThread c.t fun th => { th with mpend := true, mdone := BitVec.ofNat 7 c.rows }
    | _ => s
  let s := s.endCmd c
  if c.op.isMatrix then
    s.each (s.cmds.filter fun x => x.t == c.t && x.op.isMatrix && decide (c.id < x.id)) State.endCmd
  else s

/-- Adds a copy's fault to its column's batch, or begins one where it has none with room (R444). -/
def State.batchFault (s : State) (ca : Nat) (e : BatchEntry) : State :=
  let fits (b : Batch) : Bool := b.ca == ca && decide (b.entries.length < 32)
  if s.batches.any fits then
    { s with batches := s.batches.map fun b => if fits b then { b with entries := b.entries ++ [e] } else b }
  else { s with batches := s.batches ++ [⟨ca, s.now, [e]⟩] }

/-- A page that a copy waits for: an address of it, whether a write met it, and whether its walk was malformed. -/
abbrev Missing := Nat × Bool × Bool

/-- A copy waits for absent pages, whose faults go into its column's batch (R328, R444). -/
def State.waitPages (s : State) (c : Cmd) (addr : Nat) (ms : List Missing) : State :=
  let s := s.updCmd c.id fun x => { x with rows := c.rows, status := .firmware addr, waits := ms.map (·.1) }
  s.each ms fun s m => s.batchFault c.t.ca ⟨(s.partOf c.t).getD 16, m.1 / 0x10000, m.2.1, m.2.2⟩

/-- What a stopped command does: PAGE_ABSENT goes to firmware and the command waits; the rest abandons it (R316, R317, R328). -/
def State.stopCmd (s : State) (c : Cmd) (e : Stop) (addr : Nat) (wr : Bool) : State :=
  match e with
  | .poison x => s.consume c.t x
  | .fault cause => s.abandon c cause addr false
  | .absent mal =>
    if inFwWindow addr then s.abandon c .quota addr true
    else
      let p := (s.partOf c.t).getD 16
      if c.op.isMatrix then
        (s.updCmd c.id fun x => { x with rows := c.rows, status := .firmware addr, waits := [addr] }).raiseEngine p c.t.ca addr wr mal
      else s.waitPages c addr [(addr, wr, mal)]

/-! ### Operand reads and writes (R89, R112) -/

/-- Whether a class permits an engine operand, from column ca (R88, R89). -/
def Xlat.permitsEngine (x : Xlat) (wr : Bool) (ca : Nat) : Bool :=
  (!wr || x.w) &&
  match x.cls with
  | .shared => true
  | .priv => x.home == ca
  | _ => false

/-- Judges one translated line of an engine operand, in a context (R89, R102, R106, R450). -/
def State.engineLine (s : State) (t : ThreadRef) (wr full : Bool) (tag : BitVec 12) (addr : Nat) : Except Stop Xlat :=
  let p := (s.partOf t).getD 16
  match s.translate p addr with
  | .error e => .error e
  | .ok x =>
    if !x.permitsEngine wr t.ca || !s.slotOk p t x.back then .error (.fault .protection)
    else if x.ext && !(s.part p).live tag then .error (.fault .ctxDead)
    else match (if full && !s.needsCell p x tag then none else s.taint p x tag) with
    | some y => .error (.poison y)
    | none => if wr && s.needsCell p x tag && (s.part p).heapFull then .error (.fault .cellHeapFull) else .ok x

/-- n bytes at addr, all in one line; a scratch offset must be present still (R86). -/
def State.engineRead1 (s : State) (t : ThreadRef) (tag : BitVec 12) (addr n : Nat) : Except (Stop × Nat) (List Byte) :=
  if inScratch addr then
    if s.absentBad t addr n then .error (.fault .scratchAbsent, addr)
    else match s.scratchTaint t addr with
    | some x => .error (.poison x, addr)
    | none => .ok (s.readScratch t addr n)
  else match s.engineLine t false false tag addr with
    | .error e => .error (e, addr)
    | .ok x => .ok (s.readXlat ((s.partOf t).getD 16) x tag addr n)

/-- n bytes at addr over at most the given number of lines. -/
def State.engineRead (s : State) (t : ThreadRef) (tag : BitVec 12) : Nat → Nat → Nat → Except (Stop × Nat) (List Byte)
  | 0, _, _ => .ok []
  | fuel + 1, addr, n =>
    if n = 0 then .ok []
    else
      let k := min n (64 - addr % 64)
      match s.engineRead1 t tag addr k with
      | .error e => .error e
      | .ok bs =>
        match s.engineRead t tag fuel (addr + k) (n - k) with
        | .error e => .error e
        | .ok r => .ok (bs ++ r)

/-- Bytes written at addr, all in one line; all 64 of a line clear its poison (R450). A cell that an ordered task's command
materialises takes its line into the read signature (R111). -/
def State.engineWrite1 (s : State) (t : ThreadRef) (tag : BitVec 12) (addr : Nat) (bs : List Byte) : Except (Stop × Nat) State :=
  if inScratch addr then
    if s.absentBad t addr bs.length then .error (.fault .scratchAbsent, addr)
    else match (if bs.length = 64 then none else s.scratchTaint t addr) with
    | some x => .error (.poison x, addr)
    | none => .ok (s.writeScratch t addr bs)
  else match s.engineLine t true (bs.length == 64) tag addr with
    | .error e => .error (e, addr)
    | .ok x =>
      let p := (s.partOf t).getD 16
      .ok ((if s.needsCell p x tag then s.noteRead t x.line else s).writeXlat p x tag addr bs)

/-- Bytes written from addr on over at most the given number of lines. -/
def State.engineWrite (s : State) (t : ThreadRef) (tag : BitVec 12) : Nat → Nat → List Byte → Except (Stop × Nat) State
  | 0, _, _ => .ok s
  | fuel + 1, addr, bs =>
    if bs.isEmpty then .ok s
    else
      let k := min bs.length (64 - addr % 64)
      match s.engineWrite1 t tag addr (bs.take k) with
      | .error e => .error e
      | .ok s => s.engineWrite t tag fuel (addr + k) (bs.drop k)

/-- Lines that n bytes may touch. -/
def lineFuel (n : Nat) : Nat := n / 64 + 2

/-- The poison that a command's reads of own scratch ranges use (R450). -/
def State.rangeTaint (s : State) (t : ThreadRef) (rs : List Range) : Option Place :=
  rs.findSome? fun r => (linesOf r.1 r.2).findSome? (s.scratchTaint t)

/-- n bytes of scratch at addr as thread t names it, and bytes written there. -/
def State.ownRead (s : State) (t : ThreadRef) (addr n : Nat) : List Byte :=
  match s.engineRead t 0 (lineFuel n) addr n with | .ok bs => bs | .error _ => []

def State.ownWrite (s : State) (t : ThreadRef) (addr : Nat) (bs : List Byte) : State :=
  match s.engineWrite t 0 (lineFuel bs.length) addr bs with | .ok s => s | .error _ => s

end Sys2Proof.Machine
end

