-- ==== Sys2Proof/Machine/Copy.lean ====
section
/-! DEFINITION. The copy engine: CPY, CPY2D, CPYG and COLL (12_isa_engines R326 to R330). -/

namespace Sys2Proof.Machine

/-! ### Issue (R327, R329) -/

/-- The start of line l of row q from a base with a signed stride; one below 0 lies beyond every address. -/
def rowAddr (base : Nat) (stride : Int) (q : Nat) : Nat := effAddr (BitVec.ofNat 64 base) (stride * (q : Int))

/-- Row ranges of a copy. -/
def rowRanges (base : Nat) (stride : Int) (rows lines : Nat) : List Range :=
  (upto rows).map fun q => (rowAddr base stride q, 64 * lines)

/-- An operand word of the copy engine with f after it: the decode of R307, then ENGINE_IN_ORDERED (R57). -/
def State.copyOperands (x y : Word) (f : Opnd → Opnd → State → State) (s : State) : State :=
  s.raising .cp fun s =>
    match s.operand x, s.operand y with
    | some a, some b => if s.th.ordered then s.trap .engineInOrdered else f a b s
    | _, _ => s.trap .illegalInstr

/-- Issues a copy of rows of lines (R327). -/
def State.copyRows (rows lines : Nat) (ss ds : Int) (src dst : Opnd) (s : State) : State :=
  let rs := rowRanges src.addr ss rows lines
  let ws := rowRanges dst.addr ds rows lines
  match s.rangeTrap 64 [(src.addr, src.addr), (dst.addr, dst.addr)] (rs ++ ws) with
  | some (c, a) => s.trapAt c a
  | none => s.command (.cpy src dst rows lines ss ds) (s.locksOver s.cur false rs ++ s.locksOver s.cur true ws) false 0

/-- CPY (R327). -/
def execCpy (a b : BitVec 5) (l : BitVec 12) (s : State) : Result :=
  issueAs (.cpy a b l) s (State.copyOperands (s.rs a) (s.rs b) (State.copyRows 1 (l.toNat + 1) 0 0))

/-- CPY2D (R327, R308). -/
def execCpy2d (a b : BitVec 5) (r l : BitVec 6) (s : State) : Result :=
  issueAs (.cpy2d a b r l) s
    (State.copyOperands (s.rs a) (s.rs b) (State.copyRows (r.toNat + 1) (l.toNat + 1) s.th.cstrs.toInt s.th.cstrd.toInt))

/-- Bytes that all lie in the issuing column's home or loft scratch. -/
def ownScratch (a : Nat) : Bool := decide (Config.homeBase ≤ a)

/-- CPYG (R327); its index array needs no alignment (R326). -/
def execCpyg (a b : BitVec 5) (l : BitVec 12) (s : State) : Result :=
  issueAs (.cpyg a b l) s (State.copyOperands (s.rs a) (s.rs b) fun dst idx s =>
    let lines := l.toNat + 1
    match s.rangeTrap 64 [(dst.addr, dst.addr)] [(dst.addr, 64 * lines), (idx.addr, 8 * lines)] with
    | some (c, x) => s.trapAt c x
    | none =>
      if !ownScratch idx.addr then s.trapAt .protection idx.addr
      else s.command (.cpyg dst idx.addr lines s.th.ctxcur) [] false 0)

/-- Members of the issuing column's domain at a level. -/
def State.membersAt (s : State) (level : Nat) : List Nat := s.domain s.curPart.pol level (domIdAt s.here.domid level)

/-- Lines that a COLL writes at a member (R329). -/
def collLines (k : CollKind) (members lines : Nat) : Nat := match k with | .gather => members * lines | _ => lines

/-- COLL (R329, R330). -/
def execColl (a b : BitVec 5) (k : CollKind) (e : BitVec 3) (l : BitVec 6) (s : State) : Result :=
  issueAs (.coll a b k e l) s (State.copyOperands (s.rs a) (s.rs b) fun src dst s =>
    let level := e.toNat
    let lines := l.toNat + 1
    let n := collLines k (s.membersAt level).length lines
    match s.rangeTrap 64 [(src.addr, src.addr), (dst.addr, dst.addr)] [(src.addr, 64 * lines), (dst.addr, 64 * n)] with
    | some (c, x) => s.trapAt c x
    | none =>
      if !ownScratch src.addr then s.trapAt .protection src.addr
      else if !ownScratch dst.addr then s.trapAt .protection dst.addr
      else
        let id := domIdAt s.here.domid level
        let seq := ((s.here.colls.find? fun x => x.1 == (level, id)).map (·.2)).getD 0
        let locks := s.locksOver s.cur false [(src.addr, 64 * lines)] ++ s.locksOver s.cur true [(dst.addr, 64 * n)]
        let s := s.updHere fun c => { c with colls := c.colls.filter (fun x => x.1 != (level, id)) ++ [((level, id), seq + 1)] }
        s.command (.coll k level lines src.addr dst.addr seq id) locks false 0)

/-! ### CPYG's index array (R327) -/

/-- One entry as an operand word, or the cause it gives. -/
def State.indexEntry (s : State) (t : ThreadRef) (ctx : BitVec 12) (x : Word) : Except (Cause × Nat) Opnd :=
  let a := bitsOf x 0 48
  if bitsOf x 48 15 ≠ 0 then .error (.illegalInstr, a)
  else if addrBad a 64 then .error (.addrRange, a)
  else if a % 64 ≠ 0 then .error (.misaligned, a)
  else if s.absentBad t a 64 then .error (.scratchAbsent, a)
  else if s.remoteBad t a then .error (.protection, a)
  else .ok ⟨a, if bitsOf x 63 1 = 1 then ctx else 0⟩

/-- The entries in index order, or the first cause. -/
def State.indexEntries (s : State) (t : ThreadRef) (ctx : BitVec 12) : List Word → Except (Cause × Nat) (List Opnd)
  | [] => .ok []
  | x :: rest =>
    match s.indexEntry t ctx x with
    | .error e => .error e
    | .ok o => match s.indexEntries t ctx rest with
      | .error e => .error e
      | .ok r => .ok (o :: r)

/-- The index array's words. -/
def State.indexWords (s : State) (t : ThreadRef) (idx lines : Nat) : List Word :=
  (upto lines).map fun e => BitVec.ofNat 64 (leNat (s.ownRead t (idx + 8 * e) 8))

/-! ### Registration (R144) -/

/-- The lines that a command's registration meets next: all of a CPYG's index array, which it reads, then its locks in their
order (R144 rule 1). -/
def State.nextLines (s : State) (c : Cmd) : List (Line × Bool) :=
  match c.op, c.srcs with
  | .cpyg _ idx lines _, [] => s.locksOver c.t false [(idx, 8 * lines)]
  | _, _ => c.todo.take 1

/-- The matrix commands of its column before a matrix command have registered: the column runs them in this order, and none waits for the
locks of a later one (R144, R310). -/
def State.turnToLock (s : State) (c : Cmd) : Bool :=
  !c.op.isMatrix || s.cmds.all fun x => x.t.ca != c.t.ca || !x.op.isMatrix || decide (c.id ≤ x.id) || x.registered

/-- A command may register its next lock, and a CPYG read its index array where no other command writes it (R144 rules 1 to 3, R145
last sentence, R153). -/
def State.canRegister (s : State) (c : Cmd) : Bool :=
  !c.registered && s.registeredBefore c.t c.id && s.turnToLock c && s.performedBefore c.t c.id && !(s.nextLines c).any (s.conflict c.id)

/-- Registers what is free of a command's locks. -/
def State.registerLocks (s : State) (c : Cmd) (todo : List (Line × Bool)) : State :=
  let (s, rest) := s.takeLocks c.id todo
  s.updCmd c.id fun x => { x with todo := rest, registered := rest.isEmpty }

/-- The first scratch range that is not present any more, by its start (R86). -/
def State.goneRange (s : State) (t : ThreadRef) (rs : List Range) : Option Nat := badRange (fun l => s.absentBad t l 64) rs

/-- ENGINE REGISTRATION: a CPYG first reads its index array, which must be present still (R86). -/
def State.register (s : State) (c : Cmd) : State :=
  match c.op with
  | .cpyg dst idx lines ctx =>
    if c.srcs.isEmpty then
      match s.goneRange c.t [(idx, 8 * lines)], s.rangeTaint c.t [(idx, 8 * lines)],
          s.indexEntries c.t ctx (s.indexWords c.t idx lines) with
      | some a, _, _ => s.abandon c .scratchAbsent a false
      | none, some x, _ => s.consume c.t x
      | none, none, .error (cause, a) => s.abandon c cause a false
      | none, none, .ok srcs =>
        let todo := sortLocks (s.locksOver c.t false ((idx, 8 * lines) :: srcs.map fun o => (o.addr, 64)) ++
          s.locksOver c.t true [(dst.addr, 64 * lines)])
        (s.updCmd c.id fun x => { x with srcs := srcs }).registerLocks c todo
    else s.registerLocks c c.todo
  | _ => s.registerLocks c c.todo

/-! ### Completion -/

/-- One line copied. -/
def State.copyLine (s : State) (t : ThreadRef) (src : Opnd) (dst : Opnd) : Except (Stop × Nat × Bool) State :=
  match s.engineRead1 t src.tag src.addr 64 with
  | .error (e, a) => .error (e, a, false)
  | .ok bs =>
    match s.engineWrite1 t dst.tag dst.addr bs with
    | .error (e, a) => .error (e, a, true)
    | .ok s => .ok s

/-- Whether an operand line's page is absent, for a batch. -/
def State.absentPage (s : State) (t : ThreadRef) (o : Opnd) (wr : Bool) : Option Missing :=
  if inScratch o.addr || inFwWindow o.addr then none
  else match s.translate ((s.partOf t).getD 16) o.addr with
    | .error (.absent mal) => some (o.addr, wr, mal)
    | _ => none

/-- One of each page and write flag. -/
def firstOfEach (l : List Missing) : List Missing :=
  l.foldl (fun acc m => if acc.any fun x => x.1 / 0x10000 == m.1 / 0x10000 && x.2.1 == m.2.1 then acc else acc ++ [m]) []

/-- The absent pages of the pairs that a copy has still to do (R328). -/
def State.allMissing (s : State) (t : ThreadRef) (l : List (Opnd × Opnd)) : List Missing :=
  firstOfEach (l.flatMap fun ab => (s.absentPage t ab.1 false).toList ++ (s.absentPage t ab.2 true).toList)

/-- Copies pairs of lines, the first of them number n; stops at the first that meets a fault. Where that is an absent page, the
command waits for every absent page ahead of it (R327, R328, R445). -/
def State.copyAll (s : State) (c : Cmd) (n : Nat) : List (Opnd × Opnd) → State
  | [] => s.endCmd c
  | (a, b) :: rest =>
    match s.copyLine c.t a b with
    | .ok s => s.copyAll c (n + 1) rest
    | .error (e, addr, wr) =>
      match e, s.allMissing c.t ((a, b) :: rest) with
      | .absent _, m :: ms => if inFwWindow addr then s.stopCmd { c with rows := n } e addr wr
          else s.waitPages { c with rows := n } addr (m :: ms)
      | _, _ => s.stopCmd { c with rows := n } e addr wr

/-- The line pairs of a copy, in order. -/
def Cmd.pairs (c : Cmd) : List (Opnd × Opnd) :=
  match c.op with
  | .cpy src dst rows lines ss ds =>
    (upto rows).flatMap fun q => (upto lines).map fun l =>
      (⟨rowAddr src.addr ss q + 64 * l, src.tag⟩, ⟨rowAddr dst.addr ds q + 64 * l, dst.tag⟩)
  | .cpyg dst _ _ _ => (upto c.srcs.length).map fun e => (c.srcs.getD e ⟨0, 0⟩, ⟨dst.addr + 64 * e, dst.tag⟩)
  | _ => []

/-- The COLLs of a domain that join a member's, in rank order (R330). -/
def State.collPeers (s : State) (c : Cmd) : List Cmd :=
  match c.op with
  | .coll _ level _ _ _ seq id =>
    let m := s.domain (s.part ((s.partOf c.t).getD 16)).pol level id
    m.filterMap fun ca => s.cmds.find? fun x => x.t.ca == ca && s.partOf x.t == s.partOf c.t &&
      match x.op with | .coll _ l2 _ _ _ q2 i2 => l2 == level && i2 == id && q2 == seq | _ => false
  | _ => []

/-- Members of the domain a COLL names. -/
def State.collSize (s : State) (c : Cmd) : Nat :=
  match c.op with
  | .coll _ level _ _ _ _ id => (s.domain (s.part ((s.partOf c.t).getD 16)).pol level id).length
  | _ => 0

/-- A member's source bytes. -/
def State.collSource (s : State) (c : Cmd) : List Byte :=
  match c.op with | .coll _ _ lines src _ _ _ => s.ownRead c.t src (64 * lines) | _ => []

/-- Word i of w bytes. -/
def wordAt (bs : List Byte) (w i : Nat) : Nat := leNat ((bs.drop (w * i)).take w)

/-- What every member's destination receives (R329). -/
def collResult (k : CollKind) (srcs : List (List Byte)) : List Byte :=
  let n := (srcs.headD []).length
  match k with
  | .sumf => (upto (n / 4)).flatMap fun i =>
      leBytes 4 (exactToF32 .rne (srcs.foldl (fun c b => exactAdd c (wordAt b 4 i)) 0))
  | .sumx => (upto (n / 32)).flatMap fun i => leBytes 32 (srcs.foldl (fun c b => exactJoin c (wordAt b 32 i)) 0)
  | .gather => srcs.flatten
  | .bcast => srcs.headD []

/-- Whether joined COLLs agree in kind, level and lines (R330). -/
def collsAgree (l : List Cmd) : Bool :=
  match l with
  | [] => true
  | c :: rest => rest.all fun x =>
    match c.op, x.op with
    | .coll k lv n _ _ _ _, .coll k2 lv2 n2 _ _ _ _ => k == k2 && lv == lv2 && n == n2
    | _, _ => false

/-- A scratch range of a COLL that is not present any more (R86). -/
def State.collAbsent (s : State) (n : Nat) (c : Cmd) : Option Nat :=
  match c.op with
  | .coll k _ lines src dst _ _ =>
    s.goneRange c.t [(src, 64 * lines), (dst, 64 * collLines k n lines)]
  | _ => none

/-- The poison that a COLL's read of its source uses (R450). -/
def State.collTaint (s : State) (c : Cmd) : Option Place :=
  match c.op with | .coll _ _ lines src _ _ _ => s.rangeTaint c.t [(src, 64 * lines)] | _ => none

/-- The joined COLLs complete, each member's destination written (R329), or all are abandoned: where they disagree (R330), and
where scratch of one is no longer present, that one with SCRATCH_ABSENT (R86, log 58). -/
def State.collComplete (s : State) (peers : List Cmd) : State :=
  if collsAgree peers then
    if peers.any fun c => (s.collAbsent peers.length c).isSome then
      s.each peers fun s c => match s.collAbsent peers.length c with
        | some a => s.abandon c .scratchAbsent a false
        | none => s.abandon c .protection 0 false
    else match peers.findSome? s.collTaint with
    | some x => s.each (peers.take 1) fun s c => s.consume c.t x
    | none =>
    let srcs := peers.map s.collSource
    s.each peers fun s c =>
      match c.op with
      | .coll k _ _ _ dst _ _ => (s.ownWrite c.t dst (collResult k srcs)).endCmd c
      | _ => s
  else s.each peers fun s c => s.abandon c .protection 0 false

/-- A copy command may go on: registered and not waiting for firmware; a COLL with every member's (R330). -/
def State.copyReady (s : State) (c : Cmd) : Bool :=
  c.registered && c.status == .pending && !c.op.isMatrix &&
  match c.op with
  | .coll .. => let ps := s.collPeers c; ps.length == s.collSize c && ps.all fun x => x.registered
  | _ => true

/-- COPY COMPLETE. -/
def State.copyComplete (s : State) (c : Cmd) : State :=
  match c.op with
  | .coll .. => s.collComplete (s.collPeers c)
  | _ => s.copyAll c c.rows (c.pairs.drop c.rows)

end Sys2Proof.Machine
end

