-- ==== Sys2Proof/Machine/Exchange.lean ====
section
/-! DEFINITION. Exchange transfers: XSEND and XRECV (10_isa_tasks R271 to R275, 05_ordering R149), and the vertical FIFO:
VFPUSH, VFPOP and VFFREE (R276 to R278). -/

namespace Sys2Proof.Machine

/-! ### Routes (R272, R273) -/

/-- A direction's step in rows and columns: N, E, S, W. -/
def dirStep : Nat → Int × Int | 0 => (-1, 0) | 1 => (0, 1) | 2 => (1, 0) | _ => (0, -1)

/-- The turns of a route string up to its last delivery; none where R272 refuses them. -/
def routeTurns (r : Word) : Option (List Nat) :=
  let ts := (upto 24).map fun k => bitsOf r (58 - 2 * k) 2
  let rev := ts.reverse.dropWhile (· == 0)
  match rev with
  | 3 :: _ => if bitsOf r 60 4 ≤ 3 then some rev.reverse else none
  | _ => none

/-- Where a route goes: the links it crosses, its targets in order, and whether it leaves the rectangle. -/
structure Route where
  links : List (Nat × Nat)
  targets : List Nat
  leaves : Bool
  deriving DecidableEq, Repr

/-- A step from a column in a direction inside a rectangle; none where it leaves one that is no torus (R273). -/
def Policy.step (p : Policy) (ca dir : Nat) : Option Nat :=
  let (dr, dc) := dirStep dir
  let r : Int := (caRow ca : Int) - p.originRow + dr
  let c : Int := (caCol ca : Int) - p.originCol + dc
  let inside := decide (0 ≤ r) && decide (r < p.rows) && decide (0 ≤ c) && decide (c < p.cols)
  if inside || p.torus then
    some (64 * (p.originRow + (r % p.rows).toNat) + p.originCol + (c % p.cols).toNat)
  else none

/-- Walks the turns from a column (R273). -/
def Policy.route (p : Policy) : Nat → Nat → List Nat → Route
  | _, _, [] => ⟨[], [], false⟩
  | ca, dir, turn :: rest =>
    match p.step ca dir with
    | none => ⟨[], [], true⟩
    | some next =>
      let dir' := if turn = 1 then (dir + 3) % 4 else if turn = 2 then (dir + 1) % 4 else dir
      let r := p.route next dir' rest
      ⟨(ca, next) :: r.links, if turn = 3 then next :: r.targets else r.targets, r.leaves⟩

def State.linkRetired (s : State) (l : Nat × Nat) : Bool := s.retiredLinks.any fun x => x == l || x == (l.2, l.1)

/-! ### XSEND (R274) -/

/-- The traps of R274 in their order, with the data address of R361: that of the source or of the destination in a column's home
window (log 31). -/
def State.xsendTrap (s : State) (span : Word) (slot lines : Nat) (rt : Route) : Option (Cause × Nat) :=
  let soff := bitsOf span 0 22
  let doff := bitsOf span 22 22
  match s.th.phase with
  | none => some (.xslot, 0)
  | some t0 =>
    if 4095 < slot + (lines + 31) / 32 - 1 || rt.links.any s.linkRetired || decide (t0 + 20 * slot < s.now) then some (.xslot, 0)
    else if soff % 64 ≠ 0 then some (.misaligned, Config.homeBase + soff)
    else if doff % 64 ≠ 0 then some (.misaligned, Config.homeBase + doff)
    else if 0x100000 + s.here.loftSize < soff + 64 * lines then some (.scratchAbsent, Config.homeBase + soff)
    else if 0x100000 < doff + 64 * lines || rt.targets.any s.retired.contains then some (.scratchAbsent, Config.homeBase + doff)
    else if s.th.ordered || rt.leaves then some (.protection, 0)
    else none

/-- The tick at which a transfer launches, and whether two transfers hold one link at one time (R63, R273, R474). A torus wrap is the link from
one edge column to the other, so that the wraps of one router in two directions hold two lanes (log 96: DESIGN CHOICE). -/
def Xfer.date (x : Xfer) : Nat := x.t0 + 20 * x.slot
def Xfer.slots (x : Xfer) : Nat := (x.lines + 31) / 32
def Xfer.meets (x y : Xfer) : Bool :=
  (x.links.any y.links.contains) && decide (x.date < y.date + 20 * y.slots) && decide (y.date < x.date + 20 * x.slots)

/-- A transfer shares a link in later slots with one that a collision may delay, and so may be delayed in turn (R474). -/
def Xfer.follows (x y : Xfer) : Bool := y.clash && (x.links.any y.links.contains) && decide (y.date ≤ x.date)

/-- Delays travel on from each transfer to those that follow it, over at most n of them (R474). -/
def spreadClash : Nat → List Xfer → List Xfer
  | 0, l => l
  | n + 1, l => spreadClash n (l.map fun x => { x with clash := x.clash || l.any x.follows })

/-- A transfer is under way: it notes collisions, and takes its source read locks as R144 lets it. -/
def State.addXfer (s : State) (x : Xfer) : State :=
  let l := s.xfers.map (fun (y : Xfer) => if y.meets x then { y with clash := true } else y) ++ [{ x with clash := s.xfers.any x.meets }]
  ({ s with xfers := spreadClash l.length l } : State).registerXfer x

/-- XSEND: takes its source read locks; it launches by EXCHANGE_LAUNCH (R149, R274). -/
def execXsend (r a : BitVec 5) (l : BitVec 10) (s : State) : Result :=
  issueAs (.xsend r a l) s (State.raising .fx fun s =>
    let span := s.rs a
    match routeTurns (s.rs r) with
    | none => s.trap .illegalInstr
    | some turns =>
      if bitsOf span 44 20 ≠ 0 then s.trap .illegalInstr
      else
        let rt := s.curPart.pol.route s.cur.ca (bitsOf (s.rs r) 60 4) turns
        let slot := bitsOf (s.rs r) 0 12
        let lines := l.toNat + 1
        match s.xsendTrap span slot lines rt with
        | some (c, addr) => s.trapAt c addr
        | none =>
          let soff := bitsOf span 0 22
          let t0 := s.th.phase.getD 0
          let (n, s) := s.newId
          let s := s.upd fun th => th.bump .fx
          let todo := (upto lines).map fun i => (scratchLine s.cur.ca (soff + 64 * i), false)
          s.addXfer ⟨n, s.cur, soff, bitsOf span 22 22, lines, slot, t0, rt.targets, false, [], todo, [], rt.links, false⟩)

/-! ### Dates of transfers (R63, R376) -/

/-- A transfer that R376 bounds: of one slot, sharing no link in it. -/
def Xfer.bounded (x : Xfer) : Bool := decide (x.lines ≤ 32) && !x.clash

/-- The tick by which it has landed everywhere. -/
def Xfer.landDate (x : Xfer) : Nat := x.date + 60

/-- The tick by which a transfer launches, or has landed everywhere. -/
def Xfer.due (x : Xfer) : Option Nat :=
  if x.launched then (if x.bounded then some x.landDate else none) else some x.date

/-- The lines of a scratch range. -/
def scratchLines (ca off lines : Nat) : List Line := (upto lines).map fun i => scratchLine ca (off + 64 * i)

/-- A destination line of a transfer is locked by another (R144 rule 2). -/
def State.landHeld (s : State) (f : Xfer) (ca : Nat) : Bool :=
  (scratchLines ca f.doff f.lines).any fun l => s.locks.any fun k => k.line == l

/-- A launched transfer may go on landing at a target. -/
def State.mayLand (s : State) (x : Xfer) (ca : Nat) : Bool := (x.landing.any fun l => l.1 == ca) || !s.landHeld x ca

/-- Nothing holds up the launch of a transfer: neither stores or returning AMOs that a fault holds back, nor locks that it has not
registered (R149, R140, R144). -/
def State.launchFree (s : State) (x : Xfer) : Bool :=
  x.todo.isEmpty && !((s.stuck x.t Access.faulted).any fun a => !a.op.plainLoad && decide (a.id < x.id))

/-- A transfer is to have landed at a column by now, and will: an XRECV there does not close on its deadline before (R376). -/
def State.landingDue (s : State) (ca : Nat) : Bool :=
  s.xfers.any fun x => x.bounded && x.targets.contains ca && decide (x.landDate ≤ s.now) &&
    (if x.launched then s.mayLand x ca else s.launchFree x && !s.landHeld x ca)

/-! ### XRECV (R275) -/

/-- A participant of a column closes its phase: the locks of landed transfers go (R149). -/
def State.closePhase (s : State) (t : ThreadRef) : State :=
  let landed := (s.col t.ca).xlanded
  let s := s.updThread t fun th => { th with phase := none }
  let s := s.updCol t.ca fun c => { c with xopen := c.xopen.filter fun n => n != t.tid, xrecvd := true, xlanded := [] }
  { s with locks := s.locks.filter fun l => !landed.contains l.owner }

/-- XRECV (R275): it closes on its deadline once what R376 says has landed by then has landed. -/
def execXrecv (c : BitVec 5) (k : BitVec 14) (s : State) : Result :=
  issueAs (.xrecv c k) s fun s =>
    match s.th.phase with
    | none => s.trap .xslot
    | some t0 =>
      let want := bitsOf (s.rs c) 0 16
      let deadline := t0 + 20 * k.toNat
      if want ≤ s.here.xcount || (k != 0 && decide (deadline ≤ s.now) && !s.landingDue s.cur.ca) then
        (s.closePhase s.cur).ws c (BitVec.ofNat 64 s.here.xcount)
      else s.stall (.xrecv c want (if k = 0 then 0 else deadline))

/-! ### The vertical FIFO (R276 to R278) -/

/-- The entry VFPUSH captures (R277). -/
def State.fifoEntry (s : State) (a : BitVec 4) (f : FifoFmt) : BitVec 1024 :=
  BitVec.ofNat 1024 <| match f with
    | .w32 => (upto 32).foldl (fun n i => n + (s.rv a i).toNat * 2 ^ (32 * i)) 0
    | .w32h => (upto 32).foldl (fun n i => n + (s.rv a (32 + i)).toNat * 2 ^ (32 * i)) 0
    | .h16 => (upto 64).foldl (fun n i => n + (s.rv a i).toNat % 65536 * 2 ^ (16 * i)) 0

/-- VFPUSH (R277, R23): the entry enters by FIFO_ENTRY. -/
def execVfpush (a : BitVec 4) (r : BitVec 5) (f : FifoFmt) (s : State) : Result :=
  issueAs (.vfpush a r f) s (State.raising .fx fun s =>
    if s.th.ordered || !s.curPart.pol.pres then s.trap .protection
    else
      let e := s.fifoEntry a f
      let (n, s) := s.newId
      (s.upd fun th => th.bump .fx).updHere fun c => { c with pushes := c.pushes ++ [⟨n, s.cur, e, (s.rs r).truncate 16, s.pid⟩] })

/-- VFPOP (R278). -/
def execVfpop (d : BitVec 4) (r : BitVec 5) (s : State) : Result :=
  issueAs (.vfpop d r) s (State.parkable fun s =>
    match s.here.fifo with
    | [] => s.stallOrPark .fifo
    | e :: rest =>
      let word (i : Nat) : Elem := BitVec.ofNat 32 (e.entry.toNat / 2 ^ (32 * i))
      let s := s.updHere fun c => { c with fifo := rest }
      ((s.wvs d (upto 16) word).wvs (d + 1) (upto 16) fun i => word (16 + i)).ws r (e.tag.zeroExtend 64))

/-- VFFREE (R278). -/
def execVffree (r : BitVec 5) (s : State) : Result :=
  issueAs (.vffree r) s fun s => s.ws r (BitVec.ofNat 64 (16 - s.here.fifo.length))

end Sys2Proof.Machine
end

