-- ==== Sys2Proof/Machine/Matrix.lean ====
section
/-! DEFINITION. The matrix unit: leases, MCLR, MMA, MROT, MRD and MRDV (12_isa_engines R306 to R325, 02_execution R67). -/

namespace Sys2Proof.Machine

/-! ### Leases (R67, R309) -/

/-- Whether another thread of the column waits for the lease. -/
def State.leaseWaiters (s : State) (ca : Nat) : List Nat :=
  controlTids.filter fun n =>
    let th := s.thread ⟨ca, n⟩
    th.run == .stalled && match th.wait with | .mlease _ => true | _ => false

/-- Grants a lease of n commands to thread tid of a column; it waits for it no more. -/
def State.grantLease (s : State) (ca tid n : Nat) : State :=
  (s.updCol ca fun c => { c with lease := some (tid, n), leaseUntil := none, lastLease := tid }).updThread ⟨ca, tid⟩ fun th =>
    { th with wait := .none }

/-- MLEASE (R67, R309): granted at once where the unit is free and none waits, else by LEASE_GRANT, after which the thread
issues it again and goes on. -/
def execMlease (n : BitVec 6) (s : State) : Result :=
  issueAs (.mlease n) s fun s =>
    if s.leaseHeld then
      if s.th.wait == .mlease n.toNat then s.upd fun th => { th with wait := .none } else s.trap .leaseMisuse
    else if s.here.lease.isNone && (s.leaseWaiters s.cur.ca).isEmpty then s.grantLease s.cur.ca s.cur.tid n.toNat
    else s.stall (.mlease n.toNat)

/-- MREL (R309). -/
def execMrel (s : State) : Result :=
  issueAs .mrel s fun s => if s.leaseHeld then s.updHere fun c => { c with lease := none, leaseUntil := none } else s.trap .leaseMisuse

/-- The nth command of a lease ends it as it issues (R67). -/
def Column.useLease (c : Column) : Column :=
  match c.lease with
  | some (h, n) => if n = 1 then { c with lease := none, leaseUntil := none } else { c with lease := some (h, n - 1) }
  | none => c

/-- A matrix command under a lease: room on its counter, LEASE_MISUSE without one, then its own checks; a command issued while
an abandoned one's fault is undelivered is discarded (R309, R317). -/
def State.leased (f : State → State) (s : State) : State :=
  s.raising .tl fun s => if s.leaseHeld then f s else s.trap .leaseMisuse

/-- A matrix command of the thread is discarded: the fault of an abandoned one is undelivered (R317). -/
def State.discards (s : State) : Bool := s.th.engFaults.any fun e => e.ctr == .tl

def State.matrix (op : CmdOp) (locks : List (Line × Bool)) (rows : Nat) (s : State) : State :=
  let s := s.updHere Column.useLease
  if s.discards then s
  else s.command op locks locks.isEmpty rows

/-! ### MCLR and MMA (R313, R314) -/

/-- MCLR (R313). -/
def execMclr (r c m n : BitVec 2) (s : State) : Result :=
  issueAs (.mclr r c m n) s (State.leased fun s =>
    s.matrix (.mclr (16 * r.toNat) (16 * c.toNat) (16 * (m.toNat + 1)) (16 * (n.toNat + 1))) [] 0)

/-- Whether a format takes scale bytes (a Q code, R155). -/
def isQ (code : BitVec 5) : Bool := (matFmt code.toNat).kind == .scaled

/-- The ranges of an operand's rows, and of its scale array where it has one (R314, R315). -/
def MatOpnd.rows (o : MatOpnd) (n k : Nat) : List Range :=
  (upto n).map fun i => (o.at_.addr + i * o.str, (matFmt o.fmt.toNat).rowBytes k)

def MatOpnd.scales (o : MatOpnd) (n k : Nat) : List Range :=
  if isQ o.fmt then (upto n).map fun i => (o.scl + i * o.sstr, k / 8) else []

/-- A matrix operand as the thread's registers give it (R308). -/
def State.matA (s : State) (a : Opnd) : MatOpnd := ⟨a, s.th.mfmta, s.th.mstra.toNat, bitsOf s.th.mscla 0 48, bitsOf s.th.mscla 48 16⟩
def State.matB (s : State) (b : Opnd) : MatOpnd := ⟨b, s.th.mfmtb, s.th.mstrb.toNat, bitsOf s.th.msclb 0 48, bitsOf s.th.msclb 48 16⟩

/-- ENGINE_IN_ORDERED for operands outside the scratch windows (R57, R324): ADDR of the operand words, and no scale array's (log 80:
DESIGN CHOICE). -/
def State.orderedOperand (s : State) (addrs : List Nat) : Bool := s.th.ordered && addrs.any fun a => !inScratch a

/-- MMA (R314, R315). MROWP is sampled here and consumed where the command completes (log 81: DESIGN CHOICE). -/
def execMma (a b : BitVec 5) (r c m n : BitVec 2) (k : BitVec 6) (s : State) : Result :=
  issueAs (.mma a b r c m n k) s (State.leased fun s =>
    match s.operand (s.rs a), s.operand (s.rs b) with
    | some oa, some ob =>
      if s.orderedOperand [oa.addr, ob.addr] then s.trap .engineInOrdered
      else
        let rows := 16 * (m.toNat + 1)
        let cols := 16 * (n.toNat + 1)
        let kk := 32 * (k.toNat + 1)
        let x := s.matA oa
        let y := s.matB ob
        let rs := x.rows rows kk ++ y.rows cols kk ++ x.scales rows kk ++ y.scales cols kk
        match s.rangeTrap 4 [(oa.addr, oa.addr), (ob.addr, ob.addr), (x.str, oa.addr + x.str), (y.str, ob.addr + y.str)] rs with
        | some (cause, addr) => s.trapAt cause addr
        | none =>
          s.matrix (.mma (16 * r.toNat) (16 * c.toNat) rows cols kk x y s.th.mpend) (s.locksOver s.cur false rs)
            (if s.th.mpend then s.th.mdone.toNat else 0)
    | _, _ => s.trap .illegalInstr)

/-! ### MROT (R318 to R321) -/

/-- A rotation word's Q + 1, SUB and OFF; none where a reserved bit is set (R318). -/
def rotWord (x : Word) : Option (Nat × Nat × Nat) :=
  if bitsOf x 39 25 ≠ 0 then none else some (bitsOf x 36 3 + 1, bitsOf x 22 14, bitsOf x 0 22)

/-- The columns of a column's block, in row-major order from its origin (R318). -/
def Policy.block (p : Policy) (ca qr qc : Nat) : List Nat :=
  let r := p.originRow + (caRow ca - p.originRow) / qr * qr
  let c := p.originCol + (caCol ca - p.originCol) / qc * qc
  (upto qr).flatMap fun i => (upto qc).map fun j => 64 * (r + i) + c + j

/-- The block of a column reaches outside the partition's rectangle (R318, R321). -/
def Policy.blockLeaves (p : Policy) (ca qr qc : Nat) : Bool :=
  decide (p.rows < (caRow ca - p.originRow) / qr * qr + qr) || decide (p.cols < (caCol ca - p.originCol) / qc * qc + qc)

/-- The columns one west and one north of a column in its block, edges wrapping (R319). -/
def Policy.west (p : Policy) (ca qc : Nat) : Nat :=
  let j := (caCol ca - p.originCol) % qc
  ca - j + (j + qc - 1) % qc
def Policy.north (p : Policy) (ca qr : Nat) : Nat :=
  let i := (caRow ca - p.originRow) % qr
  ca - 64 * i + 64 * ((i + qr - 1) % qr)

/-- The address of an offset in home or loft scratch. -/
def scratchAddr (off : Nat) : Nat := Config.homeBase + off

/-- n bytes at a scratch offset lie in the column's present home and loft scratch. -/
def Column.windowHas (c : Column) (off n : Nat) : Bool := decide (off + n ≤ 0x100000 + c.loftSize)

/-- The first misaligned OFF, SUB or row start of MROT's buffers, by its place in them (R321, R361). -/
def rotMisaligned (asub bsub aoff boff sa sb : Nat) : Option Nat :=
  if aoff % 64 ≠ 0 then some aoff
  else if boff % 64 ≠ 0 then some boff
  else if asub % 4 ≠ 0 then some (aoff + asub)
  else if bsub % 4 ≠ 0 then some (boff + bsub)
  else if sa % 4 ≠ 0 then some (aoff + sa)
  else if sb % 4 ≠ 0 then some (boff + sb)
  else none

/-- The traps of R321 after LEASE_MISUSE and ILLEGAL_INSTR, for Q values, SUBs, OFFs and strides of A and B, with the data address
of R361: a buffer's in the column's scratch windows (log 31). -/
def State.mrotTrap (s : State) (qc qr asub bsub aoff boff sa sb : Nat) : Option (Cause × Nat) :=
  let pol := s.curPart.pol
  let block := pol.block s.cur.ca qr qc
  if s.th.ordered || pol.blockLeaves s.cur.ca qr qc then some (.protection, 0)
  else match rotMisaligned asub bsub aoff boff sa sb with
  | some off => some (.misaligned, scratchAddr off)
  | none =>
    if !s.here.windowHas aoff (64 * sa) then some (.scratchAbsent, scratchAddr aoff)
    else if !s.here.windowHas boff (64 * sb) then some (.scratchAbsent, scratchAddr boff)
    else if block.any s.retired.contains then some (.scratchAbsent, scratchAddr aoff)
    else none

/-- MROT (R319 to R321): the column counts it as it issues, unless it is discarded (R320, R317). -/
def execMrot (a b : BitVec 5) (k : BitVec 6) (s : State) : Result :=
  issueAs (.mrot a b k) s (State.leased fun s =>
    match rotWord (s.rs a), rotWord (s.rs b) with
    | some (qc, asub, aoff), some (qr, bsub, boff) =>
      if isQ s.th.mfmta || isQ s.th.mfmtb then s.trap .illegalInstr
      else
        let sa := s.th.mstra.toNat
        let sb := s.th.mstrb.toNat
        match s.mrotTrap qc qr asub bsub aoff boff sa sb with
        | some (c, addr) => s.trapAt c addr
        | none =>
          let locks := s.locksOver s.cur false [(scratchAddr aoff, 64 * sa), (scratchAddr boff, 64 * sb)]
          let op : CmdOp := .mrot (32 * (k.toNat + 1)) qc qr asub bsub aoff boff s.th.mfmta s.th.mfmtb sa sb s.here.mrots
          let s' := s.matrix op locks 0
          if s.discards then s' else s'.updHere fun c => { c with mrots := c.mrots + 1 }
    | _, _ => s.trap .illegalInstr)

/-! ### MRD and MRDV (R323 to R325) -/

/-- A read-out word's conversion controls; none for a reserved bit or a reserved DST (R323). -/
def readOut (x : Word) : Option ReadOut :=
  if bitsOf x 15 13 ≠ 0 ∨ bitsOf x 7 1 ≠ 0 ∨ 10 < bitsOf x 0 4 then none
  else some ⟨bitsOf x 0 4, bitsOf x 4 2, bitsOf x 6 1 == 1, (BitVec.ofNat 7 (bitsOf x 8 7)).toInt⟩

def ReadOut.block (r : ReadOut) : Bool := decide (7 ≤ r.dst)

/-- The destination rows of an MRD and its scale bytes (R324). -/
def mrdRows (dst dstr m n w : Nat) : List Range := (upto m).map fun i => (dst + i * dstr, n * w / 8)
def mrdScales (scl sstr m n : Nat) : List Range := (upto m).map fun i => (scl + i * sstr, n / 8)

/-- MRD (R324). -/
def execMrd (a b : BitVec 5) (s : State) : Result :=
  issueAs (.mrd a b) s (State.leased fun s =>
    let x := s.rs b
    let r := bitsOf x 34 2
    let c := bitsOf x 32 2
    let ms := bitsOf x 30 2
    let ns := bitsOf x 28 2
    match s.operand (s.rs a), readOut x with
    | some dst, some ro =>
      if bitsOf x 36 12 ≠ 0 ∨ 3 < r + ms ∨ 3 < c + ns then s.trap .illegalInstr
      else if s.orderedOperand [dst.addr] then s.trap .engineInOrdered
      else
        let m := 16 * (ms + 1)
        let n := 16 * (ns + 1)
        let dstr := bitsOf x 48 16
        let scl := bitsOf s.th.mscla 0 48
        let sstr := bitsOf s.th.mscla 48 16
        let rs := mrdRows dst.addr dstr m n (dstWidth ro.dst) ++ (if ro.block then mrdScales scl sstr m n else [])
        match s.rangeTrap 4 [(dst.addr, dst.addr), (dstr, dst.addr + dstr)] rs with
        | some (cause, addr) => s.trapAt cause addr
        | none => s.matrix (.mrd dst dstr (16 * r) (16 * c) m n ro scl sstr) (s.locksOver s.cur true rs) 0
    | _, _ => s.trap .illegalInstr)

/-- MRDV (R325). -/
def execMrdv (b : BitVec 5) (v : BitVec 4) (s : State) : Result :=
  issueAs (.mrdv b v) s (State.leased fun s =>
    let x := s.rs b
    match readOut x with
    | none => s.trap .illegalInstr
    | some ro =>
      if bitsOf x 48 16 ≠ 0 ∨ bitsOf x 28 8 ≠ 0 ∨ ro.block = true then s.trap .illegalInstr
      else if s.th.vl = 0 then s.trap .laneClaim
      else s.matrix (.mrdv v (bitsOf x 42 6) (bitsOf x 36 6) ro s.th.vl) [] 0)

/-! ### The accumulator store (R310, R311) -/

def Column.cell (c : Column) (row col : Nat) : AccCell := tget c.acc (64 * row + col) AccCell.reset
def Column.setCell (c : Column) (row col : Nat) (x : AccCell) : Column := { c with acc := tset c.acc (64 * row + col) x }

/-- Clears a region (R313). -/
def Column.clearRegion (c : Column) (r k m n : Nat) : Column :=
  { c with acc := c.acc.filter fun e =>
      !(decide (r ≤ e.1 / 64) && decide (e.1 / 64 < r + m) && decide (k ≤ e.1 % 64) && decide (e.1 % 64 < k + n)) }

/-- Adds the products of a row of A and every row of B into a row of cells: they change together (R314). -/
def Column.addRow (c : Column) (row col : Nat) (a : List FV) (bs : List (List FV)) : Column :=
  ((upto bs.length).zip bs).foldl (fun c jb => c.setCell row (col + jb.1) (dotInto (c.cell row (col + jb.1)) a jb.2)) c

/-! ### Executing matrix commands -/

/-- Row i of an operand, k elements, or the fault its reads meet (R314, R316). -/
def State.operandRow (s : State) (t : ThreadRef) (o : MatOpnd) (k i : Nat) : Except (Stop × Nat) (List FV) :=
  let f := matFmt o.fmt.toNat
  let n := f.rowBytes k
  match s.engineRead t o.at_.tag (lineFuel n) (o.at_.addr + i * o.str) n with
  | .error e => .error e
  | .ok bs =>
    if isQ o.fmt then
      match s.engineRead t o.at_.tag (lineFuel (k / 8)) (o.scl + i * o.sstr) (k / 8) with
      | .error e => .error e
      | .ok sc => .ok (rowElems f bs sc k)
    else .ok (rowElems f bs [] k)

/-- Several rows of an operand, the first fault stopping. -/
def State.operandRows (s : State) (t : ThreadRef) (o : MatOpnd) (k : Nat) : List Nat → Except (Stop × Nat) (List (List FV))
  | [] => .ok []
  | i :: rest =>
    match s.operandRow t o k i with
    | .error e => .error e
    | .ok r => match s.operandRows t o k rest with
      | .error e => .error e
      | .ok rs => .ok (r :: rs)

/-- The cells of a row from col on, n of them, agree with their residues (R168). -/
def Column.rowChecks (c : Column) (row col n : Nat) : Bool := (upto n).all fun j => (c.cell row (col + j)).checks

/-- A cell that a command updates or reads out does not agree with its residue: the command executes again from the cells as they
were, with the same outcome, and the second mismatch is a MACHINE_CHECK (R168, R449). -/
def State.cellFails (s : State) (c : Cmd) : State := s.uncorrected c.t 8

/-- MMA's rows: each is checked as it is updated and commits whole; the command stops at the first that meets a fault (R314, R316,
R168). The last of them consumes MROWP (log 81: DESIGN CHOICE). -/
def State.mmaRows (s : State) (c : Cmd) (r col k : Nat) (a : MatOpnd) (bs : List (List FV)) : List Nat → State
  | [] => (s.updThread c.t fun th => { th with mpend := false, mdone := 0 }).endCmd c
  | i :: rest =>
    match s.operandRow c.t a k i with
    | .error (e, addr) => s.stopCmd { c with rows := i } e addr false
    | .ok row =>
      if (s.col c.t.ca).rowChecks (r + i) col bs.length then
        (s.updCol c.t.ca fun x => x.addRow (r + i) col row bs).mmaRows c r col k a bs rest
      else s.cellFails c

/-- One row of an MRD: its bytes and its scale bytes (R324). -/
def Column.readRow (c : Column) (row col n : Nat) (ro : ReadOut) : List Byte × List Byte :=
  let vals := (upto n).map fun j => (c.cell row (col + j)).value ro.p
  let mode := RMode.of (BitVec.ofNat 2 ro.mode)
  if ro.block then
    let bl := (upto (n / 8)).map fun b => readBlock ro.dst mode ((vals.drop (8 * b)).take 8)
    (packBytes (dstWidth ro.dst) (bl.flatMap (·.2)), bl.map fun x => BitVec.ofNat 8 x.1)
  else (packBytes (dstWidth ro.dst) (vals.map (readCell ro.dst mode ro.sat)), [])

/-- MRD's rows in ascending order, each checked as it is read out (R324, R168). -/
def State.mrdOut (s : State) (c : Cmd) (dst : Opnd) (dstr r col n : Nat) (ro : ReadOut) (scl sstr : Nat) : List Nat → State
  | [] => s.endCmd c
  | i :: rest =>
    let (bs, sc) := (s.col c.t.ca).readRow (r + i) col n ro
    if !(s.col c.t.ca).rowChecks (r + i) col n then s.cellFails c
    else match s.engineWrite c.t dst.tag (lineFuel bs.length) (dst.addr + i * dstr) bs with
    | .error (e, addr) => s.stopCmd { c with rows := i } e addr true
    | .ok s1 =>
      match s1.engineWrite c.t dst.tag (lineFuel sc.length) (scl + i * sstr) sc with
      | .error (e, addr) => s.stopCmd { c with rows := i } e addr true
      | .ok s2 => s2.mrdOut c dst dstr r col n ro scl sstr rest

/-- Element e of an MRDV's result (R325). -/
def Column.readElem (c : Column) (row col : Nat) (ro : ReadOut) (e : Nat) : Elem :=
  let w := dstWidth ro.dst
  let n := 32 / w
  let mode := RMode.of (BitVec.ofNat 2 ro.mode)
  BitVec.ofNat 32 ((upto n).foldl (fun x i =>
    let j := col + n * e + i
    x + (if 63 < j then 0 else readCell ro.dst mode ro.sat ((c.cell row j).value ro.p)) * 2 ^ (w * i)) 0)

/-- The columns of the cells that an MRDV's vl elements read (R325). -/
def mrdvColumns (col vl : Nat) (ro : ReadOut) : List Nat := (upto (vl * (32 / dstWidth ro.dst))).filterMap fun i => if col + i ≤ 63 then some (col + i) else none

/-- A matrix format's rows in a scratch buffer: MROT's elements (R319). -/
def State.rotRows (s : State) (t : ThreadRef) (fmt : BitVec 5) (off sub str k : Nat) : List (List FV) :=
  let f := matFmt fmt.toNat
  (upto 64).map fun i => rowElems f (s.ownRead t (scratchAddr (off + i * str + sub)) (f.rowBytes k)) [] k

/-- The MROT of a column with a number, while it is in flight. -/
def State.mrotOf (s : State) (ca num : Nat) : Option Cmd :=
  s.cmds.find? fun x => x.t.ca == ca && match x.op with | .mrot _ _ _ _ _ _ _ _ _ _ _ n => n == num | _ => false

/-- A column's MROT of a number has read its operands and sent its buffers; its buffers have landed (R320). -/
def State.rotSent (s : State) (ca num : Nat) : Bool := (s.col ca).rotsSent.contains num
def State.rotLanded (s : State) (ca num : Nat) : Bool := s.rotSent ca num && (s.mrotOf ca num).isNone

/-- The columns that send to a column: those whose west or north it is. -/
def Policy.senders (p : Policy) (ca qr qc : Nat) : List Nat :=
  (p.block ca qr qc).filter fun x => x != ca && (p.west x qc == ca || p.north x qr == ca)

/-- The buffers an MROT sends: to its west and to its north (R319). -/
def State.rotSends (s : State) (c : Cmd) (qc qr aoff boff sa sb : Nat) : List (Nat × Nat × List Byte) :=
  let pol := (s.part ((s.partOf c.t).getD 16)).pol
  let ca := c.t.ca
  (if qc = 1 then [] else [(pol.west ca qc, aoff, s.ownRead c.t (scratchAddr aoff) (64 * sa))]) ++
  (if qr = 1 then [] else [(pol.north ca qr, boff, s.ownRead c.t (scratchAddr boff) (64 * sb))])

/-- A matrix command may execute now: its locks registered, in the order of its column (R310), and for an MROT every buffer
of the step before landed (R320). -/
def State.matrixReady (s : State) (c : Cmd) : Bool :=
  c.registered && c.status == .pending && c.op.isMatrix && !c.sentOn &&
  ((s.cmds.takeWhile fun x => x.id != c.id).all fun x => x.t.ca != c.t.ca || !x.op.isMatrix || x.sentOn) &&
  match c.op with
  | .mrot _ qc qr _ _ _ _ _ _ _ _ num =>
    num == 0 || ((s.part ((s.partOf c.t).getD 16)).pol.senders c.t.ca qr qc).all fun x => s.rotLanded x (num - 1)
  | _ => true

/-- An element of a vector register written by an engine: an older load outstanding to it writes it no more (R304, R325). -/
def Thread.setElem (th : Thread) (d : BitVec 4) (i : Nat) (x : Elem) : Thread := th.wv d i x

/-- A scratch buffer of an MROT that is not present any more (R86). -/
def State.rotAbsent (s : State) (c : Cmd) : Option Nat :=
  match c.op with
  | .mrot _ _ _ _ _ aoff boff _ _ sa sb _ =>
    (badRange (fun l => s.absentBad c.t l 64) [(scratchAddr aoff, 64 * sa), (scratchAddr boff, 64 * sb)])
  | _ => none

/-- The command takes effect, or stops at a fault; an MROT sends its buffers on. An MMA reads all of B before its first A row, also
where no row of A is left to add (log 82: DESIGN CHOICE). -/
def State.matrixEffect (s : State) (c : Cmd) : State :=
  match c.op with
  | .mclr r k m n => (s.updCol c.t.ca fun x => x.clearRegion r k m n).endCmd c
  | .mma r col m n k a b _ =>
    match s.operandRows c.t b k (upto n) with
    | .error (e, addr) => s.stopCmd c e addr false
    | .ok bs => s.mmaRows c r col k a bs ((upto m).drop c.rows)
  | .mrot k qc qr asub bsub aoff boff fa fb sa sb num =>
    match s.rotAbsent c with
    | some a => s.stopCmd c (.fault .scratchAbsent) a false
    | none =>
    match s.rangeTaint c.t [(scratchAddr aoff, 64 * sa), (scratchAddr boff, 64 * sb)] with
    | some x => s.consume c.t x
    | none =>
    let bs := s.rotRows c.t fb boff bsub sb k
    let sends := s.rotSends c qc qr aoff boff sa sb
    if !((upto 64).all fun i => (s.col c.t.ca).rowChecks i 0 64) then s.cellFails c
    else
    let s := s.each ((upto 64).zip (s.rotRows c.t fa aoff asub sa k)) fun s ia => s.updCol c.t.ca fun x => x.addRow ia.1 0 ia.2 bs
    let s := { s with locks := s.locks.filter fun l => l.owner != c.id }
    let s := s.updCol c.t.ca fun x => { x with rotsSent := x.rotsSent ++ [num] }
    if sends.isEmpty then s.endCmd c else s.updCmd c.id fun x => { x with sentOn := true, sends := sends }
  | .mrd dst dstr r col m n ro scl sstr => s.mrdOut c dst dstr r col n ro scl sstr ((upto m).drop c.rows)
  | .mrdv d row col ro vl =>
    let cells := s.col c.t.ca
    if !((mrdvColumns col vl ro).all fun j => (cells.cell row j).checks) then s.cellFails c
    else (s.updThread c.t fun th => (upto vl).foldl (fun th e => th.setElem d e (cells.readElem row col ro e)) th).endCmd c
  | _ => s

/-- MATRIX COMMAND COMPLETE. -/
def State.matrixComplete (s : State) (c : Cmd) : State := s.matrixEffect c

/-- An MROT's buffers may land: each receiver has sent its own of that step, and no other command locks their lines (R320). -/
def State.rotMayLand (s : State) (c : Cmd) : Bool :=
  c.sentOn && match c.op with
  | .mrot _ _ _ _ _ _ _ _ _ _ _ num =>
    c.sends.all fun x => s.rotSent x.1 num &&
      !(s.locks.any fun l => (linesOf x.2.1 x.2.2.length).any (fun o => scratchLine x.1 o == l.line) &&
        !(s.cmds.any fun y => y.id == l.owner && match y.op with | .mrot .. => true | _ => false))
  | _ => false

/-- A buffer on its way lies beyond the present scratch of its receiver (R81, R86). -/
def State.rotLost (s : State) (c : Cmd) : Option Nat :=
  (c.sends.find? fun x => !(s.col x.1).windowHas x.2.1 x.2.2.length).map fun x => scratchAddr x.2.1

/-- MROT LANDING: the buffers are written at their receivers and the command ends (R320), or no buffer lands and it is abandoned
(R81, log 58). -/
def State.rotLand (s : State) (c : Cmd) : State :=
  match s.rotLost c with
  | some a => s.stopCmd c (.fault .scratchAbsent) a true
  | none => (s.each c.sends fun s x => s.ownWrite ⟨x.1, c.t.tid⟩ (scratchAddr x.2.1) x.2.2).endCmd c

end Sys2Proof.Machine
end

