-- ==== Sys2Proof/Machine/Message.lean ====
section
/-! DEFINITION. Messages and inboxes: SEND, RECV, RECVQ and RPLAY (10_isa_tasks R266 to R270, 01_columns R15, R23). -/

namespace Sys2Proof.Machine

/-! ### Inboxes -/

/-- The inbox, the replayed entries and the SPILL counts of a column, of its drive side or of its control side. -/
def Column.box (c : Column) (drv : Bool) : List Msg := if drv then c.dinbox else c.inbox
def Column.replays (c : Column) (drv : Bool) : List Msg := if drv then c.dreplay else c.replay
def Column.spillOf (c : Column) (drv : Bool) (ch : Nat) : Nat := tget (if drv then c.dspill else c.spill) ch 0

def Column.setBox (c : Column) (drv : Bool) (l : List Msg) : Column := if drv then { c with dinbox := l } else { c with inbox := l }
def Column.setReplays (c : Column) (drv : Bool) (l : List Msg) : Column :=
  if drv then { c with dreplay := l } else { c with replay := l }
def Column.setSpill (c : Column) (drv : Bool) (ch n : Nat) : Column :=
  if drv then { c with dspill := tset c.dspill ch n } else { c with spill := tset c.spill ch n }

/-- Whether an inbox has a free entry: 64 for messages, 16 on a drive die (01_columns). -/
def Column.boxRoom (c : Column) (drv : Bool) : Bool :=
  decide ((c.box drv).length + (c.replays drv).length < (if drv then 16 else 64))

/-- A message's channel (R266). -/
def Msg.ch (m : Msg) : Nat := m.hdr.toNat / 2 ^ 24 % 16

/-- The 80 bytes of an entry: header, then payload. -/
def Msg.bytes (m : Msg) : List Byte := leBytes 16 m.hdr.toNat ++ leBytes 64 m.pay.toNat

/-- The entries on a channel that a general RECV may take now, first first (R270). -/
def Column.takable (c : Column) (drv : Bool) (ch : Nat) : List Msg :=
  let r := (c.replays drv).filter fun m => m.ch == ch
  if 0 < c.spillOf drv ch then r else r ++ (c.box drv).filter fun m => m.ch == ch

/-- Takes an entry out of an inbox. -/
def Column.removeMsg (c : Column) (drv : Bool) (id : Nat) : Column :=
  (c.setBox drv ((c.box drv).filter fun m => m.id != id)).setReplays drv ((c.replays drv).filter fun m => m.id != id)

/-- What RECV on a channel takes: any arrived entry on channel 16, its SPILL count raised (R268, R270). -/
def Column.recvPick (c : Column) (drv : Bool) (ch : Nat) : Option Msg :=
  if ch = 16 then (c.box drv).head? else (c.takable drv ch).head?

/-! ### Scratch operands of the issuing thread -/

/-- n bytes at a, all in the issuing column's home scratch, or in drive scratch on a drive core (R268). -/
def State.ownHome (s : State) (a n : Nat) : Bool :=
  decide (Config.homeBase ≤ a) && decide (a + n ≤ Config.homeBase + (if isDrive s.cur then 0x10000 else 0x100000))

/-- The checks on an 80-byte entry's address (R268, R269). -/
def State.entryTrap (s : State) (a : Nat) : Option Cause :=
  if 2 ^ 48 < a + 80 then some .addrRange
  else if a % 16 ≠ 0 then some .misaligned
  else if !s.ownHome a 80 then some .protection
  else none

/-! ### SEND (R267) -/

/-- A message's header (R266). -/
def header (t : ThreadRef) (drv : Bool) (ch seq : Nat) (now : Word) : BitVec 128 :=
  BitVec.ofNat 128 (t.ca + (if isDrive t then 2 ^ 15 else 0) + 2 ^ 16 * threadIndex t + 2 ^ 24 * ch +
    (if drv then 2 ^ 28 else 0) + 2 ^ 32 * (seq % 2 ^ 32) + 2 ^ 64 * now.toNat)

/-- Channel c is granted between the thread's partition and the presentation partition (R23, R423). -/
def State.granted (s : State) (ch : Nat) : Bool :=
  match s.presHolder with
  | some p => s.curPart.pol.chmask.getLsbD ch && (s.part p).pol.chmask.getLsbD ch
  | none => false

/-- PROTECTION of a SEND by its target (R267, R23, R32). -/
def State.sendBad (s : State) (ca : Nat) (drv : Bool) (ch : Nat) : Bool :=
  ch == 15 || s.th.ordered ||
  (if drv then !(s.curPart.pol.pres || s.granted ch) else !s.curPart.pol.has ca || s.retired.contains ca)

/-- The message leaves for its inbox (R267). -/
def State.sendNow (ca : Nat) (drv : Bool) (ch addr : Nat) (s : State) : State :=
  let key := (ch, ca, drv)
  let seq := ((s.th.sent.find? fun e => e.1 == key).map (·.2)).getD 0
  let pay := BitVec.ofNat 512 (leNat (s.readScratch s.cur addr 64))
  let (n, s) := s.newId
  let part := if drv then s.presHolder.getD 16 else s.pid
  let m : Msg := ⟨n, some s.cur, ca, drv, header s.cur drv ch seq s.almanac, pay, part, s.pid⟩
  let s := s.upd fun th => { th.bump .fx with sent := th.sent.filter (fun e => e.1 != key) ++ [(key, seq + 1)] }
  { s with net := s.net ++ [m] }

/-- SEND (R267). -/
def execSend (a b : BitVec 5) (g : Guard) (s : State) : Result :=
  issueAs (.send a b g) s (State.raising .fx fun s =>
    let addr := (s.rs a).toNat
    let ca := bitsOf (s.rs b) 0 12
    let drv := bitsOf (s.rs b) 12 1 == 1
    let ch := bitsOf (s.rs b) 16 4
    match s.accessCheck s.cur addr 64 64 with
    | some c => s.trapAt c addr
    | none =>
      if !inScratch addr || inRemote addr then s.trapAt .protection addr
      else if !caOk ca then s.trap .addrRange
      else if s.sendBad ca drv ch then s.trap .protection
      else s.afterOwn addr 64 fun s => match s.scratchTaint s.cur addr with
        | some x => s.consume s.cur x
        | none => State.sendNow ca drv ch addr s)

/-! ### RECV, RECVQ, RPLAY (R268 to R270) -/

/-- RECV's wait and its effect; a poisoned line that the entry does not replace whole is used (R450). -/
def State.recvNow (d : BitVec 5) (addr ch : Nat) (s : State) : State :=
  let drv := isDrive s.cur
  match s.here.recvPick drv ch with
  | none => s.holdAs .waiting (.recv ch)
  | some m =>
    match s.edgeTaint s.cur addr 80 with
    | some x => s.consume s.cur x
    | none =>
      let s := s.updHere fun c =>
        let c := c.removeMsg drv m.id
        if ch = 16 then c.setSpill drv m.ch (c.spillOf drv m.ch + 1) else c
      (s.writeScratch s.cur addr m.bytes).ws d (m.hdr.truncate 64)

/-- RECV (R268). -/
def execRecv (d a c : BitVec 5) (s : State) : Result :=
  issueAs (.recv d a c) s fun s =>
    let addr := (s.rs a).toNat
    if s.leaseHeld then s.trap .leaseMisuse
    else if s.th.ordered then s.trap .protection
    else match s.entryTrap addr with
    | some t => s.trapAt t addr
    | none =>
      let go := State.afterOwn addr 80 (State.recvNow d addr c.toNat)
      if s.mustPark s.cur then s.pointBefore go else go s

/-- RECVQ (R269). -/
def execRecvq (d c : BitVec 5) (g : Guard) (s : State) : Result :=
  issueAs (.recvq d c g) s fun s => s.ws d (BitVec.ofNat 64 (s.here.takable (isDrive s.cur) c.toNat).length)

/-- RPLAY's effect (R269, R270); a poisoned line of the entry is used (R450). -/
def State.replayNow (d : BitVec 5) (addr : Nat) (s : State) : State :=
  match s.spanTaint s.cur addr 80 with
  | some x => s.consume s.cur x
  | none =>
  let drv := isDrive s.cur
  let bs := s.readScratch s.cur addr 80
  let m : Msg := ⟨s.nextId, none, s.cur.ca, drv, BitVec.ofNat 128 (leNat (bs.take 16)), BitVec.ofNat 512 (leNat (bs.drop 16)),
    s.pid, s.pid⟩
  if s.here.spillOf drv m.ch = 0 then s.trap .protection
  else if s.here.boxRoom drv then
    ((s.newId.2).updHere fun c => (c.setReplays drv (c.replays drv ++ [m])).setSpill drv m.ch (c.spillOf drv m.ch - 1)).ws d 1
  else s.ws d 0

/-- RPLAY (R269). -/
def execRplay (d a : BitVec 5) (g : Guard) (s : State) : Result :=
  issueAs (.rplay d a g) s fun s =>
    let addr := (s.rs a).toNat
    match s.entryTrap addr with
    | some t => s.trapAt t addr
    | none => if s.th.ordered then s.trap .protection else s.afterOwn addr 80 (State.replayNow d addr)

end Sys2Proof.Machine
end

