-- ==== Sys2Proof/Machine/Pixel.lean ====
section
/-! DEFINITION. Coverage, pixel and emission instructions, and TEND, which drains the blend buffer (13_isa_pixel R332 to R348,
10_isa_tasks R260). -/

namespace Sys2Proof.Machine

/-! ### Strips (R332, R333) -/

def tilePix (x : Word) : Nat := bitsOf x 0 14
def tileRate (x : Word) : Nat := 2 ^ bitsOf x 14 2
def tileToken (x : Word) : Nat := bitsOf x 16 16

/-- The checks of a tile word after LANE_CLAIM (R332). -/
def State.tileTrap (s : State) (x : Word) : Option Cause :=
  let rows := s.th.vl / 8
  let y := tilePix x / 128
  if bitsOf x 14 2 = 3 then some .illegalInstr
  else if bitsOf x 32 32 ≠ 0 ∨ tilePix x % 8 ≠ 0 ∨ 127 < y + rows - 1 ∨ 8 < y % 8 + rows then some .addrRange
  else none

/-- A form that takes a tile word: LANE_CLAIM, then the tile word (R332, R334). -/
def State.strip (x : Word) (f : State → State) (s : State) : State :=
  s.vector fun s => match s.tileTrap x with | some c => s.trap c | none => f s

/-- Element i's pixel index. -/
def pixOf (x : Word) (i : Nat) : Nat := tilePix x + i % 8 + 128 * (i / 8)

/-- The lead element of element i's block at the tile word's rate. -/
def leadOf (x : Word) (i : Nat) : Nat :=
  let r := tileRate x
  let y0 := tilePix x / 128
  let y := y0 + i / 8
  (max (y - y % r) y0 - y0) * 8 + (i % 8 - i % 8 % r)

/-! ### Setup and coverage (R336, R337) -/

/-- A triangle's edge functions, as PSETUP leaves them. -/
structure Setup where
  a : List Int
  b : List Int
  c : List Int
  area : Int
  flip : Bool
  degenerate : Bool
  deriving DecidableEq, Repr

/-- The setup of vertices given as x0, y0, x1, y1, x2, y2 (R336). -/
def setupOf (v : List Int) : Setup :=
  let x (i : Nat) : Int := v.getD (2 * (i % 3)) 0
  let y (i : Nat) : Int := v.getD (2 * (i % 3) + 1) 0
  let aa := (upto 3).map fun e => y e - y (e + 1)
  let bb := (upto 3).map fun e => x (e + 1) - x e
  let cc := (upto 3).map fun e => x e * y (e + 1) - x (e + 1) * y e
  let area := aa.getD 0 0 * x 2 + bb.getD 0 0 * y 2 + cc.getD 0 0
  let out := v.any fun n => decide (n < -(2 ^ 22 : Int)) || decide ((2 ^ 22 : Int) < n)
  let sg (l : List Int) : List Int := if area < 0 then l.map (- ·) else l
  ⟨sg aa, sg bb, sg cc, if area < 0 then -area else area, decide (area < 0), decide (area = 0) || out⟩

/-- Element i of a setup register (R336). -/
def Setup.elem (t : Setup) (i : Nat) : Elem :=
  let w64 (n : Int) (hi : Bool) : Elem := BitVec.ofNat 32 ((BitVec.ofInt 64 n).toNat / (if hi then 2 ^ 32 else 1))
  if i = 14 then BitVec.ofNat 32 ((if t.flip then 1 else 0) + (if t.degenerate then 2 else 0))
  else if t.degenerate || decide (15 ≤ i) then 0
  else if i < 3 then BitVec.ofInt 32 (t.a.getD i 0)
  else if i < 6 then BitVec.ofInt 32 (t.b.getD (i - 3) 0)
  else if i < 12 then w64 (t.c.getD ((i - 6) / 2) 0) (i % 2 == 1)
  else w64 t.area (i == 13)

/-- PSETUP (R336). -/
def execPsetup (d a : BitVec 4) (s : State) : Result :=
  issueAs (.psetup d a) s (State.vector fun s =>
    let t := setupOf ((upto 6).map fun i => (s.rv a i).toInt)
    s.wvs d (upto 16) t.elem)

/-- The setup that a register holds, as PCOVER reads it. -/
def State.setup (s : State) (a : BitVec 4) : Setup :=
  let w64 (i : Nat) : Int := (BitVec.ofNat 64 ((s.rv a i).toNat + 2 ^ 32 * (s.rv a (i + 1)).toNat)).toInt
  ⟨(upto 3).map fun e => (s.rv a e).toInt, (upto 3).map fun e => (s.rv a (3 + e)).toInt,
   (upto 3).map fun e => w64 (6 + 2 * e), w64 12, (s.rv a 14).getLsbD 0, (s.rv a 14).getLsbD 1⟩

/-- E_e at a point. -/
def Setup.edge (t : Setup) (e : Nat) (px py : Int) : Int := t.a.getD e 0 * px + t.b.getD e 0 * py + t.c.getD e 0

def Setup.inside (t : Setup) (px py : Int) (e : Nat) : Bool :=
  let v := t.edge e px py
  decide (0 < v) || (decide (v = 0) && (decide (0 < t.a.getD e 0) || (decide (t.a.getD e 0 = 0) && decide (0 < t.b.getD e 0))))

/-- Whether the fine pixel (x, y) is covered. -/
def Setup.covered (t : Setup) (x y : Nat) : Bool :=
  !t.degenerate && decide (0 < t.area) && (upto 3).all (t.inside (256 * (x : Int) + 128) (256 * (y : Int) + 128))

/-- Whether any fine pixel of the r-block at (xb, yb) is covered. -/
def Setup.anyCovered (t : Setup) (xb yb r : Nat) : Bool :=
  (upto r).any fun i => (upto r).any fun j => t.covered (xb + i) (yb + j)

/-- A weight: the exact quotient rounded once to FP32. -/
def Setup.weight (t : Setup) (e : Nat) (qx qy : Int) : Nat :=
  let v := t.edge e qx qy
  f32.round .rne false (quotient (decide (v < 0)) v.natAbs t.area.natAbs 160)

/-- The mask with the bits of the listed elements as f gives them. -/
def setBits (m : Word) (els : List Nat) (f : Nat → Bool) : Word :=
  els.foldl (fun m i => if f i then m ||| (1#64 <<< i) else m &&& ~~~(1#64 <<< i)) m

/-- PCOVER (R337). -/
def execPcover (d a : BitVec 4) (c l : BitVec 2) (m : BitVec 2) (r : BitVec 5) (s : State) : Result :=
  issueAs (.pcover d a c l m r) s (State.strip (s.rs r) fun s =>
    let x := s.rs r
    let t := s.setup a
    let els := s.actives m
    let n := tileRate x
    let px (i : Nat) : Nat := pixOf x i % 128
    let py (i : Nat) : Nat := pixOf x i / 128
    let any (i : Nat) : Bool := t.anyCovered (px i - px i % n) (py i - py i % n) n
    let weight (e i : Nat) : Elem :=
      if any i then bits32 (t.weight e (256 * (px i - px i % n : Nat) + 128 * (n : Int)) (256 * (py i - py i % n : Nat) + 128 * (n : Int)))
      else 0
    let kc := setBits (s.rk c) els fun i => t.covered (px i) (py i)
    let kl := setBits (s.rk l) els fun i => leadOf x i == i && any i
    (((s.wvs d els (weight 2)).wvs (d + 1) els (weight 0)).wk c kc).wk l kl)

/-! ### Cells and the blend buffer (R339 to R342, R346) -/

def Column.pixel (c : Column) (i : Nat) : Pixel := tget c.pixels i Pixel.reset
def Column.setPixel (c : Column) (i : Nat) (p : Pixel) : Column := { c with pixels := tset c.pixels i p }

/-- Whether an emission covers a pixel. -/
def Emission.covers (e : Emission) (i : Nat) : Bool :=
  decide (e.x0 ≤ i % 128) && decide (i % 128 < e.x0 + e.w) && decide (e.y0 ≤ i / 128) && decide (i / 128 < e.y0 + e.h)

/-- The classes of pixel i that a column's emissions drive at a tick: of those that cover it and have begun, and have not ended (R344,
R345). -/
def Column.drivenAt (c : Column) (now i : Nat) : BitVec 3 :=
  (c.seqr.filter fun e => e.copied && e.covers i && decide (e.t ≤ now) && decide (now < e.stop)).foldl (fun k e => k ||| e.cls) 0

/-- A pixel's lit value in class 0, 1 or 2. -/
def Pixel.lit (p : Pixel) : Nat → BitVec 16 | 0 => p.litR | 1 => p.litG | _ => p.litB

/-- THE LIGHT of a pixel class now: its drive, from its lit value after calibration, while it is driven (R345, R18, R457). -/
def State.lightOf (s : State) (ca i cls : Nat) : Option Nat :=
  if ((s.col ca).drivenAt s.now i).getLsbD cls then
    some (Config.emitterDrive (s.col ca).calib i cls (((s.col ca).pixel i).lit cls) s.emitterScale)
  else none

/-- The emissions whose copy is still to be made that cover a pixel of the list in one of the classes (R346). -/
def Column.uncopied (c : Column) (cls : BitVec 3) (pix : List Nat) : List Nat :=
  (c.seqr.filter fun e => !e.copied && e.cls &&& cls != 0 && pix.any e.covers).map (·.id)

/-- Runs f unless copies must be awaited (R346). -/
def State.afterCopies (cls : BitVec 3) (pix : List Nat) (f : State → State) (s : State) : State :=
  match s.here.uncopied cls pix with
  | [] => f s
  | ids => s.stall (.copies ids)

/-- One channel blended (R340). -/
def blendChan (o : BlendOp) (d src al : BitVec 16) : BitVec 16 :=
  match o with
  | .rep => src
  | .over => BitVec.ofNat 16 (min 65535 (src.toNat + (d.toNat * (65535 - al.toNat) + 32767) / 65535))
  | .add => BitVec.ofNat 16 (min 65535 (d.toNat + src.toNat))
  | .opMax => if d.ult src then src else d
  | .opMin => if src.ult d then src else d

/-- One pixel blended. -/
def Column.blendPix (c : Column) (o : BlendOp) (b : BlendPix) : Column :=
  let p := c.pixel b.idx
  c.setPixel b.idx { p with drawR := blendChan o p.drawR b.r b.a, drawG := blendChan o p.drawG b.g b.a,
                            drawB := blendChan o p.drawB b.b b.a }

def Column.blendEntry (c : Column) (e : Blend) : Column := e.pix.foldl (fun c b => c.blendPix e.op b) c

/-- Entries in token order, equal tokens in deposit order (R341). -/
def insertBlend (e : Blend) : List Blend → List Blend
  | [] => [e]
  | x :: r => if e.token ≤ x.token then e :: x :: r else x :: insertBlend e r

/-- A BLEND DRAIN (R341). -/
def Column.drain (c : Column) : Column :=
  { ((c.blend.foldr insertBlend []).foldl Column.blendEntry c) with blend := [] }

/-- The pixels of a column's blend buffer. -/
def Column.blendPixels (c : Column) : List Nat := c.blend.flatMap fun e => e.pix.map (·.idx)

/-- Drains the buffer before f, waiting for copies where it must (R341, R346). -/
def State.drained (f : State → State) (s : State) : State :=
  s.afterCopies 7 s.here.blendPixels fun s => f (s.updHere Column.drain)

/-- The sources of the active elements of a strip (R340). -/
def State.blendSources (s : State) (a b : BitVec 4) (m : BitVec 2) (x : Word) : List BlendPix :=
  (s.actives m).map fun i =>
    let p := s.rv a (leadOf x i)
    let q := s.rv b (leadOf x i)
    ⟨pixOf x i, p.truncate 16, BitVec.ofNat 16 (p.toNat / 65536), q.truncate 16, BitVec.ofNat 16 (q.toNat / 65536)⟩

/-- PBLEND (R341). -/
def execPblend (r : Bool) (a b : BitVec 4) (m : BitVec 2) (t : BitVec 5) (o : BlendOp) (s : State) : Result :=
  issueAs (.pblend r a b m t o) s (State.strip (s.rs t) fun s =>
    let x := s.rs t
    if 64 ≤ s.here.blend.length then s.trap .fifoMisuse
    else
      let pix := s.blendSources a b m x
      let put (s : State) : State := s.updHere fun c => { c with blend := c.blend ++ [⟨o, tileToken x, pix⟩] }
      if r then s.afterCopies 7 (s.here.blendPixels ++ pix.map (·.idx)) fun s => (put s).updHere Column.drain else put s)

/-- PBLEND.c (R342). -/
def execPblendC (r : Bool) (a b : BitVec 4) (m : BitVec 2) (t : BitVec 5) (o : BlendOp) (s : State) : Result :=
  issueAs (.pblendC r a b m t o) s (State.strip (s.rs t) fun s =>
    if o = .rep ∨ o = .over then s.trap .illegalInstr
    else
      let pix := s.blendSources a b m (s.rs t)
      let hit := s.here.blendPixels.any fun i => pix.any fun b => b.idx == i
      let all := (if hit || r then s.here.blendPixels else []) ++ pix.map (·.idx)
      s.afterCopies 7 all fun s =>
        s.updHere fun c =>
          let c := if hit then c.drain else c
          let c := c.blendEntry ⟨o, 0, pix⟩
          if r then c.drain else c)

/-- PDEPTH (R338). -/
def execPdepth (e : BitVec 2) (a : BitVec 4) (w : Bool) (m : BitVec 2) (r : BitVec 5) (c : DepthCond) (s : State) : Result :=
  issueAs (.pdepth e a w m r c) s (State.strip (s.rs r) (State.drained fun s =>
    let x := s.rs r
    let els := s.actives m
    let pass (i : Nat) : Bool := depthHolds c (s.rv a i).toNat (s.here.pixel (pixOf x i)).depth.toNat
    let k := setBits (s.rk e) els pass
    let s' := if w then s.updHere fun col => (els.filter pass).foldl (fun col i =>
        col.setPixel (pixOf x i) { col.pixel (pixOf x i) with depth := s.rv a i }) col
      else s
    s'.wk e k))

/-- A plane of a cell as an element (R339). -/
def Pixel.get (p : Pixel) : Plane → Elem
  | .drg => p.drawG ++ p.drawR
  | .db => p.drawB.zeroExtend 32
  | .lrg => p.litG ++ p.litR
  | .lb => p.litB.zeroExtend 32
  | .dep => p.depth
  | .aux => p.aux.zeroExtend 32

/-- A cell with a plane stored from an element; lit planes are not stored (R339). -/
def Pixel.put (p : Pixel) (pl : Plane) (x : Elem) : Pixel :=
  let lo : BitVec 16 := x.truncate 16
  match pl with
  | .drg => { p with drawR := lo, drawG := BitVec.ofNat 16 (x.toNat / 65536) }
  | .db => { p with drawB := lo }
  | .dep => { p with depth := x }
  | .aux => { p with aux := lo }
  | .lrg | .lb => p

/-- The classes whose lit values a load reads, and whose draw values a store writes (R346). -/
def litClasses : Plane → BitVec 3 | .lrg => 3 | .lb => 4 | _ => 0
def drawClasses : Plane → BitVec 3 | .drg => 3 | .db => 4 | _ => 0

/-- PLD (R339). -/
def execPld (d : BitVec 4) (m : BitVec 2) (r : BitVec 5) (l : Plane) (s : State) : Result :=
  issueAs (.pld d m r l) s (State.strip (s.rs r) (State.drained fun s =>
    let x := s.rs r
    let els := s.actives m
    s.afterCopies (litClasses l) (els.map (pixOf x)) fun s =>
      s.wvs d els fun i => (s.here.pixel (pixOf x i)).get l))

/-- Stores a plane of (pixel, value) pairs, the later pair remaining. -/
def Column.putAll (c : Column) (l : Plane) (ps : List (Nat × Elem)) : Column :=
  ps.foldl (fun c p => c.setPixel p.1 ((c.pixel p.1).put l p.2)) c

/-- PST (R339). -/
def execPst (d : BitVec 4) (m : BitVec 2) (r : BitVec 5) (l : Plane) (s : State) : Result :=
  issueAs (.pst d m r l) s (State.strip (s.rs r) (State.drained fun s =>
    let x := s.rs r
    let ps := (s.actives m).map fun i => (pixOf x i, s.rv d (leadOf x i))
    s.afterCopies (drawClasses l) (ps.map (·.1)) fun s => s.updHere fun c => c.putAll l ps))

/-- PST.x (R339). -/
def execPstX (d a : BitVec 4) (m : BitVec 2) (l : Plane) (s : State) : Result :=
  issueAs (.pstX d a m l) s (State.vector fun s =>
    let ps := (s.actives m).map fun i => ((s.rv a i).toNat, s.rv d i)
    if ps.any fun p => decide (2 ^ 14 ≤ p.1) then s.trap .addrRange
    else s.drained (fun s => s.afterCopies (drawClasses l) (ps.map (·.1)) fun s => s.updHere fun c => c.putAll l ps))

/-! ### Emission (R343 to R348) -/

/-- A region word's emission, unnumbered; none where R343 refuses it. `dur`: whether DUR is judged. -/
def regionOf (x : Word) (dur : Bool) : Option Emission :=
  let w := bitsOf x 14 7 + 1
  let h := bitsOf x 21 7 + 1
  let x0 := bitsOf x 0 7
  let y0 := bitsOf x 7 7
  let d := bitsOf x 34 24
  if bitsOf x 61 3 ≠ 0 ∨ bitsOf x 28 6 ≠ 0 ∨ bitsOf x 58 3 = 0 ∨ 128 < x0 + w ∨ 128 < y0 + h ∨ (dur = true ∧ d = 0) then none
  else some ⟨0, 0, d, x0, y0, w, h, BitVec.ofNat 3 (bitsOf x 58 3), false⟩

/-- Lit values set from draw values over an emission's region and classes (R344). -/
def Column.light (c : Column) (e : Emission) : Column :=
  (upto e.h).foldl (fun c j => (upto e.w).foldl (fun c i =>
    let k := 128 * (e.y0 + j) + e.x0 + i
    let p := c.pixel k
    c.setPixel k { p with litR := if e.cls.getLsbD 0 then p.drawR else p.litR,
                          litG := if e.cls.getLsbD 1 then p.drawG else p.litG,
                          litB := if e.cls.getLsbD 2 then p.drawB else p.litB }) c) c

def satInc (x : BitVec 16) : BitVec 16 := if x = BitVec.allOnes 16 then x else x + 1

def State.updTele (s : State) (ca : Nat) (f : ColTele → ColTele) : State :=
  { s with colTele := tset s.colTele ca (f (tget s.colTele ca ColTele.reset)) }

/-- EMIT at its tick, once its drain is done and an entry is free (R344). -/
def State.emitNow (t : Nat) (e : Emission) (s : State) : State :=
  let (n, s) := s.newId
  let e := { e with id := n, t := t, stop := t + e.stop }
  if s.now ≤ t then s.updHere fun c => { c with seqr := c.seqr ++ [e] }
  else if s.now < e.stop then
    (s.updHere fun c => { (c.light e) with seqr := c.seqr ++ [{ e with copied := true }], late := true, lateCnt := satInc c.lateCnt }).updTele
      s.cur.ca fun x => { x with lateTotal := x.lateTotal + 1 }
  else
    (s.updHere fun c => { c with missed := true, missCnt := satInc c.missCnt }).updTele
      s.cur.ca fun x => { x with missTotal := x.missTotal + 1 }

/-- EMIT (R343, R344). -/
def execEmit (a b : BitVec 5) (s : State) : Result :=
  issueAs (.emit a b) s fun s =>
    match regionOf (s.rs b) true with
    | none => s.trap .illegalInstr
    | some e =>
      let t := (s.rs a).toNat
      s.drained (fun s => if 16 ≤ s.here.seqr.length then s.stall .sequencer else s.emitNow t e)

/-- Whether two emissions share a pixel class. -/
def Emission.overlaps (e f : Emission) : Bool :=
  e.cls &&& f.cls != 0 && decide (e.x0 < f.x0 + f.w) && decide (f.x0 < e.x0 + e.w) &&
  decide (e.y0 < f.y0 + f.h) && decide (f.y0 < e.y0 + e.h)

/-- EMITQ (R347). -/
def execEmitq (a b : BitVec 5) (s : State) : Result :=
  issueAs (.emitq a b) s fun s =>
    match regionOf (s.rs b) false with
    | none => s.trap .illegalInstr
    | some e =>
      let ends := (s.here.seqr.filter fun f => f.overlaps e && decide (s.now < f.stop)).map (·.stop)
      s.ws a (BitVec.ofNat 64 (ends.foldl max 0))

/-! ### TEND (R260) -/

/-- TEND (R260): on a drive core it drains the blend buffer first. -/
def execTend (s : State) : Result :=
  issueAs .tend s fun s =>
    if isDrive s.cur then s.drained (State.waitingAll State.endTask) else s.waitingAll State.endTask

end Sys2Proof.Machine
end

