-- ==== Sys2Proof/Machine/System.lean ====
section
/-! DEFINITION. System registers: SYSR, SYSW and SYSX (14_isa_system R354 to R368), the steps by which a write takes force
(R84 to R87, R123, R124, R350, R355), and ERET, SCALL, BKPT, PPOINT and HALT (R357 to R359, R365). -/

namespace Sys2Proof.Machine

/-! ### Reading -/

/-- TVEC's word (R363). -/
def Partition.tvecWord (p : Partition) : Word := (p.tvecAddr &&& 0x0000FFFFFFFFFFF8#64) ||| (if p.tvecEn then 1 else 0)

/-- EMITSTAT's word (R348). -/
def Column.emitstat (c : Column) : Word :=
  BitVec.ofNat 64 ((if c.late then 1 else 0) + (if c.missed then 2 else 0) + 4 * c.seqr.length +
    2 ^ 32 * c.lateCnt.toNat + 2 ^ 48 * c.missCnt.toNat)

/-- The word that register n of the map reads as at the issuing thread (R354, R356). -/
def State.readSys (s : State) (n : Nat) : Word :=
  let th := s.th
  let c := s.here
  let p := s.curPart
  match n with
  | 0x000 => BitVec.ofNat 64 th.vl
  | 0x001 => th.vrmode.zeroExtend 64
  | 0x002 => th.ctxcur.zeroExtend 64
  | 0x003 => th.tscur
  | 0x010 => th.mfmta.zeroExtend 64
  | 0x011 => th.mfmtb.zeroExtend 64
  | 0x012 => th.mscla
  | 0x013 => th.msclb
  | 0x014 => th.mstra.zeroExtend 64
  | 0x015 => th.mstrb.zeroExtend 64
  | 0x016 => BitVec.ofNat 64 (th.mdone.toNat + if th.mpend then 128 else 0)
  | 0x018 => th.cstrs.zeroExtend 64
  | 0x019 => th.cstrd.zeroExtend 64
  | 0x020 => th.tcause.zeroExtend 64
  | 0x021 => th.taddr
  | 0x022 => th.tpc
  | 0x023 => p.tvecWord
  | 0x024 => th.tstat.zeroExtend 64
  | 0x030 => BitVec.ofNat 64 (c.ways + 64 * c.loftStatus.toNat)
  | 0x031 => c.thallow.zeroExtend 64
  | 0x032 => BitVec.ofNat 64 (c.reading + 2 ^ 16 * c.temp.toNat + 2 ^ 32 * c.droop.toNat)
  | 0x033 => p.thdisp.zeroExtend 64
  | 0x034 => BitVec.ofNat 64 ((if (s.gate s.cur.ca).upReq then 1 else 0) + if (s.gate s.cur.ca).upState then 2 else 0)
  | 0x040 => BitVec.ofNat 64 (c.domLevel.toNat + (if c.domX then 8 else 0) + 2 ^ 16 * c.domEpoch.toNat)
  | 0x041 => c.domid.zeroExtend 64
  | 0x042 => s.almanac
  | 0x050 => c.emitstat
  | 0x051 => p.pdist.zeroExtend 64
  | 0x060 => p.grbase
  | 0x061 => p.grhead.zeroExtend 64
  | 0x062 => p.grtail.zeroExtend 64
  | 0x063 => p.govf
  | 0x070 => BitVec.ofNat 64 (s.frontier s.pid)
  | _ => 0

/-- SYSR (R354). -/
def execSysr (d : BitVec 5) (r : BitVec 12) (s : State) : Result :=
  issueAs (.sysr d r) s fun s => s.ws d (s.readSys r.toNat)

/-! ### The checks of a write (R354, R356) -/

/-- Bits hi down to lo of a word are zero. -/
def zeros (v : Word) (lo n : Nat) : Bool := bitsOf v lo n == 0

/-- A ring word that R123 does not reserve. -/
def grbaseOk (v : Word) : Bool :=
  let n := bitsOf v 0 5
  zeros v 48 16 && zeros v 5 7 &&
  (n == 0 || (decide (8 ≤ n) && decide (n ≤ 20) && bitsOf v 12 36 * 4096 % (16 * 2 ^ n) == 0))

/-- Records in a ring (R124). -/
def ringSize (grbase : Word) : Nat := if bitsOf grbase 0 5 = 0 then 0 else 2 ^ bitsOf grbase 0 5

/-- A GRTAIL value that leaves no more than N records (R124). -/
def Partition.tailOk (p : Partition) (v : Word) : Bool := decide ((p.grhead - v.truncate 32).toNat ≤ ringSize p.grbase)

/-- Whether a writable register takes a value: no reserved bit or value (R3, R354). Read-only registers take none. -/
def sysValueOk (p : Partition) (n : Nat) (v : Word) : Bool :=
  match n with
  | 0x001 => zeros v 2 62
  | 0x010 => zeros v 5 59
  | 0x011 => decide (v.toNat < 0x13)
  | 0x012 | 0x013 => true
  | 0x014 | 0x015 => zeros v 16 48 && zeros v 0 2
  | 0x016 => zeros v 8 56 && decide (bitsOf v 0 7 ≤ 64)
  | 0x018 | 0x019 => zeros v 32 32 && zeros v 0 6
  | 0x020 => zeros v 8 56
  | 0x021 | 0x022 => true
  | 0x023 => zeros v 48 16 && zeros v 1 2
  | 0x024 => true
  | 0x030 => zeros v 8 56 && zeros v 5 1 && bitsOf v 0 5 % 2 == 0 && bitsOf v 0 5 != 0 && decide (bitsOf v 0 5 ≤ 16)
  | 0x033 => zeros v 16 48
  | 0x034 => zeros v 2 62
  | 0x041 => zeros v 32 32
  | 0x050 => zeros v 7 25
  | 0x051 => zeros v 4 60
  | 0x060 => grbaseOk v
  | 0x062 => zeros v 32 32 && p.tailOk v
  | 0x063 => zeros v 32 30
  | _ => false

/-- QUOTA for a LOFTWAYS value beyond the policy's loft quota (R83). -/
def quotaBad (p : Partition) (n : Nat) (v : Word) : Bool :=
  n == 0x030 && decide (p.pol.loftq < (16 - bitsOf v 0 5) * 0x20000)

/-- Registers of one thread, whose writes are in force at once (R355). -/
def sysOfThread (n : Nat) : Bool := decide (n < 0x030) && n != 0x023

/-- A thread register takes a value: TSTAT changes REISS alone (R362). -/
def Thread.setSys (th : Thread) (n : Nat) (v : Word) : Thread :=
  match n with
  | 0x001 => { th with vrmode := v.truncate 2 }
  | 0x010 => { th with mfmta := v.truncate 5 }
  | 0x011 => { th with mfmtb := v.truncate 5 }
  | 0x012 => { th with mscla := v }
  | 0x013 => { th with msclb := v }
  | 0x014 => { th with mstra := v.truncate 16 }
  | 0x015 => { th with mstrb := v.truncate 16 }
  | 0x016 => { th with mdone := v.truncate 7, mpend := v.getLsbD 7 }
  | 0x018 => { th with cstrs := v.truncate 32 }
  | 0x019 => { th with cstrd := v.truncate 32 }
  | 0x020 => { th with tcause := v.truncate 8 }
  | 0x021 => { th with taddr := v }
  | 0x022 => { th with tpc := v }
  | 0x024 => { th with tstat := (th.tstat &&& ~~~4#32) ||| (v.truncate 32 &&& 4#32) }
  | _ => th

/-- SYSW and SYSX after the decode checks: the value checks, then the write, in force at once for a thread register; a write
at a wider scope holds the thread until its step (R354, R355). -/
def State.writeSys (r : BitVec 12) (v : Word) (d : Option (BitVec 5)) (s : State) : State :=
  let n := r.toNat
  if !sysValueOk s.curPart n v then s.trap .illegalInstr
  else if quotaBad s.curPart n v then s.trap .quota
  else if sysOfThread n then
    let old := s.readSys n
    let s := s.upd fun th => th.setSys n v
    match d with | some d => s.ws d old | none => s
  else s.upd fun th => { th with run := .stalled, wait := .sysw r v d, since := s.now }

/-- SYSW (R354). -/
def execSysw (a : BitVec 5) (r : BitVec 12) (s : State) : Result :=
  issueAs (.sysw a r) s fun s => s.writeSys r (s.rs a) none

/-- SYSX (R354). -/
def execSysx (d : BitVec 5) (r : BitVec 12) (s : State) : Result :=
  issueAs (.sysx d r) s fun s => s.writeSys r (s.rs d) (some d)

/-! ### The steps by which a write takes force (R355) -/

/-- A thread that waits for a write of register n with value v. -/
def State.writing (s : State) (t : ThreadRef) (n : Nat) (v : Word) : Bool :=
  threadOk t && (s.thread t).run == .stalled &&
  match (s.thread t).wait with | .sysw r x _ => r.toNat == n && x == v | _ => false

/-- The write is in force: SYSX receives the old value and the thread goes on (R354), past a loop's end too (R226). -/
def State.written (s : State) (t : ThreadRef) (old : Word) : State :=
  s.updThread t fun th =>
    let th' := { th.passBarrier with run := .ready, wait := .none }
    match th.wait with | .sysw _ _ (some d) => th'.ws d old | _ => th'

/-- What register n reads as at thread t. -/
def State.oldSys (s : State) (t : ThreadRef) (n : Nat) : Word := ({ s with cur := t } : State).readSys n

/-- Registers whose writes have no step of their own. -/
def plainSys (n : Nat) : Bool := n == 0x023 || n == 0x033 || n == 0x041 || n == 0x050 || n == 0x051 || n == 0x063

/-- A column, drive or partition register takes a value (R348, R355, R363). -/
def State.putSys (s : State) (t : ThreadRef) (n : Nat) (v : Word) : State :=
  let p := (s.partOf t).getD 16
  match n with
  | 0x023 => s.updPart p fun x => { x with tvecEn := v.getLsbD 0, tvecAddr := v &&& ~~~7#64 }
  | 0x033 => s.updPart p fun x => { x with thdisp := v.truncate 16 }
  | 0x041 => s.updCol t.ca fun c => { c with domid := v.truncate 32 }
  | 0x050 => s.updCol t.ca fun c =>
      { c with late := v.getLsbD 0, missed := v.getLsbD 1, lateCnt := BitVec.ofNat 16 (bitsOf v 32 16),
               missCnt := BitVec.ofNat 16 (bitsOf v 48 16) }
  | 0x051 => s.updPart p fun x => { x with pdist := v.truncate 4 }
  | 0x063 => s.updPart p fun x => { x with govf := v }
  | _ => s

/-- SYSTEM_REGISTER_WRITE (R355). -/
def execSystemRegisterWrite (t : ThreadRef) (r : BitVec 12) (v : Word) (s : State) : Result :=
  .next (if s.writing t r.toNat v && plainSys r.toNat then
      (s.putSys t r.toNat v).written t (s.oldSys t r.toNat)
    else s)

/-- GRBASE_WRITE (R123): every column's filter is emptied, one put away by a swap too. -/
def execGrbaseWrite (t : ThreadRef) (v : Word) (s : State) : Result :=
  .next (if s.writing t 0x060 v then
      let p := (s.partOf t).getD 16
      let old := s.oldSys t 0x060
      let s := s.updPart p fun x => { x with grbase := v, grhead := 0, grtail := 0 }
      let s := { s with saved := s.saved.map fun (v : Saved) => if v.part = p then { v with col := { v.col with filter := [] } } else v }
      (s.updCols (s.heldBy p) fun c => { c with filter := [] }).written t old
    else s)

/-- GRTAIL_WRITE (R124): judged again as it takes force. -/
def execGrtailWrite (t : ThreadRef) (v : Word) (s : State) : Result :=
  .next (if s.writing t 0x062 v then
      let p := (s.partOf t).getD 16
      if (s.part p).tailOk v then
        (s.updPart p fun x => { x with grtail := v.truncate 32 }).written t (s.oldSys t 0x062)
      else s.takeTrap t .illegalInstr 0 (s.thread t).ipc TrapKind.sync
    else s)

/-- UPGATE_WRITE (R350). -/
def execUpgateWrite (t : ThreadRef) (v : Word) (s : State) : Result :=
  .next (if s.writing t 0x034 v then
      (s.updColOf ((s.partOf t).getD 16) t.ca fun c =>
        if v.getLsbD 0 then { c with upReq := true } else { c with upReq := false, upState := false }).written t (s.oldSys t 0x034)
    else s)

/-- DRIVE_GATE (R350). -/
def execDriveGate (ca : Nat) (s : State) : Result :=
  .next (match s.presHolder with
    | none => s
    | some p =>
      if (s.gate ca).upReq && !(s.gate ca).upState && (s.col ca).fifo.isEmpty then s.updColOf p ca fun c => { c with upState := true }
      else s)

/-! ### LOFTWAYS (R83 to R87) -/

/-- LOFTWAYS_WRITE: once no other change is in progress, and the engine commands that the thread issued before it have registered
their locks (R84 steps 1 and 2, R87, R373). -/
def execLoftwaysWrite (t : ThreadRef) (v : Word) (s : State) : Result :=
  .next (if s.writing t 0x030 v && (s.col t.ca).loftChange.isNone then
      let w := bitsOf v 0 5
      if w = (s.col t.ca).ways then
        (s.updCol t.ca fun c => { c with loftStatus := 0 }).written t (s.oldSys t 0x030)
      else if s.registeredBefore t s.nextId then s.updCol t.ca fun c => { c with loftChange := some ⟨t, w, s.now, false⟩ }
      else s
    else s)

/-- A range lock covers a loft scratch offset of a column at or beyond a size (R84 step 4). -/
def State.loftLocked (s : State) (ca size : Nat) : Bool :=
  s.locks.any fun k => match k.line with | .loft c l => c == ca && decide (size ≤ 64 * l) | _ => false

/-- The bytes of a loft scratch at or beyond a size. -/
def dropAbove (m : Mem) (size : Nat) : Mem := m.filter fun e => decide (e.1 < size)

/-- An engine command that uses loft scratch of a column at or beyond a size without a lock of its own: a transfer's source, which is
read-locked from its XSEND on (R149), an MROT that has sent its buffers, and a buffer on its way to the column (R86, R320). -/
def State.loftUsed (s : State) (ca size : Nat) : Bool :=
  let beyond (off n : Nat) : Bool := decide (0x100000 + size < off + n)
  (s.xfers.any fun x => x.t.ca == ca && !x.launched && beyond x.soff (64 * x.lines)) ||
  s.cmds.any fun c => (c.sends.any fun b => b.1 == ca && beyond b.2.1 b.2.2.length) ||
    (c.sentOn && c.t.ca == ca && match c.op with
      | .mrot _ _ _ _ _ aoff boff _ _ sa sb _ => beyond aoff (64 * sa) || beyond boff (64 * sb)
      | _ => false)

/-- A range lock holds up step 4 of a change: for one that takes scratch, on a loft offset in a changed way (R84, R86). -/
def State.loftHeld (s : State) (ca : Nat) (ch : LoftChange) : Bool :=
  let size := (16 - ch.ways) * 0x20000
  decide ((s.col ca).ways < ch.ways) && (s.loftLocked ca size || s.loftUsed ca size)

/-- A column's slice may cache a line of partition p: one homed there or fetched into it, by its class (R84, R88). -/
def State.sliceMayHold (s : State) (p ca line : Nat) : Bool :=
  match s.translate p (64 * line) with
  | .error _ => false
  | .ok x => match x.cls with
    | .shared | .lod => true
    | .priv | .sync => s.homeOf p x == ca
    | .replicated => (s.mask (s.part p).pol x.home).contains ca
    | .host => false

/-- Step 4 may wait: it is held up; or, for one that gives scratch, some lock of the partition lies on a line that the slice may
cache, and which lines it holds is not visible (R84, log 9). -/
def State.loftMayWait (s : State) (ca : Nat) (ch : LoftChange) : Bool :=
  s.loftHeld ca ch || (decide (ch.ways < (s.col ca).ways) && s.locks.any fun k => match s.lineNow k.line with
    | .mem p n => some p == s.partOf ch.t && s.sliceMayHold p ca n
    | _ => false)

/-- The last tick at which step 4 may finish (R85, log 60). -/
def State.loftLimit (s : State) (ch : LoftChange) : Nat := ch.start + (s.part ((s.partOf ch.t).getD 16)).pol.reconf

/-- The change's thread goes on, unless its task was aborted (R53, R87). -/
def State.changed (s : State) (ch : LoftChange) (old : Word) : State := if ch.gone then s else s.written ch.t old

/-- LOFTWAYS_SWITCH (R84 step 5): scratch gained reads as zero, scratch given up is gone. -/
def execLoftwaysSwitch (ca : Nat) (s : State) : Result :=
  .next (match (s.col ca).loftChange with
    | none => s
    | some ch =>
      if s.loftHeld ca ch || decide (s.loftLimit ch < s.now) then s
      else
        let size := (16 - max (s.col ca).ways ch.ways) * 0x20000
        let old := s.oldSys ch.t 0x030
        let s := { s with poison := s.poison.filter fun e => match e.at_ with | .loft c l => !(c == ca && decide (size ≤ 64 * l)) | _ => true }
        (s.updCol ca fun c => { c with ways := ch.ways, loftStatus := 0, loftChange := none, loft := dropAbove c.loft size }).changed
          ch old)

/-- LOFTWAYS_TIMEOUT (R85), counted from the write of LOFTWAYS (log 60: DESIGN CHOICE). -/
def execLoftwaysTimeout (ca : Nat) (s : State) : Result :=
  .next (match (s.col ca).loftChange with
    | none => s
    | some ch =>
      if s.loftLimit ch < s.now then
        let old := s.oldSys ch.t 0x030
        (s.updCol ca fun c => { c with loftStatus := 1, loftChange := none }).changed ch old
      else s)

/-! ### SCALL, BKPT, PPOINT, HALT (R357 to R359) -/

/-- The instruction completes and then raises a cause with its code; a paired partner executes (R357). -/
def State.trapByDesign (c : Cause) (n : Nat) (s : State) : State :=
  (s.takeTrap s.cur c n s.th.pc TrapKind.sync).upd fun th => if th.run = .parked then { th with held := false } else th

/-- SCALL (R357). -/
def execScall (n : BitVec 12) (s : State) : Result := issueAs (.scall n) s (State.trapByDesign .syscall n.toNat)

/-- BKPT (R357). -/
def execBkpt (n : BitVec 12) (s : State) : Result := issueAs (.bkpt n) s (State.trapByDesign .breakpoint n.toNat)

/-- PPOINT (R358, R66, R72). -/
def execPpoint (s : State) : Result :=
  issueAs .ppoint s fun s =>
    if s.mustPark s.cur then s.waitingAll fun s => s.upd fun th => th.parkFor .ready
    else if isDrive s.cur then s else s.renegotiate s.cur

/-- HALT (R359). -/
def execHalt (n : BitVec 12) (s : State) : Result :=
  issueAs (.halt n) s fun s => (s.haltPart s.pid 1 n.toNat).upd fun th => { th with held := true }

/-! ### ERET (R365) -/

/-- The thread that a service thread's TSTAT names (R362, R365). -/
def State.trapped (s : State) : ThreadRef :=
  ⟨s.cur.ca, if s.th.tstat.getLsbD 11 then 32 else bitsOf (s.th.tstat.zeroExtend 64) 6 5⟩

/-- A faulted access as the handler left it: reissued, or dropped with its counter lowered (R92, R365). -/
def State.resumeAccess (s : State) (t : ThreadRef) (reiss : Bool) : State :=
  match (s.thread t).reissue with
  | none => s
  | some id =>
    let s := s.updThread t fun th => { th with reissue := none }
    match (s.thread t).out.find? fun a => a.id == id with
    | none => s
    | some a => if reiss then s.setStatus t id .pending else s.finish t a

/-- The trapped thread resumes at the service thread's TPC. A task whose STAMP_TIE was handled is aborted (R55). -/
def State.resumeTrapped (s : State) : State :=
  let t := s.trapped
  if (s.thread t).park = .handled then
    let tpc := s.th.tpc
    let s := s.resumeAccess t (s.th.tstat.getLsbD 2)
    let tied := (s.thread t).tied
    let s := s.updThread t fun th => { th with run := .ready, park := .no, wait := .none, pc := tpc, tied := false }
    let p := (s.partOf t).getD 16
    match tied, (s.part p).otaskOf (s.thread t).ownTag with
    | true, some o => s.abortTask p o
    | _, _ => s
  else s

/-- The service thread goes dormant with its trap registers at 0 (R365). -/
def Thread.toDormant (th : Thread) : Thread :=
  { th with run := .dormant, wait := .none, tcause := 0, taddr := 0, tpc := 0, tstat := 0, ibuf := [] }

/-- ERET (R365): the service thread's own accesses perform first; it waits for firmware where one met an absent page. -/
def execEret (s : State) : Result :=
  issueAs .eret s fun s =>
    match s.th.out.find? fun a => match a.status with | .firmware _ => true | _ => false with
    | some a => s.deliver a
    | none =>
    if !s.onlyStuck s.cur Access.faulted then s.stall .again
    else
      let s := if bitsOf (s.th.tstat.zeroExtend 64) 30 2 = 0 then s.resumeTrapped else s
      s.upd Thread.toDormant

end Sys2Proof.Machine
end

