-- ==== Sys2Proof/Machine/Texture.lean ====
section
/-! DEFINITION. Level-of-detail resources: descriptors, lookups, the residency map and the gleaning ring (04_contexts_lod R114
to R131), and TLOD, TSMP, RESQ, RESW and RMFENCE (09_isa_memory R250 to R254). A lookup
performs by LOAD_RETURN taken twice: its descriptor and map bits are read first, its taps after them (95_what_each_step_holds). -/

namespace Sys2Proof.Machine

/-! ### Descriptors (R114, R115) -/

/-- Reads a descriptor's 64 bytes, given as a number; none where R115 calls it invalid under GRBASE. -/
def lodDesc (grbase : Word) (x : Nat) : Option LodDesc :=
  let f (lo n : Nat) : Nat := x / 2 ^ (8 * lo) % 2 ^ (8 * n)
  let d : LodDesc := ⟨f 0 8, f 8 8, f 16 8, f 24 2, f 26 2, f 28 1, f 29 1, f 30 1, f 32 2⟩
  let ok := d.base % 0x10000 == 0 && decide (d.base < 2 ^ 48) && d.map % 8 == 0 && decide (d.map < 2 ^ 48) &&
    decide (1 ≤ d.w0) && decide (d.w0 ≤ 16384) && decide (1 ≤ d.h0) && decide (d.h0 ≤ 16384) &&
    decide (1 ≤ d.levels) && decide (d.levels ≤ 16) && decide (d.tail < d.levels) && decide (d.fmt ≤ 4) &&
    f 31 1 == 0 && f 34 30 == 0 && (d.ring == 0 || d.ring == bitsOf grbase 12 36 * 4096)
  if ok then some d else none

/-! ### Levels, pages and texels (R116, R117) -/

def LodDesc.w (d : LodDesc) (l : Nat) : Nat := max 1 (d.w0 / 2 ^ l)
def LodDesc.h (d : LodDesc) (l : Nat) : Nat := max 1 (d.h0 / 2 ^ l)

/-- Bytes of a texel. -/
def LodDesc.b (d : LodDesc) : Nat := if d.fmt = 1 then 8 else if d.fmt = 3 then 2 else 4
def LodDesc.pw (d : LodDesc) : Nat := if d.b = 2 then 256 else 128
def LodDesc.ph (d : LodDesc) : Nat := if d.b = 8 then 64 else 128
def LodDesc.px (d : LodDesc) (l : Nat) : Nat := (d.w l + d.pw - 1) / d.pw
def LodDesc.py (d : LodDesc) (l : Nat) : Nat := (d.h l + d.ph - 1) / d.ph

/-- LOFF of a level: the pages of the levels below it. -/
def LodDesc.loff (d : LodDesc) (l : Nat) : Nat := (upto l).foldl (fun n k => n + d.px k * d.py k) 0

/-- The page index of a texel in its level. -/
def LodDesc.page (d : LodDesc) (l x y : Nat) : Nat := x / d.pw + y / d.ph * d.px l

/-- The micro-tile number: n low bits of tx and ty interleaved, higher bits of tx above. -/
def interleave (tx ty n : Nat) : Nat :=
  (upto n).foldl (fun m i => m + tx / 2 ^ i % 2 * 2 ^ (2 * i) + ty / 2 ^ i % 2 * 2 ^ (2 * i + 1)) (tx / 2 ^ n * 2 ^ (2 * n))

/-- A texel's address. -/
def LodDesc.texel (d : LodDesc) (l x y : Nat) : Nat :=
  let lx := x % d.pw
  let ly := y % d.ph
  let m := interleave (lx / 8) (ly / 8) (if d.ph = 64 then 3 else 4)
  d.base + (d.loff l + d.page l x y) * 0x10000 + m * 64 * d.b + (ly % 8 * 8 + lx % 8) * d.b

/-- The bit index of a page in the map (R118). -/
def LodDesc.bit (d : LodDesc) (l n : Nat) : Nat := d.loff l + n

/-! ### Taps (R119) -/

/-- A tap's weight in units of 1/65536 and its texel. -/
structure Tap where
  wt : Nat
  x : Nat
  y : Nat
  deriving DecidableEq, Repr

def clampTo (x : Int) (n : Nat) : Nat := min x.toNat (n - 1)

/-- One coordinate of TSMP at level l: x0 and fx. -/
def tapCoord (u l : Nat) : Int × Nat :=
  let dd : Int := (2 ^ (17 + l) : Nat)
  let n : Int := 2 * (u : Int) - (2 ^ (16 + l) : Nat)
  (n / dd, (n % dd * 256 / dd).toNat)

/-- The taps that take part: those of nonzero weight. -/
def LodDesc.taps (d : LodDesc) (bilinear : Bool) (l u v : Nat) : List Tap :=
  if bilinear then
    let (x0, fx) := tapCoord u l
    let (y0, fy) := tapCoord v l
    let at_ (wt : Nat) (x y : Int) : Tap := ⟨wt, clampTo x (d.w l), clampTo y (d.h l)⟩
    [at_ ((256 - fx) * (256 - fy)) x0 y0, at_ (fx * (256 - fy)) (x0 + 1) y0,
     at_ ((256 - fx) * fy) x0 (y0 + 1), at_ (fx * fy) (x0 + 1) (y0 + 1)].filter fun t => t.wt != 0
  else [⟨65536, clampTo (u / 2 ^ (16 + l) : Nat) (d.w l), clampTo (v / 2 ^ (16 + l) : Nat) (d.h l)⟩]

/-! ### Texel values (R121) -/

/-- One channel's value of a texel's bytes, in RGBA8 as n over 255. -/
def channel (fmt : Nat) (bs : List Byte) (c : Nat) : FV :=
  let n := if fmt = 1 then 4 else if fmt = 2 then 2 else 1
  if fmt = 4 then (if c = 0 then f32.decode (leNat (bs.take 4)) else if c = 3 then .num false 1 0 else .num false 0 0)
  else if c < n then f16.decode (leNat ((bs.drop (2 * c)).take 2))
  else if c = 3 then .num false 1 0 else .num false 0 0

/-- A value times a weight of 1/65536 units. -/
def FV.weigh (x : FV) (wt : Nat) : FV := match x with | .num n m e => .num n (m * wt) (e - 16) | y => y

/-- Channel c of the weighted taps, rounded once to FP32. -/
def mixTaps (fmt : Nat) (taps : List (Nat × List Byte)) (c : Nat) : Nat :=
  if fmt = 0 then
    let sum := taps.foldl (fun n t => n + t.1 * (t.2.getD c 0).toNat) 0
    f32.round .rne false (quotient false sum (255 * 65536) 64)
  else f32.round .rne false (sumExact .rne (taps.map fun t => (channel fmt t.2 c).weigh t.1))

/-! ### Reading maps and taps -/

/-- Why a lookup does not finish now: it waits at a write-locked line (R145), or it stops with an address (R92). -/
inductive LookStop where
  | wait
  | stop (e : Stop) (addr : Nat)
  deriving DecidableEq, Repr

/-- A plain load in base of thread t (R114). -/
def State.loadBase (s : State) (t : ThreadRef) (addr w : Nat) : Except Stop (State × Nat) :=
  s.performPiece t ⟨0, .ld 0 false, [], 0, [], .pending, false⟩ ⟨0, addr, w, 0⟩

/-- A byte of a map, which lies in a SHARED page (R118); in another page it traps with PROTECTION, and in a scratch window the
scratch bytes are read (log 73: DESIGN CHOICE). At a write-locked line it waits, for a RESQ as for a lookup (log 83: DESIGN
CHOICE). -/
def State.mapByte (s : State) (t : ThreadRef) (addr : Nat) : Except LookStop (State × Nat) :=
  if s.classAt t addr != some .shared && s.translate ((s.partOf t).getD 16) addr matches .ok _ then
    .error (.stop (.fault .protection) addr)
  else match s.loadBase t addr 1 with
    | .ok r => .ok r
    | .error (.fault .rangeLock) => .error .wait
    | .error e => .error (.stop e addr)

/-- The bit a lookup uses for page n of level l: 1 at or above TAIL, unread (R118). -/
def State.mapBit (s : State) (t : ThreadRef) (d : LodDesc) (l n : Nat) : Except LookStop (State × Bool) :=
  if d.tail ≤ l then .ok (s, true)
  else
    let j := d.bit l n
    match s.mapByte t (d.map + j / 8) with
    | .ok (s, b) => .ok (s, b / 2 ^ (j % 8) % 2 == 1)
    | .error e => .error e

/-- The pages of level l that a list of pages names and the map does not have (R119). -/
def State.missing (s : State) (t : ThreadRef) (d : LodDesc) (l : Nat) : List Nat → Except LookStop (State × List Nat)
  | [] => .ok (s, [])
  | n :: rest =>
    match s.mapBit t d l n with
    | .error e => .error e
    | .ok (s, r) =>
      match State.missing s t d l rest with
      | .error e => .error e
      | .ok (s, m) => .ok (s, if r then m else n :: m)

/-- The pages of an element's taps at a level. -/
def LodDesc.pages (d : LodDesc) (bilinear : Bool) (l u v : Nat) : List Nat :=
  ((d.taps bilinear l u v).map fun t => d.page l t.x t.y).eraseDups

/-- The fallback walk from level l, over at most n levels (R120). -/
def State.walkLevel (s : State) (t : ThreadRef) (d : LodDesc) (bilinear : Bool) (u v : Nat) :
    Nat → Nat → Except LookStop (State × Nat)
  | 0, l => .ok (s, l)
  | n + 1, l =>
    if d.tail ≤ l then .ok (s, l)
    else match s.missing t d l (d.pages bilinear l u v) with
      | .error e => .error e
      | .ok (s, []) => .ok (s, l)
      | .ok (s, _) => State.walkLevel s t d bilinear u v n (l + 1)

/-- A texel's bytes: its page has class LOD (R120), its address a place below 2^48 (R75). In a scratch window no page translates it: it
meets PAGE_ABSENT (log 73: DESIGN CHOICE). -/
def State.tapBytes (s : State) (t : ThreadRef) (b addr : Nat) : Except LookStop (State × List Byte) :=
  let p := (s.partOf t).getD 16
  if addrBad addr b then .error (.stop (.fault .addrRange) addr)
  else match s.translate p addr with
  | .error e => .error (.stop e addr)
  | .ok x =>
    if x.cls != .lod then .error (.stop (.fault .protection) addr)
    else if s.writeLocked (.mem p x.line) then .error .wait
    else match s.taint p x 0 with
    | some y => .error (.stop (.poison y) addr)
    | none => .ok (s.noteRead t x.line, s.readBase p x.back b)

def State.readTaps (s : State) (t : ThreadRef) (d : LodDesc) (l : Nat) :
    List Tap → Except LookStop (State × List (Nat × List Byte))
  | [] => .ok (s, [])
  | tap :: rest =>
    match s.tapBytes t d.b (d.texel l tap.x tap.y) with
    | .error e => .error e
    | .ok (s, bs) =>
      match State.readTaps s t d l rest with
      | .error e => .error e
      | .ok (s, r) => .ok (s, (tap.wt, bs) :: r)

/-! ### The gleaning ring (R123 to R128) -/

/-- N, the ring's records; 0 for no ring. -/
def Partition.ringSize (p : Partition) : Nat := if bitsOf p.grbase 0 5 = 0 then 0 else 2 ^ bitsOf p.grbase 0 5

/-- A dropped record (R125). -/
def dropGovf (g : Word) (bad : Bool) : Word :=
  let n := bitsOf g 0 32
  BitVec.ofNat 64 ((if n = 0xFFFFFFFF then n else n + 1) + 2 ^ 63 + (if bad || bitsOf g 62 1 == 1 then 2 ^ 62 else 0))

/-- A record's bytes (R126). -/
def ringRecord (d : LodDesc) (l lp n ca : Nat) (now : Word) : List Byte :=
  leBytes 16 (now.toNat % 2 ^ 40 + ca * 2 ^ 52 + n * 2 ^ 64 + lp * 2 ^ 104 + l * 2 ^ 108 + d.rid * 2 ^ 112)

/-- A filter's keys that have not expired (R127). -/
def liveKeys (now : Nat) (f : List FilterKey) : List FilterKey := f.filter fun k => decide (now < k.born + 2 ^ 20)

/-- Offers one record for page n of level l, found at lp (R127). A ring page that is SYNC and not writable drops it as a page that
is not SYNC does (log 74: DESIGN CHOICE). A walk that meets poison answers its place (R450). -/
def State.offer (s : State) (t : ThreadRef) (d : LodDesc) (l lp n : Nat) : Except Place State :=
  let p := (s.partOf t).getD 16
  let part := s.part p
  let keys := liveKeys s.now (s.col t.ca).filter
  let mine (k : FilterKey) : Bool := k.rid == d.rid && k.level == l && k.page == n
  match keys.find? mine with
  | some k => .ok (s.updCol t.ca fun c => { c with filter := keys.filter (fun y => !mine y) ++ [k] })
  | none =>
    if (part.grhead - part.grtail).toNat < part.ringSize then
      let addr := bitsOf part.grbase 12 36 * 4096 + 16 * (part.grhead.toNat % part.ringSize)
      let s := s.updPart p fun q => { q with grhead := q.grhead + 1 }
      match s.translate p addr with
      | .ok x =>
        if x.cls == .sync && x.w then
          let s := s.writeBase p x.back (ringRecord d l lp n t.ca s.almanac)
          .ok (s.updCol t.ca fun c => { c with filter := (if keys.length ≥ 64 then keys.drop 1 else keys) ++ [⟨d.rid, l, n, s.now⟩] })
        else .ok (s.updPart p fun q => { q with govf := dropGovf q.govf true })
      | .error (.poison x) => .error x
      | .error _ => .ok (s.updPart p fun q => { q with govf := dropGovf q.govf true })
    else .ok (s.updPart p fun q => { q with govf := dropGovf q.govf false })

/-! ### Performing a lookup (R251) -/

/-- Ascending order of a short list. -/
def insertAsc (n : Nat) : List Nat → List Nat
  | [] => [n]
  | m :: r => if n ≤ m then n :: m :: r else m :: insertAsc n r

def sortAsc (l : List Nat) : List Nat := l.foldr insertAsc []

/-- What the map tells of one element: the level of its taps, and the pages it offers (R119, R120). -/
def State.findLevel (s : State) (t : ThreadRef) (d : LodDesc) (bilinear : Bool) (e : Lookup) : Except LookStop (State × LevelFound) :=
  let u := e.u.toNat
  let v := e.v.toNat
  let l := min e.lreq (d.levels - 1)
  match s.walkLevel t d bilinear u v 16 l with
  | .error x => .error x
  | .ok (s, lp) =>
    if lp = l then .ok (s, ⟨lp, []⟩)
    else match s.missing t d l (sortAsc (d.pages bilinear l u v)) with
      | .error x => .error x
      | .ok (s, miss) => .ok (s, ⟨lp, miss⟩)

def State.findAll (s : State) (t : ThreadRef) (d : LodDesc) (bilinear : Bool) : List Lookup → Except LookStop (State × List LevelFound)
  | [] => .ok (s, [])
  | e :: rest =>
    match s.findLevel t d bilinear e with
    | .error x => .error x
    | .ok (s, f) =>
      match State.findAll s t d bilinear rest with
      | .error x => .error x
      | .ok (s, fs) => .ok (s, f :: fs)

/-- One element's results: channels and status, and the pages it offers. -/
structure Looked where
  idx : Nat
  vals : List Nat
  status : Nat
  level : Nat
  found : Nat
  pages : List Nat
  deriving DecidableEq, Repr

/-- Looks up one element at the level found (R119 to R121). -/
def State.lookElem (s : State) (t : ThreadRef) (d : LodDesc) (bilinear : Bool) (nch : Nat) (e : Lookup) (f : LevelFound) :
    Except LookStop (State × Looked) :=
  let l := min e.lreq (d.levels - 1)
  match s.readTaps t d f.level (d.taps bilinear f.level e.u.toNat e.v.toNat) with
  | .error x => .error x
  | .ok (s, taps) =>
    .ok (s, ⟨e.idx, (upto nch).map (mixTaps d.fmt taps), (f.level - l) + (if f.level ≠ l ∧ f.level = d.tail then 0x10 else 0), l, f.level,
             f.pages⟩)

def State.lookAll (s : State) (t : ThreadRef) (d : LodDesc) (bilinear : Bool) (nch : Nat) :
    List (Lookup × LevelFound) → Except LookStop (State × List Looked)
  | [] => .ok (s, [])
  | (e, f) :: rest =>
    match s.lookElem t d bilinear nch e f with
    | .error x => .error x
    | .ok (s, r) =>
      match State.lookAll s t d bilinear nch rest with
      | .error x => .error x
      | .ok (s, rs) => .ok (s, r :: rs)

/-- Writes an element's channels and status into vd … vd + nch (R251). -/
def State.returnLook (s : State) (t : ThreadRef) (a : Access) (d : BitVec 4) (nch : Nat) (r : Looked) : State :=
  let s := s.each ((upto nch).zip r.vals) fun s cv => s.returnV t a (d + BitVec.ofNat 4 cv.1) r.idx (bits32 cv.2)
  s.returnV t a (d + BitVec.ofNat 4 nch) r.idx (bits32 r.status)

/-- The offers of a lookup's elements, each a level, the level found and a page. -/
def State.offers (s : State) (t : ThreadRef) (d : LodDesc) : List (Nat × Nat × Nat) → Except Place State
  | [] => .ok s
  | (l, lp, n) :: rest =>
    match s.offer t d l lp n with
    | .error x => .error x
    | .ok s => State.offers s t d rest

/-- What a lookup has read, kept with it. -/
def AccOp.withSeen (op : AccOp) (x : Option Seen) : AccOp :=
  match op with | .tex bl d n desc els _ => .tex bl d n desc els x | o => o

def State.setSeen (s : State) (t : ThreadRef) (id : Nat) (x : Option Seen) : State :=
  s.updThread t fun th => { th with out := th.out.map fun a => if a.id = id then { a with op := a.op.withSeen x } else a }

/-- A lookup reads its descriptor and its map bits, or waits, or leaves its fault. A write-locked line of the descriptor raises
RANGE_LOCK, as at a load (log 83: DESIGN CHOICE). -/
def State.seeTex (s : State) (t : ThreadRef) (a : Access) (bilinear : Bool) (d : BitVec 4) (nch desc : Nat) (els : List Lookup) : State :=
  match s.loadBase t desc 64 with
  | .error e => s.stopAccess t a e desc
  | .ok (s1, x) =>
    match lodDesc (s.part ((s.partOf t).getD 16)).grbase x with
    | none => (s1.each els fun s e => s.returnLook t a d nch ⟨e.idx, (upto nch).map fun _ => 0, 0x20, 0, 0, []⟩).finish t a
    | some ld =>
      match s1.findAll t ld bilinear els with
      | .error .wait => s
      | .error (.stop e addr) => s.stopAccess t a e addr
      | .ok (s2, fs) => s2.setSeen t a.id (some ⟨ld, fs⟩)

/-- It reads its taps, offers its records and completes, or waits; a fault leaves it to begin anew (R92). -/
def State.tapTex (s : State) (t : ThreadRef) (a : Access) (bilinear : Bool) (d : BitVec 4) (nch : Nat) (els : List Lookup) (k : Seen) :
    State :=
  match s.lookAll t k.desc bilinear nch (els.zip k.found) with
  | .error .wait => s
  | .error (.stop e addr) => (s.setSeen t a.id none).stopAccess t a e addr
  | .ok (s2, rs) =>
    let s2 := s2.each rs fun s r => s.returnLook t a d nch r
    let ringed := k.desc.ring ≠ 0 ∧ (s.part ((s.partOf t).getD 16)).ringSize ≠ 0
    match s2.offers t k.desc (if ringed then rs.flatMap fun r => r.pages.map fun n => (r.level, r.found, n) else []) with
    | .error x => s.consume t x
    | .ok s3 => s3.finish t a

/-- A lookup goes on: to its map bits, then to its taps (R251). -/
def State.performTex (s : State) (t : ThreadRef) (a : Access) (bilinear : Bool) (d : BitVec 4) (nch desc : Nat)
    (els : List Lookup) (seen : Option Seen) : State :=
  match seen with
  | none => s.seeTex t a bilinear d nch desc els
  | some k => s.tapTex t a bilinear d nch els k

/-! ### Residency accesses (R129, R252, R253) -/

/-- One element of RESQ: none lies at or above TAIL and reads 1. -/
def State.resqOne (s : State) (t : ThreadRef) (map : Nat) : Option Nat → Except LookStop (State × Nat)
  | none => .ok (s, 1)
  | some j =>
    match s.mapByte t (map + j / 8) with
    | .error e => .error e
    | .ok (s, b) => .ok (s, b / 2 ^ (j % 8) % 2)

/-- RESQ's elements: the bit a lookup would use. -/
def State.resqAll (s : State) (t : ThreadRef) (map : Nat) :
    List (Nat × Option Nat) → Except LookStop (State × List (Nat × Nat))
  | [] => .ok (s, [])
  | (i, j) :: rest =>
    match s.resqOne t map j with
    | .error e => .error e
    | .ok (s, v) =>
      match State.resqAll s t map rest with
      | .error e => .error e
      | .ok (s, r) => .ok (s, (i, v) :: r)

/-- One bit of a map written at its line's home; answers the previous bit. A map in a scratch window has no page, and its write meets
PAGE_ABSENT (log 73: DESIGN CHOICE). -/
def State.writeBit (s : State) (t : ThreadRef) (addr k : Nat) (new : Bool) : Except Stop (State × Nat) :=
  let p := (s.partOf t).getD 16
  if addrBad addr 1 then .error (.fault .addrRange)
  else match s.translate p addr with
  | .error e => .error e
  | .ok x =>
    if x.cls != .shared || !x.w then .error (.fault .protection)
    else if s.writeLocked (.mem p x.line) || s.readLocked (.mem p x.line) then .error (.fault .rangeLock)
    else match s.taint p x 0 with
    | some y => .error (.poison y)
    | none =>
      let b := leNat (s.readBase p x.back 1)
      let old := b / 2 ^ k % 2
      let b' := if new then b + (1 - old) * 2 ^ k else b - old * 2 ^ k
      .ok (s.writeBase p x.back [BitVec.ofNat 8 b'], old)

/-- One element of RESW; none is a refused one (R129). -/
def State.reswOne (s : State) (t : ThreadRef) (map : Nat) (new : Bool) : Option Nat → Except (Stop × Nat) (State × Nat)
  | none => .ok (s, 2)
  | some j =>
    match s.writeBit t (map + j / 8) (j % 8) new with
    | .error e => .error (e, map + j / 8)
    | .ok r => .ok r

/-- RESW's elements in ascending order. -/
def State.reswAll (s : State) (t : ThreadRef) (map : Nat) (new : Bool) :
    List (Nat × Option Nat) → Except (Stop × Nat) (State × List (Nat × Nat))
  | [] => .ok (s, [])
  | (i, j) :: rest =>
    match s.reswOne t map new j with
    | .error e => .error e
    | .ok (s, v) =>
      match State.reswAll s t map new rest with
      | .error e => .error e
      | .ok (s, r) => .ok (s, (i, v) :: r)

/-- PERFORMING ANY ACCESS: lookups and residency accesses here, the others as `State.perform`. -/
def State.performAny (s : State) (t : ThreadRef) (a : Access) : State :=
  match a.op with
  | .tex bl d n desc els seen => s.performTex t a bl d n desc els seen
  | .resq d map els =>
    match s.resqAll t map els with
    | .error .wait => s
    | .error (.stop e addr) => s.stopAccess t a e addr
    | .ok (s, vs) => (s.each vs fun s iv => s.returnV t a d iv.1 (bits32 iv.2)).finish t a
  | .resw d map new els =>
    match s.reswAll t map new els with
    | .error (e, addr) => s.stopAccess t a e addr
    | .ok (s, vs) => (s.each vs fun s iv => s.returnV t a d iv.1 (bits32 iv.2)).finish t a
  | _ => s.perform t a

/-! ### The instructions -/

/-- TLOD and TSMP: one load of the descriptor, then the lookup (R251). -/
def State.lookup (bilinear : Bool) (d a b : BitVec 4) (k : BitVec 2) (r : BitVec 5) (c : BitVec 2) (s : State) : State :=
  let desc := (s.rs r).toNat
  let n := c.toNat + 1
  let els := (s.actives k).map fun i => (⟨i, s.rv a i, s.rv b i, (s.rv d i).toNat % 16⟩ : Lookup)
  s.memOp 1 (.tex bilinear d n desc els none) [⟨0, desc, 64, 0⟩]
    (els.flatMap fun e => (upto (n + 1)).map fun m => .v (d + BitVec.ofNat 4 m) e.idx)

/-- TLOD (R251). -/
def execTlod (d a b : BitVec 4) (k : BitVec 2) (r : BitVec 5) (c : BitVec 2) (s : State) : Result :=
  issueAs (.tlod d a b k r c) s (State.vector (State.lookup false d a b k r c))

/-- TSMP (R251). -/
def execTsmp (d a b : BitVec 4) (k : BitVec 2) (r : BitVec 5) (c : BitVec 2) (s : State) : Result :=
  issueAs (.tsmp d a b k r c) s (State.vector (State.lookup true d a b k r c))

/-- Runs f on the descriptor at addr, for an instruction that waits for its descriptor read (R252 to R254): a fault on that
read is delivered at the instruction, an invalid descriptor traps with PROTECTION, its TADDR 0 (log 31: DEDUCED). One that does not lie in one line traps with
MISALIGNED, as a 64-byte access does (log 72: DESIGN CHOICE). -/
def State.withDesc (addr : Nat) (f : LodDesc → State → State) (s : State) : State :=
  match s.accessCheck s.cur addr 64 1 with
  | some c => s.trapAt c addr
  | none =>
    s.afterOwn addr 64 fun s =>
      match s.loadBase s.cur addr 64 with
      | .error e => s.stopAs true e addr false
      | .ok (s, x) =>
        match lodDesc s.curPart.grbase x with
        | none => s.trap .protection
        | some d => f d s

/-- The elements of RESQ and RESW: level and page (R252). -/
def State.resElems (s : State) (a : BitVec 4) (k : BitVec 2) : List (Nat × Nat × Nat) :=
  (s.actives k).map fun i => (i, (s.rv a i).toNat / 2 ^ 28, (s.rv a i).toNat % 2 ^ 28)

/-- A level or a page out of range (R129). -/
def LodDesc.outside (d : LodDesc) (e : Nat × Nat × Nat) : Bool :=
  decide (d.levels ≤ e.2.1) || decide (d.px e.2.1 * d.py e.2.1 ≤ e.2.2)

/-- Whether the residency role grants the descriptor's map to the partition (R253). -/
def Policy.grants (p : Policy) (d : LodDesc) : Bool :=
  p.resid && decide (p.reslo ≤ d.map) && decide (d.map + (d.loff d.levels + 7) / 8 ≤ p.reshi)

/-- RESQ (R252). -/
def execResq (d a : BitVec 4) (k : BitVec 2) (r : BitVec 5) (s : State) : Result :=
  issueAs (.resq d a k r) s (State.vector (State.raising .ld (State.withDesc (s.rs r).toNat fun ld s =>
    let els := s.resElems a k
    if els.any ld.outside then s.trap .addrRange
    else
      let bits := els.map fun e => (e.1, if ld.tail ≤ e.2.1 then none else some (ld.bit e.2.1 e.2.2))
      s.issue (.resq d ld.map bits) (bits.filterMap fun b => b.2.map fun j => ⟨b.1, ld.map + j / 8, 1, 0⟩)
        (els.map fun e => .v d e.1))))

/-- RESW (R253). -/
def execResw (d a : BitVec 4) (k : BitVec 2) (r : BitVec 5) (new : Bool) (s : State) : Result :=
  issueAs (.resw d a k r new) s (State.vector (State.raising .st (State.withDesc (s.rs r).toNat fun ld s =>
    let els := s.resElems a k
    if !s.curPart.pol.grants ld || s.th.ordered then s.trap .protection
    else if els.any ld.outside then s.trap .addrRange
    else
      let bits := els.map fun e => (e.1, if ld.tail ≤ e.2.1 ∧ new = false then none else some (ld.bit e.2.1 e.2.2))
      s.issue (.resw d ld.map new bits) (bits.filterMap fun b => b.2.map fun j => ⟨b.1, ld.map + j / 8, 1, 0⟩)
        (els.map fun e => .v d e.1))))

/-- Whether an access is a RESW to a map. -/
def Access.reswOf (a : Access) (map : Nat) : Bool := match a.op with | .resw _ m _ _ => m == map | _ => false

/-- A lookup has read bits of a map, through whatever descriptor, and not its taps (R131). -/
def Access.readsMap (a : Access) (map : Nat) : Bool := match a.op with | .tex _ _ _ _ _ (some k) => k.desc.map == map | _ => false

/-- The lookups of partition p in flight that have read bits of a map; a RESQ reads its bits and completes in one move. -/
def State.mapReaders (s : State) (p map : Nat) : List Nat :=
  (s.heldThreads p).flatMap fun th => (th.out.filter fun a => a.readsMap map).map (·.id)

/-- One of these lookups has not read its taps. -/
def State.looksStill (s : State) (p : Nat) (ids : List Nat) : Bool :=
  (s.heldThreads p).any fun th => th.out.any fun a =>
    ids.contains a.id && match a.op with | .tex _ _ _ _ _ (some _) => true | _ => false

/-- RMFENCE's second wait: for the lookups in flight as it first comes to it (R131). -/
def State.lookupWait (map : Nat) (s : State) : State :=
  let ids := match s.th.wait, s.th.waited with | .lookups l, true => l | _, _ => s.mapReaders s.pid map
  if s.looksStill s.pid ids then s.stall (.lookups ids) else s

/-- RMFENCE (R254): waits for the thread's own RESW writes to the map, then for the lookups that have read bits of it (R131). -/
def execRmfence (r : BitVec 5) (s : State) : Result :=
  issueAs (.rmfence r) s (State.withDesc (s.rs r).toNat fun ld s =>
    if !s.curPart.pol.grants ld then s.trap .protection
    else s.afterDone (fun a => a.reswOf ld.map) (.resw ld.map) (State.lookupWait ld.map))

end Sys2Proof.Machine
end

