-- ==== Sys2Proof/Machine/Progress.lean ====
section
/-! DEFINITION. The steps in which threads, accesses, engines and messages make progress between instructions: stalls that end,
loads and stores that perform, tasks popped and committed, barriers released, messages, transfers and FIFO entries that
arrive, engine commands that register and complete, and traps handed to service threads. A step that is not enabled changes
nothing. -/

namespace Sys2Proof.Machine

/-! ### Stalls (R37) -/

def Reg.hits : Reg → Dest → Bool
  | .s a, .s b => a == b
  | .v a, .v b _ => a == b
  | _, _ => false

/-- An access is still to write one of these registers. -/
def Access.writesAny (a : Access) (rs : List Reg) : Bool := a.dests.any fun d => rs.any fun r => r.hits d

/-- An MRDV of thread t in flight names one of these registers. -/
def State.readsOut (s : State) (t : ThreadRef) (rs : List Reg) : Bool :=
  s.cmds.any fun c => c.t == t && match c.op with | .mrdv d .. => rs.contains (.v d) | _ => false

/-- No outstanding access of `want` is left, or a fault holds one back (State.afterDone). -/
def State.doneOr (s : State) (t : ThreadRef) (want : Access → Bool) : Bool :=
  !(s.thread t).out.any want || (s.blocker t want).isSome

/-- Whether a wait of thread t for w is over, so that its instruction may go on (R37). -/
def State.waitOver (s : State) (t : ThreadRef) (w : Wait) : Bool :=
  let th := s.thread t
  let p := (s.partOf t).getD 16
  let c := s.col t.ca
  match w with
  | .regs rs => s.doneOr t (fun a => a.writesAny rs) && !s.readsOut t rs
  | .room x => decide (th.cnt x < 31)
  | .limits ld st cp tl fx => th.within ld st cp tl fx || (s.waitFault t ld st).isSome || (th.waitEngine cp tl fx).isSome
  | .slot addr => s.doneOr t (storesTo addr)
  | .spawn ca prio => !s.queueFull p ca prio
  | .tagFree => (((s.sweep p).part p).pool != 0 && !(({ s with cur := t } : State).frontierWaits)) ||
      (s.atFrontier t && (s.latestTask p).isSome)
  | .foldStores => th.cntSt == 0 || (s.waitFault t 31 0).isSome
  | .engineTags tags => !(tags.any fun x => s.engineNames p x)
  | .copies ids => ids.all fun i => !(c.seqr.any fun e => e.id == i && !e.copied)
  | .sequencer => decide (c.seqr.length < 16)
  | .fifo => !c.fifo.isEmpty
  | .resw map => s.doneOr t fun a => a.reswOf map
  | .lookups ids => !s.looksStill p ids
  | .recv ch => (c.recvPick (isDrive t) ch).isSome
  | .xrecv _ want _ => decide (want ≤ c.xcount)
  | .again => s.onlyStuck t Access.faulted && ((s.unregistered t).isEmpty || (s.lockBlocker t).isSome)
  | .none | .mlease _ | .barrier .. | .commit | .page .. | .sysw .. => false

/-- The instruction that held the thread goes on: it issues again. -/
def State.resume (s : State) (t : ThreadRef) : State :=
  s.updThread t fun th => { th with run := .ready, waited := true }

/-- A thread is held by an instruction that issues again once its wait is over. -/
def Thread.stuck (th : Thread) : Bool :=
  th.run == .stalled || (th.run == .waiting && match th.wait with | .recv _ => true | _ => false)

/-- A stalled instruction before which a request parks its thread, or a RECV that waits (R72). -/
def Wait.beforePoint : Wait → Bool
  | .tagFree | .foldStores | .engineTags _ | .fifo | .recv _ => true
  | _ => false

/-- STALL_RESUME (R37): the wait is over, or a request may now park the thread before its instruction (R72). -/
def execStallResume (t : ThreadRef) (s : State) : Result :=
  .next (if (s.thread t).stuck && (s.waitOver t (s.thread t).wait || ((s.thread t).wait.beforePoint && s.mustPark t)) then
      s.resume t
    else s)

/-- LEASE_GRANT (R67): the next waiting thread after the last holder, in cyclic thread-index order over all 32 control threads. Before
the first grant 23 stands for the last holder: the service threads, of indices 24 to 31, come first, then thread 0 (log 3: DESIGN
CHOICE). -/
def execLeaseGrant (ca : Nat) (s : State) : Result :=
  .next (match (s.col ca).lease with
    | some _ => s
    | none =>
      let w := s.leaseWaiters ca
      let next := ((upto 32).map fun i => ((s.col ca).lastLease + 1 + i) % 32).find? fun n => w.contains n
      match next with
      | none => s
      | some n =>
        match (s.thread ⟨ca, n⟩).wait with
        | .mlease k => (s.grantLease ca n k).updThread ⟨ca, n⟩ fun th => { th with run := .ready, wait := .mlease k, waited := true }
        | _ => s)

/-- A stalled thread has waited longer than a limit. -/
def State.overdue (s : State) (t : ThreadRef) (limit : Nat) : Bool := decide ((s.thread t).since + limit < s.now)

/-- SPAWN_STALL_LIMIT (R44, R360): QUEUE_FULL goes to the field controller. Whether it grows the queue's backing, and by how
many records, the spec leaves open: a free value (log 2). Where it does, the SPAWNR executes again; else the trap is taken. Either way the
thread has trapped, which ends its lease (R67). -/
def execSpawnStallLimit (t : ThreadRef) (s : State) : Result :=
  .next (match (s.thread t).run, (s.thread t).wait with
    | .stalled, .spawn ca prio =>
      let p := (s.partOf t).getD 16
      if s.overdue t (s.part p).pol.spawnlim then
        let (k, s) := s.free
        if k % 2 = 0 then s.takeTrap t .queueFull 0 (s.thread t).ipc ⟨false, false, true⟩
        else
          let s := s.updPart p fun x => { x with grown := tset x.grown (4 * ca + prio) (tget x.grown (4 * ca + prio) 0 + k / 2 + 1) }
          (s.updThread t fun th => { th with run := .ready, waited := false }).endLease t
      else s
    | _, _ => s)

/-- CONTEXT_STALL_LIMIT (R101). -/
def execContextStallLimit (t : ThreadRef) (s : State) : Result :=
  .next (match (s.thread t).run, (s.thread t).wait with
    | .stalled, .tagFree =>
      let p := (s.partOf t).getD 16
      if s.overdue t (s.part p).pol.ctxlim then
        (s.updPart p fun x => { x with ctxExhausted := x.ctxExhausted + 1 }).takeTrap
          t .ctxExhausted 0 (s.thread t).ipc TrapKind.sync
      else s
    | _, _ => s)

/-- XRECV_DEADLINE (R275): XRECV goes on and completes with the count landed so far, once what R376 says has landed by then has. -/
def execXrecvDeadline (t : ThreadRef) (s : State) : Result :=
  .next (match (s.thread t).run, (s.thread t).wait with
    | .stalled, .xrecv _ _ d => if d ≠ 0 ∧ d ≤ s.now ∧ s.landingDue t.ca = false then s.resume t else s
    | _, _ => s)

/-! ### Loads and stores (R92, R199) -/

/-- The access performs, and the thread is judged again at the place where it waits. -/
def State.performStep (s : State) (t : ThreadRef) (a : Access) : State := (s.performAny t a).settle t

/-- An access of a thread, by its number. -/
def State.accessOf (s : State) (t : ThreadRef) (id : Nat) : Option Access := (s.thread t).out.find? fun a => a.id == id

/-- LOAD_RETURN (R199). -/
def execLoadReturn (t : ThreadRef) (id : Nat) (s : State) : Result :=
  .next (match s.accessOf t id with
    | some a => if a.op.isLoad && s.canPerform t a then s.performStep t a else s
    | none => s)

/-- STORE_PERFORMED (R199). -/
def execStorePerformed (t : ThreadRef) (id : Nat) (s : State) : Result :=
  .next (match s.accessOf t id with
    | some a => if !a.op.isLoad && s.canPerform t a then s.performStep t a else s
    | none => s)

/-! ### Tasks (R46 to R48, R53) -/

/-- The accesses that are ordered before a record's task have performed (R259). -/
def State.freed (s : State) (p : Nat) (q : QRec) : Bool :=
  match q.after with | some (t, n) => (s.threadOf p t).allBefore n | none => true

/-- Whether the record at the commit frontier may start: with the held-back tag, or with another (R47 step 1, R56). -/
def State.frontierStarts (s : State) (p : Nat) (q : QRec) : Bool :=
  q.r.o && q.r.stamp.toNat == s.frontier p && (q.r.tag != 0 || (s.part p).heldBack || (s.part p).mayPopOrdered)

/-- A column's records from its highest priority down. -/
def Column.records (c : Column) : List QRec := c.q3 ++ c.q2 ++ c.q1 ++ c.q0

/-- The record that a column pops, of those that may be popped (R47, R259). -/
def State.popChoice (s : State) (p ca : Nat) : Option QRec :=
  let rs := (s.col ca).records.filter (s.freed p)
  match rs.find? (s.frontierStarts p) with
  | some q => some q
  | none => rs.find? (s.qualifies p)

def Column.dropRec (c : Column) (seq : Nat) : Column :=
  let keep (q : List QRec) : List QRec := q.filter fun r => r.seq != seq
  { c with q0 := keep c.q0, q1 := keep c.q1, q2 := keep c.q2, q3 := keep c.q3 }

/-- A thread at task entry (R48). -/
def Thread.enter (th : Thread) (r : Rec) (tag : BitVec 12) (slot idx : Nat) (lin : List ThreadRef) (now : Word) : Thread :=
  let t : Thread := { Thread.reset with run := .ready, pc := r.code, tscur := r.stamp, ctxcur := tag, sent := th.sent,
                                        resv := th.resv, task := some ⟨{ r with tag := tag }, lin⟩ }
  ((((((t.ws 1 r.arg0).ws 2 r.arg1).ws 3 r.arg2).ws 4 (BitVec.ofNat 64 slot)).ws 5 (BitVec.ofNat 64 idx)).ws 6 now).ws 30 r.frame

/-- A fresh tag for an ordered task whose record is in its queue yet: the held-back one for the frontier, else one of the pool (R52,
R56). -/
def State.startOrdered (s : State) (p ca : Nat) (q : QRec) : BitVec 12 × State :=
  let front := q.r.stamp.toNat == s.frontier p
  let (tag, s) := s.allocTag p 0 1
  let (n, s) := s.newId
  (tag, s.updPart p fun x =>
    { x with heldBack := if front then false else x.heldBack,
             otasks := x.otasks ++ [⟨tag, q.r, ca, q.lin, [], [], [], n, false, [], q.born⟩] })

/-- A record is popped by a thread and enters as a task (R47, R48, R52). -/
def State.enterTask (s : State) (p : Nat) (t : ThreadRef) (q : QRec) : State :=
  let (tag, s) := if q.r.o && q.r.tag == 0 then s.startOrdered p t.ca q else (q.r.tag, s)
  let s := s.updCol t.ca fun c => c.dropRec q.seq
  let s := (s.cleanWindow t.ca (slotOffset t) 64).updCol t.ca fun c => { c with home := mwrite c.home (slotOffset t) q.r.bytes }
  s.updThread t fun th => th.enter q.r tag (Config.homeBase + slotOffset t) t.tid q.lin s.almanac

/-- TASK_POP (R47). -/
def execTaskPop (t : ThreadRef) (s : State) : Result :=
  .next (match (s.col t.ca).holder with
    | none => s
    | some p =>
      if threadOk t && decide (t.tid < 24) && !s.retired.contains t.ca && (s.thread t).run == .idle && (s.thread t).preReq.isNone && (s.part p).here &&
          !(s.part p).asked then
        let s' := s.sweep p
        match s'.popChoice p t.ca with
        | some q => if s'.tainted (.slot p q.addr) then s'.consume t (.slot p q.addr) else s'.enterTask p t q
        | none => s
      else s)

/-- Places a record ahead of those committed after it (R46). -/
def insertRec (r : QRec) : List QRec → List QRec
  | [] => [r]
  | x :: rest => if r.seq < x.seq then r :: x :: rest else x :: insertRec r rest

/-- RECORD_AGING (R46). -/
def execRecordAging (ca prio : Nat) (s : State) : Result :=
  .next (if prio < 3 then
      match ((s.col ca).queue prio).find? fun q => decide (q.enter + 65536 ≤ s.now) with
      | none => s
      | some q => s.updCol ca fun c =>
          let c := c.setQueue prio ((c.queue prio).filter fun r => r.seq != q.seq)
          c.setQueue (prio + 1) (insertRec { q with enter := s.now } (c.queue (prio + 1)))
    else s)

/-- ORDERED_COMMIT (R53, R55): the task at the frontier commits and its thread ends, or its tie traps. -/
def execOrderedCommit (t : ThreadRef) (s : State) : Result :=
  .next (
    let th := s.thread t
    let p := (s.partOf t).getD 16
    match th.run, th.wait, (s.part p).otaskOf th.ownTag with
    | .waiting, .commit, some o =>
      if o.tie then s.tieTrap t
      else if o.orig.stamp.toNat ≠ s.frontier p || !(s.part p).here then s
      else match s.commitTaint p o with
      | some x => s.consume t x
      | none => if s.commitReady p o then (s.commitTask p t o).endThread t else s
    | _, _, _ => s)

/-! ### Barriers (R59, R60) -/

/-- BARRIER_RELEASE (R59). -/
def execBarrierRelease (p level id : Nat) (s : State) : Result :=
  .next (if s.mayRelease p level id then s.release p level id else s)

/-- BARRIER_WATCHDOG (R60): BARWD is in microseconds. -/
def execBarrierWatchdog (p level id : Nat) (s : State) : Result :=
  .next (match (s.part p).barWait.find? fun b => b.1 == (level, id) with
    | none => s
    | some b =>
      let limit := 1000 * (s.part p).pol.barwd
      if limit ≠ 0 ∧ b.2 + limit < s.now ∧ (s.waiters level id (s.heldBy p)).any (fun t => !isService t) then s.killPart p 0x19 else s)

/-! ### Exchange (R63, R149, R275) -/

def State.xferOf (s : State) (id : Nat) : Option Xfer := s.xfers.find? fun x => x.id == id

/-- A transfer's launch is due, and the stores before its XSEND have performed and its source is locked (R63, R149, R144). -/
def State.launchReady (s : State) (f : Xfer) : Bool :=
  !f.launched && decide (f.date ≤ s.now) && (s.thread f.t).storesBefore f.id && f.todo.isEmpty

/-- EXCHANGE_LAUNCH (R63, R149): the source is read and unlocked. -/
def execExchangeLaunch (x : Nat) (s : State) : Result :=
  .next (match s.xferOf x with
    | none => s
    | some f =>
      if s.launchReady f then
        let src := s.col f.t.ca
        match s.rangeTaint f.t [(Config.homeBase + f.soff, 64 * f.lines)] with
        | some y => s.consume f.t y
        | none =>
        let data := (upto f.lines).flatMap fun i => src.scratchRead (f.soff + 64 * i) 64
        { s with xfers := s.xfers.map (fun y => if y.id = x then { y with launched := true, data := data } else y),
                 locks := s.locks.filter fun l => l.owner != x }
      else s)

/-- A transfer has landed at, or been discarded by, a target; at the last one it ends and its sender's counter falls (R274). -/
def State.landedAt (s : State) (f : Xfer) (ca : Nat) : State :=
  let rest := f.targets.erase ca
  if rest.isEmpty then
    (({ s with xfers := s.xfers.filter fun y => y.id != f.id } : State).updThread f.t fun th => th.lower .fx).settle f.t
  else { s with xfers := s.xfers.map fun y => if y.id = f.id then { y with targets := rest } else y }

/-- The first beat lands: its lines at the column are write-locked (R149). -/
def State.landFirst (s : State) (f : Xfer) (ca : Nat) : State :=
  let (n, s) := s.newId
  { s with locks := s.locks ++ (scratchLines ca f.doff f.lines).map (fun l => ⟨l, true, n⟩),
           xfers := s.xfers.map fun y => if y.id = f.id then { y with landing := y.landing ++ [(ca, n)] } else y }

/-- The landing ends: its bytes and its count; its locks, of number n, stay till a participant has completed its XRECV (R149,
R275). -/
def State.land (s : State) (f : Xfer) (ca n : Nat) : State :=
  let open_ := !(s.col ca).xrecvd
  let s := s.updCol ca fun c =>
    { c with home := mwrite c.home f.doff f.data, xcount := c.xcount + 1, xlanded := if open_ then c.xlanded ++ [n] else c.xlanded }
  let s := s.cleanWindow ca f.doff f.data.length
  if open_ then s else { s with locks := s.locks.filter fun l => l.owner != n }

/-- TRANSFER_LANDING (R275): taken once it begins the landing at a column, taken again it ends it; a landing that would begin
where the column is not open for landing is discarded. -/
def execTransferLanding (x ca : Nat) (s : State) : Result :=
  .next (match s.xferOf x with
    | none => s
    | some f =>
      if f.launched && f.targets.contains ca then
        match f.landing.find? fun l => l.1 == ca with
        | some l => (s.land f ca l.2).landedAt f ca
        | none =>
          if (s.col ca).xopen.isEmpty then
            (s.updPart ((s.partOf f.t).getD 16) fun q => { q with dropXfers := q.dropXfers + 1 }).landedAt f ca
          else if s.landHeld f ca then s
          else s.landFirst f ca
      else s)

/-! ### Messages and the vertical FIFO (R267, R270, R277, R432) -/

/-- A message may enter its inbox: none before it of its sender, channel and inbox waits (R150), its sender's earlier
accesses have performed (R137), and its partition's column is ready for it (R432). -/
def State.mayArrive (s : State) (m : Msg) : Bool :=
  (s.net.takeWhile fun x => x.id != m.id).all (fun x => x.from_ != m.from_ || x.fromPart != m.fromPart || x.ch != m.ch || x.ca != m.ca || x.drv != m.drv) &&
  (match m.from_ with
    | some t => (s.threadOf m.fromPart t).allBefore m.id
    | none => true) &&
  (if m.drv then (s.col m.ca).boxRoom true || s.presHolder != some m.part
   else (s.colOf m.part m.ca).boxRoom false &&
    ((s.col m.ca).holder == some m.part || (s.part m.part).leaving || !(s.part m.part).here))

/-- MESSAGE_DELIVERY (R267, R432). One for a drive inbox of a partition that no longer has the presentation role is lost (log 89:
DESIGN CHOICE); where a partition of the same number has been created since and has the role, it receives it (R432, log 89). -/
def execMessageDelivery (id : Nat) (s : State) : Result :=
  .next (match s.net.find? fun m => m.id == id with
    | none => s
    | some m =>
      if s.mayArrive m then
        let s := { s with net := s.net.filter fun x => x.id != id }
        let s := if m.drv then
            (if s.presHolder = some m.part then s.updCol m.ca fun c => { c with dinbox := c.dinbox ++ [m] } else s)
          else s.updColOf m.part m.ca fun c => { c with inbox := c.inbox ++ [m] }
        match m.from_ with
        | some t => (s.updThreadOf m.fromPart t fun th => th.lower .fx).settle t
        | none => s
      else s)

/-- The spill entry of an inbox of a column (R270, R425). -/
def State.spillEntry (s : State) (ca : Nat) (drv : Bool) : Option Word :=
  let p := if drv then s.presHolder else (s.col ca).holder
  match p with
  | some p => (s.part p).launch.bind fun l => if drv then l.dspill else l.spill
  | none => none

/-- One of R270's two events holds at an inbox. -/
def State.spillCause (s : State) (ca : Nat) (drv : Bool) : Bool :=
  let c := s.col ca
  (!c.boxRoom drv && s.net.any fun m => m.ca == ca && m.drv == drv && (drv || c.holder == some m.part)) ||
  ((if drv then [32] else generalTids).any fun n =>
    let th := s.thread ⟨ca, n⟩
    th.run == .waiting && match th.wait with | .recv ch => ch != 16 && decide (0 < c.spillOf drv ch) | _ => false)

/-- A trap waits for a service thread. -/
def State.trapWaits (s : State) (sv : ThreadRef) : Bool :=
  ((if isDrive sv then [32] else generalTids).any fun n =>
    let t : ThreadRef := ⟨sv.ca, n⟩
    serviceOf t == sv && (s.thread t).park == .trap)

/-- A service thread starts at an entry, its general registers kept (R364). -/
def Thread.serve (th : Thread) (pc : Word) (cause : BitVec 8) (addr tpc : Word) (tstat : BitVec 32) : Thread :=
  { th with run := .ready, wait := .none, park := .no, pc := pc, tcause := cause, taddr := addr, tpc := tpc, tstat := tstat,
            ibuf := [], waited := false }

/-- The partition whose spill routine serves an inbox of a column has its fields, and none of its threads is asked to park (R26, R72). -/
def State.spillRuns (s : State) (ca : Nat) (drv : Bool) : Bool :=
  match (if drv then s.presHolder else (s.col ca).holder) with
  | some p => (s.part p).here && !(s.part p).asked
  | none => false

/-- SPILL_WAKE (R270, R364); no control thread starts in a retired column (R32), and none while its partition is away (R26). -/
def execSpillWake (ca : Nat) (drv : Bool) (s : State) : Result :=
  .next (
    let sv : ThreadRef := ⟨ca, if drv then 33 else 24⟩
    match s.spillEntry ca drv with
    | none => s
    | some e =>
      if s.spillRuns ca drv && s.spillCause ca drv && (drv || !s.retired.contains ca) && (s.thread sv).run == .dormant && (s.thread sv).preReq.isNone && !s.trapWaits sv then
        s.updThread sv fun th => th.serve e 0 0 0 0x40000000#32
      else s)

/-- A service thread may begin a run that is no trap's: it is dormant, its partition runs a launch and has its fields, and no request is to park
it; no control thread runs in a retired column (R36, R32, R26). -/
def State.mayServe (s : State) (sv : ThreadRef) : Bool :=
  threadOk sv && isService sv && s.spillRuns sv.ca (isDrive sv) && (s.part ((s.partOf sv).getD 16)).running &&
  (isDrive sv || !s.retired.contains sv.ca) && (s.thread sv).run == .dormant && (s.thread sv).preReq.isNone

/-- A FIRMWARE REQUEST reaches a service thread, before any trap that waits for it (R36, R364): WHY is 0b10 (R362). When firmware asks, at
which entry, and with what in TCAUSE, TADDR and TPC, the spec leaves open: the schedule says (log 68: DESIGN CHOICE). -/
def State.fwRequest (s : State) (t : ThreadRef) (pc : Word) (cause : BitVec 8) (addr tpc : Word) : State :=
  if s.mayServe t then s.updThread t fun th => th.serve pc cause addr tpc 0x80000000#32 else s

/-- The push that enters a FIFO next: the first whose thread's earlier stores have performed, in each thread's order (R277). -/
def State.pushReady (s : State) (c : Column) : Option Push :=
  c.pushes.find? fun x => (c.pushes.takeWhile fun y => y.id != x.id).all (fun y => y.t != x.t) && (s.threadOf x.part x.t).storesBefore x.id

/-- FIFO_ENTRY (R277, R350). -/
def execFifoEntry (ca : Nat) (s : State) : Result :=
  .next (
    let c := s.col ca
    if c.fifo.length < 16 && !(s.gate ca).upReq then
      match s.pushReady c with
      | none => s
      | some x =>
        let s := s.updCol ca fun c => { c with fifo := c.fifo ++ [x], pushes := c.pushes.filter fun y => y.id != x.id }
        (s.updThreadOf x.part x.t fun th => th.lower .fx).settle x.t
    else s)

/-! ### Engines (R144, R199, R320) -/

def State.cmdOf (s : State) (id : Nat) : Option Cmd := s.cmds.find? fun c => c.id == id

/-- ENGINE_REGISTRATION (R144): of a command, or of a transfer. -/
def execEngineRegistration (id : Nat) (s : State) : Result :=
  .next (match s.cmdOf id with
    | some c => if s.canRegister c then s.register c else s
    | none => match s.xferOf id with
      | some x => s.registerXfer x
      | none => s)

/-- COPY_COMPLETE (R199). -/
def execCopyComplete (id : Nat) (s : State) : Result :=
  .next (match s.cmdOf id with | some c => if s.copyReady c then s.copyComplete c else s | none => s)

/-- MATRIX_COMMAND_COMPLETE (R199). -/
def execMatrixCommandComplete (id : Nat) (s : State) : Result :=
  .next (match s.cmdOf id with | some c => if s.matrixReady c then s.matrixComplete c else s | none => s)

/-- MROT_LANDING (R320). -/
def execMrotLanding (id : Nat) (s : State) : Result :=
  .next (match s.cmdOf id with | some c => if s.rotMayLand c then s.rotLand c else s | none => s)

/-! ### Traps handed over (R364, R74) -/

/-- A trap may be handed to its service thread now: it is the first in thread order; the accesses before it have performed, but
for those that faulted and those held behind them; and no pre-emption takes the thread first, which an open exchange phase
keeps away (R364, R74, R65). -/
def State.trapReady (s : State) (t : ThreadRef) : Bool :=
  let sv := serviceOf t
  let th := s.thread t
  threadOk t && !isService t && th.park == .trap && (th.preReq.isNone || th.phase.isSome) && s.onlyStuck t Access.faulted &&
  (s.thread sv).run == .dormant && ((s.thread sv).preReq.isNone || th.phase.isSome) &&
  ((if isDrive t then [] else (upto t.tid)).all fun n =>
    let u : ThreadRef := ⟨t.ca, n⟩
    !(serviceOf u == sv && (s.thread u).park == .trap))

/-- TRAP_DELIVERY (R364). -/
def execTrapDelivery (t : ThreadRef) (s : State) : Result :=
  .next (if s.trapReady t then
      let th := s.thread t
      let s := s.updThread t fun th => { th with park := .handled }
      s.updThread (serviceOf t) fun sv =>
        sv.serve (s.part ((s.partOf t).getD 16)).tvecAddr th.tcause th.taddr th.tpc th.tstat
    else s)

end Sys2Proof.Machine
end

