-- ==== Sys2Proof/Machine/Sensors.lean ====
section
/-! DEFINITION. The steps of clocks, sensors and emissions: emission copies and ends (13_isa_pixel R344), cellar refresh
(01_columns R29, R30), thermal readings, throttles and trips (14_isa_system R366, R367, 24_fleet R457), the duplicate
filter's expiry (R127), and the almanac's reference (22_host_launch R433 to R435). Temperatures are in units of 1/16 °C. -/

namespace Sys2Proof.Machine

/-! ### Emissions -/

/-- EMISSION_COPY (R344): at its tick. -/
def execEmissionCopy (ca e : Nat) (s : State) : Result :=
  .next (match (s.col ca).seqr.find? fun x => x.id == e with
    | none => s
    | some x =>
      if !x.copied && decide (x.t ≤ s.now) then
        s.updCol ca fun c => { (c.light x) with seqr := c.seqr.map fun y => if y.id = e then { y with copied := true } else y }
      else s)

/-- EMISSION_END (R344). -/
def execEmissionEnd (ca e : Nat) (s : State) : Result :=
  .next (match (s.col ca).seqr.find? fun x => x.id == e with
    | none => s
    | some x =>
      if x.copied && decide (x.stop ≤ s.now) then s.updCol ca fun c => { c with seqr := c.seqr.filter fun y => y.id != e } else s)

/-! ### The cellar's sensors -/

def degrees (n : Nat) : Nat := 16 * n

def State.updChan (s : State) (ch : Nat) (f : Channel → Channel) : State := { s with chans := tset s.chans ch (f (s.chan ch)) }

/-- The cellar channel of a column, and a channel's four columns (01_columns). -/
def chanOf (ca : Nat) : Nat := caRow ca / 2 * 32 + caCol ca / 2
def chanCols (ch : Nat) : List Nat :=
  let base := 64 * (2 * (ch / 32)) + 2 * (ch % 32)
  [base, base + 1, base + 64, base + 65]

/-- A column's ALLOW: its partition's, halved for its own heat and for its channel's (R366, R457). -/
def State.allowOf (s : State) (ca : Nat) : Nat :=
  let base := match (s.col ca).holder with | some p => (s.part p).pol.allow.toNat | none => 0x00EE
  let a := if (s.col ca).hot then base / 2 else base
  if (s.chan (chanOf ca)).hot then a / 2 else a

/-- A column's THALLOW takes its ALLOW, HOLD unchanged (R366). -/
def State.setAllow (s : State) (ca : Nat) : State :=
  s.updCol ca fun c => { c with thallow := BitVec.ofNat 32 (s.allowOf ca + 65536 * (c.thallow.toNat / 65536)) }

/-- CELLAR_REFRESH (R29): it takes time alone; the channel counts it. -/
def execCellarRefresh (ch : Nat) (s : State) : Result :=
  .next (if ch < 576 then s.updChan ch fun c => { c with refreshes := c.refreshes + 1 } else s)

/-- A channel's new reading: refresh doubles above 85 °C and returns below 82 °C (R29); hot above 95 °C until below 90 °C. -/
def Channel.sense (c : Channel) (temp now : Nat) : Channel :=
  let dbl := if degrees 85 < temp then true else if temp < degrees 82 then false else c.doubled
  { c with temp := temp, maxTemp := max c.maxTemp temp, doubled := dbl,
           since := if dbl && !c.doubled then now else c.since,
           ticks := if c.doubled && !dbl then c.ticks + (now - c.since) else c.ticks,
           hot := if degrees 95 < temp then true else if temp < degrees 90 then false else c.hot }

/-- A sensor stands above its trip limit; every sensor stands 20 °C below its own (R457). -/
def State.tripped (s : State) : Sensor → Bool
  | .column ca => decide (degrees 115 < (s.col ca).temp.toNat)
  | .cellar ch => decide (degrees 105 < (s.chan ch).temp)

def State.cool (s : State) : Bool :=
  s.cols.all (fun c => decide (c.2.temp.toNat ≤ degrees 95)) && s.chans.all fun c => decide (c.2.temp ≤ degrees 85)

/-- A sensor that stands at its limit or below may trip again, and launches are taken again once every sensor is cool (R457). -/
def State.sensed (s : State) : State :=
  { s with boot := { s.boot with trips := s.boot.trips.filter s.tripped, barred := s.boot.barred && !s.cool } }

/-- CELLAR_SENSOR_CHANGE (R29, R457). -/
def execCellarSensorChange (ch temp : Nat) (s : State) : Result :=
  .next (if ch < 576 then ((s.updChan ch fun c => c.sense temp s.now).each (chanCols ch) State.setAllow).sensed else s)

/-! ### Column temperature and allowance -/

/-- THSENSE_REFRESH (R367): new readings, and the throttle of R457. -/
def execThsenseRefresh (ca : Nat) (temp droop : BitVec 16) (s : State) : Result :=
  .next (if caOk ca then
      let hot := if degrees 100 < temp.toNat then true else if temp.toNat < degrees 95 then false else (s.col ca).hot
      let s := s.updCol ca fun c => { c with temp := temp, droop := droop, hot := hot }
      ((s.setAllow ca).updTele ca fun t => { t with maxTemp := max t.maxTemp temp.toNat }).sensed
    else s)

/-- THALLOW_WINDOW (R366): HOLD for the window of 1,000 ticks that ends; its share counts as throttled ticks (R465). -/
def execThallowWindow (ca : Nat) (hold : BitVec 16) (s : State) : Result :=
  .next (if caOk ca then
      (s.updCol ca fun c => { c with thallow := hold ++ c.thallow.truncate 16 }).updTele ca fun t =>
        { t with throttled := t.throttled + hold.toNat * 1000 / 65536 }
    else s)

/-- EMITTER_LAYER_SENSOR_CHANGE (R457): above 90 °C firmware scales the emitter drive through the calibration gain, by a factor in
units of 1/65536 that the spec leaves open, a free value (log 2); lit values unchanged. -/
def execEmitterLayerSensorChange (temp : Nat) (s : State) : Result :=
  .next (if degrees 90 < temp then
      let (k, s) := s.free
      { s with emitterScale := some (k % 65536) }
    else { s with emitterScale := none })

/-- The column where a sensor's trip is detected. -/
def Sensor.ca : Sensor → Nat
  | .column ca => ca
  | .cellar ch => (chanCols ch).headD 0

/-- THERMAL_TRIP (R457), once for each time that a sensor passes its limit: every resident partition is killed with MACHINE_CHECK's code,
and launches wait for R457's cooling. The kill records are marked in the high byte of INFO, by a free value above 0 (log 61). -/
def execThermalTrip (x : Sensor) (s : State) : Result :=
  .next (if s.tripped x && !s.boot.trips.contains x then
      let (k, s) := s.free
      let s := { s with boot := { s.boot with thermal := true, barred := true, trips := s.boot.trips ++ [x] } }
      s.each ((s.parts.filter fun p => p.2.here).map (·.1)) fun s p => s.kill p 0x18 (1 + k % 255) (Sensor.ca x) none 0
    else s)

/-- FILTER_ENTRY_EXPIRY (R127). -/
def execFilterEntryExpiry (ca : Nat) (s : State) : Result :=
  .next (s.updCol ca fun c => { c with filter := c.filter.filter fun k => decide (s.now < k.born + 2 ^ 20) })

/-! ### The almanac's reference (R433, R435) -/

/-- REFERENCE_PULSE (R433): the error, and a step or a slew; a step adds nothing to the time since the boot (R461). -/
def execReferencePulse (sec : Nat) (s : State) : Result :=
  .next (
    let e : Int := (s.almanac.toNat : Int) - ((10 ^ 9 * sec : Nat) + s.almOff.toInt)
    let err : BitVec 32 := BitVec.ofNat 32 (min e.natAbs 0xFFFFFFFF)
    if e < -(10 ^ 6) then
      { s with almanac := BitVec.ofInt 64 ((s.almanac.toNat : Int) - e), ref := ⟨1, err, 0, 0⟩,
               boot := { s.boot with bootTick := s.boot.bootTick + e.natAbs } }
    else { s with ref := ⟨if e.natAbs ≤ 5 then 2 else 1, err, -e, 0⟩ })

/-- SLEW_END (R433): the whole error has been added or withheld. -/
def execSlewEnd (s : State) : Result :=
  .next (if s.ref.slew = 0 then { s with ref := { s.ref with phase := 0 } } else s)

/-- REFERENCE_LOSS (R435): holdover, and vector 2. -/
def execReferenceLoss (s : State) : Result :=
  .next (if s.ref.state = 0 ∨ s.ref.state = 3 then s else { (s.signal 0 2) with ref := { s.ref with state := 3 } })

/-- One step of the almanac. Of a slew that withholds, the last of every 1,000 ticks of the reference adds nothing; one that adds has a
step of its own after every 1,000 ticks (R433): no step adds more than one. -/
def State.tick1 (s : State) : State :=
  let r := s.ref
  if r.slew = 0 then { s with almanac := s.almanac + 1 }
  else if 0 < r.slew ∧ 1000 ≤ r.phase then { s with almanac := s.almanac + 1, ref := { r with slew := r.slew - 1, phase := 0 } }
  else if r.slew < 0 ∧ 999 ≤ r.phase then { s with ref := { r with slew := r.slew + 1, phase := 0 } }
  else { s with almanac := s.almanac + 1, ref := { r with phase := r.phase + 1 } }

/-- n steps. -/
def State.ticks (s : State) : Nat → State
  | 0 => s
  | n + 1 => if s.ref.slew = 0 then { s with almanac := s.almanac + BitVec.ofNat 64 (n + 1) } else s.tick1.ticks n

end Sys2Proof.Machine
end

