-- ==== Sys2Proof/Machine/Preempt.lean ====
section
/-! DEFINITION. Pre-emption: the request and its points (02_execution R72 to R74), and the scheduler's steps (22_host_launch
R421, R429 to R432). -/

namespace Sys2Proof.Machine

/-! ### The command links (R428) -/

/-- A link at reset: 8 permits, nothing in flight. -/
def Link.reset : Link := ⟨8, []⟩

/-- Link n, for n below 72, goes from the scheduler to the controller of field n; link 72 + n comes back from it. -/
def State.link (s : State) (n : Nat) : Link := tget s.links n Link.reset

/-- The link back from a field controller. -/
def backLink (n : Nat) : Nat := 72 + n

/-- The field addresses of a partition's rectangle, by which the links to its field controllers go. -/
def Policy.fields (p : Policy) : List Nat :=
  (upto p.frows).flatMap fun r => (upto p.fcols).map fun c => p.forig + 8 * r + c

/-- The scheduler holds a permit for each of some field controllers. -/
def State.mayTell (s : State) (fields : List Nat) : Bool := fields.all fun n => decide (0 < (s.link n).permits)

/-- The field of a column (R19). -/
def fieldOf (ca : Nat) : Nat := 8 * (caRow ca / 4) + caCol ca / 8

/-- A command about partition p goes on a link, at one permit; it may post a page fault. Its 64 bytes, the spec leaves open: a free value
(log 2). -/
def State.transmit (s : State) (n p : Nat) (fault : Option Posted) : State :=
  let (x, s) := s.free
  let l := s.link n
  { s with links := tset s.links n ⟨l.permits - 1, l.cmds ++ [⟨p, BitVec.ofNat 512 x, fault⟩]⟩ }

/-- A command about partition p is sent to each of some field controllers. -/
def State.tell (s : State) (p : Nat) (fields : List Nat) : State := s.each fields fun s n => s.transmit n p none

/-- No operation on a partition, nor the acknowledgement of one, is under way on a link. -/
def State.linkClear (s : State) (p n : Nat) : Bool := !(s.link n).cmds.any fun c => c.part == p && c.fault.isNone

/-- Each of some field controllers has consumed what it was sent about p, and the scheduler its acknowledgement (R428). -/
def State.acknowledged (s : State) (p : Nat) (fields : List Nat) : Bool := fields.all fun n => s.linkClear p n && s.linkClear p (backLink n)

/-! ### The request at the threads (R72, R73) -/

/-- The request reaches a thread: one stalled at such an instruction issues it again, to park before it. -/
def Thread.request (th : Thread) (now : Nat) : Thread :=
  let th := { th with preReq := some now }
  if th.stuck && th.wait.beforePoint then { th with run := .ready, waited := true } else th

/-- The threads of a column that the state lists, of its control side or its drive side. -/
def Column.listedTids (c : Column) (drive : Bool) : List Nat :=
  (c.threads.map (·.1)).filter fun n => if drive then 32 ≤ n else n < 32

def State.requestAt (s : State) (t : ThreadRef) : State := (s.updThread t fun th => th.request s.now).settle t

/-- PREEMPT_REQUEST (R72): to every thread of a partition that is to leave, its drive threads too (R26), once its field controllers
have acknowledged it (R428). -/
def execPreemptRequest (p : Nat) (s : State) : Result :=
  .next (if (s.part p).leaving && !(s.part p).asked && s.acknowledged p (s.part p).pol.fields then
      let ctl := (s.heldBy p).flatMap fun ca => ((s.col ca).listedTids false).map fun n => (⟨ca, n⟩ : ThreadRef)
      let drv := if (s.part p).pol.pres then
          s.listed.flatMap fun ca => ((s.col ca).listedTids true).map fun n => (⟨ca, n⟩ : ThreadRef)
        else []
      (s.each (ctl ++ drv) State.requestAt).updPart p fun x => { x with asked := true }
    else s)

/-- A thread that a pre-emption need not wait for (R37, R72): parked, but not in an open exchange phase (R65); or without a run. -/
def Thread.still (th : Thread) : Bool := (th.run == .parked && th.phase.isNone) || th.run == .idle || th.run == .dormant

/-- The thread is stopped precisely before its next instruction (R73). -/
def Thread.stopHere (th : Thread) : Thread :=
  let was : Run := match th.run, th.wait with
    | .stalled, .sysw .. => .stalled
    | .stalled, _ => .ready
    | r, _ => r
  th.parkFor was

/-- A change of LOFTWAYS holds the request back (R87). -/
def Thread.inLoftways (th : Thread) : Bool := match th.wait with | .sysw r _ _ => r == 0x030 | _ => false

/-- PREEMPT_DISTANCE_EXPIRY (R73): D + 2^12 control cycles of 5/16 tick each. A task at the frontier is stopped, never aborted
(R54, R398). -/
def execPreemptDistanceExpiry (t : ThreadRef) (s : State) : Result :=
  .next (
    let th := s.thread t
    let p := (s.partOf t).getD 16
    let dist := match (s.part p).launch with | some l => l.dist | none => 0
    match th.preReq with
    | none => s
    | some r =>
      if th.still || th.inLoftways || decide (16 * (s.now - r) < 5 * (dist + 4096)) then s
      else if th.phase.isSome then s.killPart p 0x19
      else match (if th.ordered then (s.part p).otaskOf th.ownTag else none) with
        | some o => if s.atFrontier t then s.updThread t Thread.stopHere else s.abortTask p o
        | none => s.updThread t Thread.stopHere)

/-! ### The scheduler (R429, R431) -/

/-- Whether two partitions share a field (R19). -/
def Policy.overlaps (p q : Policy) : Bool :=
  decide (p.originRow < q.originRow + q.rows) && decide (q.originRow < p.originRow + p.rows) &&
  decide (p.originCol < q.originCol + q.cols) && decide (q.originCol < p.originCol + p.cols)

/-- The partitions other than q that share a field with it. -/
def State.rivals (s : State) (q : Nat) : List (Nat × Partition) :=
  s.parts.filter fun e => e.1 != q && e.2.pol.overlaps (s.part q).pol

/-- QUANTUM_EXPIRY (R429). -/
def execQuantumExpiry (p : Nat) (s : State) : Result :=
  .next (
    let x := s.part p
    if x.here && !x.spent && decide (x.quantumFrom + 1000 * x.pol.quantum ≤ s.now) then s.updPart p fun x => { x with spent := true }
    else s)

/-- A waiting partition may take the fields of a rival (R429). -/
def Partition.yieldsTo (p q : Partition) : Bool :=
  !p.here || p.leaving || decide (p.pol.prio < q.pol.prio) || (p.pol.prio == q.pol.prio && p.spent)

/-- A rival goes first: it is on its way in, or waits at a higher priority, or for longer (R429). -/
def Partition.goesBefore (r q : Partition) : Bool :=
  r.coming || match r.wants, q.wants with
    | some a, some b => decide (q.pol.prio < r.pol.prio) || (r.pol.prio == q.pol.prio && decide (a < b))
    | _, _ => false

/-- A partition is told to leave its fields. -/
def State.sendAway (s : State) (p : Nat) : State := (s.tell p (s.part p).pol.fields).updPart p fun y => { y with leaving := true }

/-- PREEMPTION (R429): a waiting partition is entitled to run; its resident rivals are to leave. -/
def execPreemption (q : Nat) (s : State) : Result :=
  .next (
    let x := s.part q
    let away := ((s.rivals q).filter fun e => e.2.here && !e.2.leaving).map (·.1)
    if x.wants.isSome && !x.coming && !x.evicted && (s.rivals q).all (fun e => e.2.yieldsTo x && !e.2.goesBefore x) &&
        away.all (fun p => s.mayTell (s.part p).pol.fields) then
      (s.each away State.sendAway).updPart q fun y => { y with coming := true }
    else s)

/-! ### The exchange of a column's context (R430) -/

/-- A column's control side taken from one context, the rest from the column itself. -/
def Column.withControl (c ctl : Column) (holder : Option Nat) : Column :=
  { c with threads := ctl.threads.filter (fun e => decide (e.1 < 32)) ++ c.threads.filter (fun e => decide (32 ≤ e.1)),
           holder := holder, home := ctl.home, loft := ctl.loft, ways := ctl.ways, loftStatus := ctl.loftStatus,
           loftChange := ctl.loftChange, domLevel := ctl.domLevel, domX := ctl.domX, domEpoch := ctl.domEpoch, domid := ctl.domid,
           q0 := ctl.q0, q1 := ctl.q1, q2 := ctl.q2, q3 := ctl.q3, inbox := ctl.inbox, replay := ctl.replay, spill := ctl.spill,
           acc := ctl.acc, lease := ctl.lease, leaseUntil := ctl.leaseUntil, lastLease := ctl.lastLease, mrots := ctl.mrots, rotsSent := ctl.rotsSent, colls := ctl.colls,
           filter := ctl.filter, upReq := ctl.upReq, upState := ctl.upState, xcount := ctl.xcount, xopen := ctl.xopen, xt0 := ctl.xt0, xrecvd := ctl.xrecvd,
           xlanded := ctl.xlanded }

/-- A thread parked for pre-emption goes on; a request is over (R72). -/
def Thread.comeBack (th : Thread) : Thread :=
  match th.park with
  | .preempt was => { th with run := was, park := .no, preReq := none }
  | _ => { th with preReq := none }

def Column.comeBack (c : Column) (drive : Bool) : Column :=
  { c with threads := c.threads.map fun e => if decide (32 ≤ e.1) == drive then (e.1, e.2.comeBack) else e }

/-- A column of a leaving partition has parked its threads and drained its engines (R430 steps 1 and 2). -/
def State.colDone (s : State) (p ca : Nat) : Bool :=
  (s.part p).leaving && (s.part p).asked &&
  (((s.col ca).listedTids false).all fun n => (s.thread ⟨ca, n⟩).still) &&
  !(s.cmds.any fun c => (c.t.ca == ca && !isDrive c.t) || c.sends.any fun x => x.1 == ca) &&
  !(s.xfers.any fun x => x.t.ca == ca || x.targets.contains ca) && (s.col ca).loftChange.isNone

/-- A context put away for a partition's column. -/
def State.store (s : State) (x : Saved) : State :=
  { s with saved := s.saved.filter (fun v => !(v.part == x.part && v.ca == x.ca)) ++ [x] }

/-- A place lies in a column's home or loft scratch. -/
def Place.inColumn (ca : Nat) : Place → Bool | .home c _ | .loft c _ => c == ca | _ => false

/-- Poison in a column's scratch, which the exchange of its context uses (R450). -/
def State.loftTaint (s : State) (ca : Nat) : Option Place := (s.poison.find? fun e => e.at_.inColumn ca).map (·.at_)

/-- A column's scratch is another one's now, and what poisoned it is gone. -/
def State.cleanColumn (s : State) (ca : Nat) : State := { s with poison := s.poison.filter fun e => !e.at_.inColumn ca }

/-- Puts the present holder's context of a column away: it holds its fields no longer (R421). -/
def State.swapOut (s : State) (ca : Nat) : State :=
  match (s.col ca).holder with
  | none => s
  | some p =>
    let ctl := Column.reset.withControl (s.col ca) none
    ((s.store ⟨p, ca, ctl, false⟩).updPart p fun x => { x with resident := false }).updCol ca fun c => c.withControl Column.reset none

/-- Brings partition q's context of a column in, and starts its threads (R430 steps 3 and 4). -/
def State.swapIn (s : State) (q ca : Nat) : State :=
  let ctl := (s.colOf q ca).comeBack false
  let s := { s with saved := s.saved.filter fun v => !(v.part == q && v.ca == ca) }
  ((s.cleanColumn ca).updCol ca fun c => c.withControl ctl (some q)).setAllow ca

/-- The context of partition q for a column has an error that shadow storage did not correct: the exchange consumes it (R450, R452). -/
def State.shadowBad (s : State) (q ca : Nat) : Bool := s.saved.any fun v => v.part == q && v.ca == ca && v.bad

/-- Where a frontier task of q waits to come back parked, its column comes in before any other (R56). -/
def State.frontierFirst (s : State) (q ca : Nat) : Bool :=
  let away := ((s.part q).otasks.filter fun o => o.orig.stamp.toNat == s.frontier q).filterMap fun o =>
    (s.runner q o.tag).bind fun t =>
      if (s.col t.ca).holder != some q && (s.threadOf q t).run == .parked then some t.ca else none
  away.isEmpty || away.contains ca

/-- The resident run time of a launch up to now (R427, R431). -/
def Partition.runTime (p : Partition) (now : Nat) : Nat :=
  match p.launch with
  | none => 0
  | some l => l.ran + (if p.here || p.leaving then now - max p.quantumFrom (l.start.getD now) else 0)

/-- A partition that has lost its last column is swapped out; with a launch running it waits for its fields again. -/
def State.gone (s : State) (p : Nat) : State :=
  if (s.heldBy p).isEmpty then
    s.updPart p fun x =>
      { x with launch := x.launch.map fun l => { l with ran := x.runTime s.now },
               wants := if x.running && !x.evicted then some s.now else none,
               resident := false, clocked := false, leaving := false, asked := false }
  else s

/-- The first column of a partition has come in: its quantum counts (R431). -/
def State.arriveFirst (s : State) (q : Nat) : State :=
  if (s.part q).here then s
  else
    let s := s.updPart q fun x =>
      { x with clocked := true, quantumFrom := s.now, spent := false,
               launch := x.launch.map fun l => { l with start := some (l.start.getD s.now) } }
    if (s.part q).pol.pres then s.updCols s.listed fun c => c.comeBack true else s

/-- The last column of a partition has come in: all of its fields were free, and it is resident (R421, R429). -/
def State.arriveLast (s : State) (q : Nat) : State :=
  if (s.part q).pol.columns.all fun ca => (s.col ca).holder == some q then
    s.updPart q fun x => { x with wants := none, coming := false, resident := true }
  else s

/-- Partition q's context comes in, unless an error in it kills q (R430, R450). -/
def State.bringIn (s : State) (q ca : Nat) : State :=
  if s.shadowBad q ca then s.kill q 0x18 0 ca (some 9) 0 else ((s.swapIn q ca).arriveFirst q).arriveLast q

/-- COLUMN_CONTEXT_EXCHANGE (R430): partition q's context comes into a column that is free or drained; named with the holder
itself, the context goes out alone. -/
def execColumnContextExchange (ca q : Nat) (s : State) : Result :=
  .next (if (s.part q).pol.has ca then
      match (s.col ca).holder with
      | none => if (s.part q).coming && s.frontierFirst q ca then s.bringIn q ca else s
      | some p =>
        if s.colDone p ca && (p == q || ((s.part q).coming && s.frontierFirst q ca)) then
          match s.loftTaint ca with
          | some x => s.consumeFor p x
          | none => if p = q then (s.swapOut ca).gone p else ((s.swapOut ca).gone p).bringIn q ca
        else s
    else s)

/-! ### PEVICT (R422) -/

/-- A command register (R422, R440, R458): opcode, status, and the operands from byte 8 on (log 63). -/
def commandWord (op st : Nat) (ops : List Byte) : BitVec 512 :=
  BitVec.ofNat 512 (leNat (leBytes 2 op ++ leBytes 6 st ++ ops))

/-- Operands of 8 bytes each (log 63). -/
def words (l : List Nat) : List Byte := l.flatMap (leBytes 8)

/-- A command stands in its register as written with these operands, or none waits for its status there. -/
def mayTake (cmd : BitVec 512) (busy : Bool) (op : Nat) (ops : List Byte) : Bool :=
  !busy || (field512 cmd 0 16 == op && field512 cmd 64 (8 * ops.length) == leNat ops)

/-- DROP counts a discarded write, saturating. -/
def HostFn.count (f : HostFn) : HostFn := { f with drop := if f.drop = BitVec.allOnes 32 then f.drop else f.drop + 1 }

/-- A PFCMD command that has been written, with the status that firmware leaves (R422). -/
def State.pfStatus (s : State) (op st : Nat) (ops : List Byte) : State :=
  s.updFn 0 fun f => { f with pfcmd := commandWord op st ops, pfBusy := false, pfStarted := false }

/-- Byte 2 of a command that its event brings without a write of the register: a value that is no status (log 63: DESIGN CHOICE). -/
def noStatus : Nat := 0xFE

/-- A PFCMD command waits for its status, and its register stands as the host wrote it, byte 2 too (R422); `started`: the field controllers
have been sent it. -/
def State.pfHold (s : State) (op : Nat) (ops : List Byte) (started : Bool) : State :=
  s.updFn 0 fun f => { f with pfcmd := if f.pfBusy then f.pfcmd else commandWord op noStatus ops, pfBusy := true, pfStarted := started }

/-- A command of PFCMD as written, with its operands, which firmware runs. While another one waits for its status, the write is
discarded (log 90: DESIGN CHOICE). -/
def State.pfTakes (s : State) (op : Nat) (ops : List Byte) (f : State → State) : State :=
  if !s.boot.running then s
  else if mayTake (s.fn 0).pfcmd (s.fn 0).pfBusy op ops then f s
  else s.updFn 0 HostFn.count

/-- AN OPERATION ON A PARTITION with these field controllers: `start` as they are sent it, `done` once all have acknowledged it (R428);
it waits for permits, and for `ready`. -/
def State.pfOperate (s : State) (op : Nat) (ops : List Byte) (p : Nat) (fields : List Nat) (start : State → State) (ready : Bool)
    (done : State → State) : State :=
  if (s.fn 0).pfStarted then (if s.acknowledged p fields && ready then done s else s)
  else if s.mayTell fields then (start (s.tell p fields)).pfHold op ops true
  else s.pfHold op ops false

/-- The partition has columns, or is in possession of its fields. -/
def State.inFields (s : State) (p : Nat) : Bool := (s.part p).here || !(s.heldBy p).isEmpty

/-- PEVICT (R422): the partition leaves, one that was coming in turns back; done once it is swapped out, or a launch has needed it
since. -/
def execPevict (p : Nat) (s : State) : Result :=
  let ops := words [p]
  .next (s.pfTakes 5 ops fun s =>
    if !tmem s.parts p then s.pfStatus 5 2 ops
    else
      let start (u : State) : State :=
        u.updPart p fun x => { x with evicted := true, wants := none, coming := false, leaving := x.leaving || s.inFields p }
      s.pfOperate 5 ops p (s.part p).pol.fields start (!s.inFields p || !(s.part p).evicted) fun s => s.pfStatus 5 0 ops)

end Sys2Proof.Machine
end

