-- ==== Sys2Proof/Machine/Faults.lean ====
section
/-! DEFINITION. Translation commands (23_faults_residency R440, R441), the path of a page fault (R443 to R446), migration (R447),
and containment (R450, R451). -/

namespace Sys2Proof.Machine

/-! ### Commands in TCMD (R440) -/

/-- A TCMD command that has been written, with the status that firmware leaves. -/
def State.tStatus (s : State) (op st : Nat) (ops : List Byte) : State :=
  s.updFn 0 fun f => { f with tcmd := commandWord op st ops, tBusy := false, tStarted := false }

/-- A command of TCMD as written, with its operands, which firmware runs; a write beside one that waits is discarded (log 90: DESIGN
CHOICE). -/
def State.tTakes (s : State) (op : Nat) (ops : List Byte) (f : State → State) : State :=
  if !s.boot.running then s
  else if mayTake (s.fn 0).tcmd (s.fn 0).tBusy op ops then f s
  else s.updFn 0 HostFn.count

/-- A TCMD command waits for its status, its register as the host wrote it (R440). -/
def State.tHold (s : State) (op : Nat) (ops : List Byte) (started : Bool) : State :=
  s.updFn 0 fun f => { f with tcmd := if f.tBusy then f.tcmd else commandWord op noStatus ops, tBusy := true, tStarted := started }

/-- AN OPERATION OF TCMD ON A PARTITION: done once its field controllers, which are sent it, have all acknowledged it (R428). -/
def State.tOperate (s : State) (op : Nat) (ops : List Byte) (p : Nat) (done : State → State) : State :=
  let fields := (s.part p).pol.fields
  if (s.fn 0).tStarted then (if s.acknowledged p fields then done s else s)
  else if s.mayTell fields then (s.tell p fields).tHold op ops true
  else s.tHold op ops false

/-! ### What the page tables map (R423, R456) -/

/-- A leaf below a table: its entry's place, first address and size. -/
structure MapLeaf where
  entry : Nat
  va : Nat
  size : Nat
  leaf : Leaf
  deriving DecidableEq, Repr

/-- The entries of a table at a level; those from index 252 of an L0 table on are never read (R436). -/
def entriesOf (lo n : Nat) : List Nat := upto (if lo = 39 then 252 else 2 ^ n)

/-- The table that a well-formed entry of a level names (R436). -/
def tableOf (lo : Nat) (e : Word) : Option Nat :=
  if bitsOf e 0 2 != 1 || lo == 16 || bitsOf e 2 6 != 0 || bitsOf e 48 16 != 0 then none else some (bitsOf e 8 40 * 256)

/-- The leaf that a present entry of a level holds: none at L0 and L1, where a leaf is malformed (R436). -/
def leafAt (lo : Nat) (e : Word) : Option Leaf := if bitsOf e 0 2 != 3 || decide (21 < lo) then none else leafOf e (lo == 16)

/-- The leaves below a table for the addresses from va on, over the remaining levels. -/
def State.leavesFrom (s : State) : List (Nat × Nat) → Nat → Nat → List MapLeaf
  | [], _, _ => []
  | (lo, n) :: rest, t, va =>
    (entriesOf lo n).flatMap fun i =>
      let a := t + 8 * i
      let e := read64 s.cellar a
      match leafAt lo e, tableOf lo e with
      | some l, _ => [⟨a, va + i * 2 ^ lo, 2 ^ lo, l⟩]
      | none, some t' => s.leavesFrom rest t' (va + i * 2 ^ lo)
      | none, none => []

/-- The tables from one on, over the remaining levels. -/
def State.tablesFrom (s : State) : List (Nat × Nat) → Nat → List Nat
  | [], _ => []
  | (lo, n) :: rest, t =>
    t :: (entriesOf lo n).flatMap fun i =>
      match tableOf lo (read64 s.cellar (t + 8 * i)) with
      | some t' => s.tablesFrom rest t'
      | none => []

def State.leaves (s : State) (p : Nat) : List MapLeaf := s.leavesFrom levels (s.part p).root.toNat 0

/-- The leaves that map cellar memory, by first address and size. -/
def State.cellarLeaves (s : State) (p : Nat) : List (Nat × Nat) :=
  ((s.leaves p).filter fun l => l.leaf.cls != .host && !l.leaf.noext).map fun l => (l.va, l.size)

def totalSize (l : List (Nat × Nat)) : Nat := l.foldl (fun n k => n + k.2) 0

/-- Mapped cellar memory of a partition: its image's frames, and its page tables' leaves but those refused. -/
def State.mappedBytes (s : State) (p : Nat) : Nat :=
  (s.part p).mapped + totalSize ((s.cellarLeaves p).filter fun k => !(s.part p).refused.contains k)

/-- The high-water mark of mapped memory follows (R465). -/
def State.noteMem (s : State) (p : Nat) : State := s.updPart p fun x => { x with highMem := max x.highMem (s.mappedBytes p) }

/-- Refuses leaves in the order given, each that would take n mapped bytes past the quota (R423). -/
def refuse (memq : Nat) : Nat → List (Nat × Nat) → List (Nat × Nat)
  | _, [] => []
  | n, k :: rest => if n + k.2 ≤ memq then refuse memq (n + k.2) rest else k :: refuse memq n rest

/-- A change of a partition's page tables, from `old`: a mapping that stood stands, and a new one that would pass MEMQ is refused,
new ones by ascending address (R423, R456, log 64). -/
def State.regrant (old s : State) (p : Nat) : State :=
  let was := (old.cellarLeaves p).filter fun k => !(old.part p).refused.contains k
  let now := s.cellarLeaves p
  let kept := (s.part p).mapped + totalSize (now.filter was.contains)
  (s.updPart p fun x => { x with refused := refuse x.pol.memq kept (now.filter fun k => !was.contains k) }).noteMem p

/-- A page whose mapping was refused. -/
def State.refusedPage (s : State) (p page : Nat) : Bool :=
  (s.part p).refused.any fun k => decide (k.1 ≤ page * 0x10000) && decide (page * 0x10000 < k.1 + k.2)

/-- An L0 table can lie at a root: in the cellar (R436; log 40 for the status). -/
def rootOk (root : Word) : Bool := decide (root.toNat + 0x1000 ≤ Config.cellarEnd)

/-- SETROOT (R440). -/
def execSetroot (p : Nat) (root : Word) (s : State) : Result :=
  let ops := words [p, root.toNat]
  .next (s.tTakes 1 ops fun s =>
    if tmem s.parts p && !(s.part p).running && rootOk root then
      s.tOperate 1 ops p fun s => (s.regrant (s.updPart p fun x => { x with root := root }) p).tStatus 1 0 ops
    else s.tStatus 1 2 ops)

/-- INVAL (R441): an access translates at the step in which it performs, so no translation outlives its entry. -/
def execInval (p : Nat) (va : Word) (size : Nat) (s : State) : Result :=
  let ops := words [p, va.toNat, size]
  .next (s.tTakes 2 ops fun s =>
    if tmem s.parts p && decide (size ≤ 2) && decide (va.toNat < 2 ^ 48) then s.tOperate 2 ops p fun s => s.tStatus 2 0 ops
    else s.tStatus 2 2 ops)

/-! ### Waking and failing the waiters of a page (R445) -/

def onPage (page addr : Nat) : Bool := addr / 0x10000 == page

def Status.waits (st : Status) (page : Nat) : Bool := match st with | .firmware a => onPage page a | _ => false

/-- The thread is parked for this page. -/
def Thread.parkedFor (th : Thread) (p page : Nat) : Bool :=
  th.park == .firmware && match th.wait with | .page q a _ => q == p && onPage page a | _ => false

/-- The address at which an access waits for a page. -/
def Status.place : Status → Nat
  | .firmware a => a
  | _ => 0

/-- The address for whose page a thread is parked. -/
def Wait.place : Wait → Nat
  | .page _ a _ => a
  | _ => 0

/-- A waiter issues its access, or its instruction, again; `miss` is the addresses whose faults are on their way still. -/
def Thread.wake (th : Thread) (p page : Nat) (miss : Nat → Bool) : Thread :=
  let th' := { th with out := th.out.map fun a => if a.status.waits page && !miss a.status.place then { a with status := .pending } else a }
  if th.parkedFor p page && !miss th.wait.place then { th' with run := .ready, park := .no, wait := .none } else th'

/-- Every thread of partition p that the state lists, in its columns and in its contexts put away. -/
def State.threadsOf (s : State) (p : Nat) : List ThreadRef :=
  (s.part p).pol.columns.flatMap (fun ca => (((s.colOf p ca).threads.map (·.1)).filter fun n => n < 32).map fun n => ⟨ca, n⟩) ++
  (if (s.part p).pol.pres then s.listed.flatMap fun ca => ((s.col ca).listedTids true).map fun n => ⟨ca, n⟩ else [])

/-- The waiting threads and commands of a page of partition p. -/
def State.waitersOf (s : State) (p page : Nat) : List ThreadRef :=
  (s.threadsOf p).filter fun t =>
    let th := s.threadOf p t
    th.parkedFor p page || th.out.any fun a => a.status.waits page

def Cmd.waitsFor (c : Cmd) (page : Nat) : Bool := c.waits.any (onPage page)

/-- A page of those that a command waits for is resolved: it goes on once all are (R445). -/
def Cmd.wake (c : Cmd) (page : Nat) : Cmd :=
  let rest := c.waits.filter fun a => !onPage page a
  { c with waits := rest, status := match rest with | a :: _ => .firmware a | [] => .pending }

/-- The entry that a router holds for a page. -/
def State.entryAt (s : State) (p page ca : Nat) : Option RouterEntry :=
  s.routers.find? fun r => r.ca == ca && r.part == p && r.page == page

/-- The routers that a page's resolution reaches below one, at most n steps down, by the wake masks on its way: bit 1 the column to
the east, bit 2 to the south (R443). -/
def State.wokenFrom (s : State) (p page : Nat) : Nat → Nat → List Nat
  | 0, _ => []
  | n + 1, ca =>
    match s.entryAt p page ca with
    | none => []
    | some r =>
      ca :: (if r.wake.getLsbD 1 then s.wokenFrom p page n (ca + 1) else []) ++
        if r.wake.getLsbD 2 then s.wokenFrom p page n (ca + 64) else []

/-- The routers that a page's resolution reaches, from the field controllers of the partition down. -/
def State.woken (s : State) (p page : Nat) : List Nat :=
  (s.part p).pol.fields.flatMap fun n => s.wokenFrom p page 11 (64 * (4 * (n / 8)) + 8 * (n % 8))

/-- A fault of a page stands at its slice's router, in no entry: the table is full, or it is behind one that waits (R443). -/
def State.unentered (s : State) (p page ca : Nat) : Bool :=
  s.faults.any fun f => f.part == p && f.page == page && f.ca == ca && f.origin == ca

/-- A resolution misses a slice whose fault stands at a router on its way up still: it is answered when it arrives (R443, R445). -/
def State.missed (s : State) (p page ca : Nat) : Bool :=
  match s.entryAt p page ca with
  | some r => !((s.woken p page).contains ca && r.wake.getLsbD 4)
  | none => s.unentered p page ca

/-- The slice where an address of a page faulted is not woken. -/
def State.missedAt (s : State) (p addr : Nat) : Bool := s.missed p (addr / 0x10000) (s.faultOrigin p addr)

/-- The entries that the page's resolution reaches, and its open record, are gone (R443, R445). -/
def State.clearFault (s : State) (p page : Nat) : State :=
  let reached := s.woken p page
  { s with routers := s.routers.filter fun r => !(r.part == p && r.page == page && reached.contains r.ca),
           records := s.records.filter fun r => r != (p, page) }

/-- The command waits for the page and its resolution reaches it. -/
def State.cmdWoken (s : State) (p page : Nat) (c : Cmd) : Bool :=
  s.owns p c.t && c.waitsFor page && !(c.op.isMatrix && s.missed p page c.t.ca)

/-- The waiters that the resolution reaches go on (R443, R445). -/
def State.wakePage (s : State) (p page : Nat) : State :=
  let miss := s.missedAt p
  let ids := (s.cmds.filter (s.cmdWoken p page)).map (·.id)
  let s := (s.clearFault p page).each (s.waitersOf p page) fun s t => s.updThreadOf p t fun th => th.wake p page miss
  { s with cmds := s.cmds.map fun c => if ids.contains c.id then c.wake page else c }

/-- The waiting accesses of a thread fault unresolved (R445). -/
def Thread.failAccesses (th : Thread) (page : Nat) (c : Cause) (miss : Nat → Bool) : Thread :=
  { th with out := th.out.map fun a =>
      match a.status with | .firmware x => if onPage page x && !miss x then { a with status := .fault c x true } else a | _ => a }

/-- A thread whose context is put away takes a trap at the instruction it is parked at, to be handed over when it is back (R445, R364). -/
def State.trapAway (s : State) (p : Nat) (t : ThreadRef) (c : Cause) (addr : Nat) (k : TrapKind) : State :=
  let s := if c == .quota then s.updPart p fun x => { x with quotaTraps := x.quotaTraps + 1 } else s
  if isService t || !(s.part p).tvecEn then s.kill p c.code 0 t.ca none 0
  else s.updThreadOf p t fun th => th.park1 c addr th.ipc (tstatOf t th.ordered k)

/-- A thread that waits for a page receives a cause: at an access, deferred; parked at its instruction, there. -/
def State.failThread (s : State) (p page : Nat) (c : Cause) (miss : Nat → Bool) (t : ThreadRef) : State :=
  let th := s.threadOf p t
  let owed := th.out.any fun a => a.status.waits page && !miss a.status.place
  let s := s.updThreadOf p t fun th => th.failAccesses page c miss
  if th.parkedFor p page && !miss th.wait.place then
    if owed then
      s.updThreadOf p t fun th => { th with run := .ready, park := .no, wait := .none }
    else match th.wait with
      | .page _ a defer =>
        if isDrive t || (s.col t.ca).holder == some p then s.takeTrap t c a th.ipc ⟨defer, false, true⟩
        else s.trapAway p t c a ⟨defer, false, true⟩
      | _ => s
  else s.settle t

/-- The waiters receive PAGE_ABSENT or QUOTA; commands are abandoned (R445, R423). -/
def State.failPage (s : State) (p page : Nat) (c : Cause) : State :=
  let miss := s.missedAt p
  let cmds := s.cmds.filter (s.cmdWoken p page)
  let s := (s.clearFault p page).each (s.waitersOf p page) fun s t => s.failThread p page c miss t
  s.each cmds fun s x =>
    match x.waits.find? (onPage page) with | some a => s.abandon x c a true | none => s

/-! ### The tree and the batches (R443, R444) -/

/-- The router a fault goes on to, west along its row to the field's first column and then north; none at the field's
north-west column, where the field controller listens. -/
def nextRouter (ca : Nat) : Option Nat :=
  if caCol ca % 8 ≠ 0 then some (ca - 1) else if caRow ca % 4 ≠ 0 then some (ca - 64) else none

/-- The port by which a fault entered a router: its own column, from the east, or from the south. -/
def FaultMsg.port (f : FaultMsg) : Nat :=
  if f.origin = f.ca then 4 else if caCol f.ca % 8 = 0 && caRow f.ca != caRow f.origin then 2 else 1

def State.dropMsg (s : State) (id : Nat) : State := { s with faults := s.faults.filter fun x => x.id != id }

/-- The fault as the field controller posts it. -/
def FaultMsg.posted (f : FaultMsg) : Posted := ⟨f.part, f.page, 1, f.origin, f.wr, f.fetch, f.malformed, f.engine⟩

/-- The fault leaves its router, in which it has an entry. -/
def State.enterFault (s : State) (f : FaultMsg) : State :=
  { (s.dropMsg f.id) with routers := s.routers ++ [⟨f.ca, f.part, f.page, 1#5 <<< f.port⟩] }

/-- A fault takes an entry at its router and goes on, or the field controller, which combines as a router does, sends it to the
scheduler, for which it needs a permit (R428). -/
def State.passFault (s : State) (f : FaultMsg) : State :=
  match nextRouter f.ca with
  | some next => { (s.enterFault f) with faults := (s.dropMsg f.id).faults ++ [{ f with ca := next }] }
  | none =>
    if (s.link (backLink (fieldOf f.ca))).permits = 0 then s
    else (s.enterFault f).transmit (backLink (fieldOf f.ca)) f.part (some f.posted)

/-- A fault that reached the router before this one, over the same link, waits there (R443). -/
def State.behind (s : State) (f : FaultMsg) : Bool :=
  (s.faults.takeWhile fun x => x.id != f.id).any fun x => x.ca == f.ca && x.port == f.port

/-- FAULT_COMBINE (R443). -/
def execFaultCombine (id : Nat) (s : State) : Result :=
  .next (match s.faults.find? fun f => f.id == id with
    | none => s
    | some f =>
      let mine (r : RouterEntry) : Bool := r.ca == f.ca && r.part == f.part && r.page == f.page
      if s.behind f then s
      else if s.routers.any mine then
        { (s.dropMsg id) with routers := s.routers.map fun r => if mine r then { r with wake := r.wake ||| (1#5 <<< f.port) } else r }
      else if (s.routers.filter fun r => r.ca == f.ca).length < 16 then s.passFault f
      else s)

/-- The order of a batch: page, then partition, then write flag; one of an absent entry before one of a malformed one. -/
def BatchEntry.before (a b : BatchEntry) : Bool :=
  decide (a.page < b.page) || a.page == b.page &&
    (decide (a.part < b.part) || a.part == b.part && decide (2 * a.wr.toNat + a.mal.toNat < 2 * b.wr.toNat + b.mal.toNat))

def insertEntry (x : BatchEntry) : List BatchEntry → List BatchEntry
  | [] => [x]
  | y :: r => if x = y then y :: r else if x.before y then x :: y :: r else y :: insertEntry x r

/-- Merges pages that follow one another, of one partition and write flag, into ranges (R444); a range is MALFORMED where a page of
it is (log 59). -/
def mergeRanges (ca : Nat) : List BatchEntry → List Posted
  | [] => []
  | e :: rest =>
    match mergeRanges ca rest with
    | r :: rs =>
      if r.part = e.part && r.page == e.page + 1 && r.wr == e.wr then
        { r with page := e.page, count := r.count + 1, malformed := r.malformed || e.mal } :: rs
      else ⟨e.part, e.page, 1, ca, e.wr, false, e.mal, true⟩ :: r :: rs
    | [] => [⟨e.part, e.page, 1, ca, e.wr, false, e.mal, true⟩]

/-- A column's batch is delivered to its field controller: at 32 entries, or 2,000 ticks after the first (R444). -/
def State.deliverBatch (s : State) (ca : Nat) : State :=
  match s.batches.find? fun b => b.ca == ca with
  | none => s
  | some b =>
    if 32 ≤ b.entries.length || decide (b.start + 2000 ≤ s.now) then
      { s with batches := s.batches.erase b, ranges := s.ranges ++ mergeRanges ca (b.entries.foldr insertEntry []) }
    else s

/-- A field controller sends at most k of its ranges to the scheduler, in their order, each at a permit (R428). -/
def State.sendRanges (s : State) (n : Nat) : Nat → State
  | 0 => s
  | k + 1 =>
    match s.ranges.find? fun r => fieldOf r.ca == n with
    | none => s
    | some r =>
      if (s.link (backLink n)).permits = 0 then s
      else State.sendRanges (({ s with ranges := s.ranges.erase r } : State).transmit (backLink n) r.part (some r)) n k

/-- FAULT_BATCH_DELIVERY (R444): the batch of a column that is due; then what its field controller may send (R428). -/
def execFaultBatchDelivery (ca : Nat) (s : State) : Result := .next ((s.deliverBatch ca).sendRanges (fieldOf ca) 32)

/-! ### Service (R445 to R447) -/

/-- A page now translates. -/
def State.maps (s : State) (p page : Nat) : Bool := match s.translate p (page * 0x10000) with | .ok _ => true | .error _ => false

/-- The page of a HOST L3 entry with V = 0 and MIG = 1: the entry's place and word (R447). -/
def State.migEntry (s : State) (p page : Nat) : Option (Nat × Word) :=
  match s.walk (s.part p).root.toNat (page * 0x10000) with
  | .absent false (some a) =>
    let e := read64 s.cellar a
    if bitsOf e 0 2 = 2 then
      match leafOf (e ||| 1#64) true with
      | some l => if l.cls = .host && l.mig then some (a, e) else none
      | none => none
    else none
  | _ => none

/-- A page that translates wakes its waiters; one whose mapping was refused gives them QUOTA (R423, R445). -/
def State.serveMapped (s : State) (p page : Nat) : State :=
  if s.refusedPage p page then s.failPage p page .quota else s.wakePage p page

/-- A posted fault that names a page. -/
def Posted.has (x : Posted) (p page : Nat) : Bool := x.part == p && decide (x.page ≤ page) && decide (page < x.page + x.count)

/-- A range without one of its pages. -/
def Posted.without (x : Posted) (page : Nat) : List Posted :=
  (if x.page < page then [{ x with count := page - x.page }] else []) ++
  (if page + 1 < x.page + x.count then [{ x with page := page + 1, count := x.page + x.count - (page + 1) }] else [])

def State.takePosted (s : State) (p page : Nat) : State :=
  { s with posted := s.posted.flatMap fun x => if x.has p page then x.without page else [x] }

/-- Frames in use: of images, of migrated pages, and those that partitions' page tables lie in and map (R412, R447). -/
def State.usedFrames (s : State) : List Nat :=
  s.parts.flatMap fun e =>
    e.2.fwPages.map (fun f => bitsOf f.leaf 16 32) ++ e.2.migrated.map (·.frame) ++
    (s.tablesFrom levels e.2.root.toNat).map (· / 0x10000) ++
    ((s.leaves e.1).filter fun l => l.leaf.cls != .host && !l.leaf.noext).flatMap fun l =>
      (upto (l.size / 0x10000)).map fun i => l.leaf.frame / 0x10000 + i

/-- Frames of the cellar. -/
def frameCount : Nat := Config.cellarEnd / 0x10000

/-- A frame of the cellar is free. -/
def State.frameLeft (s : State) : Bool := decide ((s.usedFrames.filter fun f => decide (f < frameCount)).eraseDups.length < frameCount)

/-- A page may not migrate: MEMQ is reached, or no frame is left (R447). -/
def State.noFrame (s : State) (p : Nat) : Bool := decide ((s.part p).pol.memq < s.mappedBytes p + 0x10000) || !s.frameLeft

/-- A frame is filled, and its old poison gone with what it held (R450). -/
def State.fillFrame (s : State) (frame : Nat) (bs : List Byte) : State :=
  { s with cellar := mwrite s.cellar (frame * 0x10000) bs,
           poison := s.poison.filter fun e => match e.at_ with | .cellar l => l / 1024 != frame | _ => true }

/-- A frame number that firmware may take: in the cellar and free. -/
def State.frameFree (s : State) (frame : Nat) : Bool := decide (frame < frameCount) && !s.usedFrames.contains frame

/-- MIGRATION of a page into a frame (R447): copy, entry, table, wake; QUOTA where no frame is left within MEMQ. -/
def State.migrate (s : State) (p page frame a : Nat) (e : Word) : State :=
  if s.noFrame p then s.failPage p page .quota
  else if s.frameFree frame then
    let host := bitsOf e 16 32 * 0x10000
    let data := mread s.hostMem host 0x10000
    let leaf := BitVec.ofNat 64 (bitsOf e 48 16 * 2 ^ 48 + frame * 65536 + bitsOf e 8 1 * 256 + bitsOf e 5 2 * 32 + 3)
    let s := s.fillFrame frame data
    let s := { s with cellar := mwrite s.cellar a (leBytes 8 leaf.toNat) }
    ((s.updPart p fun x => { x with migrated := x.migrated ++ [⟨page, host, frame, bitsOf e 5 1 == 1, a⟩] }).noteMem p).wakePage p page
  else s

/-- Whether an event ring is configured. -/
def State.evConfigured (s : State) : Bool := (s.fn 0).evbase != 0

/-- The poison that a walk for a page uses (R450). -/
def State.walkTaint (s : State) (p page : Nat) : Option Place :=
  match s.translate p (page * 0x10000) with | .error (.poison x) => some x | _ => none

/-- Pages of a range from its first on that need a record: they do not translate, do not migrate and have none open. -/
def State.recordable (s : State) (p : Nat) : Nat → Nat → Nat
  | _, 0 => 0
  | page, n + 1 =>
    if s.maps p page || (s.walkTaint p page).isSome || (s.migEntry p page).isSome || s.records.contains (p, page) then 0 else 1 + s.recordable p (page + 1) n

/-- The record of a fault, or of a range of n pages (R446). -/
def Posted.record (x : Posted) (n now : Nat) : List Byte :=
  eventBytes (if x.count = 1 then 1 else 2) x.part x.ca
    ((if x.wr then 1 else 0) + (if x.fetch then 2 else 0) + (if x.malformed then 4 else 0) + (if x.engine then 8 else 0))
    n (x.page * 0x10000) now 0

/-- Step 3 of R445 for the first pages of a posted fault. -/
def State.recordFault (s : State) (x : Posted) : State :=
  let n := s.recordable x.part x.page x.count
  let pages := (upto n).map fun i => x.page + i
  if s.evConfigured then
    if s.evRoom then
      let s := (s.postEvent (x.record n s.now)).each pages fun s g => s.takePosted x.part g
      { s with records := s.records ++ pages.map fun g => (x.part, g) }
    else s
  else s.each pages fun s g => (s.takePosted x.part g).failPage x.part g .pageAbsent

/-- PAGE_FAULT_SERVICE (R445): a walk that uses poison kills (R450); of one page of a posted fault; frame is the frame firmware would migrate into. -/
def execPageFaultService (p page frame : Nat) (s : State) : Result :=
  .next (match s.posted.find? fun x => x.has p page with
    | none => s
    | some x =>
      match s.walkTaint p page with
      | some y => s.consumeFor p y
      | none =>
      if s.maps p page || s.refusedPage p page then (s.takePosted p page).serveMapped p page
      else match s.migEntry p page with
        | some (a, e) =>
          if s.frameFree frame || s.noFrame p then
            (s.takePosted p page).migrate p page frame a e
          else s
        | none =>
          if s.records.contains (p, page) then s.takePosted p page
          else if x.page = page then s.recordFault x
          else s)

/-- What RESOLVE does with a page that has an open record: firmware walks again, a walk that uses poison kills (R445, R450). -/
def State.resolvePage (s : State) (p page outcome : Nat) : State :=
  if outcome = 0 then
    match s.walkTaint p page with
    | some x => s.consumeFor p x
    | none => if s.maps p page || s.refusedPage p page then s.serveMapped p page else s.failPage p page .pageAbsent
  else s.failPage p page .pageAbsent

/-- RESOLVE (R440, R445): of a page with an open record. -/
def execResolve (p : Nat) (va : Word) (outcome : Nat) (s : State) : Result :=
  let page := va.toNat / 0x10000
  let ops := words [p, va.toNat, outcome]
  .next (s.tTakes 3 ops fun s =>
    if !tmem s.parts p || decide (1 < outcome) || decide (2 ^ 48 ≤ va.toNat) then s.tStatus 3 2 ops
    else if s.records.contains (p, page) then s.tOperate 3 ops p fun s => (s.tStatus 3 0 ops).resolvePage p page outcome
    else s.tStatus 3 0 ops)

/-- The cellar lines of a migrated page that are poisoned. -/
def State.taintedLines (s : State) (m : Migrated) : List Nat := (s.poison.filterMap fun e => match e.at_ with
  | .cellar l => if l / 1024 = m.frame then some (l % 1024) else none
  | _ => none)

/-- The 64 KiB that are written back: a poisoned line is not, and its host bytes stand (log 91: DESIGN CHOICE). -/
def State.writeBack (s : State) (m : Migrated) : List Byte :=
  let bad := s.taintedLines m
  if bad.isEmpty then mread s.cellar (m.frame * 0x10000) 0x10000
  else (upto 1024).flatMap fun i => mread (if bad.contains i then s.hostMem else s.cellar)
    ((if bad.contains i then m.host else m.frame * 0x10000) + 64 * i) 64

/-- The write-back and restoring of a migrated page at completion (R447). -/
def State.restorePage (s : State) (p : Nat) (m : Migrated) : State :=
  let e := read64 s.cellar m.entry
  let host := BitVec.ofNat 64 (bitsOf e 48 16 * 2 ^ 48 + m.host + 512 + bitsOf e 8 1 * 256 + bitsOf e 5 2 * 32 + 5 * 4 + 2)
  let s := if m.wr then s.writeHost m.host (s.writeBack m) else s
  let s := { s with cellar := mwrite s.cellar m.entry (leBytes 8 host.toNat) }
  s.updPart p fun x => { x with migrated := x.migrated.filter fun y => y.page != m.page }

/-- The poison that the write-back of a partition's migrated pages uses, but for one whose kill is under way (R450, R452). -/
def State.restoreTaint (s : State) (p : Nat) : Option Place :=
  if (s.part p).fenced then none
  else (s.part p).migrated.findSome? fun m =>
    match (if m.wr then s.taintedLines m else []) with
    | i :: _ => some (.cellar (m.frame * 1024 + i))
    | [] => if s.bad (m.entry / 64) then some (.cellar (m.entry / 64)) else none

/-- Poison in the write-back kills the partition: its launch, ended or not, completes as KILLED (R450, R451, R427). -/
def State.restoreKills (s : State) (p : Nat) : State :=
  match s.restoreTaint p with
  | none => s
  | some x => (s.consumeFor p x).updPart p fun q => { q with launch := q.launch.map fun l =>
      { l with ended := l.ended.map fun e => (3, Cause.machineCheck.code, e.2.2) } }

def State.restorePages (s : State) (p : Nat) : State := s.each (s.part p).migrated fun s m => s.restorePage p m

/-! ### Containment (R449 to R451) -/

/-- PARTITION_KILL (R451, R452): an uncorrected error that check structure x detected was consumed; its line, where it has one, is
poisoned. -/
def execPartitionKill (p : Nat) (x : Checker) (line : Nat) (s : State) : Result :=
  .next (if tmem s.parts p && caOk x.ca && decide (1 ≤ x.unit) && decide (x.unit ≤ 10) then
      (if line = 0 then s else s.taintAt x.ca x.unit (.cellar (line / 64))).kill p 0x18 0 x.ca (some x.unit) line
    else s)

/-- Whether an uncorrected error of a STRUCT waits in its data to be consumed: loft and cellar lines, and page-table entries; and of
shadow storage (R449, R450). -/
def waitsInData (unit : Nat) : Bool := unit == 1 || unit == 2 || unit == 3 || unit == 10

/-- Partition p has data at a place that a check structure guards. -/
def State.hasPlace (s : State) (p : Nat) : Place → Bool
  | .cellar line => decide (64 * line < Config.cellarEnd)
  | .home ca line => (s.col ca).holder == some p && decide (64 * line < 0x100000)
  | .loft ca line => (s.col ca).holder == some p && decide (64 * line < (s.col ca).loftSize)
  | .cell q tag line => q == p && ((s.part p).cellAt tag line).isSome
  | .slot q addr => q == p && addr != 0 &&
      (((s.part p).slots.any fun x => x.addr == addr) || (s.queued (s.part p).pol).any fun e => e.2.addr == addr)
  | .arg q line => q == p && (s.part p).launch.isSome && decide (64 * line < 0x10000)

/-- An error that its structure does not correct: the place is poisoned, or the context of a column put away is bad, and one error
record is written (R449, R450). -/
def State.spoil (s : State) (p ca unit : Nat) (x : Place) : State :=
  if !tmem s.parts p || !caOk ca then s
  else if waitsInData unit && s.hasPlace p x then (s.taintAt ca unit x).errorRecord p ca (some unit) x.addr
  else if unit = 9 && s.saved.any (fun v => v.part == p && v.ca == ca) then
    State.errorRecord { s with saved := s.saved.map fun v => if v.part = p && v.ca == ca then { v with bad := true } else v } p ca
      (some 9) 0
  else s

end Sys2Proof.Machine
end

