-- ==== Sys2Proof/Machine/Crypto.lean ====
section
/-! DEFINITION. SHAKE256 (FIPS 202) and Ed448 in its pure form with an empty context (RFC 8032), which 24_fleet R454, R463 and
R464 name. Their formulas are those standards' (log 8). -/

namespace Sys2Proof.Machine.Crypto

/-! ### SHAKE256 -/

/-- Rotation of a lane. -/
def rot (x : BitVec 64) (n : Nat) : BitVec 64 := x.rotateLeft n

/-- Round constants of Keccak-f[1600]. -/
def roundConstants : List (BitVec 64) :=
  [0x0000000000000001, 0x0000000000008082, 0x800000000000808A, 0x8000000080008000, 0x000000000000808B, 0x0000000080000001,
   0x8000000080008081, 0x8000000000008009, 0x000000000000008A, 0x0000000000000088, 0x0000000080008009, 0x000000008000000A] ++
  [0x000000008000808B, 0x800000000000008B, 0x8000000000008089, 0x8000000000008003, 0x8000000000008002, 0x8000000000000080,
   0x000000000000800A, 0x800000008000000A, 0x8000000080008081, 0x8000000000008080, 0x0000000080000001, 0x8000000080008008]

/-- Rotation offsets, lane x + 5 y. -/
def offsets : List Nat :=
  [0, 1, 62, 28, 27, 36, 44, 6, 55, 20, 3, 10, 43, 25, 39, 41, 45, 15, 21, 8, 18, 2, 61, 56, 14]

def lane (a : List (BitVec 64)) (x y : Nat) : BitVec 64 := a.getD (x % 5 + 5 * (y % 5)) 0

/-- One round. -/
def round (a : List (BitVec 64)) (rc : BitVec 64) : List (BitVec 64) :=
  let c := (upto 5).map fun x => (upto 5).foldl (fun z y => z ^^^ lane a x y) 0
  let d := (upto 5).map fun x => c.getD ((x + 4) % 5) 0 ^^^ rot (c.getD ((x + 1) % 5) 0) 1
  let a := (upto 25).map fun i => a.getD i 0 ^^^ d.getD (i % 5) 0
  -- lane (X, Y) of the permuted state comes from lane (X + 3 Y, X)
  let b := (upto 25).map fun i =>
    let x := (i % 5 + 3 * (i / 5)) % 5
    let y := i % 5
    rot (lane a x y) (offsets.getD (x + 5 * y) 0)
  let e := (upto 25).map fun i => lane b (i % 5) (i / 5) ^^^ (~~~(lane b (i % 5 + 1) (i / 5)) &&& lane b (i % 5 + 2) (i / 5))
  match e with | z :: r => (z ^^^ rc) :: r | [] => []

def permute (a : List (BitVec 64)) : List (BitVec 64) := roundConstants.foldl round a

/-- The rate in bytes. -/
def rate : Nat := 136

/-- A block of at most `rate` bytes as lanes. -/
def blockLanes (bs : List Byte) : List (BitVec 64) := (upto 25).map fun i => BitVec.ofNat 64 (leNat ((bs.drop (8 * i)).take 8))

def xorInto (a b : List (BitVec 64)) : List (BitVec 64) := (upto 25).map fun i => a.getD i 0 ^^^ b.getD i 0

/-- The message with SHAKE's suffix and padding. -/
def pad (m : List Byte) : List Byte :=
  let k := rate - m.length % rate
  if k = 1 then m ++ [0x9F#8] else m ++ [0x1F#8] ++ List.replicate (k - 2) 0#8 ++ [0x80#8]

def absorb : Nat → List (BitVec 64) → List Byte → List (BitVec 64)
  | 0, a, _ => a
  | n + 1, a, bs => absorb n (permute (xorInto a (blockLanes (bs.take rate)))) (bs.drop rate)

def laneBytes (a : List (BitVec 64)) : List Byte := (a.take 17).flatMap fun x => leBytes 8 x.toNat

def squeeze : Nat → List (BitVec 64) → List Byte
  | 0, _ => []
  | n + 1, a => laneBytes a ++ squeeze n (permute a)

/-- n bytes of SHAKE256 of a message. -/
def shake (m : List Byte) (n : Nat) : List Byte :=
  let p := pad m
  (squeeze ((n + rate - 1) / rate) (absorb (p.length / rate) (List.replicate 25 0#64) p)).take n

/-! ### The field and the curve of Ed448 -/

def prime : Nat := 2 ^ 448 - 2 ^ 224 - 1
def order : Nat := 2 ^ 446 - 13818066809895115352007386748515426880336692474882178609894547503885
/-- d = -39081. -/
def dCurve : Nat := prime - 39081

def fadd (a b : Nat) : Nat := (a + b) % prime
def fsub (a b : Nat) : Nat := (a + (prime - b % prime)) % prime
def fmul (a b : Nat) : Nat := a * b % prime

/-- a to the power e, e below 2^n, modulo the prime. -/
def fpow (a e : Nat) : Nat → Nat
  | 0 => 1
  | n + 1 =>
    let h := fpow a (e / 2) n
    if e % 2 = 1 then fmul a (fmul h h) else fmul h h

/-- A point as (X, Y, Z). -/
structure Point where
  x : Nat
  y : Nat
  z : Nat
  deriving DecidableEq, Repr

def Point.zero : Point := ⟨0, 1, 1⟩

def Point.add (p q : Point) : Point :=
  let a := fmul p.z q.z
  let b := fmul a a
  let c := fmul p.x q.x
  let d := fmul p.y q.y
  let e := fmul dCurve (fmul c d)
  let f := fsub b e
  let g := fadd b e
  let h := fmul (fadd p.x p.y) (fadd q.x q.y)
  ⟨fmul (fmul a f) (fsub (fsub h c) d), fmul (fmul a g) (fsub d c), fmul f g⟩

/-- k times a point, k below 2^n. -/
def Point.mul (p : Point) (k : Nat) : Nat → Point
  | 0 => Point.zero
  | n + 1 =>
    let h := p.mul (k / 2) n
    let h2 := h.add h
    if k % 2 = 1 then h2.add p else h2

def Point.same (p q : Point) : Bool := fmul p.x q.z == fmul q.x p.z && fmul p.y q.z == fmul q.y p.z

def base : Point :=
  ⟨224580040295924300187604334099896036246789641632564134246125461686950415467406032909029192869357953282578032075146446173674602635247710,
   298819210078481492676017930443930673437544040154080242095928241372331506189835876003536878655418784733982303233503462500531545062832660, 1⟩

/-- A point's 57 bytes. -/
def Point.encode (p : Point) : List Byte :=
  let zi := fpow p.z (prime - 2) 448
  let x := fmul p.x zi
  let y := fmul p.y zi
  leBytes 56 y ++ [if x % 2 = 1 then 0x80#8 else 0#8]

/-- The point that 57 bytes encode, if any. -/
def Point.decode (bs : List Byte) : Option Point :=
  let y := leNat (bs.take 56)
  let last := leNat (bs.drop 56)
  if bs.length ≠ 57 ∨ last % 128 ≠ 0 ∨ prime ≤ y then none
  else
    let y2 := fmul y y
    let u := fsub y2 1
    let v := fsub (fmul dCurve y2) 1
    let u3 := fmul u (fmul u u)
    let v3 := fmul v (fmul v v)
    let x := fmul (fmul u3 v) (fpow (fmul (fmul u3 (fmul u u)) v3) ((prime - 3) / 4) 448)
    if fmul v (fmul x x) ≠ u then none
    else if x = 0 ∧ last = 128 then none
    else some ⟨if x % 2 = last / 128 then x else (prime - x) % prime, y, 1⟩

/-! ### Ed448 -/

/-- dom4 with an empty context: "SigEd448", 0, 0. -/
def dom : List Byte := [0x53#8, 0x69#8, 0x67#8, 0x45#8, 0x64#8, 0x34#8, 0x34#8, 0x38#8, 0#8, 0#8]

def hashScalar (bs : List Byte) : Nat := leNat (shake (dom ++ bs) 114) % order

/-- Verifies a 114-byte signature of a message under a 57-byte key. -/
def verify (key msg sig : List Byte) : Bool :=
  let r := sig.take 57
  let sc := leNat (sig.drop 57)
  match Point.decode key, Point.decode r with
  | some a, some rp =>
    let k := hashScalar (r ++ key ++ msg)
    sig.length == 114 && decide (sc < order) && Point.same ((base.mul sc 448).mul 4 3) ((rp.add (a.mul k 448)).mul 4 3)
  | _, _ => false

/-- The secret scalar and the prefix of a 57-byte private key. -/
def secret (key : List Byte) : Nat × List Byte :=
  let h := shake key 114
  let n := leNat (h.take 56)
  (n / 4 * 4 % 2 ^ 447 + 2 ^ 447, h.drop 57)

def publicKey (key : List Byte) : List Byte := (base.mul (secret key).1 448).encode

/-- The signature of a message under a 57-byte private key. -/
def sign (key msg : List Byte) : List Byte :=
  let (a, pre) := secret key
  let pub := publicKey key
  let r := hashScalar (pre ++ msg)
  let rb := (base.mul r 448).encode
  let k := hashScalar (rb ++ pub ++ msg)
  rb ++ leBytes 57 ((r + k * a) % order)

end Sys2Proof.Machine.Crypto
end

