-- ==== Sys2Proof/Machine/Image.lean ====
section
/-! DEFINITION. Portable images and the finaliser (21_images R399 to R413): parsing, exchange plans, relocation. Binding is a
function of the image, the defect record, the partition's origin and its policy record (R411), and of the frames that
firmware takes. -/

namespace Sys2Proof.Machine

/-! ### The image's tables (R399, R400, R402, R405) -/

/-- n bytes at offset o of an image, as a number. -/
def at_ (img : List Byte) (o n : Nat) : Nat := leNat ((img.drop o).take n)

structure Sect where
  kind : Nat
  align : Nat
  size : Nat
  file : Nat
  deriving DecidableEq, Repr

structure Reloc where
  sect : Nat
  ty : Nat
  lcol : Nat
  off : Nat
  sym : Nat
  add : Int
  deriving DecidableEq, Repr

structure Phase where
  first : Nat
  n : Nat
  deadline : Nat
  level : Nat
  deriving DecidableEq, Repr

structure Plan where
  src : Nat
  lines : Nat
  slot : Nat
  dst : List Nat
  route : Nat
  deriving DecidableEq, Repr

/-- An image that R399 and R400 accept. -/
structure Zpi where
  flags : Nat
  dist : Nat
  rows : Nat
  cols : Nat
  sects : List Sect
  rels : List Reloc
  phases : List Phase
  plans : List Plan
  /-- (kind, section offset) of each entry, and the section -/
  entries : List (Nat × Nat × Nat)
  syms : List (Nat × Nat)
  deriving DecidableEq, Repr

/-- The six tables: count field, offset field, entry size, least and greatest count. -/
def tableSpecs : List (Nat × Nat × Nat × Nat × Nat) :=
  [(16, 20, 24, 1, 16), (24, 28, 24, 0, 2 ^ 32), (32, 36, 8, 0, 256), (40, 44, 32, 0, 4096), (48, 52, 8, 1, 5), (56, 60, 8, 0, 2 ^ 32)]

/-- Each table's start and end. -/
def tableSpans (img : List Byte) : List (Nat × Nat) :=
  tableSpecs.map fun t => (at_ img t.2.1 4, at_ img t.2.1 4 + at_ img t.1 4 * t.2.2.1)

def disjoint : List (Nat × Nat) → Bool
  | [] => true
  | a :: rest => (rest.all fun b => decide (a.2 ≤ b.1) || decide (b.2 ≤ a.1) || a.1 == a.2 || b.1 == b.2) && disjoint rest

/-- Counts in range, offsets multiples of 8, no table past the end or over another (R399). -/
def tablesOk (img : List Byte) : Bool :=
  (tableSpecs.all fun t => decide (t.2.2.2.1 ≤ at_ img t.1 4) && decide (at_ img t.1 4 ≤ t.2.2.2.2) && at_ img t.2.1 4 % 8 == 0) &&
  ((tableSpans img).all fun x => decide (x.2 ≤ img.length)) && disjoint (tableSpans img)

/-- The entries of a table, by their offsets. -/
def rowsOf (img : List Byte) (t : Nat × Nat × Nat × Nat × Nat) : List Nat :=
  (upto (at_ img t.1 4)).map fun i => at_ img t.2.1 4 + i * t.2.2.1

def table (img : List Byte) (n : Nat) : List Nat := rowsOf img (tableSpecs.getD n (0, 0, 0, 0, 0))

/-- The least ALIGN of a section kind (R208, R400). -/
def minAlign (kind : Nat) : Nat := if kind = 0 then 3 else 6

def sectAt (img : List Byte) (o : Nat) : Option Sect :=
  let s : Sect := ⟨at_ img o 1, at_ img (o + 1) 1, at_ img (o + 8) 8, at_ img (o + 16) 8⟩
  if 3 < s.kind ∨ s.align < minAlign s.kind ∨ 16 < s.align ∨ at_ img (o + 2) 6 ≠ 0 ∨ 2 ^ 32 ≤ s.size ∨
      (s.kind = 3 ∧ s.file ≠ 0) ∨ (s.kind ≠ 3 ∧ img.length < s.file + s.size) then none else some s

/-- A logical coordinate inside the extent (R401). -/
def coordOk (rows cols c : Nat) : Bool := decide (c / 64 < rows) && decide (c % 64 < cols)

def relAt (img : List Byte) (o nsect nsym nxfer rows cols : Nat) : Option Reloc :=
  let r : Reloc := ⟨at_ img o 1, at_ img (o + 1) 1, at_ img (o + 2) 2, at_ img (o + 4) 4, at_ img (o + 8) 4,
    (BitVec.ofNat 64 (at_ img (o + 16) 8)).toInt⟩
  let symOk := if r.ty ≤ 3 then decide (r.sym < nsym) else if r.ty ≤ 6 then r.sym == 0xFFFFFFFF else decide (r.sym < nxfer)
  let colOk := if 4 ≤ r.ty ∧ r.ty ≤ 6 then coordOk rows cols r.lcol else r.lcol == 0
  if r.ty = 0 ∨ 8 < r.ty ∨ nsect ≤ r.sect ∨ at_ img (o + 12) 4 ≠ 0 ∨ symOk = false ∨ colOk = false then none else some r

def phaseAt (img : List Byte) (nxfer o : Nat) : Option Phase :=
  let p : Phase := ⟨at_ img o 2, at_ img (o + 2) 2, at_ img (o + 4) 2, at_ img (o + 6) 1⟩
  if p.n = 0 ∨ 4096 < p.n ∨ nxfer < p.first + p.n ∨ p.deadline < 4 ∨ 4095 < p.deadline ∨ 4 < p.level ∨ at_ img (o + 7) 1 ≠ 0 then none
  else some p

def planAt (img : List Byte) (rows cols o : Nat) : Option Plan :=
  let n := at_ img (o + 6) 1
  let all := (upto 8).map fun i => at_ img (o + 8 + 2 * i) 2
  let p : Plan := ⟨at_ img o 2, at_ img (o + 2) 2, at_ img (o + 4) 2, all.take n, at_ img (o + 24) 8⟩
  if p.lines = 0 ∨ 1024 < p.lines ∨ 4095 < p.slot ∨ n = 0 ∨ 8 < n ∨ at_ img (o + 7) 1 ≠ 0 ∨ (all.drop n).any (· != 0) = true ∨
      ((p.src :: p.dst).all (coordOk rows cols)) = false then none
  else some p

def symAt (img : List Byte) (sects : List Sect) (o : Nat) : Option (Nat × Nat) :=
  match sects[at_ img o 1]? with
  | none => none
  | some s => if at_ img (o + 1) 3 ≠ 0 ∨ s.size < at_ img (o + 4) 4 then none else some (at_ img o 1, at_ img (o + 4) 4)

def entryAt (img : List Byte) (sects : List Sect) (syms : List (Nat × Nat)) (o : Nat) : Option (Nat × Nat × Nat) :=
  match syms[at_ img (o + 4) 4]? with
  | none => none
  | some (sec, off) =>
    let text := match sects[sec]? with | some s => s.kind == 0 | none => false
    if 4 < at_ img o 1 ∨ at_ img (o + 1) 3 ≠ 0 ∨ text = false ∨ off % 8 ≠ 0 then none else some (at_ img o 1, sec, off)

def allSome {α : Type} : List (Option α) → Option (List α)
  | [] => some []
  | none :: _ => none
  | some a :: r => (allSome r).map (a :: ·)

/-- Exactly one control entry, at most one of each kind, and drive kinds under PRES alone (R400). -/
def entriesOk (flags : Nat) (es : List (Nat × Nat × Nat)) : Bool :=
  let count (k : Nat) : Nat := (es.filter fun e => e.1 == k).length
  count 0 == 1 && decide (count 1 ≤ 1) && decide (count 2 ≤ 1) && decide (count 3 ≤ 1) && decide (count 4 ≤ 1) &&
  (flags % 2 == 1 || (count 1 == 0 && count 4 == 0))

/-- The phases cover every transfer exactly once (R400). -/
def phasesCover (phases : List Phase) (n : Nat) : Bool :=
  (upto n).all fun i => (phases.filter fun p => decide (p.first ≤ i) && decide (i < p.first + p.n)).length == 1

/-- Step 1 of R409: the image, or the code of its refusal. -/
def parseZpi (img : List Byte) : Except Nat Zpi :=
  if img.length < 64 ∨ at_ img 0 4 ≠ leNat [0x5A#8, 0x50#8, 0x49#8, 0x31#8] then .error 1
  else if at_ img 4 2 ≠ 1 then .error 2
  else
    let flags := at_ img 6 2
    let rows := at_ img 12 2
    let cols := at_ img 14 2
    if 8 ≤ flags ∨ rows % 4 ≠ 0 ∨ rows < 4 ∨ 36 < rows ∨ cols % 8 ≠ 0 ∨ cols < 8 ∨ 64 < cols ∨ tablesOk img = false then .error 1
    else
      let nxfer := at_ img 40 4
      match allSome ((table img 0).map (sectAt img)) with
      | none => .error 1
      | some sects =>
      match allSome ((table img 5).map (symAt img sects)) with
      | none => .error 1
      | some syms =>
      match allSome ((table img 1).map fun o => relAt img o sects.length syms.length nxfer rows cols),
            allSome ((table img 2).map (phaseAt img nxfer)), allSome ((table img 3).map (planAt img rows cols)),
            allSome ((table img 4).map (entryAt img sects syms)) with
      | some rels, some phases, some plans, some entries =>
        if entriesOk flags entries && phasesCover phases nxfer then .ok ⟨flags, at_ img 8 4, rows, cols, sects, rels, phases, plans, entries, syms⟩
        else .error 1
      | _, _, _, _ => .error 1

/-! ### Placement (R409 step 5, R410) -/

def pagesOf (s : Sect) : Nat := (s.size + 0xFFFF) / 0x10000

/-- The virtual address of each section: in table order from the window's start, each on pages of its own. -/
def placeFrom : Nat → List Sect → List Nat
  | _, [] => []
  | va, s :: r => va :: placeFrom (va + 0x10000 * pagesOf s) r

def placeSects (l : List Sect) : List Nat := placeFrom Config.imgWindow l

def imagePages (l : List Sect) : Nat := (l.map pagesOf).foldl (· + ·) 0

/-- A section's leaf entry over a frame number: code and read-only data REPLICATED and read-only, the rest SHARED and writable. -/
def sectLeaf (kind frame : Nat) : Word :=
  BitVec.ofNat 64 (frame * 65536 + 3 + (match kind with | 0 => 3 * 4 + 64 | 1 => 3 * 4 | _ => 32))

/-! ### Routes (R406) -/

/-- Where a column's step in a direction leads, over links that are not retired. -/
def State.linkStep (s : State) (p : Policy) (ca dir : Nat) : Option Nat :=
  match p.step ca dir with
  | some n => if s.linkRetired (ca, n) then none else some n
  | none => none

def dirs : List Nat := [0, 1, 2, 3]

/-- The columns at each distance from a target, at most n steps away. -/
def State.rings (s : State) (p : Policy) : Nat → List Nat → List Nat → List (List Nat)
  | 0, _, ring => [ring]
  | n + 1, seen, ring =>
    let seen := seen ++ ring
    let next := (p.columns.filter fun ca => !seen.contains ca && dirs.any fun d =>
      match s.linkStep p ca d with | some x => ring.contains x | none => false)
    if next.isEmpty then [ring] else ring :: s.rings p n seen next

/-- The first shortest path of directions over rings taken from the target outwards. -/
def State.follow (s : State) (p : Policy) : Nat → List (List Nat) → Option (List Nat)
  | _, [] => some []
  | ca, ring :: rest =>
    match dirs.find? fun d => match s.linkStep p ca d with | some x => ring.contains x | none => false with
    | none => none
    | some d => (s.follow p ((s.linkStep p ca d).getD 0) rest).map (d :: ·)

/-- A leg's directions (R406); none where there is no path of 1 to 24 steps. -/
def State.leg (s : State) (p : Policy) (src dst : Nat) : Option (List Nat) :=
  let rs := s.rings p 24 [] [dst]
  match (upto rs.length).find? fun k => (rs.getD k []).contains src with
  | none | some 0 => none
  | some k => s.follow p src ((rs.take k).reverse)

/-- The turn of a step after a direction (R273); none for a reversal. -/
def routeTurn (dir next : Nat) : Option Nat :=
  if next = dir then some 0 else if next = (dir + 3) % 4 then some 1 else if next = (dir + 1) % 4 then some 2 else none

/-- The turns within a leg that arrives over directions ds: one for each column entered, 3 at the target. -/
def legTurns : List Nat → Option (List Nat)
  | [] => none
  | [_] => some [3]
  | a :: b :: r =>
    match routeTurn a b, legTurns (b :: r) with
    | some t, some ts => some (t :: ts)
    | _, _ => none

/-- The legs' turns: a target keeps the direction (R273), so the next leg must begin straight on. -/
def routeOver : List (List Nat) → Option (List Nat)
  | [] => some []
  | [l] => legTurns l
  | l :: m :: r =>
    if l.getLast? = m.head? then
      match legTurns l, routeOver (m :: r) with
      | some a, some b => some (a ++ b)
      | _, _ => none
    else none

/-- A bound route: its string without the slot, and the links it crosses. -/
def State.bindRoute (s : State) (p : Policy) (src : Nat) (dst : List Nat) : Option (Nat × List (Nat × Nat)) :=
  let starts := src :: dst
  match allSome ((starts.zip dst).map fun e => s.leg p e.1 e.2) with
  | none => none
  | some legs =>
    match routeOver legs with
    | none => none
    | some turns =>
      if 24 < turns.length then none
      else
        let dir := (legs.headD []).headD 0
        let str := dir * 2 ^ 60 + ((upto turns.length).foldl (fun n k => n + turns.getD k 0 * 2 ^ (58 - 2 * k)) 0)
        some (str, (p.route src dir turns).links)

/-! ### Slots (R407, R408) -/

/-- A bound transfer: its slot, its route string with the slot, its links, its slots' number. -/
structure Bound where
  slot : Nat
  route : Nat
  links : List (Nat × Nat)
  span : Nat
  deriving DecidableEq, Repr

/-- Two bound transfers hold one link in one slot. -/
def Bound.collides (a b : Bound) : Bool :=
  decide (a.slot < b.slot + b.span) && decide (b.slot < a.slot + a.span) && a.links.any b.links.contains

/-- The first candidate slot from n on, at most fuel of them (R407). -/
def pickSlot (b : Bound) (others : List Bound) (deadline : Nat) : Nat → Nat → Option Bound
  | 0, _ => none
  | fuel + 1, n =>
    let c := { b with slot := n }
    if deadline < n + b.span - 1 + 3 then none
    else if others.any c.collides then pickSlot b others deadline fuel (n + 1)
    else some { c with route := b.route + n }

/-- Binds one transfer after those bound in its phase, or gives the code of R413. -/
def State.bindPlan (s : State) (p : Policy) (ph : Phase) (done : List Bound) (x : Plan) : Except Nat Bound :=
  let ca (c : Nat) : Nat := p.origin + c
  if (x.src :: x.dst).any fun c => s.retired.contains (ca c) then .error 7
  else match s.bindRoute p (ca x.src) (x.dst.map ca) with
  | none => .error 8
  | some (str, links) =>
    let b : Bound := ⟨x.slot, str, links, (x.lines + 31) / 32⟩
    if 0 < ph.level && (done.any fun d => d.links.any links.contains) then .error 9
    else match pickSlot b done ph.deadline 4096 x.slot with
      | none => .error 9
      | some b => .ok b

/-- Binds a phase's transfers in ascending index order. -/
def State.bindPhase (s : State) (p : Policy) (ph : Phase) : List Plan → List Bound → Except Nat (List Bound)
  | [], done => .ok done
  | x :: rest, done =>
    match s.bindPlan p ph done x with
    | .error e => .error e
    | .ok b => s.bindPhase p ph rest (done ++ [b])

/-- Binds every phase: (transfer index, bound transfer). -/
def State.bindPhases (s : State) (p : Policy) (plans : List Plan) : List Phase → Except Nat (List (Nat × Bound))
  | [] => .ok []
  | ph :: rest =>
    match s.bindPhase p ph ((plans.drop ph.first).take ph.n) [] with
    | .error e => .error e
    | .ok bs => match s.bindPhases p plans rest with
      | .error e => .error e
      | .ok r => .ok (((upto bs.length).zip bs).map (fun e => (ph.first + e.1, e.2)) ++ r)

/-- The policy by which routes wrap: only under FLAGS.TORUS (R406). -/
def Zpi.wrapping (z : Zpi) (p : Policy) : Policy := { p with roles := if z.flags / 4 % 2 = 1 then p.roles else p.roles &&& 3#3 }

/-! ### Relocation (R403, R404, R207) -/

/-- A relocation's field: bytes of its unit, bits written. -/
def relField (ty : Nat) : Nat × Nat :=
  match ty with
  | 1 | 6 | 7 => (8, 64) | 2 => (4, 20) | 3 | 5 | 8 => (4, 15) | _ => (2, 12)

def Reloc.bits (r : Reloc) : Nat × Nat × Nat := (r.sect, 8 * r.off, 8 * r.off + (relField r.ty).2)

/-- Two relocations write a common bit. -/
def relsClash : List Reloc → Bool
  | [] => false
  | r :: rest => (rest.any fun q => r.sect == q.sect && decide (r.bits.2.1 < q.bits.2.2) && decide (q.bits.2.1 < r.bits.2.2)) || relsClash rest

/-- lo15 and hi20 of R207, in range. -/
def splitConst (x : Int) : Option (Nat × Nat) :=
  if -(2 ^ 34) - 2 ^ 14 ≤ x ∧ x ≤ 2 ^ 34 - 2 ^ 14 - 1 then
    let lo := (BitVec.ofInt 15 x).toInt
    some ((BitVec.ofInt 15 lo).toNat, (BitVec.ofInt 20 ((x - lo) / 2 ^ 15)).toNat)
  else none

/-- A relocation's value; none where it leaves its range (R403). -/
def Zpi.relValue (z : Zpi) (p : Policy) (places : List Nat) (bound : List (Nat × Bound)) (r : Reloc) : Option Nat :=
  let sym := z.syms.getD r.sym (0, 0)
  let x : Int := (places.getD sym.1 0 + sym.2 : Nat) + r.add
  let ca := p.origin + r.lcol
  let b := ((bound.find? fun e => e.1 == r.sym).map (·.2)).getD ⟨0, 0, [], 1⟩
  match r.ty with
  | 1 => some (BitVec.ofInt 64 x).toNat
  | 2 => (splitConst x).map (·.2)
  | 3 => (splitConst x).map (·.1)
  | 4 | 5 => some ca
  | 6 => if 0 ≤ r.add ∧ r.add ≤ 0x2FFFFF then some (Config.scratchBase + caRow ca * 2 ^ 28 + caCol ca * 2 ^ 22 + r.add.toNat) else none
  | 7 => some b.route
  | _ => some b.slot

/-- What a relocation's field holds as assembled (R403). -/
def Zpi.relHeld (z : Zpi) (r : Reloc) : Nat :=
  let x := z.plans.getD r.sym ⟨0, 0, 0, [], 0⟩
  match r.ty with | 7 => x.route | 8 => x.slot | _ => 0

/-- Bytes with n bytes at o replaced. -/
def patch (bs : List Byte) (o : Nat) (new : List Byte) : List Byte := bs.take o ++ new ++ bs.drop (o + new.length)

/-- Applies one relocation to a section's bytes, or gives the code of R413. -/
def Zpi.relocate (z : Zpi) (p : Policy) (places : List Nat) (bound : List (Nat × Bound)) (r : Reloc) (bs : List Byte) :
    Except Nat (List Byte) :=
  let (n, w) := relField r.ty
  let old := leNat ((bs.drop r.off).take n)
  let kind := match z.sects[r.sect]? with | some s => s.kind | none => 3
  if kind = 3 ∨ r.off % n ≠ 0 ∨ bs.length < r.off + n ∨ old % 2 ^ w ≠ z.relHeld r then .error 1
  else match z.relValue p places bound r with
    | none => .error 6
    | some v => .ok (patch bs r.off (leBytes n (old / 2 ^ w * 2 ^ w + v % 2 ^ w)))

/-- Applies relocations in table order. -/
def Zpi.relocAll (z : Zpi) (p : Policy) (places : List Nat) (bound : List (Nat × Bound)) :
    List Reloc → List (List Byte) → Except Nat (List (List Byte))
  | [], secs => .ok secs
  | r :: rest, secs =>
    match z.relocate p places bound r (secs.getD r.sect []) with
    | .error e => .error e
    | .ok bs => z.relocAll p places bound rest (secs.set r.sect bs)

/-! ### Binding (R409) -/

/-- A bound image: its sections with their addresses, its bytes, its entries. -/
structure BoundImage where
  z : Zpi
  places : List Nat
  secs : List (List Byte)
  deriving DecidableEq, Repr

/-- A section's assembled bytes. -/
def sectBytes (img : List Byte) (s : Sect) : List Byte :=
  if s.kind = 3 then List.replicate s.size 0#8 else (img.drop s.file).take s.size

/-- Steps 1 to 7 of R409, or the code of R413. `others`: mapped bytes that this binding does not free (R410). -/
def State.bindImage (s : State) (p : Policy) (others : Nat) (img : List Byte) : Except Nat BoundImage :=
  match parseZpi img with
  | .error e => .error e
  | .ok z =>
    if z.dist < 1024 ∨ 1048576 < z.dist ∨ p.distmax < z.dist then .error 3
    else if z.rows ≠ p.rows ∨ z.cols ≠ p.cols then .error 4
    else if (z.flags % 2 = 1 ∧ p.pres = false) ∨ (z.flags / 2 % 2 = 1 ∧ p.resid = false) ∨ (z.flags / 4 % 2 = 1 ∧ p.torus = false) then .error 5
    else if Config.windowPages < imagePages z.sects ∨ p.memq = 0 ∨ p.memq < others + 0x10000 * imagePages z.sects then .error 10
    else match s.bindPhases (z.wrapping p) z.plans z.phases with
    | .error e => .error e
    | .ok bound =>
      let places := placeSects z.sects
      if relsClash z.rels then .error 1
      else match z.relocAll p places bound z.rels (z.sects.map (sectBytes img)) with
        | .error e => .error e
        | .ok secs => .ok ⟨z, places, secs⟩

/-- The pages of a bound image with the frames given: page number, leaf entry, contents. -/
def BoundImage.pages (b : BoundImage) (frames : List Nat) : List (Nat × Nat × Nat × List Byte) :=
  let flat := ((b.z.sects.zip (b.places.zip b.secs)).flatMap fun e =>
    (upto (pagesOf e.1)).map fun i =>
      let bs := (e.2.2.drop (0x10000 * i)).take 0x10000
      (e.1.kind, e.2.1 / 0x10000 + i, bs ++ List.replicate (0x10000 - bs.length) 0#8))
  (flat.zip frames).map fun x => (x.1.2.1, x.1.1, x.2, x.1.2.2)

/-- The bound address of an entry kind (R400). -/
def BoundImage.entry (b : BoundImage) (kind : Nat) : Option Word :=
  (b.z.entries.find? fun e => e.1 == kind).map fun e => BitVec.ofNat 64 (b.places.getD e.2.1 0 + e.2.2)

/-- The measurement of a bound image (R409 step 8): of its sections' bound bytes in table order (log 12). -/
def BoundImage.record (b : BoundImage) : List Byte := b.secs.flatten

end Sys2Proof.Machine
end

