-- ==== Sys2Proof/Machine/Launch.lean ====
section
/-! DEFINITION. Launches (22_host_launch R424 to R427): the doorbell, a launch record taken, bound and started (02_execution R38),
the end of a launch, and its completion record. -/

namespace Sys2Proof.Machine

/-! ### Rings (22's table of function registers) -/

/-- How far index a lies past index b; indices are 64-bit registers. -/
def ringDist (a b : Nat) : Nat := (a + 2 ^ 64 - b) % 2 ^ 64

def ringNext (a : Nat) : Nat := (a + 1) % 2 ^ 64

/-- A launch record waits in the function's ring. -/
def HostFn.launchWaits (f : HostFn) : Bool := f.lqhead != f.lqtail

/-- The completion ring has room for a record (R427). -/
def HostFn.completionRoom (f : HostFn) : Bool := decide (ringDist f.cqtail f.cqhead < 2 ^ f.cqsize)

/-- A function of the device (R417), whose last message does not wait at the link for room in its inbox (R420). -/
def State.linkFree (s : State) (fn : Nat) : Bool := decide (fn ≤ 15) && !s.net.any fun m => m.from_.isNone && m.fromPart == 16 + fn

/-- The bytes of a completion record (R427). -/
def completionBytes (cookie : Word) (status phase code stranded start stop : Nat) : List Byte :=
  leBytes 8 cookie.toNat ++ leBytes 1 status ++ leBytes 1 phase ++ leBytes 2 code ++ leBytes 4 stranded ++
  leBytes 8 start ++ leBytes 8 stop

/-- The statuses whose CODE R427 gives; the others' CODE is a free value (log 22). -/
def codeGiven (status : Nat) : Bool := status == 1 || status == 2 || status == 3

/-- Writes a completion record to a function's ring and signals vector 1 (R427). START is free where no thread started (log 22). -/
def State.complete (s : State) (fn : Nat) (cookie : Word) (status code stranded : Nat) (start : Option Nat) (stop : Nat) : State :=
  let f := s.fn fn
  let (x, s) := s.free
  let code := if codeGiven status then code else x
  let start := match start with | some t => t | none => x
  let phase := if f.cqphase then 0 else 1
  let bs := completionBytes cookie status phase code stranded start stop
  let last := decide (f.cqtail % 2 ^ f.cqsize + 1 = 2 ^ f.cqsize)
  let s := s.writeHost (f.cqbase.toNat + 32 * (f.cqtail % 2 ^ f.cqsize)) bs
  (s.updFn fn fun f => { f with cqtail := ringNext f.cqtail, cqphase := if last then !f.cqphase else f.cqphase }).signal fn 1

/-! ### LAUNCH_DOORBELL -/

/-- A launch needs the partition: an eviction ends (R422 PEVICT). -/
def Partition.needed (x : Partition) (now : Nat) : Partition :=
  { x with evicted := false,
           wants := if x.running && !x.here && !x.coming && x.wants.isNone then some now else x.wants }

/-- LAUNCH_DOORBELL: a write of LQTAIL, which does not serve in recovery (R460). An index too far from LQHEAD is ignored with error
vector 0. -/
def execLaunchDoorbell (fn tail : Nat) (s : State) : Result :=
  .next (
    let f := s.fn fn
    if !s.linkFree fn || s.boot.recovery then s
    else if 2 ^ f.lqsize < ringDist (tail % 2 ^ 64) f.lqhead then s.signal fn 0
    else
      let s := s.updFn fn fun f => { f with lqtail := tail % 2 ^ 64 }
      match f.bound with
      | some p => s.updPart p fun x => x.needed s.now
      | none => s)

/-! ### Launch entry (R38, R426) -/

/-- The argument block (R426). -/
def argBytes (args : List Byte) (retired : List Nat) (columns : Nat) (cookie : Word) : List Byte :=
  args ++ List.replicate (0xC00 - args.length) 0#8 ++ leBytes 2 retired.length ++ leBytes 2 columns ++ leBytes 4 0 ++
  leBytes 8 cookie.toNat ++ (upto 32).flatMap fun i => leBytes 2 (retired.getD i 0xFFFF)

/-- A general thread at launch entry (R38): everything not listed holds zero; the counts of messages it has sent go on (log 24). -/
def Thread.launched (old : Thread) (drv : Bool) (pol : Policy) (ca tid : Nat) (entry almanac : Word) : Thread :=
  let th := Thread.resetAt tid
  let th := { th with run := .ready, pc := entry, vl := if drv then 16 else 0, sent := old.sent }
  ((((((th.ws 1 (BitVec.ofNat 64 ca)).ws 2 (BitVec.ofNat 64 pol.origin)).ws 3 (BitVec.ofNat 64 (pol.rows * 256 + pol.cols))).ws 4
    (BitVec.ofNat 64 Config.fwWindow)).ws 5 (BitVec.ofNat 64 (if drv then 0 else tid))).ws 6 almanac)

/-- A column's control side at launch entry: its threads start, and its system registers are at their reset values (log 23). The
registers of T3 are zero then, and those of D1 as they were (log 87: DESIGN CHOICE). -/
def Column.launched (c : Column) (pol : Policy) (ca : Nat) (entry almanac : Word) : Column :=
  let ths := (upto Config.generalThreads).map fun tid => (tid, (c.thread tid).launched false pol ca tid entry almanac)
  { c with threads := ths ++ c.threads.filter (fun e => decide (32 ≤ e.1)), ways := 16, loft := [], loftStatus := 0,
           upReq := false, upState := false,
           domLevel := 0, domX := false, domEpoch := 0, domid := 0, lease := none, leaseUntil := none, lastLease := 23, mrots := 0, rotsSent := [], colls := [],
           xcount := 0, xopen := [], xt0 := 0, xrecvd := false, xlanded := [] }

/-- D0 at launch entry; it waits for its partition to be resident (R21, R26). -/
def Column.launchedD0 (c : Column) (pol : Policy) (ca : Nat) (entry almanac : Word) (resident : Bool) : Column :=
  c.updThread Config.tidD0 fun th =>
    let th := th.launched true pol ca Config.tidD0 entry almanac
    if resident then th else th.parkFor .ready

/-- The partition's own registers and counts at launch (14_isa_system's map, R70, R425), with its launch. -/
def Partition.launched (x : Partition) (l : Launch) (handler : Option Word) (now : Nat) : Partition :=
  { x with launch := some { l with start := if x.here then some now else none },
           tvecEn := handler.isSome, tvecAddr := handler.getD 0, thdisp := x.pol.thdisp, pdist := x.pol.pdist,
           grbase := 0, grhead := 0, grtail := 0, govf := 0, places := [], barWait := [], told := false,
           evicted := false, wants := if x.here || x.coming then x.wants else some now,
           quantumFrom := x.quantumFrom }

/-- The instruction buffers of a column's drive threads are emptied (R97, R409). -/
def Column.refetch (c : Column) : Column :=
  { c with threads := c.threads.map fun e => if 32 ≤ e.1 then (e.1, { e.2 with ibuf := [] }) else e }

/-- Every thread of partition p starts (R38, R21), in one move: R38's first global barrier of the front end is that move (log 69:
DESIGN CHOICE). Without a drive entry the pixels' lit values stay as they are (log 93: DESIGN CHOICE). -/
def State.startThreads (s : State) (p : Nat) (l : Launch) : State :=
  let pol := (s.part p).pol
  let res := (s.part p).here
  let s := s.each (s.members pol) fun s ca => s.updColOf p ca fun c => c.launched pol ca l.control s.almanac
  if pol.pres then
    let s := s.updCols s.listed fun c => { c.refetch with upReq := false, upState := false }
    match l.drive with
    | some e => s.each allColumns fun s ca => s.updCol ca fun c => c.launchedD0 pol ca e s.almanac res
    | none => s
  else s

/-! ### LAUNCH_RECORD (R424, R425, R409, R410) -/

/-- A launch record's fields. -/
structure LaunchRec where
  image : Nat
  ilen : Nat
  alen : Nat
  args : Nat
  tlimit : Nat
  cookie : Word
  reserved : Nat
  deriving DecidableEq, Repr

def launchRecAt (m : Mem) (a : Nat) : LaunchRec :=
  let n (o k : Nat) : Nat := leNat (mread m (a + o) k)
  ⟨n 0 8, n 8 4, n 12 4, n 16 8, n 24 8, BitVec.ofNat 64 (n 32 8), n 40 24⟩

/-- R424's refusals. -/
def LaunchRec.refused (r : LaunchRec) (bound : Bool) : Bool := r.reserved != 0 || decide (3072 < r.alen) || !bound

/-- Extends a measurement register with a record (R463). -/
def extend512 (m record : List Byte) : List Byte := Crypto.shake (m ++ Crypto.shake record 64) 64

/-- Leaf entries that the driver put into the image window (R410). -/
def State.strays (s : State) (p : Nat) : List MapLeaf :=
  (s.leaves p).filter fun l => decide (Config.imgWindow ≤ l.va) && decide (l.va < Config.fwWindow)

/-- What a binding removes first: the partition's previous binding with its frames, and any driver mapping in the image window
(R410). -/
def State.unbound (s : State) (p : Nat) : State :=
  let s := s.each (s.strays p) fun s l => { s with cellar := mwrite s.cellar l.entry (leBytes 8 0) }
  s.updPart p fun x => { x with mapped := x.mapped - 0x10000 * x.fwPages.length, fwPages := [] }

/-- Distinct free frames, as many as the image has pages. -/
def State.framesOk (s : State) (frames : List Nat) (n : Nat) : Bool :=
  let used := s.usedFrames
  frames.length == n && (frames.all fun f => decide (f < frameCount) && !used.contains f) && decide frames.Nodup

/-- Places a bound image's pages and records its measurement (R409 steps 5 to 9). -/
def State.placeImage (s : State) (p : Nat) (b : BoundImage) (frames : List Nat) : State :=
  let pages := b.pages frames
  let s := s.each pages fun s x => s.fillFrame x.2.2.1 x.2.2.2
  let img := Crypto.shake b.record 64
  let s := (s.updPart p fun x =>
    { x with mapped := x.mapped + 0x10000 * pages.length, fwPages := pages.map fun y => ⟨y.1, sectLeaf y.2.1 y.2.2.1⟩,
             img := img }).noteMem p
  { s with boot := { s.boot with mreg3 := extend512 s.boot.mreg3 b.record } }

/-- The launch a record and its bound image give (R425). -/
def launchOf (fn : Nat) (r : LaunchRec) (b : BoundImage) : Launch :=
  ⟨fn, r.cookie, r.tlimit, none, 0, b.z.dist, (b.entry 0).getD 0, b.entry 1, b.entry 3, b.entry 4, none⟩

/-- A bound launch starts. -/
def State.begin (s : State) (fn p : Nat) (r : LaunchRec) (b : BoundImage) (frames : List Nat) : State :=
  let pol := (s.part p).pol
  let retired := pol.columns.filter s.retired.contains
  let l := launchOf fn r b
  let args := mread s.hostMem r.args r.alen
  let block := argBytes args retired ((s.members pol).length) r.cookie
  let s := (s.unbound p).placeImage p b frames
  let s := s.updPart p fun x => { x.launched l (b.entry 2) s.now with argBlock := mwrite [] 0 block }
  let s := { s with poison := s.poison.filter fun e => match e.at_ with
    | .arg q _ => q != p
    | .loft ca _ => (s.col ca).holder != some p
    | _ => true }
  s.startThreads p l

/-- The function's next record is taken. -/
def State.takeRecord (s : State) (fn : Nat) : State := s.updFn fn fun f => { f with lqhead := ringNext f.lqhead }

/-- A function's next record, at LQHEAD. -/
def State.nextRecord (s : State) (fn : Nat) : LaunchRec :=
  let f := s.fn fn
  launchRecAt s.hostMem (f.lqbase.toNat + 64 * (f.lqhead % 2 ^ f.lqsize))

/-- Firmware may take a launch: it runs, and no trip bars launches (R457). -/
def State.mayLaunch (s : State) : Bool := s.boot.running && !s.boot.barred

/-- A launch that never started has its completion record: GROVF as it stands is that of the last completion (R465). -/
def Partition.turnedAway (x : Partition) : Partition := { x with lastOvf := x.govf, told := false }

/-- A function's record ends without a launch of partition p, once its completion ring has room (R424, R425, R427). -/
def State.turnAway (s : State) (fn p : Nat) (cookie : Word) (status code : Nat) : State :=
  if (s.fn fn).completionRoom then
    ((s.takeRecord fn).updPart p Partition.turnedAway).complete fn cookie status code 0 none s.now
  else s

/-- A bound launch is sent to its partition's field controllers, and starts once all have acknowledged it (R428). -/
def State.openLaunch (s : State) (p : Nat) (start : State → State) : State :=
  if (s.part p).told then (if s.acknowledged p (s.part p).pol.fields then start s else s)
  else if s.mayTell (s.part p).pol.fields then (s.tell p (s.part p).pol.fields).updPart p fun x => { x with told := true }
  else s

/-- Binds a record that is not refused, for partition p (R409, R425). -/
def State.bindRecord (s : State) (fn p : Nat) (r : LaunchRec) (frames : List Nat) : State :=
  let bare := s.unbound p
  match bare.bindImage (s.part p).pol (bare.mappedBytes p) (mread s.hostMem r.image r.ilen) with
  | .error code => s.turnAway fn p r.cookie 2 code
  | .ok b =>
    s.openLaunch p fun s => if bare.framesOk frames (imagePages b.z.sects) then (s.takeRecord fn).begin fn p r b frames else s

/-- LAUNCH_RECORD (R425). `frames`: the cellar frames that firmware gives the image (log 21). -/
def execLaunchRecord (fn : Nat) (frames : List Nat) (s : State) : Result :=
  .next (
    let f := s.fn fn
    if s.mayLaunch && f.launchWaits then
      let r := s.nextRecord fn
      match f.bound with
      | none => if f.completionRoom then (s.takeRecord fn).complete fn r.cookie 6 0 0 none s.now else s
      | some p =>
        if (s.part p).launch.isSome || (s.part p).leaving then s
        else if r.refused true then s.turnAway fn p r.cookie 6 0
        else s.bindRecord fn p r frames
    else s)

/-! ### The end of a launch -/

/-- Every general thread of a column's control side is Idle and its queues are empty. -/
def Column.quiet (c : Column) : Bool :=
  (c.threads.all fun e => decide (24 ≤ e.1) || e.2.run == .idle) && c.q0.isEmpty && c.q1.isEmpty && c.q2.isEmpty && c.q3.isEmpty

def Column.quietD0 (c : Column) : Bool := (c.thread Config.tidD0).run == .idle

/-- The partition's launch has come to its end (R260). -/
def State.launchDone (s : State) (p : Nat) : Bool :=
  let x := s.part p
  x.running && (match x.launch with | some l => l.start.isSome | none => false) && x.slots.isEmpty &&
  (x.pol.columns.all fun ca => (s.colOf p ca).quiet) && (!x.pol.pres || s.cols.all fun e => e.2.quietD0)

/-- LAUNCH_COMPLETE (R260). -/
def execLaunchComplete (p : Nat) (s : State) : Result := .next (if s.launchDone p then s.endLaunch p 0 0 else s)

/-- A launch of the partition has its completion record (R427, R465). -/
def Partition.completed (x : Partition) (status : Nat) : Partition :=
  { x with launch := none, wb := [], lastOvf := x.govf, launches := if status = 0 then x.launches + 1 else x.launches }

/-- COMPLETION_RECORD (R427), with the writing back of migrated pages (R447), in which poison kills first (R450). -/
def execCompletionRecord (p : Nat) (s : State) : Result :=
  .next (match (s.part p).launch with
    | none => s
    | some l =>
      match l.ended with
      | none => s
      | some (status, code, stranded, stop) =>
        if (s.fn l.fn).completionRoom then
          if (s.restoreTaint p).isSome then s.restoreKills p
          else
          let s := (s.restorePages p).updPart p fun x => x.completed status
          s.complete l.fn l.cookie status code stranded l.start stop
        else s)

/-- The launch of a partition has run for longer than its limit. -/
def Partition.overTime (x : Partition) (now : Nat) : Bool :=
  match x.launch with
  | some l => x.running && l.tlimit != 0 && decide (1000 * l.tlimit < x.runTime now)
  | none => false

/-- LAUNCH_TIMEOUT (R427). -/
def execLaunchTimeout (p : Nat) (s : State) : Result := .next (if (s.part p).overTime s.now then s.haltPart p 4 0 else s)

end Sys2Proof.Machine
end

