-- ==== Sys2Proof/Machine/Host.lean ====
section
/-! DEFINITION. The host's side (22_host_launch R417 to R423, R428): function registers, BAR2, scene messages, and the commands
that create, destroy and bind partitions; signed records (24_fleet R454, R455), which PCREATE verifies. -/

namespace Sys2Proof.Machine

/-! ### Function registers -/

/-- A 64-byte register file with 8 bytes replaced, at byte offset o. -/
def put512 (x : BitVec 512) (o : Nat) (v : Word) : BitVec 512 := setLineBytes x o (leBytes 8 v.toNat)

/-- REFSTAT (R435). -/
def Reference.word (r : Reference) : Word := BitVec.ofNat 64 (r.err.toNat * 2 ^ 32 + r.state.toNat)

/-- A firmware slot's bytes, and the security version number of its record. -/
def Boot.slotBytes (b : Boot) (slot : Bool) : List Byte := if slot then b.slotB else b.slotA
def svnOf (bs : List Byte) : Nat := leNat ((bs.drop 8).take 4)

/-- FWSTAT (24's table). -/
def Boot.fwstat (b : Boot) : Word :=
  BitVec.ofNat 64 (b.floor % 2 ^ 16 * 2 ^ 48 + svnOf (b.slotBytes b.slot) % 2 ^ 16 * 2 ^ 32 + b.tries % 4 * 4 +
    (if b.trial then 2 else 0) + (if b.slot then 1 else 0))

/-- FSTAT. -/
def HostFn.fstat (f : HostFn) : Word :=
  BitVec.ofNat 64 (match f.bound with | some p => f.drop.toNat * 65536 + p * 16 + 1 | none => f.drop.toNat * 65536)

/-- A register on the PF alone; zero on a VF. -/
def pfOnly (fn : Nat) (w : Word) : Word := if fn = 0 then w else 0

/-- 8 bytes of a 64-byte register. -/
def part512 (x : BitVec 512) (o : Nat) : Word := BitVec.ofNat 64 (field512 x (8 * o) 64)

/-- What a read of a function's BAR0 returns at a byte offset (22's, 23's and 24's tables). -/
def State.barRead (s : State) (fn off : Nat) : Word :=
  let f := s.fn fn
  let n (x : Nat) : Word := BitVec.ofNat 64 x
  if s.boot.recovery then
    (if off = 0x440 then pfOnly fn s.boot.fwstat
     else if 0x400 ≤ off ∧ off < 0x440 then pfOnly fn (part512 f.fwcmd (off - 0x400)) else 0)
  else match off with
  | 0x000 => f.fstat | 0x010 => f.lqbase | 0x018 => n f.lqsize | 0x020 => n f.lqtail | 0x028 => n f.lqhead
  | 0x030 => f.cqbase | 0x038 => n f.cqsize | 0x040 => n f.cqtail | 0x048 => n f.cqhead | 0x050 => n f.msgtgt.toNat
  | 0x100 => s.almanac | 0x108 => pfOnly fn s.almOff | 0x110 => pfOnly fn s.ref.word | 0x118 => pfOnly fn f.winbase
  | 0x120 => f.vfwin | 0x340 => pfOnly fn f.evbase | 0x348 => pfOnly fn (n f.evsize) | 0x350 => pfOnly fn (n f.evtail)
  | 0x358 => pfOnly fn (n f.evhead) | 0x360 => pfOnly fn (n f.evlost.toNat) | 0x440 => pfOnly fn s.boot.fwstat
  | 0x448 => pfOnly fn s.boot.nonce
  | _ =>
    if 0x080 ≤ off ∧ off < 0x0C0 then part512 f.msgbuf (off - 0x080)
    else if 0x200 ≤ off ∧ off < 0x240 then pfOnly fn (part512 f.pfcmd (off - 0x200))
    else if 0x300 ≤ off ∧ off < 0x340 then pfOnly fn (part512 f.tcmd (off - 0x300))
    else if 0x400 ≤ off ∧ off < 0x440 then pfOnly fn (part512 f.fwcmd (off - 0x400))
    else 0

/-- The known opcodes of PFCMD, TCMD and FWCMD (R422, R440, R458). -/
def pfKnown (op : Nat) : Bool := decide (1 ≤ op) && decide (op ≤ 5)
def tKnown (op : Nat) : Bool := decide (1 ≤ op) && decide (op ≤ 3)
def fwKnown (op : Nat) : Bool := decide (1 ≤ op) && decide (op ≤ 7)

/-- A command register's 8 bytes at o; an opcode that is not known gets status 0xFF in byte 2. -/
def putCommand (x : BitVec 512) (o : Nat) (v : Word) (known : Nat → Bool) : BitVec 512 :=
  let y := put512 x o v
  if o = 0 && !known (bitsOf v 0 16) then setLineBytes y 2 [0xFF#8] else y

/-- An address register of a ring: 4 KiB aligned; a size register: n 0 to 8, else the write is discarded (log 25). -/
def align4k (v : Word) : Word := v &&& ~~~0xFFF#64
def ringBits (old : Nat) (v : Word) : Nat := if bitsOf v 0 4 ≤ 8 then bitsOf v 0 4 else old

/-- A ring register: written while LQHEAD = LQTAIL alone, else counted in DROP. -/
def HostFn.ring (f g : HostFn) : HostFn := if f.launchWaits then f.count else g

/-- A function's registers after a write of 8 bytes at off; the PF-only registers of a VF ignore it. WINBASE keeps the bits that a
multiple of the BAR's size has (R418, log 25). -/
def HostFn.write (f : HostFn) (pf : Bool) (off : Nat) (v : Word) : HostFn :=
  match off with
  | 0x010 => f.ring { f with lqbase := align4k v }
  | 0x018 => f.ring { f with lqsize := ringBits f.lqsize v }
  | 0x030 => f.ring { f with cqbase := align4k v }
  | 0x038 => f.ring { f with cqsize := ringBits f.cqsize v }
  | 0x048 => { f with cqhead := v.toNat }
  | 0x050 => { f with msgtgt := v.truncate 13 }
  | 0x118 => if pf then { f with winbase := BitVec.ofNat 64 (v.toNat / 2 ^ f.barBits * 2 ^ f.barBits) } else f
  | 0x120 => if pf then f else { f with vfwin := v &&& ~~~0xFFFF#64 }
  | 0x340 => if pf then { f with evbase := align4k v } else f
  | 0x348 => if pf then { f with evsize := ringBits f.evsize v } else f
  | 0x358 => if pf then { f with evhead := v.toNat } else f
  | _ =>
    if off % 8 ≠ 0 then f
    else if 0x080 ≤ off ∧ off < 0x0C0 then { f with msgbuf := put512 f.msgbuf (off - 0x080) v }
    else if 0x200 ≤ off ∧ off < 0x240 ∧ pf then
      if f.pfBusy then f.count
      else { f with pfcmd := putCommand f.pfcmd (off - 0x200) v pfKnown, pfBusy := off == 0x200 && pfKnown (bitsOf v 0 16) }
    else if 0x300 ≤ off ∧ off < 0x340 ∧ pf then
      if f.tBusy then f.count
      else { f with tcmd := putCommand f.tcmd (off - 0x300) v tKnown, tBusy := off == 0x300 && tKnown (bitsOf v 0 16) }
    else if 0x400 ≤ off ∧ off < 0x440 ∧ pf then
      if f.fwBusy then f.count
      else { f with fwcmd := putCommand f.fwcmd (off - 0x400) v fwKnown, fwBusy := off == 0x400 && fwKnown (bitsOf v 0 16) }
    else f

/-- HOST_REGISTER_WRITE (R419): a register with no row of its own; in recovery FWCMD alone serves (R460). -/
def execHostRegisterWrite (fn off : Nat) (v : Word) (s : State) : Result :=
  .next (
    if !s.linkFree fn then s
    else if s.boot.recovery && !(decide (0x400 ≤ off) && decide (off < 0x440)) then s
    else
      let s := if off = 0x108 ∧ fn = 0 then { s with almOff := v } else s
      s.updFn fn fun f => f.write (fn == 0) off v)

/-! ### BAR2 (R417 to R419, R450, R452) -/

/-- The sizes that a function's BAR2 may have: 1 to 64 GiB on the PF, 256 MiB to 4 GiB on a VF (R417). -/
def barSizeOk (fn bits : Nat) : Bool := if fn = 0 then decide (30 ≤ bits) && decide (bits ≤ 36) else decide (28 ≤ bits) && decide (bits ≤ 32)

/-- The host sets the size of a function's BAR2 in its configuration space (R417, log 66); WINBASE stays aligned to it (R418). -/
def State.resizeBar (s : State) (fn bits : Nat) : State :=
  if decide (fn ≤ 15) && barSizeOk fn bits then
    s.updFn fn fun f => { f with barBits := bits, winbase := BitVec.ofNat 64 (f.winbase.toNat / 2 ^ bits * 2 ^ bits) }
  else s

/-- Where a byte that a function reaches at an offset lies; none where the access is refused (R418). -/
def State.barPlace (s : State) (fn off : Nat) : Option Backing :=
  let f := s.fn fn
  if s.boot.recovery || decide (2 ^ f.barBits ≤ off) then none
  else if fn = 0 then
    let a := f.winbase.toNat + off
    if a < Config.cellarEnd then some (.cellar a) else none
  else match f.bound with
    | none => none
    | some p =>
      if (s.part p).fenced then none
      else match s.translate p (f.vfwin.toNat + off) with
        | .error _ => none
        | .ok x => if x.cls = .lod then none else some x.back

/-- The poison that a VF's translation of an offset uses (R450). -/
def State.barTaint (s : State) (fn off : Nat) : Option Place :=
  let f := s.fn fn
  match f.bound with
  | none => none
  | some p =>
    if fn = 0 || s.boot.recovery || decide (2 ^ f.barBits ≤ off) || (s.part p).fenced then none
    else match s.translate p (f.vfwin.toNat + off) with | .error (.poison x) => some x | _ => none

/-- Bytes at a place as the host reads them: in queue backing those of a reserved slot or of a queued record, else zeros (log 26). -/
def State.readPlace (s : State) (p : Nat) (b : Backing) (n : Nat) : List Byte :=
  match b with
  | .slot a =>
    match (s.part p).slotAt a, (s.queued (s.part p).pol).find? fun e => e.2.addr == a / 64 * 64 with
    | none, some e => (e.2.r.bytes.drop (a % 64)).take n
    | _, _ => s.readBase p b n
  | b => s.readBase p b n

/-- The pieces of n bytes at off, none over a 64-byte boundary: (offset, how many). -/
def pieces64 : Nat → Nat → Nat → List (Nat × Nat)
  | 0, _, _ => []
  | fuel + 1, off, n =>
    if n = 0 then []
    else
      let k := min n (64 - off % 64)
      (off, k) :: pieces64 fuel (off + k) (n - k)

def barPieces (off n : Nat) : List (Nat × Nat) := pieces64 (n / 64 + 2) off n

/-- A walk for a VF's access that uses poison kills the partition (R450). -/
def State.walkKills (s : State) (fn off n : Nat) : State :=
  match (barPieces off n).findSome? fun k => s.barTaint fn k.1 with
  | some x => s.consumeFor (((s.fn fn).bound).getD 16) x
  | none => s

/-- HOST_BAR2_READ: the completion's bytes, or Unsupported Request. -/
def execHostBar2Read (fn off len : Nat) (s : State) : Result :=
  .next (
    if !s.linkFree fn then s
    else
    let p := ((s.fn fn).bound).getD 16
    let got := (barPieces off len).map fun k =>
      match s.barPlace fn k.1 with
      | none => none
      | some b => if s.poisoned p b then none else some (s.readPlace p b k.2)
    let answer := (allSome got).map List.flatten
    (s.walkKills fn off len).updFn fn fun f => { f with reads := f.reads ++ [answer] })

/-- One piece of a write; the argument block is firmware's memory, which the host may write (log 26). -/
def State.writePlace (s : State) (p : Nat) (b : Backing) (bs : List Byte) : State :=
  match b with
  | .arg o => (s.overwritten p b bs.length).updPart p fun x => { x with argBlock := mwrite x.argBlock o bs }
  | b => s.writeBase p b bs

/-- The pieces of a write, each at its place. -/
def State.writePieces (s : State) (fn p off : Nat) (bs : List Byte) : State :=
  s.each (barPieces off bs.length) fun s k =>
    match s.barPlace fn k.1 with
    | some b => s.writePlace p b ((bs.drop (k.1 - off)).take k.2)
    | none => s

/-- HOST_BAR2_WRITE: performed at once (R419), or discarded and counted. A write of the PF may change page tables (R423). -/
def execHostBar2Write (fn off : Nat) (bs : List Byte) (s : State) : Result :=
  .next (
    if !s.linkFree fn then s
    else if (barPieces off bs.length).all fun k => (s.barPlace fn k.1).isSome then
      let s' := s.writePieces fn (((s.fn fn).bound).getD 16) off bs
      if fn = 0 then s'.each (s.parts.map (·.1)) fun x p => s.regrant x p else s'
    else (s.walkKills fn off bs.length).updFn fn HostFn.count)

/-! ### Scene messages (R420) -/

/-- The header of a host message (R266). -/
def hostHeader (drv : Bool) (seq : Nat) (now : Word) : BitVec 128 :=
  BitVec.ofNat 128 (0xFFF + 2 ^ 16 * 0xFF + 2 ^ 24 * 15 + (if drv then 2 ^ 28 else 0) + 2 ^ 32 * (seq % 2 ^ 32) + 2 ^ 64 * now.toNat)

/-- R420 and R452 discard a scene message, and one that names a retired column's control cores (R32, log 62). -/
def State.sceneBad (s : State) (p ca : Nat) (drv : Bool) : Bool :=
  let x := s.part p
  x.fenced || !caOk ca || (if drv then !x.pol.pres else !x.pol.has ca || s.retired.contains ca)

/-- SCENE_MESSAGE: a write to MSGDB, which does not serve in recovery (R460). -/
def execSceneMessage (fn : Nat) (s : State) : Result :=
  .next (
    let f := s.fn fn
    let ca := f.msgtgt.toNat % 4096
    let drv := f.msgtgt.getLsbD 12
    if !s.linkFree fn || s.boot.recovery then s
    else match f.bound with
    | none => s.updFn fn HostFn.count
    | some p =>
      if s.sceneBad p ca drv then s.updFn fn HostFn.count
      else
        let key := (ca, drv)
        let seq := ((f.scenes.find? fun e => e.1 == key).map (·.2)).getD 0
        let (n, s) := s.newId
        let m : Msg := ⟨n, none, ca, drv, hostHeader drv seq s.almanac, f.msgbuf, p, 16 + fn⟩
        let s := s.updFn fn fun f => { f with scenes := f.scenes.filter (fun e => e.1 != key) ++ [(key, seq + 1)] }
        { s with net := s.net ++ [m] })

/-! ### Signed records (R454, R455) -/

/-- An envelope's fields. -/
structure Envelope where
  ty : Nat
  svn : Nat
  devid : Nat
  body : List Byte
  /-- the whole record -/
  bytes : List Byte
  deriving DecidableEq, Repr

/-- A record's header and length are as R454 and R455 want them: MAGIC, TYPE, KEYSEL, reserved fields, BODYLEN, all bytes there. -/
def envelopeOf (bs : List Byte) : Option Envelope :=
  let ty := at_ bs 4 1
  let n := at_ bs 12 4
  if bs.take 4 = [0x4E#8, 0x5A#8, 0x52#8, 0x31#8] ∧ 1 ≤ ty ∧ ty ≤ 7 ∧ at_ bs 5 1 = (if ty = 4 ∨ ty = 7 then 1 else 0) ∧
      at_ bs 6 2 = 0 ∧ at_ bs 24 40 = 0 ∧ n ≤ 64 * 2 ^ 20 ∧ 64 + n + 114 ≤ bs.length then
    some ⟨ty, at_ bs 8 4, at_ bs 16 8, (bs.drop 64).take n, bs.take (64 + n + 114)⟩
  else none

/-- The signature verifies under a key (R454). -/
def Envelope.signed (e : Envelope) (key : List Byte) : Bool :=
  Crypto.verify key (e.bytes.take (64 + e.body.length)) (e.bytes.drop (64 + e.body.length))

/-- DEVID binds the record to no device, or to this one; TYPE 7 to this one (R455). A device without an identity has no DEVID. -/
def Envelope.forDevice (e : Envelope) (own : Option Nat) : Bool := own == some e.devid || (e.ty != 7 && e.devid == 0)

/-- This device's DEVID (R463). -/
def State.ownId (s : State) : Option Nat := if s.boot.identity.isSome then some s.boot.devid.toNat else none

/-- A record under the root key: every type but 4 and 7 (R455). -/
def State.rootAccepts (s : State) (bs : List Byte) : Option Envelope :=
  match envelopeOf bs with
  | none => none
  | some e =>
    if e.ty ≠ 4 ∧ e.ty ≠ 7 ∧ e.forDevice s.ownId ∧ e.signed Config.rootKey ∧
        (e.ty = 1 → e.svn ≤ 0xFFFF ∧ s.boot.floor ≤ e.svn) then some e
    else none

/-- The one of two certificates with the larger SVN. -/
def laterCert (a : Option Envelope) (b : Envelope) : Option Envelope :=
  match a with
  | some x => if x.svn < b.svn then some b else some x
  | none => some b

/-- The accepted owner certificate (R455). -/
def State.ownerCert (s : State) : Option Envelope :=
  ((s.flash.filterMap fun e => s.rootAccepts e.2).filter fun e => e.ty == 5).foldl laterCert none

/-- A record of type ty that the device accepts (R455). -/
def State.accepts (s : State) (ty : Nat) (bs : List Byte) : Option Envelope :=
  if ty = 4 ∨ ty = 7 then
    match envelopeOf bs, s.ownerCert with
    | some e, some cert => if e.ty = ty ∧ e.forDevice s.ownId ∧ e.signed cert.body then some e else none
    | _, _ => none
  else
    match s.rootAccepts bs with
    | some e => if e.ty = ty then some e else none
    | none => none

/-! ### Policy records (R423) -/

/-- The bytes of a policy record's body that are reserved. -/
def reservedClear (b : List Byte) : Bool :=
  at_ b 62 2 == 0 && at_ b 66 6 == 0 && at_ b 88 8 == 0 && at_ b 124 4 == 0 && decide (at_ b 1 1 < 8) && decide (at_ b 3 1 < 128) &&
  decide (at_ b 64 2 < 2 ^ 15)

/-- A policy record's fields, before their checks. -/
def policyOf (b : List Byte) : Policy where
  part := at_ b 0 1
  roles := BitVec.ofNat 3 (at_ b 1 1)
  forig := at_ b 2 1
  frows := at_ b 3 1 % 16 + 1
  fcols := at_ b 3 1 / 16 % 8 + 1
  prio := at_ b 4 1
  pdist := BitVec.ofNat 4 (at_ b 5 1)
  thdisp := BitVec.ofNat 16 (at_ b 6 2)
  quantum := at_ b 8 4
  distmax := at_ b 12 4
  taglim := at_ b 16 4
  spawnlim := at_ b 20 4
  ctxlim := at_ b 24 4
  reconf := at_ b 28 4
  barwd := at_ b 32 4
  loftq := at_ b 36 4
  memq := at_ b 40 8
  cellq := at_ b 48 8
  qback := at_ b 56 4
  allow := BitVec.ofNat 16 (at_ b 60 2)
  chmask := BitVec.ofNat 15 (at_ b 64 2)
  reslo := at_ b 72 8
  reshi := at_ b 80 8
  masks := (upto 7).map fun i => (at_ b (96 + 4 * i) 1, at_ b (97 + 4 * i) 1, at_ b (98 + 4 * i) 1, at_ b (99 + 4 * i) 1)

/-- Every field in R423's range, and the extent on the grid of 9 by 8 fields. -/
def Policy.inRange (p : Policy) : Bool :=
  decide (p.part ≤ 15) && decide (p.forig ≤ 71) && decide (p.forig / 8 + p.frows ≤ 9) && decide (p.forig % 8 + p.fcols ≤ 8) &&
  decide (p.prio ≤ 3) && decide (100 ≤ p.quantum) && decide (p.quantum ≤ 10000000) && decide (1024 ≤ p.distmax) &&
  decide (p.distmax ≤ 1048576) && decide (16 ≤ p.taglim) && decide (p.taglim ≤ 4096) && decide (p.loftq ≤ 0x200000) &&
  p.loftq % 0x40000 == 0 && p.memq % 0x10000 == 0

def bodyOk (b : List Byte) : Bool := b.length == 128 && decide (at_ b 5 1 ≤ 15) && reservedClear b && (policyOf b).inRange

/-- A partition number's counters, before any partition had it. -/
def Tally.zero : Tally := ⟨0, 0, 0, 0, 0, 0, 0, 0, 0, 0⟩

def Partition.tally (x : Partition) : Tally :=
  ⟨x.negJoins, x.dropXfers, x.ctxExhausted, x.ctxStallTicks, x.quotaTraps, x.highCells, x.highMem, x.launches, x.kills, x.lastOvf⟩

def Partition.withTally (x : Partition) (t : Tally) : Partition :=
  { x with negJoins := t.negJoins, dropXfers := t.dropXfers, ctxExhausted := t.ctxExhausted, ctxStallTicks := t.ctxStallTicks,
           quotaTraps := t.quotaTraps, highCells := t.highCells, highMem := t.highMem, launches := t.launches, kills := t.kills,
           lastOvf := t.lastOvf }

/-- The counters of a partition number (R465). -/
def State.tallyOf (s : State) (p : Nat) : Tally := if tmem s.parts p then (s.part p).tally else tget s.tallies p Tally.zero

/-- PCREATE (R422): of the policy record in a flash slot; its counters go on from those of its number (R465). -/
def execPcreate (slot : Nat) (s : State) : Result :=
  let ops := words [slot]
  .next (s.pfTakes 1 ops fun s =>
    match s.accepts 4 (((s.flash.find? fun e => e.1 == slot).map (·.2)).getD []) with
    | none => s.pfStatus 1 1 ops
    | some e =>
      let pol := policyOf e.body
      if bodyOk e.body = false then s.pfStatus 1 2 ops
      else if tmem s.parts pol.part || decide (16 ≤ s.parts.length) || (pol.pres && s.presHolder.isSome) then s.pfStatus 1 3 ops
      else s.pfOperate 1 ops pol.part pol.fields id true fun s =>
        { (s.pfStatus 1 0 ops) with
            parts := tset s.parts pol.part ((Partition.create pol).withTally (s.tallyOf pol.part)),
            boot := { s.boot with mreg2 := extend512 s.boot.mreg2 e.bytes } })

/-! ### PDESTROY, PBIND, PUNBIND (R422) -/

/-- A completion record to be written: function, cookie, status, code, stranded records, start, end. -/
structure Owed where
  fn : Nat
  cookie : Word
  status : Nat
  code : Nat
  stranded : Nat
  start : Option Nat
  stop : Nat
  deriving DecidableEq, Repr

/-- The partition's own launch: with its status where it has ended, else CANCELLED. -/
def State.owed (s : State) (p : Nat) : List Owed :=
  match (s.part p).launch with
  | none => []
  | some l => match l.ended with
    | some (st, code, str, stop) => [⟨l.fn, l.cookie, st, code, str, l.start, stop⟩]
    | none => [⟨l.fn, l.cookie, 5, 0, s.stranded p, l.start, s.now⟩]

/-- The launches that a function's ring still holds, in ring order. -/
def State.owedRing (s : State) (fn : Nat) : List Owed :=
  let f := s.fn fn
  (upto (min (ringDist f.lqtail f.lqhead) 256)).map fun i =>
    let r := launchRecAt s.hostMem (f.lqbase.toNat + 64 * ((f.lqhead + i) % 2 ^ f.lqsize))
    ⟨fn, r.cookie, 5, 0, 0, none, s.now⟩

/-- The functions bound to a partition. -/
def State.boundTo (s : State) (p : Nat) : List Nat := (s.fns.filter fun e => e.2.bound == some p).map (·.1)

/-- Every completion ring has room for what it is owed. -/
def State.roomFor (s : State) (l : List Owed) : Bool :=
  l.all fun o => decide (ringDist (s.fn o.fn).cqtail (s.fn o.fn).cqhead + (l.filter fun x => x.fn == o.fn).length ≤ 2 ^ (s.fn o.fn).cqsize)

/-- Writes what is owed, as far as the rings have room. -/
def State.payOwed (s : State) (l : List Owed) : State :=
  s.each l fun s o => if (s.fn o.fn).completionRoom then s.complete o.fn o.cookie o.status o.code o.stranded o.start o.stop else s

/-- What a partition's end owes: its launch, then its functions' rings. -/
def State.owedBy (s : State) (p : Nat) : List Owed := s.owed p ++ (s.boundTo p).flatMap s.owedRing

/-- The partition's columns and memory are free, its functions unbound; a presentation partition leaves the pixels dark (R25). -/
def State.tearDown (s : State) (p : Nat) : State :=
  let held := s.heldBy p
  let pres := (s.part p).pol.pres
  let fns := s.boundTo p
  let s := (((s.restorePages p).discard p).each held State.cleanColumn).updCols held fun c => c.withControl Column.reset none
  let s := if pres then s.updCols s.listed Column.clearDrive else s
  let s := s.each fns fun s fn => s.updFn fn fun f => { f with bound := none, lqhead := f.lqtail }
  { s with parts := tdel s.parts p, tallies := tset s.tallies p (s.part p).tally }

/-- The launches of a partition get their completion records as it ends, its own as CANCELLED unless it had ended (R422, R465); `owed`: there
is one. -/
def Partition.closed (x : Partition) (owed : Bool) : Partition :=
  match x.launch with
  | none => if owed then x.turnedAway else x
  | some l => x.completed (match l.ended with | some e => e.1 | none => 5)

/-- PDESTROY: its field controllers have acknowledged it and the completion rings have room for the launches it cancels (R427, R428). -/
def execPdestroy (p : Nat) (s : State) : Result :=
  let ops := words [p]
  .next (s.pfTakes 2 ops fun s =>
    if !tmem s.parts p then s.pfStatus 2 2 ops
    else s.pfOperate 2 ops p (s.part p).pol.fields id (s.roomFor (s.owedBy p)) fun s =>
      let s := s.restoreKills p
      let owed := s.owedBy p
      (((s.payOwed owed).updPart p fun x => x.closed !owed.isEmpty).tearDown p).pfStatus 2 0 ops)

/-- PBIND: of a VF that is bound to none. -/
def execPbind (vf p : Nat) (s : State) : Result :=
  let ops := words [vf, p]
  .next (s.pfTakes 3 ops fun s =>
    if 1 ≤ vf && decide (vf ≤ 15) && tmem s.parts p && (s.fn vf).bound.isNone then
      (s.updFn vf fun f => { f with bound := some p }).pfStatus 3 0 ops
    else s.pfStatus 3 2 ops)

/-- PUNBIND: of a VF whose launch ring is empty. -/
def execPunbind (vf : Nat) (s : State) : Result :=
  let ops := words [vf]
  .next (s.pfTakes 4 ops fun s =>
    if 1 ≤ vf && decide (vf ≤ 15) && (s.fn vf).bound.isSome && !(s.fn vf).launchWaits then
      (s.updFn vf fun f => { f with bound := none }).pfStatus 4 0 ops
    else s.pfStatus 4 2 ops)

/-! ### The command links (R428) -/

/-- FIRMWARE_COMMAND: the oldest command of a link is consumed and its permit returned. A field controller sends its acknowledgement
back, for which it needs a permit; the scheduler has a fault posted to it (R443, R444). -/
def execFirmwareCommand (link : Nat) (s : State) : Result :=
  .next (
    let l := s.link link
    match l.cmds with
    | [] => s
    | c :: rest =>
      let taken : State := { s with links := tset s.links link ⟨l.permits + 1, rest⟩ }
      if 72 ≤ link then { taken with posted := taken.posted ++ c.fault.toList }
      else if (s.link (backLink link)).permits = 0 then s
      else taken.transmit (backLink link) c.part none)

end Sys2Proof.Machine
end

