-- ==== Sys2Proof/Machine/Fleet.lean ====
section
/-! DEFINITION. Fleet operation (24_fleet): firmware slots and boot control (R458 to R462), measured boot and the quote (R463,
R464), and telemetry (R465). -/

namespace Sys2Proof.Machine

/-! ### Boot control (R460) -/

/-- The SHAKE256 check of a boot-control record, over its fields (log 65). -/
def BootCopy.sum (c : BootCopy) : List Byte :=
  Crypto.shake (leBytes 8 c.seq ++ leBytes 1 c.active.toNat ++ leBytes 1 c.trial.toNat ++ leBytes 1 c.tries) 64

def BootCopy.valid (c : BootCopy) : Bool := c.check == c.sum

/-- A copy with its check. -/
def BootCopy.made (seq : Nat) (active trial : Bool) (tries : Nat) : BootCopy :=
  let c : BootCopy := ⟨seq, active, trial, tries, []⟩
  { c with check := c.sum }

/-- A boot-control record is written over the copy that does not govern. -/
def Boot.write (b : Boot) (active trial : Bool) (tries : Nat) : Boot :=
  let c := BootCopy.made ((if b.bcCopy then b.copyB else b.copyA).seq + 1) active trial tries
  { b with active := active, trial := trial, tries := tries, bcCopy := !b.bcCopy,
           copyA := if b.bcCopy then c else b.copyA, copyB := if b.bcCopy then b.copyB else c }

/-- The copy that governs: the valid one with the higher sequence number; none where neither is valid (R460). -/
def Boot.governs (b : Boot) : Option Bool :=
  match b.copyA.valid, b.copyB.valid with
  | true, true => some (decide (b.copyA.seq < b.copyB.seq))
  | true, false => some false
  | false, true => some true
  | false, false => none

/-- The boot ROM reads the governing copy. -/
def Boot.load (b : Boot) (second : Bool) : Boot :=
  let c := if second then b.copyB else b.copyA
  { b with active := c.active, trial := c.trial, tries := c.tries, bcCopy := second }

/-- A slot's record is one that R455 accepts. -/
def State.firmwareOk (s : State) (slot : Bool) : Bool := (s.accepts 1 (s.boot.slotBytes slot)).isSome

/-- The record written at a reset, and the slot to try first (R460). -/
def Boot.choose (b : Boot) : Boot × Bool :=
  if b.trial && b.tries != 0 then (b.write b.active true (b.tries - 1), !b.active)
  else if b.trial then ({ b.write b.active false b.tries with rolledBack := true }, b.active)
  else (b, b.active)

/-! ### Keys (R463) -/

/-- The flash slot that holds the helper data (log 6). -/
def helperSlot : Nat := 0xFFFF

def State.seed (s : State) : Option (List Byte) :=
  Config.pufSeed (((s.flash.find? fun e => e.1 == helperSlot).map (·.2)).getD [])

/-- The ASCII bytes of a word. -/
def ascii (s : String) : List Byte := s.toList.map fun c => BitVec.ofNat 8 c.toNat

/-- The first 57 bytes of SHAKE256. -/
def key57 (bs : List Byte) : List Byte := Crypto.shake bs 57

def identityKey (seed : List Byte) : List Byte := key57 (ascii "identity" ++ seed)

def devidOf (pub : List Byte) : Word := BitVec.ofNat 64 (leNat (Crypto.shake pub 8))

/-- The boot ROM finds the device's identity, which the checks of R455 need. -/
def State.identify (s : State) : State :=
  match s.seed with
  | none => { s with boot := { s.boot with identity := none, alias_ := none, aliasCert := [] } }
  | some seed =>
    let pub := Crypto.publicKey (identityKey seed)
    { s with boot := { s.boot with identity := some pub, devid := devidOf pub } }

/-- The alias key and its certificate, once MREG0 is measured (R463). -/
def State.certify (s : State) : State :=
  match s.seed with
  | none => s
  | some seed =>
    let key := key57 (ascii "alias" ++ seed ++ s.boot.mreg0)
    let signed := Crypto.publicKey key ++ s.boot.mreg0
    { s with boot := { s.boot with alias_ := some key, aliasCert := signed ++ Crypto.sign (identityKey seed) signed } }

/-! ### Reset -/

/-- What a reset leaves: flash, fuses and boot control, host memory, the host's record of signals and reads, the defects, and
the numbering of free values; the rest as `State.reset` (log 27). -/
def State.cold (s : State) : State :=
  let (x, s) := s.free
  let b := s.boot
  let boot := { Boot.reset with slotA := b.slotA, slotB := b.slotB, active := b.active, trial := b.trial, tries := b.tries,
                                rolledBack := b.rolledBack, copyA := b.copyA, copyB := b.copyB, bcCopy := b.bcCopy, floor := b.floor,
                                nonce := Config.random64 x }
  { State.reset with sched := s.sched, freeCtr := s.freeCtr, hostMem := s.hostMem, flash := s.flash, boot := boot,
                     retired := s.retired, retiredLinks := s.retiredLinks,
                     fns := s.fns.map fun e => (e.1, { HostFn.reset with msix := e.2.msix, reads := e.2.reads, barBits := e.2.barBits }) }

/-- The records in flash whose TYPE is ty, whatever else of theirs is right (R455). -/
def State.flashOf (s : State) (ty : Nat) : List (List Byte) :=
  ((s.flash.filter fun e => e.1 != helperSlot).map (·.2)).filter fun bs => at_ bs 4 1 == ty

/-- Every defect and calibration record in flash is accepted (R455). -/
def State.bootRecordsOk (s : State) : Bool :=
  ((s.flashOf 2).all fun bs => (s.accepts 2 bs).isSome) && (s.flashOf 3).all fun bs => (s.accepts 3 bs).isSome

/-- What MREG1 is extended with, in order (R463). -/
def State.bootRecords (s : State) : List (List Byte) :=
  (match s.ownerCert with | some e => [e.bytes] | none => []) ++ s.flashOf 2 ++ s.flashOf 3

/-- Firmware of a slot runs, measured (R463). -/
def State.runSlot (s : State) (slot : Bool) : State :=
  let b := s.boot
  let b := { b with slot := slot, running := true, recovery := false, bootTick := s.now,
                    mreg0 := extend512 b.mreg0 (b.slotBytes slot), mreg1 := s.bootRecords.foldl extend512 b.mreg1 }
  State.certify { s with boot := b }

/-- A slot is chosen and runs, or the device stays in recovery (R460, R455). -/
def State.bootSlot (s : State) : State :=
  let (b, first) := s.boot.choose
  let s := { s with boot := b }
  if s.bootRecordsOk = false then { s with boot := { s.boot with recovery := true } }
  else if s.firmwareOk first then s.runSlot first
  else if s.firmwareOk (!first) then s.runSlot (!first)
  else { s with boot := { s.boot with recovery := true } }

/-- The boot ROM (R460, R463). Without a valid boot-control record it stays in recovery (log 65). -/
def State.bootRom (s : State) : State :=
  let s := s.identify
  match s.boot.governs with
  | none => { s with boot := { s.boot with recovery := true } }
  | some second => State.bootSlot { s with boot := s.boot.load second }

/-- The device is reset and boots. -/
def State.resetDevice (s : State) : State := s.cold.bootRom

/-- DEVICE_RESET (R460). -/
def execDeviceReset (s : State) : Result := .next s.resetDevice

/-- The completion records that a reset owes, those of records in the rings of functions without a partition too; and whether the rings have
room for them (R460, R427). -/
def State.owedAll (s : State) : List Owed :=
  s.parts.flatMap (fun e => s.owedBy e.1) ++ (s.fns.filter fun e => e.2.bound.isNone).flatMap fun e => s.owedRing e.1

def State.mayCancel (s : State) : Bool := s.roomFor s.owedAll

/-- Every launch that has not completed ends CANCELLED, its migrated pages written back before (R447, R448); then the reset (R460). -/
def State.cancelAll (s : State) : State :=
  let s := s.each (s.parts.map (·.1)) State.restoreKills
  let owed := s.owedAll
  ((s.each (s.parts.map (·.1)) State.restorePages).payOwed owed).resetDevice

/-! ### Firmware commands (R458) -/

/-- An FWCMD command that has been written, with the status that firmware leaves. -/
def State.fwStatus (s : State) (op st : Nat) (ops : List Byte) : State :=
  s.updFn 0 fun f => { f with fwcmd := commandWord op st ops, fwBusy := false }

/-- A command of FWCMD as written, with its operands. While another one waits for its status, the write is discarded (R458). -/
def State.fwTakes (s : State) (op : Nat) (ops : List Byte) (f : State → State) : State :=
  if mayTake (s.fn 0).fwcmd (s.fn 0).fwBusy op ops then f s else s.updFn 0 HostFn.count

/-- A command of FWCMD other than STAGE serves while firmware runs alone (R460): else status 2. -/
def State.served (s : State) (op : Nat) (ops : List Byte) (f : State → State) : State :=
  s.fwTakes op ops fun s => if s.boot.running then f s else s.fwStatus op 2 ops

def Boot.store (b : Boot) (slot : Bool) (bs : List Byte) : Boot := if slot then { b with slotB := bs } else { b with slotA := bs }

/-- STAGE in recovery: either slot, the choice free (log 2), then a reset into it (R460). -/
def State.stageRecovery (s : State) (bs ops : List Byte) : State :=
  let (x, s) := s.free
  let slot := x % 2 == 1
  let s := { s with boot := (s.boot.store slot bs).write slot false 0 }
  (s.fwStatus 1 0 ops).resetDevice

/-- STAGE (R458, R460). -/
def execStage (addr len : Nat) (s : State) : Result :=
  let ops := words [addr, len]
  .next (s.fwTakes 1 ops fun s =>
    match s.accepts 1 (mread s.hostMem addr len) with
    | none => s.fwStatus 1 1 ops
    | some e =>
      if s.boot.recovery then s.stageRecovery e.bytes ops
      else if s.boot.running then State.fwStatus { s with boot := s.boot.store (!s.boot.slot) e.bytes } 1 0 ops
      else s.fwStatus 1 2 ops)

/-- ACTIVATE (R460), once the completion rings have room for what the reset cancels (R427). -/
def execActivate (s : State) : Result :=
  .next (s.served 2 [] fun s =>
    if s.firmwareOk (!s.boot.slot) then
      if s.mayCancel then
        let s := s.fwStatus 2 0 []
        State.cancelAll { s with boot := s.boot.write s.boot.active true 3 }
      else s
    else s.fwStatus 2 1 [])

/-- The running slot is the slot on trial. -/
def Boot.onTrial (b : Boot) : Bool := b.trial && b.slot != b.active

/-- 900 s have passed since the boot (R461). -/
def State.trialOver (s : State) : Bool := decide (s.boot.bootTick + 900 * 10 ^ 9 < s.now)

/-- CONFIRM (R461): of a trial whose reset has not begun. -/
def execConfirm (s : State) : Result :=
  .next (s.served 3 [] fun s =>
    if s.boot.onTrial && !s.trialOver then State.fwStatus { s with boot := s.boot.write s.boot.slot false s.boot.tries } 3 0 []
    else s.fwStatus 3 2 [])

/-- The record at a host address, as long as its header says. -/
def State.hostRecord (s : State) (addr : Nat) : List Byte :=
  let n := leNat (mread s.hostMem (addr + 12) 4)
  if n ≤ 64 * 2 ^ 20 then mread s.hostMem addr (64 + n + 114) else []

/-- NONCE is replaced (R462). -/
def State.newNonce (s : State) : State :=
  let (x, s) := s.free
  { s with boot := { s.boot with nonce := Config.random64 x } }

/-- The target of a TYPE 7 body that R462 accepts. -/
def State.rollTarget (s : State) (body : List Byte) : Option Bool :=
  let slot := at_ body 8 1 == 1
  if body.length = 9 ∧ at_ body 0 8 = s.boot.nonce.toNat ∧ at_ body 8 1 ≤ 1 ∧ s.firmwareOk slot then some slot else none

/-- ROLLBACK (R462), once the completion rings have room for what the reset cancels (R427). -/
def execRollback (addr : Nat) (s : State) : Result :=
  let ops := words [addr]
  .next (s.served 4 ops fun s =>
    match (match s.accepts 7 (s.hostRecord addr) with | some e => s.rollTarget e.body | none => none) with
    | none => s.newNonce.fwStatus 4 1 ops
    | some slot =>
      if s.mayCancel then
        let s := s.newNonce.fwStatus 4 0 ops
        State.cancelAll { s with boot := s.boot.write slot false s.boot.tries }
      else s)

/-- FLOOR (R459). -/
def execFloor (addr : Nat) (s : State) : Result :=
  let ops := words [addr]
  .next (s.served 5 ops fun s =>
    match s.accepts 6 (s.hostRecord addr) with
    | none => s.fwStatus 5 1 ops
    | some e =>
      let n := at_ e.body 0 2
      if e.body.length ≠ 2 then s.fwStatus 5 1 ops
      else if 64 < n ∨ svnOf (s.boot.slotBytes s.boot.slot) < n then s.fwStatus 5 2 ops
      else State.fwStatus { s with boot := { s.boot with floor := max s.boot.floor n } } 5 0 ops)

/-- TRIAL_TIMEOUT (R461): 900 s after its boot, whatever room the completion rings have (log 42). -/
def execTrialTimeout (s : State) : Result :=
  .next (if s.boot.running && s.boot.onTrial && s.trialOver then s.cancelAll else s)

/-! ### QUOTE (R464) -/

/-- n bytes of a list, zeros after its end. -/
def fit (n : Nat) (bs : List Byte) : List Byte := bs.take n ++ List.replicate (n - bs.length) 0#8

/-- Bytes 0 to 383 of a quote. -/
def State.quoteBody (s : State) (p : Nat) (nonce : List Byte) : List Byte :=
  let b := s.boot
  leBytes 8 b.devid.toNat ++ leBytes 8 s.now ++ fit 32 nonce ++ leBytes 2 (svnOf (b.slotBytes b.slot)) ++ leBytes 2 b.floor ++
  leBytes 1 (if b.slot then 1 else 0) ++ leBytes 1 p ++ leBytes 10 0 ++ fit 64 b.mreg0 ++ fit 64 b.mreg1 ++ fit 64 b.mreg2 ++
  fit 64 b.mreg3 ++ fit 64 (if p = 0xFF then [] else (s.part p).img)

/-- QUOTE. -/
def execQuote (p : Nat) (nonce : List Byte) (out : Nat) (s : State) : Result :=
  let ops := words [p] ++ fit 32 nonce ++ words [out]
  .next (s.served 6 ops fun s =>
    match s.boot.alias_ with
    | none => s.fwStatus 6 2 ops
    | some key =>
      if 15 < p ∧ p ≠ 0xFF then s.fwStatus 6 2 ops
      else
        let body := s.quoteBody p nonce
        let bs := body ++ fit 114 (Crypto.sign key body) ++ fit 235 s.boot.aliasCert ++ leBytes 35 0
        (s.writeHost out bs).fwStatus 6 0 ops)

/-! ### TELSNAP (R465) -/

/-- n bytes of a counter that saturates. -/
def sat (n x : Nat) : List Byte := leBytes n (min x (256 ^ n - 1))

def State.tele (s : State) (ca : Nat) : ColTele := tget s.colTele ca ColTele.reset

def State.teleColumn (s : State) (ca : Nat) : List Byte :=
  let t := s.tele ca
  leBytes 2 (s.col ca).temp.toNat ++ leBytes 2 t.maxTemp ++ sat 4 t.throttled ++
  ((upto 10).flatMap fun i => sat 2 (tget t.soft (i + 1) 0)) ++ sat 2 t.lateTotal ++ sat 2 t.missTotal

def State.teleChannel (s : State) (ch : Nat) : List Byte :=
  let c := s.chan ch
  leBytes 2 c.temp ++ leBytes 2 c.maxTemp ++ leBytes 4 0 ++ sat 8 (c.ticks + (if c.doubled then s.now - c.since else 0))

def State.telePart (s : State) (p : Nat) : List Byte :=
  let x := s.tallyOf p
  let state := if tmem s.parts p then (if (s.part p).resident then 1 else 2) else 0
  leBytes 1 state ++ leBytes 3 0 ++ leBytes 4 x.lastOvf.toNat ++ leBytes 1 (x.lastOvf.toNat / 2 ^ 63) ++
    leBytes 7 0 ++ sat 8 x.ctxStallTicks ++ sat 8 x.highMem ++ sat 4 x.ctxExhausted ++ sat 4 x.negJoins ++ sat 4 x.dropXfers ++
    sat 4 x.quotaTraps ++ sat 4 x.highCells ++ sat 4 x.launches ++ sat 4 x.kills ++ leBytes 4 0

/-- The 84,032 bytes of a snapshot. -/
def State.snapshot (s : State) : List Byte :=
  leBytes 8 s.now ++ leBytes 4 s.boot.snapSeq ++ leBytes 4 84032 ++
  leBytes 48 ((if s.boot.thermal then 1 else 0) + (if s.boot.rolledBack then 2 else 0)) ++
  (allColumns.flatMap s.teleColumn) ++ ((upto 576).flatMap s.teleChannel) ++ (upto 16).flatMap s.telePart

/-- A snapshot begins a new interval of the maxima and of the THERMAL flag. -/
def State.newInterval (s : State) : State :=
  { s with parts := s.parts.map fun e => (e.1, { e.2 with highCells := e.2.cells.length, highMem := s.mappedBytes e.1 }),
           tallies := s.tallies.map fun e => (e.1, { e.2 with highCells := 0, highMem := 0 }),
           boot := { s.boot with thermal := false, snapSeq := s.boot.snapSeq + 1 },
           colTele := s.colTele.map fun e => (e.1, { e.2 with maxTemp := (s.col e.1).temp.toNat }),
           chans := s.chans.map fun e => (e.1, { e.2 with maxTemp := e.2.temp }) }

/-- TELSNAP. -/
def execTelsnap (out : Nat) (s : State) : Result :=
  .next (s.served 7 (words [out]) fun s => (s.writeHost out s.snapshot).newInterval.fwStatus 7 0 (words [out]))

end Sys2Proof.Machine
end

