-- ==== Sys2Proof/Machine/Vector.lean ====
section
/-! DEFINITION. The vector instructions of majors 0x30 to 0x37 (11_isa_vector): element by element under VL and a mask. -/

namespace Sys2Proof.Machine

/-! ### Types and packing (R286 to R288) -/

/-- The width of an integer type, and its signedness (R287). -/
def ityBits : IntTy → Nat | .s32 => 32 | .z32 => 32 | .s16 => 16 | .z16 => 16
def itySigned : IntTy → Bool | .s32 => true | .s16 => true | .z32 => false | .z16 => false

/-- The format of a floating type, and its width (R287). -/
def fpFmt : FpTy → Fmt | .f32 => f32 | .f16 => f16 | .bf16 => bf16
def fpBits_ : FpTy → Nat | .f32 => 32 | .f16 => 16 | .bf16 => 16

/-- Sub-element h of width w (R286). -/
def sub (w : Nat) (x : Elem) (h : Nat) : Nat := x.toNat / 2 ^ (w * h) % 2 ^ w

/-- An element from sub-elements of width w: one of 32 bits, two of 16, four of 8 (R286). -/
def joinSubs (w : Nat) (f : Nat → Nat) : Elem :=
  BitVec.ofNat 32 (if w = 32 then f 0 % 2 ^ 32
    else if w = 16 then f 0 % 2 ^ 16 + 2 ^ 16 * (f 1 % 2 ^ 16)
    else f 0 % 256 + 256 * (f 1 % 256) + 65536 * (f 2 % 256) + 16777216 * (f 3 % 256))

/-- An operation on each sub-element of two elements. -/
def lanes2 (w : Nat) (f : Nat → Nat → Nat) (x y : Elem) : Elem := joinSubs w fun h => f (sub w x h) (sub w y h)
def lanes1 (w : Nat) (f : Nat → Nat) (x : Elem) : Elem := joinSubs w fun h => f (sub w x h)
def lanes3 (w : Nat) (f : Nat → Nat → Nat → Nat) (x y z : Elem) : Elem :=
  joinSubs w fun h => f (sub w x h) (sub w y h) (sub w z h)

/-- The second operand: the vector's element, or the scalar of SB (R288). -/
def State.second (s : State) (b : BitVec 4) (sb : Bool) (w : Nat) (i : Nat) : Elem :=
  if sb then
    let x := (s.rs (b.zeroExtend 5)).toNat
    joinSubs w fun _ => x
  else s.rv b i

/-- A sub-element's value under its type. -/
def subInt (t : IntTy) (x : Nat) : Int :=
  if itySigned t && decide (2 ^ (ityBits t - 1) ≤ x) then (x : Int) - (2 ^ ityBits t : Nat) else x

/-- A value wrapped to the width of a type. -/
def wrapTo (t : IntTy) (v : Int) : Nat := (v % ((2 ^ ityBits t : Nat) : Int)).toNat

/-- A value clamped to the range of a type, as bits (R289). -/
def saturateTo (t : IntTy) (v : Int) : Nat :=
  let hi : Int := if itySigned t then (2 ^ (ityBits t - 1) : Nat) - 1 else (2 ^ ityBits t : Nat) - 1
  let lo : Int := if itySigned t then -((2 ^ (ityBits t - 1) : Nat) : Int) else 0
  wrapTo t (if v < lo then lo else if hi < v then hi else v)

/-- An integer operation of VALU on every active element (R289). -/
def State.valu (d a b : BitVec 4) (k : BitVec 2) (t : IntTy) (sb : Bool) (f : Nat → Nat → Nat) (s : State) : State :=
  s.wvs d (s.actives k) fun i => lanes2 (ityBits t) f (s.rv a i) (s.second b sb (ityBits t) i)

/-- A floating-point operation on every active element: x, y and the old destination (R291). -/
def State.vflt (d a b : BitVec 4) (k : BitVec 2) (t : FpTy) (sb : Bool) (f : Nat → Nat → Nat → Nat) (s : State) : State :=
  s.wvs d (s.actives k) fun i => lanes3 (fpBits_ t) f (s.rv a i) (s.second b sb (fpBits_ t) i) (s.rv d i)

/-- A one-operand form on every active element. -/
def State.vun (d a : BitVec 4) (k : BitVec 2) (w : Nat) (f : Nat → Nat) (s : State) : State :=
  s.wvs d (s.actives k) fun i => lanes1 w f (s.rv a i)

/-- A special function, rounded to nearest-even whatever VRMODE holds (R178, R292). -/
def State.vsfu (d a : BitVec 4) (k : BitVec 2) (t : FpTy) (f : FV → FV) (s : State) : State :=
  s.vun d a k (fpBits_ t) fun x => (fpFmt t).round .rne false (f ((fpFmt t).decode x))

/-! ### Integer arithmetic (R289, R290) -/

/-- VADD (R289). -/
def execVaddInt (d a b : BitVec 4) (k : BitVec 2) (t : IntTy) (sb : Bool) (s : State) : Result :=
  issueAs (.vaddInt d a b k t sb) s (State.vector fun s => s.valu d a b k t sb fun x y => wrapTo t (x + y : Int))

/-- VSUB (R289). -/
def execVsubInt (d a b : BitVec 4) (k : BitVec 2) (t : IntTy) (sb : Bool) (s : State) : Result :=
  issueAs (.vsubInt d a b k t sb) s (State.vector fun s => s.valu d a b k t sb fun x y => wrapTo t ((x : Int) - y))

/-- VMUL (R289). -/
def execVmulInt (d a b : BitVec 4) (k : BitVec 2) (t : IntTy) (sb : Bool) (s : State) : Result :=
  issueAs (.vmulInt d a b k t sb) s (State.vector fun s => s.valu d a b k t sb fun x y => wrapTo t (x * y : Int))

/-- VMULH (R289). -/
def execVmulh (d a b : BitVec 4) (k : BitVec 2) (t : IntTy) (sb : Bool) (s : State) : Result :=
  issueAs (.vmulh d a b k t sb) s (State.vector fun s => s.valu d a b k t sb fun x y => wrapTo t (subInt t x * subInt t y / ((2 ^ ityBits t : Nat) : Int)))

/-- VMIN (R289). -/
def execVminInt (d a b : BitVec 4) (k : BitVec 2) (t : IntTy) (sb : Bool) (s : State) : Result :=
  issueAs (.vminInt d a b k t sb) s (State.vector fun s => s.valu d a b k t sb fun x y => if subInt t y < subInt t x then y else x)

/-- VMAX (R289). -/
def execVmaxInt (d a b : BitVec 4) (k : BitVec 2) (t : IntTy) (sb : Bool) (s : State) : Result :=
  issueAs (.vmaxInt d a b k t sb) s (State.vector fun s => s.valu d a b k t sb fun x y => if subInt t x < subInt t y then y else x)

/-- VAND (R289). -/
def execVand (d a b : BitVec 4) (k : BitVec 2) (t : IntTy) (sb : Bool) (s : State) : Result :=
  issueAs (.vand d a b k t sb) s (State.vector fun s => s.valu d a b k t sb fun x y => x &&& y)

/-- VOR (R289). -/
def execVor (d a b : BitVec 4) (k : BitVec 2) (t : IntTy) (sb : Bool) (s : State) : Result :=
  issueAs (.vor d a b k t sb) s (State.vector fun s => s.valu d a b k t sb fun x y => x ||| y)

/-- VXOR (R289). -/
def execVxor (d a b : BitVec 4) (k : BitVec 2) (t : IntTy) (sb : Bool) (s : State) : Result :=
  issueAs (.vxor d a b k t sb) s (State.vector fun s => s.valu d a b k t sb fun x y => x ^^^ y)

/-- VANDN (R289). -/
def execVandn (d a b : BitVec 4) (k : BitVec 2) (t : IntTy) (sb : Bool) (s : State) : Result :=
  issueAs (.vandn d a b k t sb) s (State.vector fun s => s.valu d a b k t sb fun x y => x &&& (2 ^ ityBits t - 1 - y))

/-- VSLL (R289). -/
def execVsll (d a b : BitVec 4) (k : BitVec 2) (t : IntTy) (sb : Bool) (s : State) : Result :=
  issueAs (.vsll d a b k t sb) s (State.vector fun s => s.valu d a b k t sb fun x y => x * 2 ^ (y % ityBits t))

/-- VSRL (R289). -/
def execVsrl (d a b : BitVec 4) (k : BitVec 2) (t : IntTy) (sb : Bool) (s : State) : Result :=
  issueAs (.vsrl d a b k t sb) s (State.vector fun s => s.valu d a b k t sb fun x y => x / 2 ^ (y % ityBits t))

/-- VSRA (R289). -/
def execVsra (d a b : BitVec 4) (k : BitVec 2) (t : IntTy) (sb : Bool) (s : State) : Result :=
  issueAs (.vsra d a b k t sb) s (State.vector fun s => s.valu d a b k t sb fun x y => wrapTo t ((BitVec.ofNat (ityBits t) x).toInt / ((2 ^ (y % ityBits t) : Nat) : Int)))

/-- VADDS (R289). -/
def execVadds (d a b : BitVec 4) (k : BitVec 2) (t : IntTy) (sb : Bool) (s : State) : Result :=
  issueAs (.vadds d a b k t sb) s (State.vector fun s => s.valu d a b k t sb fun x y => saturateTo t (subInt t x + subInt t y))

/-- VSUBS (R289). -/
def execVsubs (d a b : BitVec 4) (k : BitVec 2) (t : IntTy) (sb : Bool) (s : State) : Result :=
  issueAs (.vsubs d a b k t sb) s (State.vector fun s => s.valu d a b k t sb fun x y => saturateTo t (subInt t x - subInt t y))

/-- VABS (R289). -/
def execVabsInt (d a : BitVec 4) (k : BitVec 2) (t : IntTy) (s : State) : Result :=
  issueAs (.vabsInt d a k t) s (State.vector fun s => s.vun d a k (ityBits t) fun x => wrapTo t ((subInt t x).natAbs : Int))

/-- VDIV, with the exceptions of R181 (R289). -/
def execVdiv (d a b : BitVec 4) (k : BitVec 2) (t : IntTy) (sb : Bool) (s : State) : Result :=
  issueAs (.vdiv d a b k t sb) s (State.vector fun s => s.valu d a b k t sb fun x y => if y = 0 then 2 ^ ityBits t - 1 else wrapTo t ((subInt t x).tdiv (subInt t y)))

/-- VREM, with the exceptions of R181 (R289). -/
def execVrem (d a b : BitVec 4) (k : BitVec 2) (t : IntTy) (sb : Bool) (s : State) : Result :=
  issueAs (.vrem d a b k t sb) s (State.vector fun s => s.valu d a b k t sb fun x y => if y = 0 then x else wrapTo t ((subInt t x).tmod (subInt t y)))

/-- VMERGE: the mask selects for every element below VL (R290). -/
def execVmerge (d a b : BitVec 4) (k : BitVec 2) (t : IntTy) (sb : Bool) (s : State) : Result :=
  issueAs (.vmerge d a b k t sb) s (State.vector fun s => s.wvs d ((upto s.lanes).filter fun i => decide (i < s.th.vl)) fun i =>
    if (s.rk k).getLsbD i then s.rv a i else s.second b sb (ityBits t) i)

/-! ### Floating-point arithmetic (R291) and special functions (R292) -/

/-- VADD (R291). -/
def execVaddFp (d a b : BitVec 4) (k : BitVec 2) (t : FpTy) (sb : Bool) (s : State) : Result :=
  issueAs (.vaddFp d a b k t sb) s (State.vector fun s => s.vflt d a b k t sb fun x y _ => (fpFmt t).add s.rmode x y)

/-- VSUB (R291). -/
def execVsubFp (d a b : BitVec 4) (k : BitVec 2) (t : FpTy) (sb : Bool) (s : State) : Result :=
  issueAs (.vsubFp d a b k t sb) s (State.vector fun s => s.vflt d a b k t sb fun x y _ => (fpFmt t).sub s.rmode x y)

/-- VMUL (R291). -/
def execVmulFp (d a b : BitVec 4) (k : BitVec 2) (t : FpTy) (sb : Bool) (s : State) : Result :=
  issueAs (.vmulFp d a b k t sb) s (State.vector fun s => s.vflt d a b k t sb fun x y _ => (fpFmt t).mul s.rmode x y)

/-- VFMA (R291). -/
def execVfma (d a b : BitVec 4) (k : BitVec 2) (t : FpTy) (sb : Bool) (s : State) : Result :=
  issueAs (.vfma d a b k t sb) s (State.vector fun s => s.vflt d a b k t sb fun x y z => (fpFmt t).fma s.rmode x y z)

/-- VFMS (R291). -/
def execVfms (d a b : BitVec 4) (k : BitVec 2) (t : FpTy) (sb : Bool) (s : State) : Result :=
  issueAs (.vfms d a b k t sb) s (State.vector fun s => s.vflt d a b k t sb fun x y z => (fpFmt t).fms s.rmode x y z)

/-- VMIN (R291). -/
def execVminFp (d a b : BitVec 4) (k : BitVec 2) (t : FpTy) (sb : Bool) (s : State) : Result :=
  issueAs (.vminFp d a b k t sb) s (State.vector fun s => s.vflt d a b k t sb fun x y _ => (fpFmt t).minNum x y)

/-- VMAX (R291). -/
def execVmaxFp (d a b : BitVec 4) (k : BitVec 2) (t : FpTy) (sb : Bool) (s : State) : Result :=
  issueAs (.vmaxFp d a b k t sb) s (State.vector fun s => s.vflt d a b k t sb fun x y _ => (fpFmt t).maxNum x y)

/-- VABS (R291). -/
def execVabsFp (d a : BitVec 4) (k : BitVec 2) (t : FpTy) (s : State) : Result :=
  issueAs (.vabsFp d a k t) s (State.vector fun s => s.vun d a k (fpBits_ t) fun x => (fpFmt t).abs x)

/-- VNEG (R291). -/
def execVneg (d a : BitVec 4) (k : BitVec 2) (t : FpTy) (s : State) : Result :=
  issueAs (.vneg d a k t) s (State.vector fun s => s.vun d a k (fpBits_ t) fun x => (fpFmt t).flip x)

/-- VRNDI (R291). -/
def execVrndi (d a : BitVec 4) (k : BitVec 2) (t : FpTy) (s : State) : Result :=
  issueAs (.vrndi d a k t) s (State.vector fun s => s.vun d a k (fpBits_ t) fun x => (fpFmt t).rndi s.rmode x)

/-- VRCP (R292, R178). -/
def execVrcp (d a : BitVec 4) (k : BitVec 2) (t : FpTy) (s : State) : Result :=
  issueAs (.vrcp d a k t) s (State.vector fun s => s.vsfu d a k t rcpVal)

/-- VRSQ (R292, R178). -/
def execVrsq (d a : BitVec 4) (k : BitVec 2) (t : FpTy) (s : State) : Result :=
  issueAs (.vrsq d a k t) s (State.vector fun s => s.vsfu d a k t rsqVal)

/-- VEXP2 (R292, R178). -/
def execVexp2 (d a : BitVec 4) (k : BitVec 2) (t : FpTy) (s : State) : Result :=
  issueAs (.vexp2 d a k t) s (State.vector fun s => s.vsfu d a k t exp2Val)

/-- VLOG2 (R292, R178). -/
def execVlog2 (d a : BitVec 4) (k : BitVec 2) (t : FpTy) (s : State) : Result :=
  issueAs (.vlog2 d a k t) s (State.vector fun s => s.vsfu d a k t log2Val)

/-- VSIN (R292, R178). -/
def execVsin (d a : BitVec 4) (k : BitVec 2) (t : FpTy) (s : State) : Result :=
  issueAs (.vsin d a k t) s (State.vector fun s => s.vsfu d a k t sinVal)

/-- VCOS (R292, R178). -/
def execVcos (d a : BitVec 4) (k : BitVec 2) (t : FpTy) (s : State) : Result :=
  issueAs (.vcos d a k t) s (State.vector fun s => s.vsfu d a k t cosVal)

/-! ### Conversions (R293, R294) -/

/-- A clamp of a value to lo … hi as w bits. -/
def clampBits (w : Nat) (lo hi v : Int) : Nat :=
  ((if v < lo then lo else if hi < v then hi else v) % ((2 ^ w : Nat) : Int)).toNat

/-- A byte's or half's signed value. -/
def signedBits (w x : Nat) : Int := (BitVec.ofNat w x).toInt

/-- One element of VCVT, from elements x and y and half h (R293). -/
def vcvtElem (c : CvtKind) (mode : RMode) (h : Nat) (x y : Elem) : Elem :=
  let pack16 (f : Elem → Nat) : Elem := joinSubs 16 fun i => if i = 0 then f x else f y
  let pack8 (f : Nat → Nat) : Elem := joinSubs 8 fun i => if i < 2 then f (sub 16 x i) else f (sub 16 y (i - 2))
  match c with
  | .f32s32 => BitVec.ofNat 32 (f32.round mode false (ofInt x.toInt))
  | .f32z32 => BitVec.ofNat 32 (f32.round mode false (ofInt x.toNat))
  | .s32f32 => BitVec.ofInt 32 (toIntClamp mode (-(2 ^ 31)) (2 ^ 31 - 1) (f32.decode x.toNat))
  | .z32f32 => BitVec.ofInt 32 (toIntClamp mode 0 (2 ^ 32 - 1) (f32.decode x.toNat))
  | .f16f32 => pack16 fun e => convert f32 f16 mode e.toNat
  | .bf16f32 => pack16 fun e => convert f32 bf16 mode e.toNat
  | .f32f16 => BitVec.ofNat 32 (convert f16 f32 mode (sub 16 x h))
  | .f32bf16 => BitVec.ofNat 32 (convert bf16 f32 mode (sub 16 x h))
  | .s16s32 => pack16 fun e => clampBits 16 (-32768) 32767 e.toInt
  | .z16z32 => pack16 fun e => clampBits 16 0 65535 e.toNat
  | .s32s16 => BitVec.ofInt 32 (signedBits 16 (sub 16 x h))
  | .z32z16 => BitVec.ofNat 32 (sub 16 x h)
  | .s8s16 => pack8 fun e => clampBits 8 (-128) 127 (signedBits 16 e)
  | .z8z16 => pack8 fun e => clampBits 8 0 255 e
  | .e4m3f16 => pack8 fun e => convert f16 e4m3 mode e
  | .e5m2f16 => pack8 fun e => convert f16 e5m2 mode e
  | .f16e4m3 => joinSubs 16 fun i => convert e4m3 f16 mode (sub 8 x (2 * h + i))
  | .f16e5m2 => joinSubs 16 fun i => convert e5m2 f16 mode (sub 8 x (2 * h + i))
  | .s16s8 => joinSubs 16 fun i => clampBits 16 (-32768) 32767 (signedBits 8 (sub 8 x (2 * h + i)))
  | .z16z8 => joinSubs 16 fun i => sub 8 x (2 * h + i)

/-- VCVT (R293). -/
def execVcvt (d a b : BitVec 4) (k : BitVec 2) (c : CvtKind) (h : Bool) (s : State) : Result :=
  issueAs (.vcvt d a b k c h) s (State.vector fun s => s.wvs d (s.actives k) fun i =>
    vcvtElem c s.rmode (if h then 1 else 0) (s.rv a i) (s.rv b i))

/-- Exact cell c of a vector register: elements 8c to 8c + 7 (R294). -/
def State.regCell (s : State) (a : BitVec 4) (c : Nat) : Nat :=
  (upto 8).foldl (fun n j => n + (s.rv a (8 * c + j)).toNat * 2 ^ (32 * j)) 0

/-- XTOF (R294). -/
def execXtof (d a : BitVec 4) (k : BitVec 2) (s : State) : Result :=
  issueAs (.xtof d a k) s (State.vector fun s => s.wvs d ((s.actives k).filter fun c => decide (c < s.th.vl / 8)) fun c =>
    BitVec.ofNat 32 (exactToF32 s.rmode (s.regCell a c)))

/-! ### Comparison and dot products (R295 to R297) -/

/-- A mask with bit i of each listed element set to f i; the others keep their values (R295). -/
def State.wks (s : State) (d : BitVec 2) (els : List Nat) (f : Nat → Bool) : State :=
  s.wk d (els.foldl (fun m i => if f i then m ||| (1#64 <<< i) else m &&& ~~~(1#64 <<< i)) (s.rk d))

/-- VCMP (R295). -/
def execVcmp (e : BitVec 2) (a b : BitVec 4) (k : BitVec 2) (t : VcmpTy) (sb : Bool) (c : VCond) (s : State) : Result :=
  issueAs (.vcmp e a b k t sb c) s (State.vector fun s => s.wks e (s.actives k) fun i => vcmpHolds t c (s.rv a i) (s.second b sb 32 i))

/-- The sub-elements of a VDOT source as values (R296). -/
def dotVals (t : DotTy) (x : Elem) : List FV :=
  match t with
  | .f16 => (upto 2).map fun h => f16.decode (sub 16 x h)
  | .bf16 => (upto 2).map fun h => bf16.decode (sub 16 x h)
  | .s8 => (upto 4).map fun h => ofInt (signedBits 8 (sub 8 x h))
  | .z8 => (upto 4).map fun h => ofInt (sub 8 x h)
  | .e4m3 => (upto 4).map fun h => e4m3.decode (sub 8 x h)
  | .e5m2 => (upto 4).map fun h => e5m2.decode (sub 8 x h)

/-- The sub-elements of an integer VDOT source (R297). -/
def dotInts (t : DotTy) (x : Elem) : List Int :=
  (upto 4).map fun h => if t = .s8 then signedBits 8 (sub 8 x h) else (sub 8 x h : Nat)

/-- One element of VDOT (R297, R179). A zero product of integers has the sign that its factors' signs give (log 88: DESIGN CHOICE). -/
def vdotElem (t : DotTy) (ia : Bool) (mode : RMode) (x y z : Elem) : Elem :=
  if ia then BitVec.ofInt 32 (z.toInt + ((dotInts t x).zip (dotInts t y)).foldl (fun n p => n + p.1 * p.2) 0)
  else BitVec.ofNat 32 (f32.round mode false (sumExact mode
    (f32.decode z.toNat :: ((dotVals t x).zip (dotVals t y)).map fun p => mulExact p.1 p.2)))

/-- VDOT (R297). -/
def execVdot (d a b : BitVec 4) (k : BitVec 2) (t : DotTy) (ia sb : Bool) (s : State) : Result :=
  issueAs (.vdot d a b k t ia sb) s (State.vector fun s => s.wvs d (s.actives k) fun i =>
    vdotElem t ia s.rmode (s.rv a i) (s.second b sb 32 i) (s.rv d i))

/-! ### Cross-lane operations (R298 to R302) -/

/-- The identity of a reduction (R299). -/
def redIdentity (o : RedKind) (t : RedTy) : Elem :=
  match o, t with
  | .opMin, .f32 => 0x7F800000#32
  | .opMax, .f32 => 0xFF800000#32
  | .opMin, .s32 => 0x7FFFFFFF#32
  | .opMin, .z32 => 0xFFFFFFFF#32
  | .opMax, .s32 => 0x80000000#32
  | .opAnd, _ => 0xFFFFFFFF#32
  | _, _ => 0#32

/-- Two elements combined under an order-free operation (R299). -/
def redPair (o : RedKind) (t : RedTy) (x y : Elem) : Elem :=
  match o with
  | .add => x + y
  | .opMin => match t with
    | .s32 => if y.slt x then y else x
    | .z32 => if y.ult x then y else x
    | .f32 => BitVec.ofNat 32 (f32.minNum x.toNat y.toNat)
  | .opMax => match t with
    | .s32 => if x.slt y then y else x
    | .z32 => if x.ult y then y else x
    | .f32 => BitVec.ofNat 32 (f32.maxNum x.toNat y.toNat)
  | .opAnd => x &&& y
  | .opOr => x ||| y
  | .opXor => x ^^^ y

/-- A reduction of a list of elements (R299): a float add sums exactly and rounds once; a lone NaN is canonical. -/
def redList (o : RedKind) (t : RedTy) (mode : RMode) (l : List Elem) : Elem :=
  match l with
  | [] => redIdentity o t
  | x :: r =>
    if t = .f32 ∧ o = .add then
      BitVec.ofNat 32 (f32.round mode false (sumExact mode (l.map fun e => f32.decode e.toNat)))
    else if t = .f32 then r.foldl (redPair o t) (redPair o t x x)
    else r.foldl (redPair o t) x

/-- VRED: element 0 takes the result, whatever its mask bit (R299). -/
def execVred (d a : BitVec 4) (k : BitVec 2) (o : RedKind) (t : RedTy) (s : State) : Result :=
  issueAs (.vred d a k o t) s (State.vector fun s => s.wv d 0 (redList o t s.rmode ((s.actives k).map (s.rv a))))

/-- VPERM (R300). -/
def execVperm (d a b : BitVec 4) (k : BitVec 2) (s : State) : Result :=
  issueAs (.vperm d a b k) s (State.vector fun s => s.wvs d (s.actives k) fun i =>
    if (s.rv b i).toNat < s.th.vl then s.rv a (s.rv b i).toNat else 0)

/-- VSLIDE (R301). -/
def execVslide (d a : BitVec 4) (k : BitVec 2) (down : Bool) (n : BitVec 6) (s : State) : Result :=
  issueAs (.vslide d a k down n) s (State.vector fun s => s.wvs d (s.actives k) fun i =>
    if down then (if i + n.toNat < s.th.vl then s.rv a (i + n.toNat) else 0)
    else if n.toNat ≤ i then s.rv a (i - n.toNat) else 0)

/-- VBCAST (R302). -/
def execVbcast (d a : BitVec 4) (k : BitVec 2) (n : BitVec 6) (s : State) : Result :=
  issueAs (.vbcast d a k n) s (State.vector fun s => s.wvs d (s.actives k) fun _ => if n.toNat < s.th.vl then s.rv a n.toNat else 0)

/-- VIOTA (R302). -/
def execViota (d : BitVec 4) (k : BitVec 2) (s : State) : Result :=
  issueAs (.viota d k) s (State.vector fun s => s.wvs d (s.actives k) fun i => BitVec.ofNat 32 ((s.actives k).filter fun j => decide (j < i)).length)

/-! ### Scalar transfers (R303) -/

/-- VINS (R303). -/
def execVins (d : BitVec 4) (r : BitVec 5) (n : BitVec 6) (s : State) : Result :=
  issueAs (.vins d r n) s (State.vector fun s => if n.toNat < s.th.vl then s.wv d n.toNat ((s.rs r).truncate 32) else s)

/-- VEXT.s32 (R303). -/
def execVextS32 (a : BitVec 4) (r : BitVec 5) (n : BitVec 6) (s : State) : Result :=
  issueAs (.vextS32 a r n) s (State.vector fun s => s.ws r (if n.toNat < s.th.vl then (s.rv a n.toNat).signExtend 64 else 0))

/-- VSPLAT (R303). -/
def execVsplat (d : BitVec 4) (k : BitVec 2) (r : BitVec 5) (s : State) : Result :=
  issueAs (.vsplat d k r) s (State.vector fun s => s.wvs d (s.actives k) fun _ => (s.rs r).truncate 32)

/-- VINS.k (R303). -/
def execVinsK (e : BitVec 2) (r : BitVec 5) (s : State) : Result :=
  issueAs (.vinsK e r) s (State.vector fun s => s.wk e (s.rs r))

/-- VEXT.k (R303). -/
def execVextK (e : BitVec 2) (r : BitVec 5) (s : State) : Result :=
  issueAs (.vextK e r) s (State.vector fun s => s.ws r (s.rk e))

/-- VEXT.z32 (R303). -/
def execVextZ32 (a : BitVec 4) (r : BitVec 5) (n : BitVec 6) (s : State) : Result :=
  issueAs (.vextZ32 a r n) s (State.vector fun s => s.ws r (if n.toNat < s.th.vl then (s.rv a n.toNat).zeroExtend 64 else 0))

end Sys2Proof.Machine
end

