-- ==== Sys2Proof/Machine/Dispatch.lean ====
section
/-! DEFINITION. What each instruction and each event does: one call of its meaning. -/

namespace Sys2Proof.Machine

def exec (i : Instr) (s : State) : Host.Outcome State Fault Refusal :=
  match i with
  | .sysr src r => Sys2Proof.Machine.execSysr src r s
  | .sysw src r => Sys2Proof.Machine.execSysw src r s
  | .sysx src r => Sys2Proof.Machine.execSysx src r s
  | .eret => Sys2Proof.Machine.execEret s
  | .scall c => Sys2Proof.Machine.execScall c s
  | .bkpt c => Sys2Proof.Machine.execBkpt c s
  | .ppoint => Sys2Proof.Machine.execPpoint s
  | .ifence => Sys2Proof.Machine.execIfence s
  | .halt c => Sys2Proof.Machine.execHalt c s
  | .fence src => Sys2Proof.Machine.execFence src s
  | .time d => Sys2Proof.Machine.execTime d s
  | .wait l src c t x => Sys2Proof.Machine.execWait l src c t x s
  | .br o => Sys2Proof.Machine.execBr o s
  | .brc p inv o => Sys2Proof.Machine.execBrc p inv o s
  | .jal d im => Sys2Proof.Machine.execJal d im s
  | .jalr d a im => Sys2Proof.Machine.execJalr d a im s
  | .loop a im => Sys2Proof.Machine.execLoop a im s
  | .ld d b h t o => Sys2Proof.Machine.execLd d b h t o s
  | .st d b h t o => Sys2Proof.Machine.execSt d b h t o s
  | .ldx d a b g t => Sys2Proof.Machine.execLdx d a b g t s
  | .redOp a b g o w => Sys2Proof.Machine.execRedOp a b g o w s
  | .redX a b g => Sys2Proof.Machine.execRedX a b g s
  | .amoSwap d a b g w => Sys2Proof.Machine.execAmoSwap d a b g w s
  | .amoCas d a b g w => Sys2Proof.Machine.execAmoCas d a b g w s
  | .amoAdd d a b g w => Sys2Proof.Machine.execAmoAdd d a b g w s
  | .vld d k b e x => Sys2Proof.Machine.execVld d k b e x s
  | .vst d k b e => Sys2Proof.Machine.execVst d k b e s
  | .vlds d c k b e x => Sys2Proof.Machine.execVlds d c k b e x s
  | .vsts d c k b e => Sys2Proof.Machine.execVsts d c k b e s
  | .vgath d im k b e x => Sys2Proof.Machine.execVgath d im k b e x s
  | .vscat d im k b e => Sys2Proof.Machine.execVscat d im k b e s
  | .ctxnew d a g => Sys2Proof.Machine.execCtxnew d a g s
  | .ctxset a g => Sys2Proof.Machine.execCtxset a g s
  | .ctxfold a g => Sys2Proof.Machine.execCtxfold a g s
  | .ctxret a g => Sys2Proof.Machine.execCtxret a g s
  | .ctxq d a g => Sys2Proof.Machine.execCtxq d a g s
  | .tlod d a b k src c => Sys2Proof.Machine.execTlod d a b k src c s
  | .tsmp d a b k src c => Sys2Proof.Machine.execTsmp d a b k src c s
  | .resq d a k src => Sys2Proof.Machine.execResq d a k src s
  | .resw d a k src t => Sys2Proof.Machine.execResw d a k src t s
  | .rmfence src => Sys2Proof.Machine.execRmfence src s
  | .spawnr d a b g => Sys2Proof.Machine.execSpawnr d a b g s
  | .spawnc a g => Sys2Proof.Machine.execSpawnc a g s
  | .tend => Sys2Proof.Machine.execTend s
  | .await a => Sys2Proof.Machine.execAwait a s
  | .join a g => Sys2Proof.Machine.execJoin a g s
  | .stamp d a b g => Sys2Proof.Machine.execStamp d a b g s
  | .yield => Sys2Proof.Machine.execYield s
  | .bar l => Sys2Proof.Machine.execBar l s
  | .barX l => Sys2Proof.Machine.execBarX l s
  | .barv d a b l => Sys2Proof.Machine.execBarv d a b l s
  | .barvX d a b l => Sys2Proof.Machine.execBarvX d a b l s
  | .domq d g l => Sys2Proof.Machine.execDomq d g l s
  | .send a b g => Sys2Proof.Machine.execSend a b g s
  | .recv d a c => Sys2Proof.Machine.execRecv d a c s
  | .recvq d c g => Sys2Proof.Machine.execRecvq d c g s
  | .rplay d a g => Sys2Proof.Machine.execRplay d a g s
  | .xsend r src l => Sys2Proof.Machine.execXsend r src l s
  | .xrecv c k => Sys2Proof.Machine.execXrecv c k s
  | .mlease n => Sys2Proof.Machine.execMlease n s
  | .mrel => Sys2Proof.Machine.execMrel s
  | .mclr r c m n => Sys2Proof.Machine.execMclr r c m n s
  | .mrot a b k => Sys2Proof.Machine.execMrot a b k s
  | .mrd a b => Sys2Proof.Machine.execMrd a b s
  | .mrdv b v => Sys2Proof.Machine.execMrdv b v s
  | .mma a b r c m n k => Sys2Proof.Machine.execMma a b r c m n k s
  | .cpy a b l => Sys2Proof.Machine.execCpy a b l s
  | .cpy2d a b r l => Sys2Proof.Machine.execCpy2d a b r l s
  | .cpyg a b l => Sys2Proof.Machine.execCpyg a b l s
  | .coll a b k e l => Sys2Proof.Machine.execColl a b k e l s
  | .psetup d a => Sys2Proof.Machine.execPsetup d a s
  | .pcover d a c l m src => Sys2Proof.Machine.execPcover d a c l m src s
  | .pdepth e a w m src c => Sys2Proof.Machine.execPdepth e a w m src c s
  | .pblend r a b m src o => Sys2Proof.Machine.execPblend r a b m src o s
  | .pblendC r a b m src o => Sys2Proof.Machine.execPblendC r a b m src o s
  | .pld d m src l => Sys2Proof.Machine.execPld d m src l s
  | .pst d m src l => Sys2Proof.Machine.execPst d m src l s
  | .pstX d a m l => Sys2Proof.Machine.execPstX d a m l s
  | .emit a b => Sys2Proof.Machine.execEmit a b s
  | .emitq a b => Sys2Proof.Machine.execEmitq a b s
  | .vfpush a src f => Sys2Proof.Machine.execVfpush a src f s
  | .vfpop d src => Sys2Proof.Machine.execVfpop d src s
  | .vffree src => Sys2Proof.Machine.execVffree src s
  | .vclaim d a g => Sys2Proof.Machine.execVclaim d a g s
  | .vrel g => Sys2Proof.Machine.execVrel g s
  | .add d a b g => Sys2Proof.Machine.execAdd d a b g s
  | .sub d a b g => Sys2Proof.Machine.execSub d a b g s
  | .and d a b g => Sys2Proof.Machine.execAnd d a b g s
  | .or d a b g => Sys2Proof.Machine.execOr d a b g s
  | .xor d a b g => Sys2Proof.Machine.execXor d a b g s
  | .andn d a b g => Sys2Proof.Machine.execAndn d a b g s
  | .orn d a b g => Sys2Proof.Machine.execOrn d a b g s
  | .sll d a b g => Sys2Proof.Machine.execSll d a b g s
  | .srl d a b g => Sys2Proof.Machine.execSrl d a b g s
  | .sra d a b g => Sys2Proof.Machine.execSra d a b g s
  | .rol d a b g => Sys2Proof.Machine.execRol d a b g s
  | .ror d a b g => Sys2Proof.Machine.execRor d a b g s
  | .min d a b g => Sys2Proof.Machine.execMin d a b g s
  | .max d a b g => Sys2Proof.Machine.execMax d a b g s
  | .minz d a b g => Sys2Proof.Machine.execMinz d a b g s
  | .maxz d a b g => Sys2Proof.Machine.execMaxz d a b g s
  | .addsh d a b g src => Sys2Proof.Machine.execAddsh d a b g src s
  | .sext d a g w => Sys2Proof.Machine.execSext d a g w s
  | .zext d a g w => Sys2Proof.Machine.execZext d a g w s
  | .clz d a g => Sys2Proof.Machine.execClz d a g s
  | .ctz d a g => Sys2Proof.Machine.execCtz d a g s
  | .popc d a g => Sys2Proof.Machine.execPopc d a g s
  | .bswap d a g => Sys2Proof.Machine.execBswap d a g s
  | .sel d a b p inv => Sys2Proof.Machine.execSel d a b p inv s
  | .addi d a im => Sys2Proof.Machine.execAddi d a im s
  | .andi d a im => Sys2Proof.Machine.execAndi d a im s
  | .ori d a im => Sys2Proof.Machine.execOri d a im s
  | .xori d a im => Sys2Proof.Machine.execXori d a im s
  | .slli d a m => Sys2Proof.Machine.execSlli d a m s
  | .srli d a m => Sys2Proof.Machine.execSrli d a m s
  | .srai d a m => Sys2Proof.Machine.execSrai d a m s
  | .roli d a m => Sys2Proof.Machine.execRoli d a m s
  | .rori d a m => Sys2Proof.Machine.execRori d a m s
  | .ldhi d im => Sys2Proof.Machine.execLdhi d im s
  | .cmp p a b g c => Sys2Proof.Machine.execCmp p a b g c s
  | .cmpi p a c im => Sys2Proof.Machine.execCmpi p a c im s
  | .mul d a b g => Sys2Proof.Machine.execMul d a b g s
  | .mulh d a b g => Sys2Proof.Machine.execMulh d a b g s
  | .mulhz d a b g => Sys2Proof.Machine.execMulhz d a b g s
  | .div d a b g => Sys2Proof.Machine.execDiv d a b g s
  | .divz d a b g => Sys2Proof.Machine.execDivz d a b g s
  | .rem d a b g => Sys2Proof.Machine.execRem d a b g s
  | .remz d a b g => Sys2Proof.Machine.execRemz d a b g s
  | .fadd d a b g => Sys2Proof.Machine.execFadd d a b g s
  | .fsub d a b g => Sys2Proof.Machine.execFsub d a b g s
  | .fmul d a b g => Sys2Proof.Machine.execFmul d a b g s
  | .ffma d a b g => Sys2Proof.Machine.execFfma d a b g s
  | .fmin d a b g => Sys2Proof.Machine.execFmin d a b g s
  | .fmax d a b g => Sys2Proof.Machine.execFmax d a b g s
  | .fabs d a g => Sys2Proof.Machine.execFabs d a g s
  | .fneg d a g => Sys2Proof.Machine.execFneg d a g s
  | .fcmp p a b g c => Sys2Proof.Machine.execFcmp p a b g c s
  | .fcvt d a g c => Sys2Proof.Machine.execFcvt d a g c s
  | .bfx d a p w => Sys2Proof.Machine.execBfx d a p w s
  | .bfxz d a p w => Sys2Proof.Machine.execBfxz d a p w s
  | .bfi d a p w => Sys2Proof.Machine.execBfi d a p w s
  | .vaddInt d a b k t src => Sys2Proof.Machine.execVaddInt d a b k t src s
  | .vsubInt d a b k t src => Sys2Proof.Machine.execVsubInt d a b k t src s
  | .vmulInt d a b k t src => Sys2Proof.Machine.execVmulInt d a b k t src s
  | .vmulh d a b k t src => Sys2Proof.Machine.execVmulh d a b k t src s
  | .vminInt d a b k t src => Sys2Proof.Machine.execVminInt d a b k t src s
  | .vmaxInt d a b k t src => Sys2Proof.Machine.execVmaxInt d a b k t src s
  | .vand d a b k t src => Sys2Proof.Machine.execVand d a b k t src s
  | .vor d a b k t src => Sys2Proof.Machine.execVor d a b k t src s
  | .vxor d a b k t src => Sys2Proof.Machine.execVxor d a b k t src s
  | .vandn d a b k t src => Sys2Proof.Machine.execVandn d a b k t src s
  | .vsll d a b k t src => Sys2Proof.Machine.execVsll d a b k t src s
  | .vsrl d a b k t src => Sys2Proof.Machine.execVsrl d a b k t src s
  | .vsra d a b k t src => Sys2Proof.Machine.execVsra d a b k t src s
  | .vadds d a b k t src => Sys2Proof.Machine.execVadds d a b k t src s
  | .vsubs d a b k t src => Sys2Proof.Machine.execVsubs d a b k t src s
  | .vabsInt d a k t => Sys2Proof.Machine.execVabsInt d a k t s
  | .vdiv d a b k t src => Sys2Proof.Machine.execVdiv d a b k t src s
  | .vrem d a b k t src => Sys2Proof.Machine.execVrem d a b k t src s
  | .vmerge d a b k t src => Sys2Proof.Machine.execVmerge d a b k t src s
  | .vaddFp d a b k t src => Sys2Proof.Machine.execVaddFp d a b k t src s
  | .vsubFp d a b k t src => Sys2Proof.Machine.execVsubFp d a b k t src s
  | .vmulFp d a b k t src => Sys2Proof.Machine.execVmulFp d a b k t src s
  | .vfma d a b k t src => Sys2Proof.Machine.execVfma d a b k t src s
  | .vfms d a b k t src => Sys2Proof.Machine.execVfms d a b k t src s
  | .vminFp d a b k t src => Sys2Proof.Machine.execVminFp d a b k t src s
  | .vmaxFp d a b k t src => Sys2Proof.Machine.execVmaxFp d a b k t src s
  | .vabsFp d a k t => Sys2Proof.Machine.execVabsFp d a k t s
  | .vneg d a k t => Sys2Proof.Machine.execVneg d a k t s
  | .vrndi d a k t => Sys2Proof.Machine.execVrndi d a k t s
  | .vcvt d a b k c h => Sys2Proof.Machine.execVcvt d a b k c h s
  | .xtof d a k => Sys2Proof.Machine.execXtof d a k s
  | .vrcp d a k t => Sys2Proof.Machine.execVrcp d a k t s
  | .vrsq d a k t => Sys2Proof.Machine.execVrsq d a k t s
  | .vexp2 d a k t => Sys2Proof.Machine.execVexp2 d a k t s
  | .vlog2 d a k t => Sys2Proof.Machine.execVlog2 d a k t s
  | .vsin d a k t => Sys2Proof.Machine.execVsin d a k t s
  | .vcos d a k t => Sys2Proof.Machine.execVcos d a k t s
  | .vred d a k o t => Sys2Proof.Machine.execVred d a k o t s
  | .vperm d a b k => Sys2Proof.Machine.execVperm d a b k s
  | .vslide d a k r n => Sys2Proof.Machine.execVslide d a k r n s
  | .vbcast d a k n => Sys2Proof.Machine.execVbcast d a k n s
  | .viota d k => Sys2Proof.Machine.execViota d k s
  | .vcmp e a b k t src c => Sys2Proof.Machine.execVcmp e a b k t src c s
  | .vdot d a b k t im src => Sys2Proof.Machine.execVdot d a b k t im src s
  | .vins d src n => Sys2Proof.Machine.execVins d src n s
  | .vextS32 a src n => Sys2Proof.Machine.execVextS32 a src n s
  | .vsplat d k src => Sys2Proof.Machine.execVsplat d k src s
  | .vinsK e src => Sys2Proof.Machine.execVinsK e src s
  | .vextK e src => Sys2Proof.Machine.execVextK e src s
  | .vextZ32 a src n => Sys2Proof.Machine.execVextZ32 a src n s
  | .systemRegisterWrite t r v => Sys2Proof.Machine.execSystemRegisterWrite t r v s
  | .loftwaysWrite t v => Sys2Proof.Machine.execLoftwaysWrite t v s
  | .loftwaysSwitch ca => Sys2Proof.Machine.execLoftwaysSwitch ca s
  | .loftwaysTimeout ca => Sys2Proof.Machine.execLoftwaysTimeout ca s
  | .grbaseWrite t v => Sys2Proof.Machine.execGrbaseWrite t v s
  | .grtailWrite t v => Sys2Proof.Machine.execGrtailWrite t v s
  | .upgateWrite t v => Sys2Proof.Machine.execUpgateWrite t v s
  | .driveGate ca => Sys2Proof.Machine.execDriveGate ca s
  | .launchDoorbell fn tail => Sys2Proof.Machine.execLaunchDoorbell fn tail s
  | .hostRegisterWrite fn off v => Sys2Proof.Machine.execHostRegisterWrite fn off v s
  | .launchRecord fn frames => Sys2Proof.Machine.execLaunchRecord fn frames s
  | .launchComplete part => Sys2Proof.Machine.execLaunchComplete part s
  | .completionRecord part => Sys2Proof.Machine.execCompletionRecord part s
  | .launchTimeout part => Sys2Proof.Machine.execLaunchTimeout part s
  | .taskPop t => Sys2Proof.Machine.execTaskPop t s
  | .recordAging ca prio => Sys2Proof.Machine.execRecordAging ca prio s
  | .orderedCommit t => Sys2Proof.Machine.execOrderedCommit t s
  | .stallResume t => Sys2Proof.Machine.execStallResume t s
  | .leaseGrant ca => Sys2Proof.Machine.execLeaseGrant ca s
  | .spawnStallLimit t => Sys2Proof.Machine.execSpawnStallLimit t s
  | .contextStallLimit t => Sys2Proof.Machine.execContextStallLimit t s
  | .barrierRelease part level id => Sys2Proof.Machine.execBarrierRelease part level id s
  | .barrierWatchdog part level id => Sys2Proof.Machine.execBarrierWatchdog part level id s
  | .exchangeLaunch x => Sys2Proof.Machine.execExchangeLaunch x s
  | .transferLanding x ca => Sys2Proof.Machine.execTransferLanding x ca s
  | .xrecvDeadline t => Sys2Proof.Machine.execXrecvDeadline t s
  | .messageDelivery m => Sys2Proof.Machine.execMessageDelivery m s
  | .spillWake ca drv => Sys2Proof.Machine.execSpillWake ca drv s
  | .fifoEntry ca => Sys2Proof.Machine.execFifoEntry ca s
  | .loadReturn t a => Sys2Proof.Machine.execLoadReturn t a s
  | .storePerformed t a => Sys2Proof.Machine.execStorePerformed t a s
  | .engineRegistration c => Sys2Proof.Machine.execEngineRegistration c s
  | .copyComplete c => Sys2Proof.Machine.execCopyComplete c s
  | .matrixCommandComplete c => Sys2Proof.Machine.execMatrixCommandComplete c s
  | .mrotLanding c => Sys2Proof.Machine.execMrotLanding c s
  | .preemptRequest part => Sys2Proof.Machine.execPreemptRequest part s
  | .preemptDistanceExpiry t => Sys2Proof.Machine.execPreemptDistanceExpiry t s
  | .trapDelivery t => Sys2Proof.Machine.execTrapDelivery t s
  | .emissionCopy ca e => Sys2Proof.Machine.execEmissionCopy ca e s
  | .emissionEnd ca e => Sys2Proof.Machine.execEmissionEnd ca e s
  | .cellarRefresh ch => Sys2Proof.Machine.execCellarRefresh ch s
  | .cellarSensorChange ch temp => Sys2Proof.Machine.execCellarSensorChange ch temp s
  | .thsenseRefresh ca temp droop => Sys2Proof.Machine.execThsenseRefresh ca temp droop s
  | .thallowWindow ca hold => Sys2Proof.Machine.execThallowWindow ca hold s
  | .filterEntryExpiry ca => Sys2Proof.Machine.execFilterEntryExpiry ca s
  | .hostBar2Read fn off len => Sys2Proof.Machine.execHostBar2Read fn off len s
  | .hostBar2Write fn off bytes => Sys2Proof.Machine.execHostBar2Write fn off bytes s
  | .sceneMessage fn => Sys2Proof.Machine.execSceneMessage fn s
  | .pcreate slot => Sys2Proof.Machine.execPcreate slot s
  | .pdestroy part => Sys2Proof.Machine.execPdestroy part s
  | .pbind vf part => Sys2Proof.Machine.execPbind vf part s
  | .punbind vf => Sys2Proof.Machine.execPunbind vf s
  | .pevict part => Sys2Proof.Machine.execPevict part s
  | .quantumExpiry part => Sys2Proof.Machine.execQuantumExpiry part s
  | .preemption part => Sys2Proof.Machine.execPreemption part s
  | .columnContextExchange ca part => Sys2Proof.Machine.execColumnContextExchange ca part s
  | .firmwareCommand link => Sys2Proof.Machine.execFirmwareCommand link s
  | .referencePulse sec => Sys2Proof.Machine.execReferencePulse sec s
  | .slewEnd => Sys2Proof.Machine.execSlewEnd s
  | .referenceLoss => Sys2Proof.Machine.execReferenceLoss s
  | .setroot part root => Sys2Proof.Machine.execSetroot part root s
  | .inval part va size => Sys2Proof.Machine.execInval part va size s
  | .resolve part va outcome => Sys2Proof.Machine.execResolve part va outcome s
  | .faultCombine f => Sys2Proof.Machine.execFaultCombine f s
  | .faultBatchDelivery ca => Sys2Proof.Machine.execFaultBatchDelivery ca s
  | .pageFaultService part page frame => Sys2Proof.Machine.execPageFaultService part page frame s
  | .partitionKill part unit line => Sys2Proof.Machine.execPartitionKill part unit line s
  | .thermalTrip sensor => Sys2Proof.Machine.execThermalTrip sensor s
  | .stage addr len => Sys2Proof.Machine.execStage addr len s
  | .activate => Sys2Proof.Machine.execActivate s
  | .confirm => Sys2Proof.Machine.execConfirm s
  | .rollback addr => Sys2Proof.Machine.execRollback addr s
  | .floor addr => Sys2Proof.Machine.execFloor addr s
  | .quote part nonce out => Sys2Proof.Machine.execQuote part nonce out s
  | .telsnap out => Sys2Proof.Machine.execTelsnap out s
  | .trialTimeout => Sys2Proof.Machine.execTrialTimeout s
  | .deviceReset => Sys2Proof.Machine.execDeviceReset s
  | .emitterLayerSensorChange temp => Sys2Proof.Machine.execEmitterLayerSensorChange temp s

end Sys2Proof.Machine
end

