-- ==== Sys2Proof/Machine/Issue.lean ====
section
/-! DEFINITION. Issue: fetching a pair (07_encoding R182 to R189, 03_memory R97), the checks and the trap order of a bundle
(R194), the interlock (R92, R199), one bundle's effect (R183), and the end of a loop body (08_isa_scalar R226). -/

namespace Sys2Proof.Machine

/-! ### Which thread issues (R68, R350) -/

/-- A pixel instruction of the thread is under way: it waits for a copy or a sequencer entry, or has not issued again since (R335). -/
def Thread.inPixel (th : Thread) : Bool :=
  (match th.wait with | .copies _ | .sequencer => true | _ => false) && (th.run == .stalled || (th.run == .ready && th.waited))

/-- The other thread of a drive core. -/
def otherDrive (t : ThreadRef) : ThreadRef := ⟨t.ca, 65 - t.tid⟩

/-- A drive core is stopped: gated, or asked to be with its FIFO empty (R350). -/
def State.driveStopped (s : State) (ca : Nat) : Bool :=
  (s.gate ca).upState || ((s.gate ca).upReq && (s.col ca).fifo.isEmpty)

/-- The thread has an instruction to issue; a stopped drive core issues nothing (R350), and a drive core none beside a pixel instruction
of its other thread, which completes its effect first (R335, R346). -/
def State.canIssue (s : State) (t : ThreadRef) : Bool :=
  (s.thread t).run == .ready &&
  (if isDrive t then !s.driveStopped t.ca && !(s.thread (otherDrive t)).inPixel else !s.retired.contains t.ca)

/-- The core of a thread: 0 to 7, or 8 for the drive core. -/
def coreOf (tid : Nat) : Nat := if 32 ≤ tid then 8 else if 24 ≤ tid then tid - 24 else tid / 3

/-- A control core's general threads, cyclically from the one after the last that issued. -/
def rotation (core last : Nat) : List Nat := (upto 3).map fun i => 3 * core + (last + 1 + i) % 3

/-- The last of T0 to T2 of a core that issued; 2 before any has, so that T0 is first. -/
def Column.lastOf (c : Column) (core : Nat) : Nat := tget c.lastIssue core 2

/-- The thread that a core issues from now (R68). -/
def State.coreChoice (s : State) (ca core : Nat) : Option ThreadRef :=
  let order := if core = 8 then [33, 32] else (24 + core) :: rotation core ((s.col ca).lastOf core)
  (order.map fun n => (⟨ca, n⟩ : ThreadRef)).find? s.canIssue

/-- The core's last general thread is noted. -/
def State.noteIssue (s : State) (t : ThreadRef) : State :=
  if t.tid < 24 then s.updCol t.ca fun c => { c with lastIssue := tset c.lastIssue (coreOf t.tid) (t.tid % 3) } else s

/-! ### Fetch (R75, R89, R97, R182, R189) -/

/-- The pair at the thread's pc, read from base, or why it cannot be fetched. -/
def State.readPair (s : State) (t : ThreadRef) (pc : Nat) : Except Stop Nat :=
  if 2 ^ 48 ≤ pc then .error (.fault .addrRange)
  else if pc % 4 ≠ 0 ∨ inScratch pc then .error (.fault .ifetch)
  else
    let p := (s.partOf t).getD 16
    match s.translate p (pc / 8 * 8) with
    | .error e => .error e
    | .ok x =>
      if !x.x || x.cls == .sync || x.cls == .lod || x.cls == .host then .error (.fault .ifetch)
      else if x.cls == .priv && x.home != t.ca then .error (.fault .protection)
      else match s.taint p x 0 with
      | some y => .error (.poison y)
      | none => .ok (leNat (s.readBase p x.back 8))

/-- A pair in the thread's instruction buffer (R97). -/
def Thread.buffered (th : Thread) (pc : Nat) : Option Nat :=
  if pc % 4 ≠ 0 then none else (th.ibuf.find? fun e => e.1 == pc / 8 * 8).map fun e => e.2.toNat

/-- The pair enters the buffer, which holds the 8 last read. -/
def Thread.buffer (th : Thread) (pc pair : Nat) : Thread :=
  { th with ibuf := ((pc / 8 * 8, BitVec.ofNat 64 pair) :: th.ibuf.filter fun e => e.1 != pc / 8 * 8).take 8 }

/-- The first word of a pair, its pairing bit (R182), and the second word. -/
def word0 (pair : Nat) : Nat := pair % 2 ^ 31
def pairBit (pair : Nat) : Bool := fld pair 31 1 == 1
def word1 (pair : Nat) : Nat := pair / 2 ^ 32

/-- What stands at an address of a pair. -/
inductive Bundle where
  | one (w : Nat)
  | two (w0 w1 : Nat)
  /-- word 1 of a pair that is one bundle (R189) -/
  | middle
  deriving DecidableEq, Repr

def bundleAt (pc pair : Nat) : Bundle :=
  if pc % 8 = 0 then (if pairBit pair then .two (word0 pair) (word1 pair) else .one (word0 pair))
  else if pairBit pair then .middle else .one (word1 pair)

/-! ### Decoding a bundle (R185 to R187, R194) -/

/-- A second word with bit 31 set stands for nothing (R185). -/
def decode31 (w : Nat) : Option Instr := if w < 2 ^ 31 then decodeNat w else none

/-- A write that R187 counts: not s0, p0 or k0. -/
def Reg.counts : Reg → Bool
  | .s n => n != 0 | .p n => n != 0 | .k n => n != 0 | _ => true

/-- Two instructions write one destination (R187). -/
def writesClash (a b : Instr) : Bool := a.writes.any fun r => r.counts && b.writes.contains r

/-- Steps 2 to 4 of R194 for a bundle's two words. -/
def State.bundleTrap (s : State) (w0 w1 : Nat) (a b : Instr) : Option Cause :=
  let ta := decodeTrap a s
  let tb := decodeTrap b s
  if ta = some .illegalInstr ∨ tb = some .illegalInstr then some .illegalInstr
  else if fld w0 30 1 = 1 ∨ fld w1 30 1 = 0 ∨ writesClash a b then some .illegalBundle
  else if ta = some .priv ∨ tb = some .priv then some .priv
  else none

/-! ### The interlock (R92, R199) -/

/-- The registers that an instruction with a true guard reads, and those it writes that an MRDV in flight is still to write
(log 16). -/
def State.needs (s : State) (i : Instr) : List Reg :=
  if s.guardTrue i.guard then i.reads ++ i.writes.filter (fun r => s.readsOut s.cur [r]) else []

/-- The registers hold their values, or the bundle waits or takes a deferred fault there. -/
def State.interlock (rs : List Reg) (f : State → State) (s : State) : State :=
  s.afterDone (fun a => a.writesAny rs) (.regs rs) fun s => if s.readsOut s.cur rs then s.stall (.regs rs) else f s

/-! ### One bundle (R183, R188) -/

/-- The state an instruction's meaning answers. -/
def State.run1 (s : State) (i : Instr) : State := match exec i s with | .next s' => s' | _ => s

/-- Register r of one thread as another holds it; no outstanding access is touched. -/
def Thread.copyReg (src dst : Thread) (r : Reg) : Thread :=
  match r with
  | .s n => { dst with s := dst.s.set n.toNat (src.s[n.toNat]'(by omega)) (by omega) }
  | .p n => { dst with p := (dst.p &&& ~~~(1#8 <<< n.toNat)) ||| (src.p &&& (1#8 <<< n.toNat)) }
  | .v n => { dst with v := dst.v.set n.toNat (src.v[n.toNat]'(by omega)) (by omega) }
  | .k n => { dst with k := dst.k.set n.toNat (src.k[n.toNat]'(by omega)) (by omega) }
  | .vl => { dst with vl := src.vl }
  | .sys n => if n = 1 then { dst with vrmode := src.vrmode } else if n = 0x10 then { dst with mfmta := src.mfmta }
              else if n = 0x11 then { dst with mfmtb := src.mfmtb } else dst

def Thread.copyRegs (src dst : Thread) (rs : List Reg) : Thread := rs.foldl (fun t r => src.copyReg t r) dst

/-- The registers that an instruction changes, and that its partner reads as they were: PPOINT changes VL (R283). -/
def altersOf (i : Instr) : List Reg := match i with | .ppoint => [.vl] | _ => i.writes

/-- The thread has no program or task any more: registers are gone (R37). -/
def Thread.ended (th : Thread) : Bool := th.run == .idle || th.run == .dormant

/-- An instruction that returns from a trap: its thread keeps its registers for its next run (R364, R365). -/
def isReturn (i : Instr) : Bool := match i with | .eret => true | _ => false

/-- Both words of a bundle: each reads its sources before either writes; either trap holds back both. What word 1 writes in a
thread that word 0 ends is lost with its registers (R37, R260); a service thread that goes dormant keeps its own (R364). -/
def State.run2 (s : State) (a b : Instr) : State :=
  let sa := s.run1 a
  if sa.th.held then sa
  else
    let sb := s.run1 b
    if sb.th.held then sb
    else if sa.th.ended && !isReturn a then sa
    else
      let before := s.th
      let after := sa.th
      let mixed := sa.upd fun th => before.copyRegs th (altersOf a)
      (mixed.run1 b).upd fun th => after.copyRegs th (altersOf a)

/-- The bundle at the pc, which has been fetched. A deferred fault met at its register reads is delivered before a trap of its own execution
(log 95: DESIGN CHOICE). -/
def State.runBundle (s : State) : Bundle → State
  | .middle => s.trapAt .ifetch s.th.ipc.toNat
  | .one w =>
    match decode31 w with
    | none => s.trap .illegalInstr
    | some i => if (decodeTrap i s).isSome then s.run1 i else s.interlock (s.needs i) (fun s => s.run1 i)
  | .two w0 w1 =>
    match decode31 w0, decode31 w1 with
    | some a, some b =>
      match s.bundleTrap w0 w1 a b with
      | some c => s.trap c
      | none => s.interlock (s.needs a ++ s.needs b) (fun s => s.run2 a b)
    | _, _ => s.trap .illegalInstr

/-! ### The end of a loop body (R226) -/

/-- The thread after its bundle: the loop's end, unless the bundle did not execute, transferred, waits at a barrier, which completes at
its release, or for its register write, which completes as it takes force. SCALL and BKPT complete, and the address they return to stands (R357, log 57). A transfer from word 0 of the final pair to its word 1 leaves
word 1's own completion to act (log 94: DESIGN CHOICE). -/
def Thread.afterIssue (th : Thread) (two : Bool) : Thread :=
  if th.held then th
  else
    let th := { th with waited := false }
    if th.taken || th.run == .waiting || th.run == .stalled || th.park == .preempt .waiting || !th.atLoopEnd two then th
    else if th.park == .trap then { th.loopBack with pc := th.pc } else th.loopBack

/-! ### Issue -/

/-- The number of bytes to the link value (R222). -/
def Bundle.size : Bundle → Nat | .two .. => 8 | _ => 4
def Bundle.isTwo : Bundle → Bool | .two .. => true | _ => false

/-- The thread is about to issue at pc: its own address, and the link value. -/
def Thread.begin (th : Thread) (n : Nat) : Thread :=
  { th with ipc := th.pc, pc := th.pc + BitVec.ofNat 64 n, held := false, taken := false }

/-- A fetch that stops: PAGE_ABSENT goes to firmware first, the rest trap at the target (R221, R360, R423). -/
def State.fetchStop (s : State) (e : Stop) : State :=
  let pc := s.th.ipc.toNat
  match e with
  | .fault c => s.trapAt c pc
  | .poison x => s.consume s.cur x
  | .absent mal =>
    if inFwWindow pc then s.takeTrap s.cur .quota pc s.th.ipc ⟨false, false, true⟩
    else (s.raiseFault s.pid pc false true mal).parkFirmware s.cur s.pid pc false

/-- Issues the bundle at the current thread's pc. -/
def State.issueBundle (s : State) (pair : Nat) : State :=
  let b := bundleAt s.th.pc.toNat pair
  let s := s.upd fun th => (th.buffer th.pc.toNat pair).begin b.size
  (s.runBundle b).upd fun th => th.afterIssue b.isTwo

/-- THREAD t ISSUES. -/
def State.issueThread (s : State) (t : ThreadRef) : State :=
  let s := { s with cur := t }.noteIssue t
  match s.th.buffered s.th.pc.toNat with
  | some pair => s.issueBundle pair
  | none =>
    match s.readPair t s.th.pc.toNat with
    | .ok pair => s.issueBundle pair
    | .error e => (s.upd fun th => th.begin 4).fetchStop e

end Sys2Proof.Machine
end

