-- ==== Sys2Proof/Machine/Schedule.lean ====
section
/-! DEFINITION. Which move the device makes next (log 1): the choices that the state lists, else a fixed order of the device's own
steps, then of its threads, then the almanac. -/

namespace Sys2Proof.Machine

/-! ### The moves -/

/-- A constructor that is a step of the device and has no instruction word. -/
def isEvent (i : Instr) : Bool := (encodeNat i).isNone

/-- Thread t may issue now: it is its core's choice (R68). -/
def State.mayRun (s : State) (t : ThreadRef) : Bool := threadOk t && s.coreChoice t.ca (coreOf t.tid) == some t

/-- The ticks at which something of the device's is due: an emission's copy and end (R344), a transfer's launch and landing. -/
def State.dueTicks (s : State) : List Nat :=
  s.cols.flatMap (fun c => (c.2.seqr.map fun e => if e.copied then e.stop else e.t) ++ (c.2.loftChange.map s.loftLimit).toList) ++
  s.xfers.filterMap Xfer.due

/-- A transfer that may not wait longer. Its launch waits for stores that a fault holds back and for locks that it has not
registered; its landing for locks of others (R149, R144). -/
def State.overdueXfer (s : State) (x : Xfer) : Bool :=
  match x.due with
  | none => false
  | some d => decide (d ≤ s.now) &&
    if x.launched then x.targets.any (s.mayLand x) else s.launchFree x

/-- A change of LOFTWAYS that may wait no longer: the limit is reached and nothing holds it up (R85). -/
def State.overdueLoft (s : State) (ca : Nat) : Bool :=
  match (s.col ca).loftChange with
  | some ch => decide (s.loftLimit ch ≤ s.now) && decide (s.now ≤ s.loftLimit ch) && !s.loftMayWait ca ch
  | none => false

/-- An emission's copy or end, a launch, a landing or a change of LOFTWAYS is due and has not happened. -/
def State.lit (s : State) : Bool :=
  (s.cols.any fun c => (c.2.seqr.any fun e => decide ((if e.copied then e.stop else e.t) ≤ s.now)) || s.overdueLoft c.1) ||
  s.xfers.any s.overdueXfer

/-- How far n ticks may go: not past a tick at which something is due. -/
def State.reach (s : State) (n : Nat) : Nat :=
  if s.lit then 0 else (s.dueTicks.filter fun d => decide (s.now < d)).foldl (fun m d => min m (d - s.now)) n

/-- The threads of a partition that are stalled in CTXNEW (R101). -/
def State.ctxStalled (s : State) (p : Nat) : Nat :=
  ((s.heldThreads p).filter fun th => th.run == .stalled && th.wait == .tagFree).length

/-- The almanac goes on by up to n ticks, which count for each thread that is stalled in CTXNEW (R465). -/
def State.advance (s : State) (n : Nat) : State :=
  let s' := s.ticks (s.reach n)
  { s' with parts := s'.parts.map fun e =>
      (e.1, { e.2 with ctxStallTicks := e.2.ctxStallTicks + (s'.now - s.now) * s.ctxStalled e.1 }) }

/-- A check structure of a column corrects an error, or its instruction or command executes again and matches: a soft error, counted
under its STRUCT, and no other change (R168, R230, R305, R449). Buffer parity corrects none. -/
def State.corrected (s : State) (ca unit : Nat) : State :=
  if caOk ca && decide (1 ≤ unit) && decide (unit ≤ 10) && unit != 5 then
    s.updTele ca fun t => { t with soft := tset t.soft unit (min 0xFFFF (tget t.soft unit 0 + 1)) }
  else s

/-- ONE MOVE of the device. -/
def State.move (s : State) : Choice → Result
  | .ev i => if isEvent i then exec i s else .next s
  | .run t => .next (if s.mayRun t then s.issueThread t else s)
  | .tick n => .next (s.advance n)
  | .soft ca unit => .next (s.corrected ca unit)
  | .spoil p ca unit x => .next (s.spoil p ca unit x)
  | .resize fn bits => .next (s.resizeBar fn bits)
  | .request t pc cause addr tpc => .next (s.fwRequest t pc cause addr tpc)

/-! ### The default order -/

/-- A step of the device's own. -/
abbrev Move := State → Result

/-- The n lowest frame numbers that are free. -/
def State.freeFrames (s : State) (n : Nat) : List Nat :=
  let used := s.usedFrames
  ((upto (n + used.length)).filter fun f => !used.contains f).take n

/-- Frames for a function's next image, those of its partition's previous one among them. -/
def State.freshFrames (s : State) (fn : Nat) : List Nat :=
  let r := s.nextRecord fn
  match parseZpi (mread s.hostMem r.image r.ilen) with
  | .ok z => (s.unbound (((s.fn fn).bound).getD 16)).freeFrames (imagePages z.sects)
  | .error _ => []

/-- The steps that a thread could take part in. -/
def State.threadSteps (s : State) (t : ThreadRef) : List Move :=
  let th := s.thread t
  [execStallResume t, execSpawnStallLimit t, execContextStallLimit t, execXrecvDeadline t, execOrderedCommit t, execTrapDelivery t,
   execPreemptDistanceExpiry t] ++
  (match th.wait with
    | .sysw r v _ => [execSystemRegisterWrite t r v, execLoftwaysWrite t v, execGrbaseWrite t v, execGrtailWrite t v, execUpgateWrite t v]
    | _ => []) ++
  th.out.flatMap fun a => [execLoadReturn t a.id, execStorePerformed t a.id]

/-- The steps of a column. -/
def State.columnSteps (s : State) (ca : Nat) : List Move :=
  let c := s.col ca
  ((c.threads.map fun e => (⟨ca, e.1⟩ : ThreadRef)).flatMap s.threadSteps) ++
  (if c.records.isEmpty then [] else generalTids.map fun n => execTaskPop ⟨ca, n⟩) ++
  [execLeaseGrant ca, execLoftwaysSwitch ca, execLoftwaysTimeout ca, execDriveGate ca, execRecordAging ca 0, execRecordAging ca 1, execRecordAging ca 2,
   execSpillWake ca false, execSpillWake ca true, execFifoEntry ca, execFilterEntryExpiry ca, execThermalTrip (.column ca)] ++
  c.seqr.flatMap fun e => [execEmissionCopy ca e.id, execEmissionEnd ca e.id]

/-- The steps of a partition. -/
def State.partSteps (s : State) (p : Nat) : List Move :=
  let x := s.part p
  (x.barWait.flatMap fun e => [execBarrierRelease p e.1.1 e.1.2, execBarrierWatchdog p e.1.1 e.1.2]) ++
  [execLaunchComplete p, execCompletionRecord p, execLaunchTimeout p, execPreemptRequest p, execQuantumExpiry p, execPreemption p] ++
  (if x.coming || x.leaving then x.pol.columns.map fun ca => execColumnContextExchange ca p else []) ++
  ((s.posted.filter fun f => f.part == p).map fun f => execPageFaultService p f.page ((s.freeFrames 1).headD 0))

/-- The steps that engines, transfers, messages and faults could take. -/
def State.flightSteps (s : State) : List Move :=
  (s.xfers.flatMap fun x => execExchangeLaunch x.id :: x.targets.map fun ca => execTransferLanding x.id ca) ++
  (s.net.map fun m => execMessageDelivery m.id) ++
  (s.cmds.flatMap fun c => [execEngineRegistration c.id, execCopyComplete c.id, execMatrixCommandComplete c.id, execMrotLanding c.id]) ++
  (s.faults.map fun f => execFaultCombine f.id) ++ (s.batches.map fun b => execFaultBatchDelivery b.ca) ++
  (s.ranges.map fun r => execFaultBatchDelivery r.ca) ++
  (s.links.map fun l => execFirmwareCommand l.1)

/-- The command that stands in a command register, with its operands (log 63), as firmware would run it. -/
def HostFn.commandSteps (f : HostFn) : List Move :=
  let arg (r : BitVec 512) (i : Nat) : Nat := field512 r (64 + 64 * i) 64
  (if f.pfBusy then match field512 f.pfcmd 0 16 with
    | 1 => [execPcreate (arg f.pfcmd 0)]
    | 2 => [execPdestroy (arg f.pfcmd 0)]
    | 3 => [execPbind (arg f.pfcmd 0) (arg f.pfcmd 1)]
    | 4 => [execPunbind (arg f.pfcmd 0)]
    | 5 => [execPevict (arg f.pfcmd 0)]
    | _ => []
  else []) ++
  (if f.tBusy then match field512 f.tcmd 0 16 with
    | 1 => [execSetroot (arg f.tcmd 0) (BitVec.ofNat 64 (arg f.tcmd 1))]
    | 2 => [execInval (arg f.tcmd 0) (BitVec.ofNat 64 (arg f.tcmd 1)) (arg f.tcmd 2)]
    | 3 => [execResolve (arg f.tcmd 0) (BitVec.ofNat 64 (arg f.tcmd 1)) (arg f.tcmd 2)]
    | _ => []
  else []) ++
  (if f.fwBusy then match field512 f.fwcmd 0 16 with
    | 1 => [execStage (arg f.fwcmd 0) (arg f.fwcmd 1)]
    | 2 => [execActivate]
    | 3 => [execConfirm]
    | 4 => [execRollback (arg f.fwcmd 0)]
    | 5 => [execFloor (arg f.fwcmd 0)]
    | 6 => [execQuote (arg f.fwcmd 0) (leBytes 32 (field512 f.fwcmd 128 256)) (arg f.fwcmd 5)]
    | 7 => [execTelsnap (arg f.fwcmd 0)]
    | _ => []
  else [])

/-- The device's own steps, in the default order. -/
def State.ownSteps (s : State) : List Move :=
  (if s.boot.running || s.boot.recovery then [] else [execDeviceReset]) ++
  s.flightSteps ++ s.cols.flatMap (fun c => s.columnSteps c.1) ++ s.parts.flatMap (fun p => s.partSteps p.1) ++
  (s.fns.map fun f => execLaunchRecord f.1 (s.freshFrames f.1)) ++ (s.chans.map fun c => execThermalTrip (.cellar c.1)) ++
  (s.fn 0).commandSteps ++ [execSlewEnd, execTrialTimeout]

/-- A step that would change the state. -/
def State.changes (s : State) (m : Move) : Bool := match m s with | .next s' => decide (s' ≠ s) | _ => false

/-- The place of a thread's core in the round of cores. -/
def coreRank (t : ThreadRef) : Nat := 9 * t.ca + coreOf t.tid

/-- The cores with a thread to issue, those after the core that issued last first. -/
def State.readyCores (s : State) : List ThreadRef :=
  let all := s.cols.flatMap fun c => (upto 9).filterMap fun k => (s.coreChoice c.1 k).map fun t => (coreRank t, t)
  let at_ := coreRank s.cur
  ((all.filter fun e => decide (at_ < e.1)) ++ all.filter fun e => decide (e.1 ≤ at_)).map (·.2)

/-- What the device does when the state lists no choice: its own steps first, then its cores in turn, and a tick before each
round of theirs (log 1). -/
def State.defaultMove (s : State) : Result :=
  match s.ownSteps.find? s.changes with
  | some m => m s
  | none => match s.readyCores.head? with
    | some t => (if coreRank s.cur < coreRank t then s else s.advance 1).move (.run t)
    | none => s.move (.tick 1)

end Sys2Proof.Machine
end

