-- ==== Sys2Proof/Machine/Step.lean ====
section
/-! DEFINITION. One step of the device, and a state whose next step runs a given instruction. -/

namespace Sys2Proof.Machine

/-- ONE STEP: the first choice that the state lists, or the default move (log 1). -/
def step (s : State) : Host.Outcome State Fault Refusal :=
  match s.sched with
  | c :: rest => State.move { s with sched := rest } c
  | [] => s.defaultMove

/-- The policy of the partition that a placed instruction runs in: one field at the north-west, every role. -/
def fetchPolicy : Policy := { Policy.blank with part := 0, roles := 7, frows := 1, fcols := 1, memq := 0x40000000 }

/-- Its launch. -/
def fetchLaunch : Launch := ⟨0, 0, 0, some 0, 0, 1024, BitVec.ofNat 64 Config.imgWindow, none, none, none, none⟩

/-- Its partition: resident, with the image window's first page at frame 1, readable, writable and executable. -/
def fetchPartition : Partition :=
  { Partition.create fetchPolicy with
      resident := true
      launch := some fetchLaunch
      tvecEn := true
      tvecAddr := BitVec.ofNat 64 (Config.imgWindow + 0x8000)
      fwPages := [⟨Config.imgWindow / 0x10000, BitVec.ofNat 64 (0x10000 + 3 + 32 + 64)⟩] }

/-- The kinds of thread of column 0: general, drive, service, and the drive core's service thread. -/
def fetchThreads : List ThreadRef := [⟨0, 0⟩, ⟨0, 32⟩, ⟨0, 24⟩, ⟨0, 33⟩]

/-- The first kind of thread whose core and level execute an instruction (R12, R13, R352). -/
def State.fetchThread (s : State) (w : Nat) : ThreadRef :=
  match decodeNat w with
  | some i => (fetchThreads.find? fun t => (decodeTrap i { s with cur := t }).isNone).getD ⟨0, 0⟩
  | none => ⟨0, 0⟩

/-- The pair that holds a word: alone where its P is clear; with its P, beside ADDI s0, s0, 0 if it is of slot A (R182); a
word of slot B is never the first of a bundle, so its P is cleared. -/
def fetchPair (w : Nat) : Nat :=
  if w < 2 ^ 31 then w else if fld w 30 1 = 1 then w - 2 ^ 31 else w + 0x42000000 * 2 ^ 32

/-- The state with the instruction whose word is w placed where the next step fetches (log 1): a resident partition with a
trap handler, its code page, and a thread of column 0 ready there. -/
def State.withFetchWord (s : State) (nbits w : Nat) : State :=
  let w := w % 2 ^ min nbits 32
  let s := { s with parts := tset s.parts 0 fetchPartition, cellar := mwrite s.cellar 0x10000 (leBytes 8 (fetchPair w)) }
  let s := s.updCol 0 fun c => { c with holder := some 0, upState := false }
  let t := s.fetchThread w
  let s := s.updThread t fun th =>
    { th with run := .ready, pc := BitVec.ofNat 64 Config.imgWindow, ibuf := [], preReq := none, loops := [], out := [] }
  { s with sched := .run t :: s.sched }

end Sys2Proof.Machine
end

