-- ==== Sys2Proof/Laws/Decode.lean ====
section
/-! SUPPORT. The small laws of the decoder's pieces: each enumeration's codes, and what reads a field back. -/

set_option Elab.async false

namespace Sys2Proof

theorem bit_lt (b : Bool) : bit b < 2 := by cases b <;> decide

/-- A field of a number written as what stands above it, the field, and what stands below. -/
theorem fld_mid {w lo n x : Nat} (hi low : Nat) (h : w = hi * 2 ^ (lo + n) + x * 2 ^ lo + low) (hx : x < 2 ^ n)
    (hl : low < 2 ^ lo) : fld w lo n = x := by
  have e : w = (hi * 2 ^ n + x) * 2 ^ lo + low := by rw [h, Nat.pow_add]; ring
  unfold fld
  rw [e, Nat.add_comm, Nat.add_mul_div_right _ _ (Nat.two_pow_pos lo), Nat.div_eq_of_lt hl, Nat.zero_add,
    Nat.add_comm, Nat.add_mul_mod_self_right, Nat.mod_eq_of_lt hx]

theorem fld_skip {x r lo k : Nat} (n : Nat) (hx : x < 2 ^ n) (h : n ≤ lo) : fld (x + 2 ^ n * r) lo k = fld r (lo - n) k := by
  obtain ⟨m, rfl⟩ : ∃ m, lo = n + m := ⟨lo - n, by omega⟩
  unfold fld
  rw [Nat.add_sub_cancel_left, Nat.pow_add, ← Nat.div_div_eq_div_mul, Nat.add_mul_div_left _ _ (Nat.two_pow_pos n),
    Nat.div_eq_of_lt hx, Nat.zero_add]

theorem fld_take {x r n : Nat} (hx : x < 2 ^ n) : fld (x + 2 ^ n * r) 0 n = x := by
  unfold fld
  rw [Nat.pow_zero, Nat.div_one, Nat.add_mul_mod_self_left, Nat.mod_eq_of_lt hx]

theorem fld_whole {x n : Nat} (hx : x < 2 ^ n) : fld x 0 n = x := by
  unfold fld
  rw [Nat.pow_zero, Nat.div_one, Nat.mod_eq_of_lt hx]

theorem fld_low {x r n lo k : Nat} (h : lo + k ≤ n) : fld (x + 2 ^ n * r) lo k = fld x lo k := by
  obtain ⟨m, rfl⟩ : ∃ m, n = lo + (k + m) := ⟨n - (lo + k), by omega⟩
  unfold fld
  rw [Nat.pow_add, Nat.mul_assoc, Nat.add_mul_div_left _ _ (Nat.two_pow_pos lo), Nat.pow_add 2 k m, Nat.mul_assoc,
    Nat.add_mul_mod_self_left]

/-- A field whose bit b is not that of v is not v. -/
theorem fld_ne {w lo n v b c : Nat} (h : fld w b 1 = c) (hb : lo ≤ b) (hn : b < lo + n) (hv : v / 2 ^ (b - lo) % 2 ≠ c) :
    ¬ fld w lo n = v := by
  rintro rfl
  apply hv
  rw [← h]
  unfold fld
  obtain ⟨j, rfl⟩ : ∃ j, b = lo + j := ⟨b - lo, by omega⟩
  have hj : j < n := by omega
  obtain ⟨m, rfl⟩ : ∃ m, n = j + 1 + m := ⟨n - (j + 1), by omega⟩
  have e : w / 2 ^ (lo + j) = w / 2 ^ lo / 2 ^ j := by rw [Nat.pow_add, Nat.div_div_eq_div_mul]
  rw [Nat.add_sub_cancel_left, e, show j + 1 + m = j + (1 + m) by omega, Nat.pow_add 2 j, Nat.mod_mul_right_div_self,
    Nat.pow_add 2 1 m, Nat.mod_mul_right_mod]

theorem fbv_eq {w lo n : Nat} {x : BitVec n} (h : fld w lo n = x.toNat) : fbv w lo n = x := by
  apply BitVec.eq_of_toNat_eq
  simp [fbv, h]

theorem fbit_eq {w lo : Nat} {b : Bool} (h : fld w lo 1 = bit b) : fbit w lo = b := by
  unfold fbit
  rw [h]
  cases b <;> rfl

theorem fguard_eq {w : Nat} {g : Guard} (h : fld w 7 3 = g.p.toNat) (h' : fld w 6 1 = bit g.inv) : fguard w = g := by
  obtain ⟨p, inv⟩ := g
  simp [fguard, fbv_eq h, fbit_eq h']

/-- What the raw decoder reads as a well-formed instruction, the decoder answers. -/
theorem decodeNat_of_raw {w : Nat} {i : Instr} (h : decodeRaw w = some i) (hw : i.wf = true) : decodeNat w = some i := by
  simp [decodeNat, h, hw]

/-! Each assigned major's decoder. -/

theorem decodeRaw_01 {w : Nat} (h : fld w 25 6 = 0x01) : decodeRaw w = decodeMajor01 w := by simp only [decodeRaw, h]
theorem decodeRaw_02 {w : Nat} (h : fld w 25 6 = 0x02) : decodeRaw w = decodeMajor02 w := by simp only [decodeRaw, h]
theorem decodeRaw_03 {w : Nat} (h : fld w 25 6 = 0x03) : decodeRaw w = decodeMajor03 w := by simp only [decodeRaw, h]
theorem decodeRaw_04 {w : Nat} (h : fld w 25 6 = 0x04) : decodeRaw w = decodeMajor04 w := by simp only [decodeRaw, h]
theorem decodeRaw_05 {w : Nat} (h : fld w 25 6 = 0x05) : decodeRaw w = decodeMajor05 w := by simp only [decodeRaw, h]
theorem decodeRaw_06 {w : Nat} (h : fld w 25 6 = 0x06) : decodeRaw w = decodeMajor06 w := by simp only [decodeRaw, h]
theorem decodeRaw_07 {w : Nat} (h : fld w 25 6 = 0x07) : decodeRaw w = decodeMajor07 w := by simp only [decodeRaw, h]
theorem decodeRaw_08 {w : Nat} (h : fld w 25 6 = 0x08) : decodeRaw w = decodeMajor08 w := by simp only [decodeRaw, h]
theorem decodeRaw_09 {w : Nat} (h : fld w 25 6 = 0x09) : decodeRaw w = decodeMajor09 w := by simp only [decodeRaw, h]
theorem decodeRaw_0A {w : Nat} (h : fld w 25 6 = 0x0A) : decodeRaw w = decodeMajor0A w := by simp only [decodeRaw, h]
theorem decodeRaw_0B {w : Nat} (h : fld w 25 6 = 0x0B) : decodeRaw w = decodeMajor0B w := by simp only [decodeRaw, h]
theorem decodeRaw_0C {w : Nat} (h : fld w 25 6 = 0x0C) : decodeRaw w = decodeMajor0C w := by simp only [decodeRaw, h]
theorem decodeRaw_0D {w : Nat} (h : fld w 25 6 = 0x0D) : decodeRaw w = decodeMajor0D w := by simp only [decodeRaw, h]
theorem decodeRaw_0E {w : Nat} (h : fld w 25 6 = 0x0E) : decodeRaw w = decodeMajor0E w := by simp only [decodeRaw, h]
theorem decodeRaw_0F {w : Nat} (h : fld w 25 6 = 0x0F) : decodeRaw w = decodeMajor0F w := by simp only [decodeRaw, h]
theorem decodeRaw_10 {w : Nat} (h : fld w 25 6 = 0x10) : decodeRaw w = decodeMajor10 w := by simp only [decodeRaw, h]
theorem decodeRaw_11 {w : Nat} (h : fld w 25 6 = 0x11) : decodeRaw w = decodeMajor11 w := by simp only [decodeRaw, h]
theorem decodeRaw_12 {w : Nat} (h : fld w 25 6 = 0x12) : decodeRaw w = decodeMajor12 w := by simp only [decodeRaw, h]
theorem decodeRaw_13 {w : Nat} (h : fld w 25 6 = 0x13) : decodeRaw w = decodeMajor13 w := by simp only [decodeRaw, h]
theorem decodeRaw_14 {w : Nat} (h : fld w 25 6 = 0x14) : decodeRaw w = decodeMajor14 w := by simp only [decodeRaw, h]
theorem decodeRaw_15 {w : Nat} (h : fld w 25 6 = 0x15) : decodeRaw w = decodeMajor15 w := by simp only [decodeRaw, h]
theorem decodeRaw_16 {w : Nat} (h : fld w 25 6 = 0x16) : decodeRaw w = decodeMajor16 w := by simp only [decodeRaw, h]
theorem decodeRaw_17 {w : Nat} (h : fld w 25 6 = 0x17) : decodeRaw w = decodeMajor17 w := by simp only [decodeRaw, h]
theorem decodeRaw_20 {w : Nat} (h : fld w 25 6 = 0x20) : decodeRaw w = decodeMajor20 w := by simp only [decodeRaw, h]
theorem decodeRaw_21 {w : Nat} (h : fld w 25 6 = 0x21) : decodeRaw w = decodeMajor21 w := by simp only [decodeRaw, h]
theorem decodeRaw_22 {w : Nat} (h : fld w 25 6 = 0x22) : decodeRaw w = decodeMajor22 w := by simp only [decodeRaw, h]
theorem decodeRaw_23 {w : Nat} (h : fld w 25 6 = 0x23) : decodeRaw w = decodeMajor23 w := by simp only [decodeRaw, h]
theorem decodeRaw_24 {w : Nat} (h : fld w 25 6 = 0x24) : decodeRaw w = decodeMajor24 w := by simp only [decodeRaw, h]
theorem decodeRaw_25 {w : Nat} (h : fld w 25 6 = 0x25) : decodeRaw w = decodeMajor25 w := by simp only [decodeRaw, h]
theorem decodeRaw_26 {w : Nat} (h : fld w 25 6 = 0x26) : decodeRaw w = decodeMajor26 w := by simp only [decodeRaw, h]
theorem decodeRaw_27 {w : Nat} (h : fld w 25 6 = 0x27) : decodeRaw w = decodeMajor27 w := by simp only [decodeRaw, h]
theorem decodeRaw_28 {w : Nat} (h : fld w 25 6 = 0x28) : decodeRaw w = decodeMajor28 w := by simp only [decodeRaw, h]
theorem decodeRaw_29 {w : Nat} (h : fld w 25 6 = 0x29) : decodeRaw w = decodeMajor29 w := by simp only [decodeRaw, h]
theorem decodeRaw_2A {w : Nat} (h : fld w 25 6 = 0x2A) : decodeRaw w = decodeMajor2A w := by simp only [decodeRaw, h]
theorem decodeRaw_2C {w : Nat} (h : fld w 25 6 = 0x2C) : decodeRaw w = decodeMajor2C w := by simp only [decodeRaw, h]
theorem decodeRaw_30 {w : Nat} (h : fld w 25 6 = 0x30) : decodeRaw w = decodeMajor30 w := by simp only [decodeRaw, h]
theorem decodeRaw_31 {w : Nat} (h : fld w 25 6 = 0x31) : decodeRaw w = decodeMajor31 w := by simp only [decodeRaw, h]
theorem decodeRaw_32 {w : Nat} (h : fld w 25 6 = 0x32) : decodeRaw w = decodeMajor32 w := by simp only [decodeRaw, h]
theorem decodeRaw_33 {w : Nat} (h : fld w 25 6 = 0x33) : decodeRaw w = decodeMajor33 w := by simp only [decodeRaw, h]
theorem decodeRaw_34 {w : Nat} (h : fld w 25 6 = 0x34) : decodeRaw w = decodeMajor34 w := by simp only [decodeRaw, h]
theorem decodeRaw_35 {w : Nat} (h : fld w 25 6 = 0x35) : decodeRaw w = decodeMajor35 w := by simp only [decodeRaw, h]
theorem decodeRaw_36 {w : Nat} (h : fld w 25 6 = 0x36) : decodeRaw w = decodeMajor36 w := by simp only [decodeRaw, h]
theorem decodeRaw_37 {w : Nat} (h : fld w 25 6 = 0x37) : decodeRaw w = decodeMajor37 w := by simp only [decodeRaw, h]

theorem CmpCond.ofCode_code (x : CmpCond) : CmpCond.ofCode x.code = some x := by cases x <;> rfl
theorem CmpCond.code_lt (x : CmpCond) : x.code < 8 := by cases x <;> decide

theorem FcmpCond.ofCode_code (x : FcmpCond) : FcmpCond.ofCode x.code = some x := by cases x <;> rfl
theorem FcmpCond.code_lt (x : FcmpCond) : x.code < 4 := by cases x <;> decide

theorem FcvtKind.ofCode_code (x : FcvtKind) : FcvtKind.ofCode x.code = some x := by cases x <;> rfl
theorem FcvtKind.code_lt (x : FcvtKind) : x.code < 8 := by cases x <;> decide

theorem RedOp.ofCode_code (x : RedOp) : RedOp.ofCode x.code = some x := by cases x <;> rfl
theorem RedOp.code_lt (x : RedOp) : x.code < 8 := by cases x <;> decide

theorem WidthSign.ofCode_code (x : WidthSign) : WidthSign.ofCode x.code = some x := by cases x <;> rfl
theorem WidthSign.code_lt (x : WidthSign) : x.code < 4 := by cases x <;> decide

theorem ElemWidth.ofCode_code (x : ElemWidth) : ElemWidth.ofCode x.code = some x := by cases x <;> rfl
theorem ElemWidth.code_lt (x : ElemWidth) : x.code < 4 := by cases x <;> decide

theorem SubWidth.ofCode_code (x : SubWidth) : SubWidth.ofCode x.code = some x := by cases x <;> rfl
theorem SubWidth.code_lt (x : SubWidth) : x.code < 4 := by cases x <;> decide

theorem IntTy.ofCode_code (x : IntTy) : IntTy.ofCode x.code = some x := by cases x <;> rfl
theorem IntTy.code_lt (x : IntTy) : x.code < 4 := by cases x <;> decide

theorem FpTy.ofCode_code (x : FpTy) : FpTy.ofCode x.code = some x := by cases x <;> rfl
theorem FpTy.code_lt (x : FpTy) : x.code < 4 := by cases x <;> decide

theorem VcmpTy.ofCode_code (x : VcmpTy) : VcmpTy.ofCode x.code = some x := by cases x <;> rfl
theorem VcmpTy.code_lt (x : VcmpTy) : x.code < 8 := by cases x <;> decide

theorem VCond.ofCode_code (x : VCond) : VCond.ofCode x.code = some x := by cases x <;> rfl
theorem VCond.code_lt (x : VCond) : x.code < 8 := by cases x <;> decide

theorem DotTy.ofCode_code (x : DotTy) : DotTy.ofCode x.code = some x := by cases x <;> rfl
theorem DotTy.code_lt (x : DotTy) : x.code < 8 := by cases x <;> decide

theorem CvtKind.ofCode_code (x : CvtKind) : CvtKind.ofCode x.code = some x := by cases x <;> rfl
theorem CvtKind.code_lt (x : CvtKind) : x.code < 32 := by cases x <;> decide

theorem RedKind.ofCode_code (x : RedKind) : RedKind.ofCode x.code = some x := by cases x <;> rfl
theorem RedKind.code_lt (x : RedKind) : x.code < 8 := by cases x <;> decide

theorem RedTy.ofCode_code (x : RedTy) : RedTy.ofCode x.code = some x := by cases x <;> rfl
theorem RedTy.code_lt (x : RedTy) : x.code < 4 := by cases x <;> decide

theorem Scope.ofCode_code (x : Scope) : Scope.ofCode x.code = some x := by cases x <;> rfl
theorem Scope.code_lt (x : Scope) : x.code < 8 := by cases x <;> decide

theorem VoteOp.ofCode_code (x : VoteOp) : VoteOp.ofCode x.code = some x := by cases x <;> rfl
theorem VoteOp.code_lt (x : VoteOp) : x.code < 4 := by cases x <;> decide

theorem DepthCond.ofCode_code (x : DepthCond) : DepthCond.ofCode x.code = some x := by cases x <;> rfl
theorem DepthCond.code_lt (x : DepthCond) : x.code < 8 := by cases x <;> decide

theorem BlendOp.ofCode_code (x : BlendOp) : BlendOp.ofCode x.code = some x := by cases x <;> rfl
theorem BlendOp.code_lt (x : BlendOp) : x.code < 8 := by cases x <;> decide

theorem Plane.ofCode_code (x : Plane) : Plane.ofCode x.code = some x := by cases x <;> rfl
theorem Plane.code_lt (x : Plane) : x.code < 8 := by cases x <;> decide

theorem CollKind.ofCode_code (x : CollKind) : CollKind.ofCode x.code = some x := by cases x <;> rfl
theorem CollKind.code_lt (x : CollKind) : x.code < 4 := by cases x <;> decide

theorem FifoFmt.ofCode_code (x : FifoFmt) : FifoFmt.ofCode x.code = some x := by cases x <;> rfl
theorem FifoFmt.code_lt (x : FifoFmt) : x.code < 4 := by cases x <;> decide

end Sys2Proof
end

