-- ==== Sys2Proof/Laws/PerInstr.lean ====
section
/-! SUPPORT. Per instruction: decoding an encoded well-formed instruction gives it back (07_encoding R190 to R195). -/

set_option Elab.async false

namespace Sys2Proof.Laws

/-- The decoder reads a well-formed instruction's word as that instruction; an event has no word. -/
def RoundTrip.Statement (i : Instr) : Prop := i.wf = true → ∀ w, encodeNat i = some w → decodeNat w = some i

theorem RoundTrip.sysr (xs : BitVec 5) (xr : BitVec 12) : RoundTrip.Statement (.sysr xs xr) := by
  intro hw w h
  have hE : w = 0 + 2 ^ 8 * (xr.toNat + 2 ^ 12 * (xs.toNat + 2 ^ 5 * (1))) := by have := Option.some.inj h; omega
  have b_s := xs.isLt
  have b_r := xr.isLt
  have hm : fld w 25 6 = 0x01 := hE.symm ▸ ((fld_skip 8 (by decide) (by decide)).trans <| (fld_skip 12 b_r (by decide)).trans <| (fld_skip 5 b_s (by decide)).trans <| fld_whole (by decide))
  have f_0_8 : fld w 0 8 = 0x0 := hE.symm ▸ (fld_take (by decide))
  have o_s : fbv w 20 5 = xs := fbv_eq (hE.symm ▸ ((fld_skip 8 (by decide) (by decide)).trans <| (fld_skip 12 b_r (by decide)).trans <| fld_take b_s))
  have o_r : fbv w 8 12 = xr := fbv_eq (hE.symm ▸ ((fld_skip 8 (by decide) (by decide)).trans <| fld_take b_r))
  refine decodeNat_of_raw ((decodeRaw_01 hm).trans ?_) hw
  unfold decodeMajor01
  refine (if_pos f_0_8).trans ?_
  simp only [o_s, o_r]

theorem RoundTrip.sysw (xs : BitVec 5) (xr : BitVec 12) : RoundTrip.Statement (.sysw xs xr) := by
  intro hw w h
  have hE : w = 1 + 2 ^ 8 * (xr.toNat + 2 ^ 12 * (xs.toNat + 2 ^ 5 * (1))) := by have := Option.some.inj h; omega
  have b_s := xs.isLt
  have b_r := xr.isLt
  have hm : fld w 25 6 = 0x01 := hE.symm ▸ ((fld_skip 8 (by decide) (by decide)).trans <| (fld_skip 12 b_r (by decide)).trans <| (fld_skip 5 b_s (by decide)).trans <| fld_whole (by decide))
  have f_0_8 : fld w 0 8 = 0x1 := hE.symm ▸ (fld_take (by decide))
  have o_s : fbv w 20 5 = xs := fbv_eq (hE.symm ▸ ((fld_skip 8 (by decide) (by decide)).trans <| (fld_skip 12 b_r (by decide)).trans <| fld_take b_s))
  have o_r : fbv w 8 12 = xr := fbv_eq (hE.symm ▸ ((fld_skip 8 (by decide) (by decide)).trans <| fld_take b_r))
  refine decodeNat_of_raw ((decodeRaw_01 hm).trans ?_) hw
  unfold decodeMajor01
  refine (if_neg fun h => absurd (f_0_8.symm.trans h) (by decide)).trans ?_
  refine (if_pos f_0_8).trans ?_
  simp only [o_s, o_r]

theorem RoundTrip.sysx (xs : BitVec 5) (xr : BitVec 12) : RoundTrip.Statement (.sysx xs xr) := by
  intro hw w h
  have hE : w = 2 + 2 ^ 8 * (xr.toNat + 2 ^ 12 * (xs.toNat + 2 ^ 5 * (1))) := by have := Option.some.inj h; omega
  have b_s := xs.isLt
  have b_r := xr.isLt
  have hm : fld w 25 6 = 0x01 := hE.symm ▸ ((fld_skip 8 (by decide) (by decide)).trans <| (fld_skip 12 b_r (by decide)).trans <| (fld_skip 5 b_s (by decide)).trans <| fld_whole (by decide))
  have f_0_8 : fld w 0 8 = 0x2 := hE.symm ▸ (fld_take (by decide))
  have o_s : fbv w 20 5 = xs := fbv_eq (hE.symm ▸ ((fld_skip 8 (by decide) (by decide)).trans <| (fld_skip 12 b_r (by decide)).trans <| fld_take b_s))
  have o_r : fbv w 8 12 = xr := fbv_eq (hE.symm ▸ ((fld_skip 8 (by decide) (by decide)).trans <| fld_take b_r))
  refine decodeNat_of_raw ((decodeRaw_01 hm).trans ?_) hw
  unfold decodeMajor01
  refine (if_neg fun h => absurd (f_0_8.symm.trans h) (by decide)).trans ?_
  refine (if_neg fun h => absurd (f_0_8.symm.trans h) (by decide)).trans ?_
  refine (if_pos f_0_8).trans ?_
  simp only [o_s, o_r]

theorem RoundTrip.eret : RoundTrip.Statement (.eret) := by
  intro hw w h
  have hE : w = 33554436 := by have := Option.some.inj h; omega
  have hm : fld w 25 6 = 0x01 := hE.symm ▸ ((by decide))
  have f_0_8 : fld w 0 8 = 0x4 := hE.symm ▸ ((by decide))
  have f_0_25 : fld w 0 25 = 0x4 := hE.symm ▸ ((by decide))
  refine decodeNat_of_raw ((decodeRaw_01 hm).trans ?_) hw
  unfold decodeMajor01
  refine (if_neg fun h => absurd (f_0_8.symm.trans h) (by decide)).trans ?_
  refine (if_neg fun h => absurd (f_0_8.symm.trans h) (by decide)).trans ?_
  refine (if_neg fun h => absurd (f_0_8.symm.trans h) (by decide)).trans ?_
  refine (if_pos f_0_25).trans ?_
  rfl

theorem RoundTrip.scall (xc : BitVec 12) : RoundTrip.Statement (.scall xc) := by
  intro hw w h
  have hE : w = 5 + 2 ^ 8 * (xc.toNat + 2 ^ 12 * (32)) := by have := Option.some.inj h; omega
  have b_c := xc.isLt
  have hm : fld w 25 6 = 0x01 := hE.symm ▸ ((fld_skip 8 (by decide) (by decide)).trans <| (fld_skip 12 b_c (by decide)).trans <| (by decide))
  have f_0_8 : fld w 0 8 = 0x5 := hE.symm ▸ (fld_take (by decide))
  have f_20_5 : fld w 20 5 = 0x0 := hE.symm ▸ ((fld_skip 8 (by decide) (by decide)).trans <| (fld_skip 12 b_c (by decide)).trans <| (by decide))
  have t_0 : fld w 0 1 = 1 := hE.symm ▸ ((fld_low (by decide)).trans (by decide))
  have o_c : fbv w 8 12 = xc := fbv_eq (hE.symm ▸ ((fld_skip 8 (by decide) (by decide)).trans <| fld_take b_c))
  refine decodeNat_of_raw ((decodeRaw_01 hm).trans ?_) hw
  unfold decodeMajor01
  refine (if_neg fun h => absurd (f_0_8.symm.trans h) (by decide)).trans ?_
  refine (if_neg fun h => absurd (f_0_8.symm.trans h) (by decide)).trans ?_
  refine (if_neg fun h => absurd (f_0_8.symm.trans h) (by decide)).trans ?_
  refine (if_neg fun h => fld_ne t_0 (by decide) (by decide) (by decide) h).trans ?_
  refine (if_pos ⟨f_0_8, f_20_5⟩).trans ?_
  simp only [o_c]

theorem RoundTrip.bkpt (xc : BitVec 12) : RoundTrip.Statement (.bkpt xc) := by
  intro hw w h
  have hE : w = 6 + 2 ^ 8 * (xc.toNat + 2 ^ 12 * (32)) := by have := Option.some.inj h; omega
  have b_c := xc.isLt
  have hm : fld w 25 6 = 0x01 := hE.symm ▸ ((fld_skip 8 (by decide) (by decide)).trans <| (fld_skip 12 b_c (by decide)).trans <| (by decide))
  have f_0_8 : fld w 0 8 = 0x6 := hE.symm ▸ (fld_take (by decide))
  have f_20_5 : fld w 20 5 = 0x0 := hE.symm ▸ ((fld_skip 8 (by decide) (by decide)).trans <| (fld_skip 12 b_c (by decide)).trans <| (by decide))
  have t_1 : fld w 1 1 = 1 := hE.symm ▸ ((fld_low (by decide)).trans (by decide))
  have o_c : fbv w 8 12 = xc := fbv_eq (hE.symm ▸ ((fld_skip 8 (by decide) (by decide)).trans <| fld_take b_c))
  refine decodeNat_of_raw ((decodeRaw_01 hm).trans ?_) hw
  unfold decodeMajor01
  refine (if_neg fun h => absurd (f_0_8.symm.trans h) (by decide)).trans ?_
  refine (if_neg fun h => absurd (f_0_8.symm.trans h) (by decide)).trans ?_
  refine (if_neg fun h => absurd (f_0_8.symm.trans h) (by decide)).trans ?_
  refine (if_neg fun h => fld_ne t_1 (by decide) (by decide) (by decide) h).trans ?_
  refine (if_neg fun h => absurd (f_0_8.symm.trans h.1) (by decide)).trans ?_
  refine (if_pos ⟨f_0_8, f_20_5⟩).trans ?_
  simp only [o_c]

theorem RoundTrip.ppoint : RoundTrip.Statement (.ppoint) := by
  intro hw w h
  have hE : w = 33554439 := by have := Option.some.inj h; omega
  have hm : fld w 25 6 = 0x01 := hE.symm ▸ ((by decide))
  have f_0_8 : fld w 0 8 = 0x7 := hE.symm ▸ ((by decide))
  have f_0_25 : fld w 0 25 = 0x7 := hE.symm ▸ ((by decide))
  have f_20_5 : fld w 20 5 = 0x0 := hE.symm ▸ ((by decide))
  refine decodeNat_of_raw ((decodeRaw_01 hm).trans ?_) hw
  unfold decodeMajor01
  refine (if_neg fun h => absurd (f_0_8.symm.trans h) (by decide)).trans ?_
  refine (if_neg fun h => absurd (f_0_8.symm.trans h) (by decide)).trans ?_
  refine (if_neg fun h => absurd (f_0_8.symm.trans h) (by decide)).trans ?_
  refine (if_neg fun h => absurd (f_0_25.symm.trans h) (by decide)).trans ?_
  refine (if_neg fun h => absurd (f_0_8.symm.trans h.1) (by decide)).trans ?_
  refine (if_neg fun h => absurd (f_0_8.symm.trans h.1) (by decide)).trans ?_
  refine (if_pos f_0_25).trans ?_
  rfl

theorem RoundTrip.ifence : RoundTrip.Statement (.ifence) := by
  intro hw w h
  have hE : w = 33554440 := by have := Option.some.inj h; omega
  have hm : fld w 25 6 = 0x01 := hE.symm ▸ ((by decide))
  have f_0_8 : fld w 0 8 = 0x8 := hE.symm ▸ ((by decide))
  have f_0_25 : fld w 0 25 = 0x8 := hE.symm ▸ ((by decide))
  have f_20_5 : fld w 20 5 = 0x0 := hE.symm ▸ ((by decide))
  refine decodeNat_of_raw ((decodeRaw_01 hm).trans ?_) hw
  unfold decodeMajor01
  refine (if_neg fun h => absurd (f_0_8.symm.trans h) (by decide)).trans ?_
  refine (if_neg fun h => absurd (f_0_8.symm.trans h) (by decide)).trans ?_
  refine (if_neg fun h => absurd (f_0_8.symm.trans h) (by decide)).trans ?_
  refine (if_neg fun h => absurd (f_0_25.symm.trans h) (by decide)).trans ?_
  refine (if_neg fun h => absurd (f_0_8.symm.trans h.1) (by decide)).trans ?_
  refine (if_neg fun h => absurd (f_0_8.symm.trans h.1) (by decide)).trans ?_
  refine (if_neg fun h => absurd (f_0_25.symm.trans h) (by decide)).trans ?_
  refine (if_pos f_0_25).trans ?_
  rfl

theorem RoundTrip.halt (xc : BitVec 12) : RoundTrip.Statement (.halt xc) := by
  intro hw w h
  have hE : w = 9 + 2 ^ 8 * (xc.toNat + 2 ^ 12 * (32)) := by have := Option.some.inj h; omega
  have b_c := xc.isLt
  have hm : fld w 25 6 = 0x01 := hE.symm ▸ ((fld_skip 8 (by decide) (by decide)).trans <| (fld_skip 12 b_c (by decide)).trans <| (by decide))
  have f_0_8 : fld w 0 8 = 0x9 := hE.symm ▸ (fld_take (by decide))
  have f_20_5 : fld w 20 5 = 0x0 := hE.symm ▸ ((fld_skip 8 (by decide) (by decide)).trans <| (fld_skip 12 b_c (by decide)).trans <| (by decide))
  have t_0 : fld w 0 1 = 1 := hE.symm ▸ ((fld_low (by decide)).trans (by decide))
  have t_1 : fld w 1 1 = 0 := hE.symm ▸ ((fld_low (by decide)).trans (by decide))
  have o_c : fbv w 8 12 = xc := fbv_eq (hE.symm ▸ ((fld_skip 8 (by decide) (by decide)).trans <| fld_take b_c))
  refine decodeNat_of_raw ((decodeRaw_01 hm).trans ?_) hw
  unfold decodeMajor01
  refine (if_neg fun h => absurd (f_0_8.symm.trans h) (by decide)).trans ?_
  refine (if_neg fun h => absurd (f_0_8.symm.trans h) (by decide)).trans ?_
  refine (if_neg fun h => absurd (f_0_8.symm.trans h) (by decide)).trans ?_
  refine (if_neg fun h => fld_ne t_0 (by decide) (by decide) (by decide) h).trans ?_
  refine (if_neg fun h => absurd (f_0_8.symm.trans h.1) (by decide)).trans ?_
  refine (if_neg fun h => absurd (f_0_8.symm.trans h.1) (by decide)).trans ?_
  refine (if_neg fun h => fld_ne t_1 (by decide) (by decide) (by decide) h).trans ?_
  refine (if_neg fun h => fld_ne t_0 (by decide) (by decide) (by decide) h).trans ?_
  refine (if_pos ⟨f_0_8, f_20_5⟩).trans ?_
  simp only [o_c]

theorem RoundTrip.fence (xs : Scope) : RoundTrip.Statement (.fence xs) := by
  intro hw w h
  have hE : w = xs.code + 2 ^ 3 * (4194306) := by have := Option.some.inj h; omega
  have b_s := Scope.code_lt xs
  have hm : fld w 25 6 = 0x01 := hE.symm ▸ ((fld_skip 3 b_s (by decide)).trans <| (by decide))
  have f_20_5 : fld w 20 5 = 0x0 := hE.symm ▸ ((fld_skip 3 b_s (by decide)).trans <| (by decide))
  have f_3_22 : fld w 3 22 = 0x2 := hE.symm ▸ ((fld_skip 3 b_s (by decide)).trans <| (by decide))
  have t_4 : fld w 4 1 = 1 := hE.symm ▸ ((fld_skip 3 b_s (by decide)).trans <| (by decide))
  have t_3 : fld w 3 1 = 0 := hE.symm ▸ ((fld_skip 3 b_s (by decide)).trans <| (by decide))
  have o_s : fld w 0 3 = xs.code := hE.symm ▸ (fld_take b_s)
  refine decodeNat_of_raw ((decodeRaw_01 hm).trans ?_) hw
  unfold decodeMajor01
  refine (if_neg fun h => fld_ne t_4 (by decide) (by decide) (by decide) h).trans ?_
  refine (if_neg fun h => fld_ne t_4 (by decide) (by decide) (by decide) h).trans ?_
  refine (if_neg fun h => fld_ne t_4 (by decide) (by decide) (by decide) h).trans ?_
  refine (if_neg fun h => fld_ne t_4 (by decide) (by decide) (by decide) h).trans ?_
  refine (if_neg fun h => fld_ne t_4 (by decide) (by decide) (by decide) h.1).trans ?_
  refine (if_neg fun h => fld_ne t_4 (by decide) (by decide) (by decide) h.1).trans ?_
  refine (if_neg fun h => fld_ne t_4 (by decide) (by decide) (by decide) h).trans ?_
  refine (if_neg fun h => fld_ne t_3 (by decide) (by decide) (by decide) h).trans ?_
  refine (if_neg fun h => fld_ne t_3 (by decide) (by decide) (by decide) h.1).trans ?_
  refine (if_pos f_3_22).trans ?_
  simp only [o_s, Scope.ofCode_code, Option.bind_some]

theorem RoundTrip.time (xd : BitVec 5) : RoundTrip.Statement (.time xd) := by
  intro hw w h
  have hE : w = 32 + 2 ^ 20 * (xd.toNat + 2 ^ 5 * (1)) := by have := Option.some.inj h; omega
  have b_d := xd.isLt
  have hm : fld w 25 6 = 0x01 := hE.symm ▸ ((fld_skip 20 (by decide) (by decide)).trans <| (fld_skip 5 b_d (by decide)).trans <| fld_whole (by decide))
  have f_0_8 : fld w 0 8 = 0x20 := hE.symm ▸ ((fld_low (by decide)).trans (by decide))
  have f_0_20 : fld w 0 20 = 0x20 := hE.symm ▸ (fld_take (by decide))
  have t_2 : fld w 2 1 = 0 := hE.symm ▸ ((fld_low (by decide)).trans (by decide))
  have t_0 : fld w 0 1 = 0 := hE.symm ▸ ((fld_low (by decide)).trans (by decide))
  have t_3 : fld w 3 1 = 0 := hE.symm ▸ ((fld_low (by decide)).trans (by decide))
  have t_4 : fld w 4 1 = 0 := hE.symm ▸ ((fld_low (by decide)).trans (by decide))
  have o_d : fbv w 20 5 = xd := fbv_eq (hE.symm ▸ ((fld_skip 20 (by decide) (by decide)).trans <| fld_take b_d))
  refine decodeNat_of_raw ((decodeRaw_01 hm).trans ?_) hw
  unfold decodeMajor01
  refine (if_neg fun h => absurd (f_0_8.symm.trans h) (by decide)).trans ?_
  refine (if_neg fun h => absurd (f_0_8.symm.trans h) (by decide)).trans ?_
  refine (if_neg fun h => absurd (f_0_8.symm.trans h) (by decide)).trans ?_
  refine (if_neg fun h => fld_ne t_2 (by decide) (by decide) (by decide) h).trans ?_
  refine (if_neg fun h => absurd (f_0_8.symm.trans h.1) (by decide)).trans ?_
  refine (if_neg fun h => absurd (f_0_8.symm.trans h.1) (by decide)).trans ?_
  refine (if_neg fun h => fld_ne t_0 (by decide) (by decide) (by decide) h).trans ?_
  refine (if_neg fun h => fld_ne t_3 (by decide) (by decide) (by decide) h).trans ?_
  refine (if_neg fun h => absurd (f_0_8.symm.trans h.1) (by decide)).trans ?_
  refine (if_neg fun h => fld_ne t_4 (by decide) (by decide) (by decide) h).trans ?_
  refine (if_pos f_0_20).trans ?_
  simp only [o_d]

theorem RoundTrip.wait (xl : BitVec 5) (xs : BitVec 5) (xc : BitVec 5) (xt : BitVec 5) (xx : BitVec 5) : RoundTrip.Statement (.wait xl xs xc xt xx) := by
  intro hw w h
  have hE : w = xx.toNat + 2 ^ 5 * (xt.toNat + 2 ^ 5 * (xc.toNat + 2 ^ 5 * (xs.toNat + 2 ^ 5 * (xl.toNat + 2 ^ 5 * (2))))) := by have := Option.some.inj h; omega
  have b_l := xl.isLt
  have b_s := xs.isLt
  have b_c := xc.isLt
  have b_t := xt.isLt
  have b_x := xx.isLt
  have hm : fld w 25 6 = 0x02 := hE.symm ▸ ((fld_skip 5 b_x (by decide)).trans <| (fld_skip 5 b_t (by decide)).trans <| (fld_skip 5 b_c (by decide)).trans <| (fld_skip 5 b_s (by decide)).trans <| (fld_skip 5 b_l (by decide)).trans <| fld_whole (by decide))
  have o_l : fbv w 20 5 = xl := fbv_eq (hE.symm ▸ ((fld_skip 5 b_x (by decide)).trans <| (fld_skip 5 b_t (by decide)).trans <| (fld_skip 5 b_c (by decide)).trans <| (fld_skip 5 b_s (by decide)).trans <| fld_take b_l))
  have o_s : fbv w 15 5 = xs := fbv_eq (hE.symm ▸ ((fld_skip 5 b_x (by decide)).trans <| (fld_skip 5 b_t (by decide)).trans <| (fld_skip 5 b_c (by decide)).trans <| fld_take b_s))
  have o_c : fbv w 10 5 = xc := fbv_eq (hE.symm ▸ ((fld_skip 5 b_x (by decide)).trans <| (fld_skip 5 b_t (by decide)).trans <| fld_take b_c))
  have o_t : fbv w 5 5 = xt := fbv_eq (hE.symm ▸ ((fld_skip 5 b_x (by decide)).trans <| fld_take b_t))
  have o_x : fbv w 0 5 = xx := fbv_eq (hE.symm ▸ (fld_take b_x))
  refine decodeNat_of_raw ((decodeRaw_02 hm).trans ?_) hw
  unfold decodeMajor02
  refine (if_pos trivial).trans ?_
  simp only [o_l, o_s, o_c, o_t, o_x]

theorem RoundTrip.br (xo : BitVec 21) : RoundTrip.Statement (.br xo) := by
  intro hw w h
  have hE : w = xo.toNat + 2 ^ 21 * (48) := by have := Option.some.inj h; omega
  have b_o := xo.isLt
  have hm : fld w 25 6 = 0x03 := hE.symm ▸ ((fld_skip 21 b_o (by decide)).trans <| (by decide))
  have f_21_4 : fld w 21 4 = 0x0 := hE.symm ▸ ((fld_skip 21 b_o (by decide)).trans <| (by decide))
  have o_o : fbv w 0 21 = xo := fbv_eq (hE.symm ▸ (fld_take b_o))
  refine decodeNat_of_raw ((decodeRaw_03 hm).trans ?_) hw
  unfold decodeMajor03
  refine (if_pos f_21_4).trans ?_
  simp only [o_o]

theorem RoundTrip.brc (xp : BitVec 3) (xinv : Bool) (xo : BitVec 21) : RoundTrip.Statement (.brc xp xinv xo) := by
  intro hw w h
  have hE : w = xo.toNat + 2 ^ 21 * (bit xinv + 2 ^ 1 * (xp.toNat + 2 ^ 3 * (3))) := by have := Option.some.inj h; omega
  have b_p := xp.isLt
  have b_inv := bit_lt xinv
  have b_o := xo.isLt
  have hm : fld w 25 6 = 0x03 := hE.symm ▸ ((fld_skip 21 b_o (by decide)).trans <| (fld_skip 1 b_inv (by decide)).trans <| (fld_skip 3 b_p (by decide)).trans <| fld_whole (by decide))
  have n_0 : ¬ (fld w 21 4 = 0) := by
    have hp : xp.toNat ≠ 0 := fun hp => by simp [Instr.wf, BitVec.eq_of_toNat_eq (y := 0#3) hp] at hw
    unfold fld; omega
  have o_p : fbv w 22 3 = xp := fbv_eq (hE.symm ▸ ((fld_skip 21 b_o (by decide)).trans <| (fld_skip 1 b_inv (by decide)).trans <| fld_take b_p))
  have o_inv : fbit w 21 = xinv := fbit_eq (hE.symm ▸ ((fld_skip 21 b_o (by decide)).trans <| fld_take b_inv))
  have o_o : fbv w 0 21 = xo := fbv_eq (hE.symm ▸ (fld_take b_o))
  refine decodeNat_of_raw ((decodeRaw_03 hm).trans ?_) hw
  unfold decodeMajor03
  refine (if_neg n_0).trans ?_
  refine (if_pos trivial).trans ?_
  simp only [o_p, o_inv, o_o]

theorem RoundTrip.jal (xd : BitVec 5) (xi : BitVec 20) : RoundTrip.Statement (.jal xd xi) := by
  intro hw w h
  have hE : w = xi.toNat + 2 ^ 20 * (xd.toNat + 2 ^ 5 * (4)) := by have := Option.some.inj h; omega
  have b_d := xd.isLt
  have b_i := xi.isLt
  have hm : fld w 25 6 = 0x04 := hE.symm ▸ ((fld_skip 20 b_i (by decide)).trans <| (fld_skip 5 b_d (by decide)).trans <| fld_whole (by decide))
  have o_d : fbv w 20 5 = xd := fbv_eq (hE.symm ▸ ((fld_skip 20 b_i (by decide)).trans <| fld_take b_d))
  have o_i : fbv w 0 20 = xi := fbv_eq (hE.symm ▸ (fld_take b_i))
  refine decodeNat_of_raw ((decodeRaw_04 hm).trans ?_) hw
  unfold decodeMajor04
  refine (if_pos trivial).trans ?_
  simp only [o_d, o_i]

theorem RoundTrip.jalr (xd : BitVec 5) (xa : BitVec 5) (xi : BitVec 15) : RoundTrip.Statement (.jalr xd xa xi) := by
  intro hw w h
  have hE : w = xi.toNat + 2 ^ 15 * (xa.toNat + 2 ^ 5 * (xd.toNat + 2 ^ 5 * (5))) := by have := Option.some.inj h; omega
  have b_d := xd.isLt
  have b_a := xa.isLt
  have b_i := xi.isLt
  have hm : fld w 25 6 = 0x05 := hE.symm ▸ ((fld_skip 15 b_i (by decide)).trans <| (fld_skip 5 b_a (by decide)).trans <| (fld_skip 5 b_d (by decide)).trans <| fld_whole (by decide))
  have o_d : fbv w 20 5 = xd := fbv_eq (hE.symm ▸ ((fld_skip 15 b_i (by decide)).trans <| (fld_skip 5 b_a (by decide)).trans <| fld_take b_d))
  have o_a : fbv w 15 5 = xa := fbv_eq (hE.symm ▸ ((fld_skip 15 b_i (by decide)).trans <| fld_take b_a))
  have o_i : fbv w 0 15 = xi := fbv_eq (hE.symm ▸ (fld_take b_i))
  refine decodeNat_of_raw ((decodeRaw_05 hm).trans ?_) hw
  unfold decodeMajor05
  refine (if_pos trivial).trans ?_
  simp only [o_d, o_a, o_i]

theorem RoundTrip.loop (xa : BitVec 5) (xi : BitVec 15) : RoundTrip.Statement (.loop xa xi) := by
  intro hw w h
  have hE : w = xi.toNat + 2 ^ 15 * (xa.toNat + 2 ^ 5 * (192)) := by have := Option.some.inj h; omega
  have b_a := xa.isLt
  have b_i := xi.isLt
  have hm : fld w 25 6 = 0x06 := hE.symm ▸ ((fld_skip 15 b_i (by decide)).trans <| (fld_skip 5 b_a (by decide)).trans <| (by decide))
  have f_20_5 : fld w 20 5 = 0x0 := hE.symm ▸ ((fld_skip 15 b_i (by decide)).trans <| (fld_skip 5 b_a (by decide)).trans <| (by decide))
  have o_a : fbv w 15 5 = xa := fbv_eq (hE.symm ▸ ((fld_skip 15 b_i (by decide)).trans <| fld_take b_a))
  have o_i : fbv w 0 15 = xi := fbv_eq (hE.symm ▸ (fld_take b_i))
  refine decodeNat_of_raw ((decodeRaw_06 hm).trans ?_) hw
  unfold decodeMajor06
  refine (if_pos f_20_5).trans ?_
  simp only [o_a, o_i]

theorem RoundTrip.ld (xd : BitVec 5) (xb : BitVec 5) (xh : BitVec 2) (xt : BitVec 3) (xo : BitVec 10) : RoundTrip.Statement (.ld xd xb xh xt xo) := by
  intro hw w h
  have hE : w = xo.toNat + 2 ^ 10 * (xt.toNat + 2 ^ 3 * (xh.toNat + 2 ^ 2 * (xb.toNat + 2 ^ 5 * (xd.toNat + 2 ^ 5 * (7))))) := by have := Option.some.inj h; omega
  have b_d := xd.isLt
  have b_b := xb.isLt
  have b_h := xh.isLt
  have b_t := xt.isLt
  have b_o := xo.isLt
  have hm : fld w 25 6 = 0x07 := hE.symm ▸ ((fld_skip 10 b_o (by decide)).trans <| (fld_skip 3 b_t (by decide)).trans <| (fld_skip 2 b_h (by decide)).trans <| (fld_skip 5 b_b (by decide)).trans <| (fld_skip 5 b_d (by decide)).trans <| fld_whole (by decide))
  have o_d : fbv w 20 5 = xd := fbv_eq (hE.symm ▸ ((fld_skip 10 b_o (by decide)).trans <| (fld_skip 3 b_t (by decide)).trans <| (fld_skip 2 b_h (by decide)).trans <| (fld_skip 5 b_b (by decide)).trans <| fld_take b_d))
  have o_b : fbv w 15 5 = xb := fbv_eq (hE.symm ▸ ((fld_skip 10 b_o (by decide)).trans <| (fld_skip 3 b_t (by decide)).trans <| (fld_skip 2 b_h (by decide)).trans <| fld_take b_b))
  have o_h : fbv w 13 2 = xh := fbv_eq (hE.symm ▸ ((fld_skip 10 b_o (by decide)).trans <| (fld_skip 3 b_t (by decide)).trans <| fld_take b_h))
  have o_t : fbv w 10 3 = xt := fbv_eq (hE.symm ▸ ((fld_skip 10 b_o (by decide)).trans <| fld_take b_t))
  have o_o : fbv w 0 10 = xo := fbv_eq (hE.symm ▸ (fld_take b_o))
  refine decodeNat_of_raw ((decodeRaw_07 hm).trans ?_) hw
  unfold decodeMajor07
  refine (if_pos trivial).trans ?_
  simp only [o_d, o_b, o_h, o_t, o_o]

theorem RoundTrip.st (xd : BitVec 5) (xb : BitVec 5) (xh : BitVec 2) (xt : BitVec 2) (xo : BitVec 10) : RoundTrip.Statement (.st xd xb xh xt xo) := by
  intro hw w h
  have hE : w = xo.toNat + 2 ^ 10 * (xt.toNat + 2 ^ 2 * (0 + 2 ^ 1 * (xh.toNat + 2 ^ 2 * (xb.toNat + 2 ^ 5 * (xd.toNat + 2 ^ 5 * (8)))))) := by have := Option.some.inj h; omega
  have b_d := xd.isLt
  have b_b := xb.isLt
  have b_h := xh.isLt
  have b_t := xt.isLt
  have b_o := xo.isLt
  have hm : fld w 25 6 = 0x08 := hE.symm ▸ ((fld_skip 10 b_o (by decide)).trans <| (fld_skip 2 b_t (by decide)).trans <| (fld_skip 1 (by decide) (by decide)).trans <| (fld_skip 2 b_h (by decide)).trans <| (fld_skip 5 b_b (by decide)).trans <| (fld_skip 5 b_d (by decide)).trans <| fld_whole (by decide))
  have f_12_1 : fld w 12 1 = 0x0 := hE.symm ▸ ((fld_skip 10 b_o (by decide)).trans <| (fld_skip 2 b_t (by decide)).trans <| fld_take (by decide))
  have o_d : fbv w 20 5 = xd := fbv_eq (hE.symm ▸ ((fld_skip 10 b_o (by decide)).trans <| (fld_skip 2 b_t (by decide)).trans <| (fld_skip 1 (by decide) (by decide)).trans <| (fld_skip 2 b_h (by decide)).trans <| (fld_skip 5 b_b (by decide)).trans <| fld_take b_d))
  have o_b : fbv w 15 5 = xb := fbv_eq (hE.symm ▸ ((fld_skip 10 b_o (by decide)).trans <| (fld_skip 2 b_t (by decide)).trans <| (fld_skip 1 (by decide) (by decide)).trans <| (fld_skip 2 b_h (by decide)).trans <| fld_take b_b))
  have o_h : fbv w 13 2 = xh := fbv_eq (hE.symm ▸ ((fld_skip 10 b_o (by decide)).trans <| (fld_skip 2 b_t (by decide)).trans <| (fld_skip 1 (by decide) (by decide)).trans <| fld_take b_h))
  have o_t : fbv w 10 2 = xt := fbv_eq (hE.symm ▸ ((fld_skip 10 b_o (by decide)).trans <| fld_take b_t))
  have o_o : fbv w 0 10 = xo := fbv_eq (hE.symm ▸ (fld_take b_o))
  refine decodeNat_of_raw ((decodeRaw_08 hm).trans ?_) hw
  unfold decodeMajor08
  refine (if_pos f_12_1).trans ?_
  simp only [o_d, o_b, o_h, o_t, o_o]

theorem RoundTrip.ldx (xd : BitVec 5) (xa : BitVec 5) (xb : BitVec 5) (xg : Guard) (xt : BitVec 3) : RoundTrip.Statement (.ldx xd xa xb xg xt) := by
  intro hw w h
  have hE : w = xt.toNat + 2 ^ 3 * (0 + 2 ^ 3 * (bit xg.inv + 2 ^ 1 * (xg.p.toNat + 2 ^ 3 * (xb.toNat + 2 ^ 5 * (xa.toNat + 2 ^ 5 * (xd.toNat + 2 ^ 5 * (9))))))) := by have := Option.some.inj h; simp only [guardBits] at this; omega
  have b_d := xd.isLt
  have b_a := xa.isLt
  have b_b := xb.isLt
  have b_g := xg.p.isLt
  have b'_g := bit_lt xg.inv
  have b_t := xt.isLt
  have hm : fld w 25 6 = 0x09 := hE.symm ▸ ((fld_skip 3 b_t (by decide)).trans <| (fld_skip 3 (by decide) (by decide)).trans <| (fld_skip 1 (bit_lt xg.inv) (by decide)).trans <| (fld_skip 3 xg.p.isLt (by decide)).trans <| (fld_skip 5 b_b (by decide)).trans <| (fld_skip 5 b_a (by decide)).trans <| (fld_skip 5 b_d (by decide)).trans <| fld_whole (by decide))
  have f_3_3 : fld w 3 3 = 0x0 := hE.symm ▸ ((fld_skip 3 b_t (by decide)).trans <| fld_take (by decide))
  have o_d : fbv w 20 5 = xd := fbv_eq (hE.symm ▸ ((fld_skip 3 b_t (by decide)).trans <| (fld_skip 3 (by decide) (by decide)).trans <| (fld_skip 1 (bit_lt xg.inv) (by decide)).trans <| (fld_skip 3 xg.p.isLt (by decide)).trans <| (fld_skip 5 b_b (by decide)).trans <| (fld_skip 5 b_a (by decide)).trans <| fld_take b_d))
  have o_a : fbv w 15 5 = xa := fbv_eq (hE.symm ▸ ((fld_skip 3 b_t (by decide)).trans <| (fld_skip 3 (by decide) (by decide)).trans <| (fld_skip 1 (bit_lt xg.inv) (by decide)).trans <| (fld_skip 3 xg.p.isLt (by decide)).trans <| (fld_skip 5 b_b (by decide)).trans <| fld_take b_a))
  have o_b : fbv w 10 5 = xb := fbv_eq (hE.symm ▸ ((fld_skip 3 b_t (by decide)).trans <| (fld_skip 3 (by decide) (by decide)).trans <| (fld_skip 1 (bit_lt xg.inv) (by decide)).trans <| (fld_skip 3 xg.p.isLt (by decide)).trans <| fld_take b_b))
  have o_g : fguard w = xg := fguard_eq (hE.symm ▸ ((fld_skip 3 b_t (by decide)).trans <| (fld_skip 3 (by decide) (by decide)).trans <| (fld_skip 1 (bit_lt xg.inv) (by decide)).trans <| fld_take xg.p.isLt)) (hE.symm ▸ ((fld_skip 3 b_t (by decide)).trans <| (fld_skip 3 (by decide) (by decide)).trans <| fld_take (bit_lt xg.inv)))
  have o_t : fbv w 0 3 = xt := fbv_eq (hE.symm ▸ (fld_take b_t))
  refine decodeNat_of_raw ((decodeRaw_09 hm).trans ?_) hw
  unfold decodeMajor09
  refine (if_pos f_3_3).trans ?_
  simp only [o_d, o_a, o_b, o_g, o_t]

theorem RoundTrip.redOp (xa : BitVec 5) (xb : BitVec 5) (xg : Guard) (xo : RedOp) (xw : WidthSign) : RoundTrip.Statement (.redOp xa xb xg xo xw) := by
  intro hw w h
  have hE : w = xw.code + 2 ^ 2 * (xo.code + 2 ^ 3 * (0 + 2 ^ 1 * (bit xg.inv + 2 ^ 1 * (xg.p.toNat + 2 ^ 3 * (xb.toNat + 2 ^ 5 * (xa.toNat + 2 ^ 5 * (320))))))) := by have := Option.some.inj h; simp only [guardBits] at this; omega
  have b_a := xa.isLt
  have b_b := xb.isLt
  have b_g := xg.p.isLt
  have b'_g := bit_lt xg.inv
  have b_o := RedOp.code_lt xo
  have b_w := WidthSign.code_lt xw
  have hm : fld w 25 6 = 0x0A := hE.symm ▸ ((fld_skip 2 b_w (by decide)).trans <| (fld_skip 3 b_o (by decide)).trans <| (fld_skip 1 (by decide) (by decide)).trans <| (fld_skip 1 (bit_lt xg.inv) (by decide)).trans <| (fld_skip 3 xg.p.isLt (by decide)).trans <| (fld_skip 5 b_b (by decide)).trans <| (fld_skip 5 b_a (by decide)).trans <| (by decide))
  have f_20_5 : fld w 20 5 = 0x0 := hE.symm ▸ ((fld_skip 2 b_w (by decide)).trans <| (fld_skip 3 b_o (by decide)).trans <| (fld_skip 1 (by decide) (by decide)).trans <| (fld_skip 1 (bit_lt xg.inv) (by decide)).trans <| (fld_skip 3 xg.p.isLt (by decide)).trans <| (fld_skip 5 b_b (by decide)).trans <| (fld_skip 5 b_a (by decide)).trans <| (by decide))
  have f_5_1 : fld w 5 1 = 0x0 := hE.symm ▸ ((fld_skip 2 b_w (by decide)).trans <| (fld_skip 3 b_o (by decide)).trans <| fld_take (by decide))
  have n_0 : ¬ (fld w 0 6 = 0x18 ∧ fld w 20 5 = 0) := by
    have hc : xo.code < 6 := by cases xo <;> decide
    unfold fld; omega
  have o_a : fbv w 15 5 = xa := fbv_eq (hE.symm ▸ ((fld_skip 2 b_w (by decide)).trans <| (fld_skip 3 b_o (by decide)).trans <| (fld_skip 1 (by decide) (by decide)).trans <| (fld_skip 1 (bit_lt xg.inv) (by decide)).trans <| (fld_skip 3 xg.p.isLt (by decide)).trans <| (fld_skip 5 b_b (by decide)).trans <| fld_take b_a))
  have o_b : fbv w 10 5 = xb := fbv_eq (hE.symm ▸ ((fld_skip 2 b_w (by decide)).trans <| (fld_skip 3 b_o (by decide)).trans <| (fld_skip 1 (by decide) (by decide)).trans <| (fld_skip 1 (bit_lt xg.inv) (by decide)).trans <| (fld_skip 3 xg.p.isLt (by decide)).trans <| fld_take b_b))
  have o_g : fguard w = xg := fguard_eq (hE.symm ▸ ((fld_skip 2 b_w (by decide)).trans <| (fld_skip 3 b_o (by decide)).trans <| (fld_skip 1 (by decide) (by decide)).trans <| (fld_skip 1 (bit_lt xg.inv) (by decide)).trans <| fld_take xg.p.isLt)) (hE.symm ▸ ((fld_skip 2 b_w (by decide)).trans <| (fld_skip 3 b_o (by decide)).trans <| (fld_skip 1 (by decide) (by decide)).trans <| fld_take (bit_lt xg.inv)))
  have o_o : fld w 2 3 = xo.code := hE.symm ▸ ((fld_skip 2 b_w (by decide)).trans <| fld_take b_o)
  have o_w : fld w 0 2 = xw.code := hE.symm ▸ (fld_take b_w)
  refine decodeNat_of_raw ((decodeRaw_0A hm).trans ?_) hw
  unfold decodeMajor0A
  refine (if_neg n_0).trans ?_
  refine (if_pos ⟨f_5_1, f_20_5⟩).trans ?_
  simp only [o_a, o_b, o_g, o_o, o_w, RedOp.ofCode_code, WidthSign.ofCode_code, Option.bind_some]

theorem RoundTrip.redX (xa : BitVec 5) (xb : BitVec 5) (xg : Guard) : RoundTrip.Statement (.redX xa xb xg) := by
  intro hw w h
  have hE : w = 24 + 2 ^ 6 * (bit xg.inv + 2 ^ 1 * (xg.p.toNat + 2 ^ 3 * (xb.toNat + 2 ^ 5 * (xa.toNat + 2 ^ 5 * (320))))) := by have := Option.some.inj h; simp only [guardBits] at this; omega
  have b_a := xa.isLt
  have b_b := xb.isLt
  have b_g := xg.p.isLt
  have b'_g := bit_lt xg.inv
  have hm : fld w 25 6 = 0x0A := hE.symm ▸ ((fld_skip 6 (by decide) (by decide)).trans <| (fld_skip 1 (bit_lt xg.inv) (by decide)).trans <| (fld_skip 3 xg.p.isLt (by decide)).trans <| (fld_skip 5 b_b (by decide)).trans <| (fld_skip 5 b_a (by decide)).trans <| (by decide))
  have f_0_6 : fld w 0 6 = 0x18 := hE.symm ▸ (fld_take (by decide))
  have f_20_5 : fld w 20 5 = 0x0 := hE.symm ▸ ((fld_skip 6 (by decide) (by decide)).trans <| (fld_skip 1 (bit_lt xg.inv) (by decide)).trans <| (fld_skip 3 xg.p.isLt (by decide)).trans <| (fld_skip 5 b_b (by decide)).trans <| (fld_skip 5 b_a (by decide)).trans <| (by decide))
  have o_a : fbv w 15 5 = xa := fbv_eq (hE.symm ▸ ((fld_skip 6 (by decide) (by decide)).trans <| (fld_skip 1 (bit_lt xg.inv) (by decide)).trans <| (fld_skip 3 xg.p.isLt (by decide)).trans <| (fld_skip 5 b_b (by decide)).trans <| fld_take b_a))
  have o_b : fbv w 10 5 = xb := fbv_eq (hE.symm ▸ ((fld_skip 6 (by decide) (by decide)).trans <| (fld_skip 1 (bit_lt xg.inv) (by decide)).trans <| (fld_skip 3 xg.p.isLt (by decide)).trans <| fld_take b_b))
  have o_g : fguard w = xg := fguard_eq (hE.symm ▸ ((fld_skip 6 (by decide) (by decide)).trans <| (fld_skip 1 (bit_lt xg.inv) (by decide)).trans <| fld_take xg.p.isLt)) (hE.symm ▸ ((fld_skip 6 (by decide) (by decide)).trans <| fld_take (bit_lt xg.inv)))
  refine decodeNat_of_raw ((decodeRaw_0A hm).trans ?_) hw
  unfold decodeMajor0A
  refine (if_pos ⟨f_0_6, f_20_5⟩).trans ?_
  simp only [o_a, o_b, o_g]

theorem RoundTrip.amoSwap (xd : BitVec 5) (xa : BitVec 5) (xb : BitVec 5) (xg : Guard) (xw : WidthSign) : RoundTrip.Statement (.amoSwap xd xa xb xg xw) := by
  intro hw w h
  have hE : w = xw.code + 2 ^ 2 * (8 + 2 ^ 4 * (bit xg.inv + 2 ^ 1 * (xg.p.toNat + 2 ^ 3 * (xb.toNat + 2 ^ 5 * (xa.toNat + 2 ^ 5 * (xd.toNat + 2 ^ 5 * (10))))))) := by have := Option.some.inj h; simp only [guardBits] at this; omega
  have b_d := xd.isLt
  have b_a := xa.isLt
  have b_b := xb.isLt
  have b_g := xg.p.isLt
  have b'_g := bit_lt xg.inv
  have b_w := WidthSign.code_lt xw
  have hm : fld w 25 6 = 0x0A := hE.symm ▸ ((fld_skip 2 b_w (by decide)).trans <| (fld_skip 4 (by decide) (by decide)).trans <| (fld_skip 1 (bit_lt xg.inv) (by decide)).trans <| (fld_skip 3 xg.p.isLt (by decide)).trans <| (fld_skip 5 b_b (by decide)).trans <| (fld_skip 5 b_a (by decide)).trans <| (fld_skip 5 b_d (by decide)).trans <| fld_whole (by decide))
  have f_5_1 : fld w 5 1 = 0x1 := hE.symm ▸ ((fld_skip 2 b_w (by decide)).trans <| (fld_low (by decide)).trans (by decide))
  have f_2_4 : fld w 2 4 = 0x8 := hE.symm ▸ ((fld_skip 2 b_w (by decide)).trans <| fld_take (by decide))
  have t_3 : fld w 3 1 = 0 := hE.symm ▸ ((fld_skip 2 b_w (by decide)).trans <| (fld_low (by decide)).trans (by decide))
  have o_d : fbv w 20 5 = xd := fbv_eq (hE.symm ▸ ((fld_skip 2 b_w (by decide)).trans <| (fld_skip 4 (by decide) (by decide)).trans <| (fld_skip 1 (bit_lt xg.inv) (by decide)).trans <| (fld_skip 3 xg.p.isLt (by decide)).trans <| (fld_skip 5 b_b (by decide)).trans <| (fld_skip 5 b_a (by decide)).trans <| fld_take b_d))
  have o_a : fbv w 15 5 = xa := fbv_eq (hE.symm ▸ ((fld_skip 2 b_w (by decide)).trans <| (fld_skip 4 (by decide) (by decide)).trans <| (fld_skip 1 (bit_lt xg.inv) (by decide)).trans <| (fld_skip 3 xg.p.isLt (by decide)).trans <| (fld_skip 5 b_b (by decide)).trans <| fld_take b_a))
  have o_b : fbv w 10 5 = xb := fbv_eq (hE.symm ▸ ((fld_skip 2 b_w (by decide)).trans <| (fld_skip 4 (by decide) (by decide)).trans <| (fld_skip 1 (bit_lt xg.inv) (by decide)).trans <| (fld_skip 3 xg.p.isLt (by decide)).trans <| fld_take b_b))
  have o_g : fguard w = xg := fguard_eq (hE.symm ▸ ((fld_skip 2 b_w (by decide)).trans <| (fld_skip 4 (by decide) (by decide)).trans <| (fld_skip 1 (bit_lt xg.inv) (by decide)).trans <| fld_take xg.p.isLt)) (hE.symm ▸ ((fld_skip 2 b_w (by decide)).trans <| (fld_skip 4 (by decide) (by decide)).trans <| fld_take (bit_lt xg.inv)))
  have o_w : fld w 0 2 = xw.code := hE.symm ▸ (fld_take b_w)
  refine decodeNat_of_raw ((decodeRaw_0A hm).trans ?_) hw
  unfold decodeMajor0A
  refine (if_neg fun h => fld_ne t_3 (by decide) (by decide) (by decide) h.1).trans ?_
  refine (if_neg fun h => absurd (f_5_1.symm.trans h.1) (by decide)).trans ?_
  refine (if_pos f_2_4).trans ?_
  simp only [o_d, o_a, o_b, o_g, o_w, WidthSign.ofCode_code, Option.bind_some]

theorem RoundTrip.amoCas (xd : BitVec 5) (xa : BitVec 5) (xb : BitVec 5) (xg : Guard) (xw : WidthSign) : RoundTrip.Statement (.amoCas xd xa xb xg xw) := by
  intro hw w h
  have hE : w = xw.code + 2 ^ 2 * (9 + 2 ^ 4 * (bit xg.inv + 2 ^ 1 * (xg.p.toNat + 2 ^ 3 * (xb.toNat + 2 ^ 5 * (xa.toNat + 2 ^ 5 * (xd.toNat + 2 ^ 5 * (10))))))) := by have := Option.some.inj h; simp only [guardBits] at this; omega
  have b_d := xd.isLt
  have b_a := xa.isLt
  have b_b := xb.isLt
  have b_g := xg.p.isLt
  have b'_g := bit_lt xg.inv
  have b_w := WidthSign.code_lt xw
  have hm : fld w 25 6 = 0x0A := hE.symm ▸ ((fld_skip 2 b_w (by decide)).trans <| (fld_skip 4 (by decide) (by decide)).trans <| (fld_skip 1 (bit_lt xg.inv) (by decide)).trans <| (fld_skip 3 xg.p.isLt (by decide)).trans <| (fld_skip 5 b_b (by decide)).trans <| (fld_skip 5 b_a (by decide)).trans <| (fld_skip 5 b_d (by decide)).trans <| fld_whole (by decide))
  have f_5_1 : fld w 5 1 = 0x1 := hE.symm ▸ ((fld_skip 2 b_w (by decide)).trans <| (fld_low (by decide)).trans (by decide))
  have f_2_4 : fld w 2 4 = 0x9 := hE.symm ▸ ((fld_skip 2 b_w (by decide)).trans <| fld_take (by decide))
  have t_2 : fld w 2 1 = 1 := hE.symm ▸ ((fld_skip 2 b_w (by decide)).trans <| (fld_low (by decide)).trans (by decide))
  have o_d : fbv w 20 5 = xd := fbv_eq (hE.symm ▸ ((fld_skip 2 b_w (by decide)).trans <| (fld_skip 4 (by decide) (by decide)).trans <| (fld_skip 1 (bit_lt xg.inv) (by decide)).trans <| (fld_skip 3 xg.p.isLt (by decide)).trans <| (fld_skip 5 b_b (by decide)).trans <| (fld_skip 5 b_a (by decide)).trans <| fld_take b_d))
  have o_a : fbv w 15 5 = xa := fbv_eq (hE.symm ▸ ((fld_skip 2 b_w (by decide)).trans <| (fld_skip 4 (by decide) (by decide)).trans <| (fld_skip 1 (bit_lt xg.inv) (by decide)).trans <| (fld_skip 3 xg.p.isLt (by decide)).trans <| (fld_skip 5 b_b (by decide)).trans <| fld_take b_a))
  have o_b : fbv w 10 5 = xb := fbv_eq (hE.symm ▸ ((fld_skip 2 b_w (by decide)).trans <| (fld_skip 4 (by decide) (by decide)).trans <| (fld_skip 1 (bit_lt xg.inv) (by decide)).trans <| (fld_skip 3 xg.p.isLt (by decide)).trans <| fld_take b_b))
  have o_g : fguard w = xg := fguard_eq (hE.symm ▸ ((fld_skip 2 b_w (by decide)).trans <| (fld_skip 4 (by decide) (by decide)).trans <| (fld_skip 1 (bit_lt xg.inv) (by decide)).trans <| fld_take xg.p.isLt)) (hE.symm ▸ ((fld_skip 2 b_w (by decide)).trans <| (fld_skip 4 (by decide) (by decide)).trans <| fld_take (bit_lt xg.inv)))
  have o_w : fld w 0 2 = xw.code := hE.symm ▸ (fld_take b_w)
  refine decodeNat_of_raw ((decodeRaw_0A hm).trans ?_) hw
  unfold decodeMajor0A
  refine (if_neg fun h => fld_ne t_2 (by decide) (by decide) (by decide) h.1).trans ?_
  refine (if_neg fun h => absurd (f_5_1.symm.trans h.1) (by decide)).trans ?_
  refine (if_neg fun h => absurd (f_2_4.symm.trans h) (by decide)).trans ?_
  refine (if_pos f_2_4).trans ?_
  simp only [o_d, o_a, o_b, o_g, o_w, WidthSign.ofCode_code, Option.bind_some]

theorem RoundTrip.amoAdd (xd : BitVec 5) (xa : BitVec 5) (xb : BitVec 5) (xg : Guard) (xw : WidthSign) : RoundTrip.Statement (.amoAdd xd xa xb xg xw) := by
  intro hw w h
  have hE : w = xw.code + 2 ^ 2 * (10 + 2 ^ 4 * (bit xg.inv + 2 ^ 1 * (xg.p.toNat + 2 ^ 3 * (xb.toNat + 2 ^ 5 * (xa.toNat + 2 ^ 5 * (xd.toNat + 2 ^ 5 * (10))))))) := by have := Option.some.inj h; simp only [guardBits] at this; omega
  have b_d := xd.isLt
  have b_a := xa.isLt
  have b_b := xb.isLt
  have b_g := xg.p.isLt
  have b'_g := bit_lt xg.inv
  have b_w := WidthSign.code_lt xw
  have hm : fld w 25 6 = 0x0A := hE.symm ▸ ((fld_skip 2 b_w (by decide)).trans <| (fld_skip 4 (by decide) (by decide)).trans <| (fld_skip 1 (bit_lt xg.inv) (by decide)).trans <| (fld_skip 3 xg.p.isLt (by decide)).trans <| (fld_skip 5 b_b (by decide)).trans <| (fld_skip 5 b_a (by decide)).trans <| (fld_skip 5 b_d (by decide)).trans <| fld_whole (by decide))
  have f_5_1 : fld w 5 1 = 0x1 := hE.symm ▸ ((fld_skip 2 b_w (by decide)).trans <| (fld_low (by decide)).trans (by decide))
  have f_2_4 : fld w 2 4 = 0xA := hE.symm ▸ ((fld_skip 2 b_w (by decide)).trans <| fld_take (by decide))
  have t_4 : fld w 4 1 = 0 := hE.symm ▸ ((fld_skip 2 b_w (by decide)).trans <| (fld_low (by decide)).trans (by decide))
  have o_d : fbv w 20 5 = xd := fbv_eq (hE.symm ▸ ((fld_skip 2 b_w (by decide)).trans <| (fld_skip 4 (by decide) (by decide)).trans <| (fld_skip 1 (bit_lt xg.inv) (by decide)).trans <| (fld_skip 3 xg.p.isLt (by decide)).trans <| (fld_skip 5 b_b (by decide)).trans <| (fld_skip 5 b_a (by decide)).trans <| fld_take b_d))
  have o_a : fbv w 15 5 = xa := fbv_eq (hE.symm ▸ ((fld_skip 2 b_w (by decide)).trans <| (fld_skip 4 (by decide) (by decide)).trans <| (fld_skip 1 (bit_lt xg.inv) (by decide)).trans <| (fld_skip 3 xg.p.isLt (by decide)).trans <| (fld_skip 5 b_b (by decide)).trans <| fld_take b_a))
  have o_b : fbv w 10 5 = xb := fbv_eq (hE.symm ▸ ((fld_skip 2 b_w (by decide)).trans <| (fld_skip 4 (by decide) (by decide)).trans <| (fld_skip 1 (bit_lt xg.inv) (by decide)).trans <| (fld_skip 3 xg.p.isLt (by decide)).trans <| fld_take b_b))
  have o_g : fguard w = xg := fguard_eq (hE.symm ▸ ((fld_skip 2 b_w (by decide)).trans <| (fld_skip 4 (by decide) (by decide)).trans <| (fld_skip 1 (bit_lt xg.inv) (by decide)).trans <| fld_take xg.p.isLt)) (hE.symm ▸ ((fld_skip 2 b_w (by decide)).trans <| (fld_skip 4 (by decide) (by decide)).trans <| fld_take (bit_lt xg.inv)))
  have o_w : fld w 0 2 = xw.code := hE.symm ▸ (fld_take b_w)
  refine decodeNat_of_raw ((decodeRaw_0A hm).trans ?_) hw
  unfold decodeMajor0A
  refine (if_neg fun h => fld_ne t_4 (by decide) (by decide) (by decide) h.1).trans ?_
  refine (if_neg fun h => absurd (f_5_1.symm.trans h.1) (by decide)).trans ?_
  refine (if_neg fun h => absurd (f_2_4.symm.trans h) (by decide)).trans ?_
  refine (if_neg fun h => absurd (f_2_4.symm.trans h) (by decide)).trans ?_
  refine (if_pos f_2_4).trans ?_
  simp only [o_d, o_a, o_b, o_g, o_w, WidthSign.ofCode_code, Option.bind_some]

theorem RoundTrip.vld (xd : BitVec 4) (xk : BitVec 2) (xb : BitVec 5) (xe : ElemWidth) (xx : Bool) : RoundTrip.Statement (.vld xd xk xb xe xx) := by
  intro hw w h
  have hE : w = bit xx + 2 ^ 1 * (xe.code + 2 ^ 2 * (0 + 2 ^ 3 * (xb.toNat + 2 ^ 5 * (xk.toNat + 2 ^ 2 * (0 + 2 ^ 8 * (xd.toNat + 2 ^ 4 * (11))))))) := by have := Option.some.inj h; omega
  have b_d := xd.isLt
  have b_k := xk.isLt
  have b_b := xb.isLt
  have b_e := ElemWidth.code_lt xe
  have b_x := bit_lt xx
  have hm : fld w 25 6 = 0x0B := hE.symm ▸ ((fld_skip 1 b_x (by decide)).trans <| (fld_skip 2 b_e (by decide)).trans <| (fld_skip 3 (by decide) (by decide)).trans <| (fld_skip 5 b_b (by decide)).trans <| (fld_skip 2 b_k (by decide)).trans <| (fld_skip 8 (by decide) (by decide)).trans <| (fld_skip 4 b_d (by decide)).trans <| fld_whole (by decide))
  have f_3_3 : fld w 3 3 = 0x0 := hE.symm ▸ ((fld_skip 1 b_x (by decide)).trans <| (fld_skip 2 b_e (by decide)).trans <| fld_take (by decide))
  have f_13_8 : fld w 13 8 = 0x0 := hE.symm ▸ ((fld_skip 1 b_x (by decide)).trans <| (fld_skip 2 b_e (by decide)).trans <| (fld_skip 3 (by decide) (by decide)).trans <| (fld_skip 5 b_b (by decide)).trans <| (fld_skip 2 b_k (by decide)).trans <| fld_take (by decide))
  have o_d : fbv w 21 4 = xd := fbv_eq (hE.symm ▸ ((fld_skip 1 b_x (by decide)).trans <| (fld_skip 2 b_e (by decide)).trans <| (fld_skip 3 (by decide) (by decide)).trans <| (fld_skip 5 b_b (by decide)).trans <| (fld_skip 2 b_k (by decide)).trans <| (fld_skip 8 (by decide) (by decide)).trans <| fld_take b_d))
  have o_k : fbv w 11 2 = xk := fbv_eq (hE.symm ▸ ((fld_skip 1 b_x (by decide)).trans <| (fld_skip 2 b_e (by decide)).trans <| (fld_skip 3 (by decide) (by decide)).trans <| (fld_skip 5 b_b (by decide)).trans <| fld_take b_k))
  have o_b : fbv w 6 5 = xb := fbv_eq (hE.symm ▸ ((fld_skip 1 b_x (by decide)).trans <| (fld_skip 2 b_e (by decide)).trans <| (fld_skip 3 (by decide) (by decide)).trans <| fld_take b_b))
  have o_e : fld w 1 2 = xe.code := hE.symm ▸ ((fld_skip 1 b_x (by decide)).trans <| fld_take b_e)
  have o_x : fbit w 0 = xx := fbit_eq (hE.symm ▸ (fld_take b_x))
  refine decodeNat_of_raw ((decodeRaw_0B hm).trans ?_) hw
  unfold decodeMajor0B
  refine (if_pos ⟨f_3_3, f_13_8⟩).trans ?_
  simp only [o_d, o_k, o_b, o_e, o_x, ElemWidth.ofCode_code, Option.bind_some]

theorem RoundTrip.vst (xd : BitVec 4) (xk : BitVec 2) (xb : BitVec 5) (xe : ElemWidth) : RoundTrip.Statement (.vst xd xk xb xe) := by
  intro hw w h
  have hE : w = 0 + 2 ^ 1 * (xe.code + 2 ^ 2 * (1 + 2 ^ 3 * (xb.toNat + 2 ^ 5 * (xk.toNat + 2 ^ 2 * (0 + 2 ^ 8 * (xd.toNat + 2 ^ 4 * (11))))))) := by have := Option.some.inj h; omega
  have b_d := xd.isLt
  have b_k := xk.isLt
  have b_b := xb.isLt
  have b_e := ElemWidth.code_lt xe
  have hm : fld w 25 6 = 0x0B := hE.symm ▸ ((fld_skip 1 (by decide) (by decide)).trans <| (fld_skip 2 b_e (by decide)).trans <| (fld_skip 3 (by decide) (by decide)).trans <| (fld_skip 5 b_b (by decide)).trans <| (fld_skip 2 b_k (by decide)).trans <| (fld_skip 8 (by decide) (by decide)).trans <| (fld_skip 4 b_d (by decide)).trans <| fld_whole (by decide))
  have f_3_3 : fld w 3 3 = 0x1 := hE.symm ▸ ((fld_skip 1 (by decide) (by decide)).trans <| (fld_skip 2 b_e (by decide)).trans <| fld_take (by decide))
  have f_13_8 : fld w 13 8 = 0x0 := hE.symm ▸ ((fld_skip 1 (by decide) (by decide)).trans <| (fld_skip 2 b_e (by decide)).trans <| (fld_skip 3 (by decide) (by decide)).trans <| (fld_skip 5 b_b (by decide)).trans <| (fld_skip 2 b_k (by decide)).trans <| fld_take (by decide))
  have f_0_1 : fld w 0 1 = 0x0 := hE.symm ▸ (fld_take (by decide))
  have o_d : fbv w 21 4 = xd := fbv_eq (hE.symm ▸ ((fld_skip 1 (by decide) (by decide)).trans <| (fld_skip 2 b_e (by decide)).trans <| (fld_skip 3 (by decide) (by decide)).trans <| (fld_skip 5 b_b (by decide)).trans <| (fld_skip 2 b_k (by decide)).trans <| (fld_skip 8 (by decide) (by decide)).trans <| fld_take b_d))
  have o_k : fbv w 11 2 = xk := fbv_eq (hE.symm ▸ ((fld_skip 1 (by decide) (by decide)).trans <| (fld_skip 2 b_e (by decide)).trans <| (fld_skip 3 (by decide) (by decide)).trans <| (fld_skip 5 b_b (by decide)).trans <| fld_take b_k))
  have o_b : fbv w 6 5 = xb := fbv_eq (hE.symm ▸ ((fld_skip 1 (by decide) (by decide)).trans <| (fld_skip 2 b_e (by decide)).trans <| (fld_skip 3 (by decide) (by decide)).trans <| fld_take b_b))
  have o_e : fld w 1 2 = xe.code := hE.symm ▸ ((fld_skip 1 (by decide) (by decide)).trans <| fld_take b_e)
  refine decodeNat_of_raw ((decodeRaw_0B hm).trans ?_) hw
  unfold decodeMajor0B
  refine (if_neg fun h => absurd (f_3_3.symm.trans h.1) (by decide)).trans ?_
  refine (if_pos ⟨f_0_1, f_3_3, f_13_8⟩).trans ?_
  simp only [o_d, o_k, o_b, o_e, ElemWidth.ofCode_code, Option.bind_some]

theorem RoundTrip.vlds (xd : BitVec 4) (xc : BitVec 4) (xk : BitVec 2) (xb : BitVec 5) (xe : ElemWidth) (xx : Bool) : RoundTrip.Statement (.vlds xd xc xk xb xe xx) := by
  intro hw w h
  have hE : w = bit xx + 2 ^ 1 * (xe.code + 2 ^ 2 * (2 + 2 ^ 3 * (xb.toNat + 2 ^ 5 * (xk.toNat + 2 ^ 2 * (0 + 2 ^ 4 * (xc.toNat + 2 ^ 4 * (xd.toNat + 2 ^ 4 * (11)))))))) := by have := Option.some.inj h; omega
  have b_d := xd.isLt
  have b_c := xc.isLt
  have b_k := xk.isLt
  have b_b := xb.isLt
  have b_e := ElemWidth.code_lt xe
  have b_x := bit_lt xx
  have hm : fld w 25 6 = 0x0B := hE.symm ▸ ((fld_skip 1 b_x (by decide)).trans <| (fld_skip 2 b_e (by decide)).trans <| (fld_skip 3 (by decide) (by decide)).trans <| (fld_skip 5 b_b (by decide)).trans <| (fld_skip 2 b_k (by decide)).trans <| (fld_skip 4 (by decide) (by decide)).trans <| (fld_skip 4 b_c (by decide)).trans <| (fld_skip 4 b_d (by decide)).trans <| fld_whole (by decide))
  have f_3_3 : fld w 3 3 = 0x2 := hE.symm ▸ ((fld_skip 1 b_x (by decide)).trans <| (fld_skip 2 b_e (by decide)).trans <| fld_take (by decide))
  have f_13_4 : fld w 13 4 = 0x0 := hE.symm ▸ ((fld_skip 1 b_x (by decide)).trans <| (fld_skip 2 b_e (by decide)).trans <| (fld_skip 3 (by decide) (by decide)).trans <| (fld_skip 5 b_b (by decide)).trans <| (fld_skip 2 b_k (by decide)).trans <| fld_take (by decide))
  have o_d : fbv w 21 4 = xd := fbv_eq (hE.symm ▸ ((fld_skip 1 b_x (by decide)).trans <| (fld_skip 2 b_e (by decide)).trans <| (fld_skip 3 (by decide) (by decide)).trans <| (fld_skip 5 b_b (by decide)).trans <| (fld_skip 2 b_k (by decide)).trans <| (fld_skip 4 (by decide) (by decide)).trans <| (fld_skip 4 b_c (by decide)).trans <| fld_take b_d))
  have o_c : fbv w 17 4 = xc := fbv_eq (hE.symm ▸ ((fld_skip 1 b_x (by decide)).trans <| (fld_skip 2 b_e (by decide)).trans <| (fld_skip 3 (by decide) (by decide)).trans <| (fld_skip 5 b_b (by decide)).trans <| (fld_skip 2 b_k (by decide)).trans <| (fld_skip 4 (by decide) (by decide)).trans <| fld_take b_c))
  have o_k : fbv w 11 2 = xk := fbv_eq (hE.symm ▸ ((fld_skip 1 b_x (by decide)).trans <| (fld_skip 2 b_e (by decide)).trans <| (fld_skip 3 (by decide) (by decide)).trans <| (fld_skip 5 b_b (by decide)).trans <| fld_take b_k))
  have o_b : fbv w 6 5 = xb := fbv_eq (hE.symm ▸ ((fld_skip 1 b_x (by decide)).trans <| (fld_skip 2 b_e (by decide)).trans <| (fld_skip 3 (by decide) (by decide)).trans <| fld_take b_b))
  have o_e : fld w 1 2 = xe.code := hE.symm ▸ ((fld_skip 1 b_x (by decide)).trans <| fld_take b_e)
  have o_x : fbit w 0 = xx := fbit_eq (hE.symm ▸ (fld_take b_x))
  refine decodeNat_of_raw ((decodeRaw_0B hm).trans ?_) hw
  unfold decodeMajor0B
  refine (if_neg fun h => absurd (f_3_3.symm.trans h.1) (by decide)).trans ?_
  refine (if_neg fun h => absurd (f_3_3.symm.trans h.2.1) (by decide)).trans ?_
  refine (if_pos ⟨f_3_3, f_13_4⟩).trans ?_
  simp only [o_d, o_c, o_k, o_b, o_e, o_x, ElemWidth.ofCode_code, Option.bind_some]

theorem RoundTrip.vsts (xd : BitVec 4) (xc : BitVec 4) (xk : BitVec 2) (xb : BitVec 5) (xe : ElemWidth) : RoundTrip.Statement (.vsts xd xc xk xb xe) := by
  intro hw w h
  have hE : w = 0 + 2 ^ 1 * (xe.code + 2 ^ 2 * (3 + 2 ^ 3 * (xb.toNat + 2 ^ 5 * (xk.toNat + 2 ^ 2 * (0 + 2 ^ 4 * (xc.toNat + 2 ^ 4 * (xd.toNat + 2 ^ 4 * (11)))))))) := by have := Option.some.inj h; omega
  have b_d := xd.isLt
  have b_c := xc.isLt
  have b_k := xk.isLt
  have b_b := xb.isLt
  have b_e := ElemWidth.code_lt xe
  have hm : fld w 25 6 = 0x0B := hE.symm ▸ ((fld_skip 1 (by decide) (by decide)).trans <| (fld_skip 2 b_e (by decide)).trans <| (fld_skip 3 (by decide) (by decide)).trans <| (fld_skip 5 b_b (by decide)).trans <| (fld_skip 2 b_k (by decide)).trans <| (fld_skip 4 (by decide) (by decide)).trans <| (fld_skip 4 b_c (by decide)).trans <| (fld_skip 4 b_d (by decide)).trans <| fld_whole (by decide))
  have f_3_3 : fld w 3 3 = 0x3 := hE.symm ▸ ((fld_skip 1 (by decide) (by decide)).trans <| (fld_skip 2 b_e (by decide)).trans <| fld_take (by decide))
  have f_0_1 : fld w 0 1 = 0x0 := hE.symm ▸ (fld_take (by decide))
  have f_13_4 : fld w 13 4 = 0x0 := hE.symm ▸ ((fld_skip 1 (by decide) (by decide)).trans <| (fld_skip 2 b_e (by decide)).trans <| (fld_skip 3 (by decide) (by decide)).trans <| (fld_skip 5 b_b (by decide)).trans <| (fld_skip 2 b_k (by decide)).trans <| fld_take (by decide))
  have o_d : fbv w 21 4 = xd := fbv_eq (hE.symm ▸ ((fld_skip 1 (by decide) (by decide)).trans <| (fld_skip 2 b_e (by decide)).trans <| (fld_skip 3 (by decide) (by decide)).trans <| (fld_skip 5 b_b (by decide)).trans <| (fld_skip 2 b_k (by decide)).trans <| (fld_skip 4 (by decide) (by decide)).trans <| (fld_skip 4 b_c (by decide)).trans <| fld_take b_d))
  have o_c : fbv w 17 4 = xc := fbv_eq (hE.symm ▸ ((fld_skip 1 (by decide) (by decide)).trans <| (fld_skip 2 b_e (by decide)).trans <| (fld_skip 3 (by decide) (by decide)).trans <| (fld_skip 5 b_b (by decide)).trans <| (fld_skip 2 b_k (by decide)).trans <| (fld_skip 4 (by decide) (by decide)).trans <| fld_take b_c))
  have o_k : fbv w 11 2 = xk := fbv_eq (hE.symm ▸ ((fld_skip 1 (by decide) (by decide)).trans <| (fld_skip 2 b_e (by decide)).trans <| (fld_skip 3 (by decide) (by decide)).trans <| (fld_skip 5 b_b (by decide)).trans <| fld_take b_k))
  have o_b : fbv w 6 5 = xb := fbv_eq (hE.symm ▸ ((fld_skip 1 (by decide) (by decide)).trans <| (fld_skip 2 b_e (by decide)).trans <| (fld_skip 3 (by decide) (by decide)).trans <| fld_take b_b))
  have o_e : fld w 1 2 = xe.code := hE.symm ▸ ((fld_skip 1 (by decide) (by decide)).trans <| fld_take b_e)
  refine decodeNat_of_raw ((decodeRaw_0B hm).trans ?_) hw
  unfold decodeMajor0B
  refine (if_neg fun h => absurd (f_3_3.symm.trans h.1) (by decide)).trans ?_
  refine (if_neg fun h => absurd (f_3_3.symm.trans h.2.1) (by decide)).trans ?_
  refine (if_neg fun h => absurd (f_3_3.symm.trans h.1) (by decide)).trans ?_
  refine (if_pos ⟨f_0_1, f_3_3, f_13_4⟩).trans ?_
  simp only [o_d, o_c, o_k, o_b, o_e, ElemWidth.ofCode_code, Option.bind_some]

theorem RoundTrip.vgath (xd : BitVec 4) (xi : BitVec 4) (xk : BitVec 2) (xb : BitVec 5) (xe : ElemWidth) (xx : Bool) : RoundTrip.Statement (.vgath xd xi xk xb xe xx) := by
  intro hw w h
  have hE : w = bit xx + 2 ^ 1 * (xe.code + 2 ^ 2 * (4 + 2 ^ 3 * (xb.toNat + 2 ^ 5 * (xk.toNat + 2 ^ 2 * (xi.toNat + 2 ^ 4 * (0 + 2 ^ 4 * (xd.toNat + 2 ^ 4 * (11)))))))) := by have := Option.some.inj h; omega
  have b_d := xd.isLt
  have b_i := xi.isLt
  have b_k := xk.isLt
  have b_b := xb.isLt
  have b_e := ElemWidth.code_lt xe
  have b_x := bit_lt xx
  have hm : fld w 25 6 = 0x0B := hE.symm ▸ ((fld_skip 1 b_x (by decide)).trans <| (fld_skip 2 b_e (by decide)).trans <| (fld_skip 3 (by decide) (by decide)).trans <| (fld_skip 5 b_b (by decide)).trans <| (fld_skip 2 b_k (by decide)).trans <| (fld_skip 4 b_i (by decide)).trans <| (fld_skip 4 (by decide) (by decide)).trans <| (fld_skip 4 b_d (by decide)).trans <| fld_whole (by decide))
  have f_3_3 : fld w 3 3 = 0x4 := hE.symm ▸ ((fld_skip 1 b_x (by decide)).trans <| (fld_skip 2 b_e (by decide)).trans <| fld_take (by decide))
  have f_17_4 : fld w 17 4 = 0x0 := hE.symm ▸ ((fld_skip 1 b_x (by decide)).trans <| (fld_skip 2 b_e (by decide)).trans <| (fld_skip 3 (by decide) (by decide)).trans <| (fld_skip 5 b_b (by decide)).trans <| (fld_skip 2 b_k (by decide)).trans <| (fld_skip 4 b_i (by decide)).trans <| fld_take (by decide))
  have o_d : fbv w 21 4 = xd := fbv_eq (hE.symm ▸ ((fld_skip 1 b_x (by decide)).trans <| (fld_skip 2 b_e (by decide)).trans <| (fld_skip 3 (by decide) (by decide)).trans <| (fld_skip 5 b_b (by decide)).trans <| (fld_skip 2 b_k (by decide)).trans <| (fld_skip 4 b_i (by decide)).trans <| (fld_skip 4 (by decide) (by decide)).trans <| fld_take b_d))
  have o_i : fbv w 13 4 = xi := fbv_eq (hE.symm ▸ ((fld_skip 1 b_x (by decide)).trans <| (fld_skip 2 b_e (by decide)).trans <| (fld_skip 3 (by decide) (by decide)).trans <| (fld_skip 5 b_b (by decide)).trans <| (fld_skip 2 b_k (by decide)).trans <| fld_take b_i))
  have o_k : fbv w 11 2 = xk := fbv_eq (hE.symm ▸ ((fld_skip 1 b_x (by decide)).trans <| (fld_skip 2 b_e (by decide)).trans <| (fld_skip 3 (by decide) (by decide)).trans <| (fld_skip 5 b_b (by decide)).trans <| fld_take b_k))
  have o_b : fbv w 6 5 = xb := fbv_eq (hE.symm ▸ ((fld_skip 1 b_x (by decide)).trans <| (fld_skip 2 b_e (by decide)).trans <| (fld_skip 3 (by decide) (by decide)).trans <| fld_take b_b))
  have o_e : fld w 1 2 = xe.code := hE.symm ▸ ((fld_skip 1 b_x (by decide)).trans <| fld_take b_e)
  have o_x : fbit w 0 = xx := fbit_eq (hE.symm ▸ (fld_take b_x))
  refine decodeNat_of_raw ((decodeRaw_0B hm).trans ?_) hw
  unfold decodeMajor0B
  refine (if_neg fun h => absurd (f_3_3.symm.trans h.1) (by decide)).trans ?_
  refine (if_neg fun h => absurd (f_3_3.symm.trans h.2.1) (by decide)).trans ?_
  refine (if_neg fun h => absurd (f_3_3.symm.trans h.1) (by decide)).trans ?_
  refine (if_neg fun h => absurd (f_3_3.symm.trans h.2.1) (by decide)).trans ?_
  refine (if_pos ⟨f_3_3, f_17_4⟩).trans ?_
  simp only [o_d, o_i, o_k, o_b, o_e, o_x, ElemWidth.ofCode_code, Option.bind_some]

theorem RoundTrip.vscat (xd : BitVec 4) (xi : BitVec 4) (xk : BitVec 2) (xb : BitVec 5) (xe : ElemWidth) : RoundTrip.Statement (.vscat xd xi xk xb xe) := by
  intro hw w h
  have hE : w = 0 + 2 ^ 1 * (xe.code + 2 ^ 2 * (5 + 2 ^ 3 * (xb.toNat + 2 ^ 5 * (xk.toNat + 2 ^ 2 * (xi.toNat + 2 ^ 4 * (0 + 2 ^ 4 * (xd.toNat + 2 ^ 4 * (11)))))))) := by have := Option.some.inj h; omega
  have b_d := xd.isLt
  have b_i := xi.isLt
  have b_k := xk.isLt
  have b_b := xb.isLt
  have b_e := ElemWidth.code_lt xe
  have hm : fld w 25 6 = 0x0B := hE.symm ▸ ((fld_skip 1 (by decide) (by decide)).trans <| (fld_skip 2 b_e (by decide)).trans <| (fld_skip 3 (by decide) (by decide)).trans <| (fld_skip 5 b_b (by decide)).trans <| (fld_skip 2 b_k (by decide)).trans <| (fld_skip 4 b_i (by decide)).trans <| (fld_skip 4 (by decide) (by decide)).trans <| (fld_skip 4 b_d (by decide)).trans <| fld_whole (by decide))
  have f_3_3 : fld w 3 3 = 0x5 := hE.symm ▸ ((fld_skip 1 (by decide) (by decide)).trans <| (fld_skip 2 b_e (by decide)).trans <| fld_take (by decide))
  have f_0_1 : fld w 0 1 = 0x0 := hE.symm ▸ (fld_take (by decide))
  have f_17_4 : fld w 17 4 = 0x0 := hE.symm ▸ ((fld_skip 1 (by decide) (by decide)).trans <| (fld_skip 2 b_e (by decide)).trans <| (fld_skip 3 (by decide) (by decide)).trans <| (fld_skip 5 b_b (by decide)).trans <| (fld_skip 2 b_k (by decide)).trans <| (fld_skip 4 b_i (by decide)).trans <| fld_take (by decide))
  have o_d : fbv w 21 4 = xd := fbv_eq (hE.symm ▸ ((fld_skip 1 (by decide) (by decide)).trans <| (fld_skip 2 b_e (by decide)).trans <| (fld_skip 3 (by decide) (by decide)).trans <| (fld_skip 5 b_b (by decide)).trans <| (fld_skip 2 b_k (by decide)).trans <| (fld_skip 4 b_i (by decide)).trans <| (fld_skip 4 (by decide) (by decide)).trans <| fld_take b_d))
  have o_i : fbv w 13 4 = xi := fbv_eq (hE.symm ▸ ((fld_skip 1 (by decide) (by decide)).trans <| (fld_skip 2 b_e (by decide)).trans <| (fld_skip 3 (by decide) (by decide)).trans <| (fld_skip 5 b_b (by decide)).trans <| (fld_skip 2 b_k (by decide)).trans <| fld_take b_i))
  have o_k : fbv w 11 2 = xk := fbv_eq (hE.symm ▸ ((fld_skip 1 (by decide) (by decide)).trans <| (fld_skip 2 b_e (by decide)).trans <| (fld_skip 3 (by decide) (by decide)).trans <| (fld_skip 5 b_b (by decide)).trans <| fld_take b_k))
  have o_b : fbv w 6 5 = xb := fbv_eq (hE.symm ▸ ((fld_skip 1 (by decide) (by decide)).trans <| (fld_skip 2 b_e (by decide)).trans <| (fld_skip 3 (by decide) (by decide)).trans <| fld_take b_b))
  have o_e : fld w 1 2 = xe.code := hE.symm ▸ ((fld_skip 1 (by decide) (by decide)).trans <| fld_take b_e)
  refine decodeNat_of_raw ((decodeRaw_0B hm).trans ?_) hw
  unfold decodeMajor0B
  refine (if_neg fun h => absurd (f_3_3.symm.trans h.1) (by decide)).trans ?_
  refine (if_neg fun h => absurd (f_3_3.symm.trans h.2.1) (by decide)).trans ?_
  refine (if_neg fun h => absurd (f_3_3.symm.trans h.1) (by decide)).trans ?_
  refine (if_neg fun h => absurd (f_3_3.symm.trans h.2.1) (by decide)).trans ?_
  refine (if_neg fun h => absurd (f_3_3.symm.trans h.1) (by decide)).trans ?_
  refine (if_pos ⟨f_0_1, f_3_3, f_17_4⟩).trans ?_
  simp only [o_d, o_i, o_k, o_b, o_e, ElemWidth.ofCode_code, Option.bind_some]

theorem RoundTrip.ctxnew (xd : BitVec 5) (xa : BitVec 5) (xg : Guard) : RoundTrip.Statement (.ctxnew xd xa xg) := by
  intro hw w h
  have hE : w = 0 + 2 ^ 6 * (bit xg.inv + 2 ^ 1 * (xg.p.toNat + 2 ^ 3 * (0 + 2 ^ 5 * (xa.toNat + 2 ^ 5 * (xd.toNat + 2 ^ 5 * (12)))))) := by have := Option.some.inj h; simp only [guardBits] at this; omega
  have b_d := xd.isLt
  have b_a := xa.isLt
  have b_g := xg.p.isLt
  have b'_g := bit_lt xg.inv
  have hm : fld w 25 6 = 0x0C := hE.symm ▸ ((fld_skip 6 (by decide) (by decide)).trans <| (fld_skip 1 (bit_lt xg.inv) (by decide)).trans <| (fld_skip 3 xg.p.isLt (by decide)).trans <| (fld_skip 5 (by decide) (by decide)).trans <| (fld_skip 5 b_a (by decide)).trans <| (fld_skip 5 b_d (by decide)).trans <| fld_whole (by decide))
  have f_0_6 : fld w 0 6 = 0x0 := hE.symm ▸ (fld_take (by decide))
  have f_10_5 : fld w 10 5 = 0x0 := hE.symm ▸ ((fld_skip 6 (by decide) (by decide)).trans <| (fld_skip 1 (bit_lt xg.inv) (by decide)).trans <| (fld_skip 3 xg.p.isLt (by decide)).trans <| fld_take (by decide))
  have o_d : fbv w 20 5 = xd := fbv_eq (hE.symm ▸ ((fld_skip 6 (by decide) (by decide)).trans <| (fld_skip 1 (bit_lt xg.inv) (by decide)).trans <| (fld_skip 3 xg.p.isLt (by decide)).trans <| (fld_skip 5 (by decide) (by decide)).trans <| (fld_skip 5 b_a (by decide)).trans <| fld_take b_d))
  have o_a : fbv w 15 5 = xa := fbv_eq (hE.symm ▸ ((fld_skip 6 (by decide) (by decide)).trans <| (fld_skip 1 (bit_lt xg.inv) (by decide)).trans <| (fld_skip 3 xg.p.isLt (by decide)).trans <| (fld_skip 5 (by decide) (by decide)).trans <| fld_take b_a))
  have o_g : fguard w = xg := fguard_eq (hE.symm ▸ ((fld_skip 6 (by decide) (by decide)).trans <| (fld_skip 1 (bit_lt xg.inv) (by decide)).trans <| fld_take xg.p.isLt)) (hE.symm ▸ ((fld_skip 6 (by decide) (by decide)).trans <| fld_take (bit_lt xg.inv)))
  refine decodeNat_of_raw ((decodeRaw_0C hm).trans ?_) hw
  unfold decodeMajor0C
  refine (if_pos ⟨f_0_6, f_10_5⟩).trans ?_
  simp only [o_d, o_a, o_g]

theorem RoundTrip.ctxset (xa : BitVec 5) (xg : Guard) : RoundTrip.Statement (.ctxset xa xg) := by
  intro hw w h
  have hE : w = 1 + 2 ^ 6 * (bit xg.inv + 2 ^ 1 * (xg.p.toNat + 2 ^ 3 * (0 + 2 ^ 5 * (xa.toNat + 2 ^ 5 * (384))))) := by have := Option.some.inj h; simp only [guardBits] at this; omega
  have b_a := xa.isLt
  have b_g := xg.p.isLt
  have b'_g := bit_lt xg.inv
  have hm : fld w 25 6 = 0x0C := hE.symm ▸ ((fld_skip 6 (by decide) (by decide)).trans <| (fld_skip 1 (bit_lt xg.inv) (by decide)).trans <| (fld_skip 3 xg.p.isLt (by decide)).trans <| (fld_skip 5 (by decide) (by decide)).trans <| (fld_skip 5 b_a (by decide)).trans <| (by decide))
  have f_0_6 : fld w 0 6 = 0x1 := hE.symm ▸ (fld_take (by decide))
  have f_10_5 : fld w 10 5 = 0x0 := hE.symm ▸ ((fld_skip 6 (by decide) (by decide)).trans <| (fld_skip 1 (bit_lt xg.inv) (by decide)).trans <| (fld_skip 3 xg.p.isLt (by decide)).trans <| fld_take (by decide))
  have f_20_5 : fld w 20 5 = 0x0 := hE.symm ▸ ((fld_skip 6 (by decide) (by decide)).trans <| (fld_skip 1 (bit_lt xg.inv) (by decide)).trans <| (fld_skip 3 xg.p.isLt (by decide)).trans <| (fld_skip 5 (by decide) (by decide)).trans <| (fld_skip 5 b_a (by decide)).trans <| (by decide))
  have o_a : fbv w 15 5 = xa := fbv_eq (hE.symm ▸ ((fld_skip 6 (by decide) (by decide)).trans <| (fld_skip 1 (bit_lt xg.inv) (by decide)).trans <| (fld_skip 3 xg.p.isLt (by decide)).trans <| (fld_skip 5 (by decide) (by decide)).trans <| fld_take b_a))
  have o_g : fguard w = xg := fguard_eq (hE.symm ▸ ((fld_skip 6 (by decide) (by decide)).trans <| (fld_skip 1 (bit_lt xg.inv) (by decide)).trans <| fld_take xg.p.isLt)) (hE.symm ▸ ((fld_skip 6 (by decide) (by decide)).trans <| fld_take (bit_lt xg.inv)))
  refine decodeNat_of_raw ((decodeRaw_0C hm).trans ?_) hw
  unfold decodeMajor0C
  refine (if_neg fun h => absurd (f_0_6.symm.trans h.1) (by decide)).trans ?_
  refine (if_pos ⟨f_0_6, f_10_5, f_20_5⟩).trans ?_
  simp only [o_a, o_g]

theorem RoundTrip.ctxfold (xa : BitVec 5) (xg : Guard) : RoundTrip.Statement (.ctxfold xa xg) := by
  intro hw w h
  have hE : w = 2 + 2 ^ 6 * (bit xg.inv + 2 ^ 1 * (xg.p.toNat + 2 ^ 3 * (0 + 2 ^ 5 * (xa.toNat + 2 ^ 5 * (384))))) := by have := Option.some.inj h; simp only [guardBits] at this; omega
  have b_a := xa.isLt
  have b_g := xg.p.isLt
  have b'_g := bit_lt xg.inv
  have hm : fld w 25 6 = 0x0C := hE.symm ▸ ((fld_skip 6 (by decide) (by decide)).trans <| (fld_skip 1 (bit_lt xg.inv) (by decide)).trans <| (fld_skip 3 xg.p.isLt (by decide)).trans <| (fld_skip 5 (by decide) (by decide)).trans <| (fld_skip 5 b_a (by decide)).trans <| (by decide))
  have f_0_6 : fld w 0 6 = 0x2 := hE.symm ▸ (fld_take (by decide))
  have f_10_5 : fld w 10 5 = 0x0 := hE.symm ▸ ((fld_skip 6 (by decide) (by decide)).trans <| (fld_skip 1 (bit_lt xg.inv) (by decide)).trans <| (fld_skip 3 xg.p.isLt (by decide)).trans <| fld_take (by decide))
  have f_20_5 : fld w 20 5 = 0x0 := hE.symm ▸ ((fld_skip 6 (by decide) (by decide)).trans <| (fld_skip 1 (bit_lt xg.inv) (by decide)).trans <| (fld_skip 3 xg.p.isLt (by decide)).trans <| (fld_skip 5 (by decide) (by decide)).trans <| (fld_skip 5 b_a (by decide)).trans <| (by decide))
  have o_a : fbv w 15 5 = xa := fbv_eq (hE.symm ▸ ((fld_skip 6 (by decide) (by decide)).trans <| (fld_skip 1 (bit_lt xg.inv) (by decide)).trans <| (fld_skip 3 xg.p.isLt (by decide)).trans <| (fld_skip 5 (by decide) (by decide)).trans <| fld_take b_a))
  have o_g : fguard w = xg := fguard_eq (hE.symm ▸ ((fld_skip 6 (by decide) (by decide)).trans <| (fld_skip 1 (bit_lt xg.inv) (by decide)).trans <| fld_take xg.p.isLt)) (hE.symm ▸ ((fld_skip 6 (by decide) (by decide)).trans <| fld_take (bit_lt xg.inv)))
  refine decodeNat_of_raw ((decodeRaw_0C hm).trans ?_) hw
  unfold decodeMajor0C
  refine (if_neg fun h => absurd (f_0_6.symm.trans h.1) (by decide)).trans ?_
  refine (if_neg fun h => absurd (f_0_6.symm.trans h.1) (by decide)).trans ?_
  refine (if_pos ⟨f_0_6, f_10_5, f_20_5⟩).trans ?_
  simp only [o_a, o_g]

theorem RoundTrip.ctxret (xa : BitVec 5) (xg : Guard) : RoundTrip.Statement (.ctxret xa xg) := by
  intro hw w h
  have hE : w = 3 + 2 ^ 6 * (bit xg.inv + 2 ^ 1 * (xg.p.toNat + 2 ^ 3 * (0 + 2 ^ 5 * (xa.toNat + 2 ^ 5 * (384))))) := by have := Option.some.inj h; simp only [guardBits] at this; omega
  have b_a := xa.isLt
  have b_g := xg.p.isLt
  have b'_g := bit_lt xg.inv
  have hm : fld w 25 6 = 0x0C := hE.symm ▸ ((fld_skip 6 (by decide) (by decide)).trans <| (fld_skip 1 (bit_lt xg.inv) (by decide)).trans <| (fld_skip 3 xg.p.isLt (by decide)).trans <| (fld_skip 5 (by decide) (by decide)).trans <| (fld_skip 5 b_a (by decide)).trans <| (by decide))
  have f_0_6 : fld w 0 6 = 0x3 := hE.symm ▸ (fld_take (by decide))
  have f_10_5 : fld w 10 5 = 0x0 := hE.symm ▸ ((fld_skip 6 (by decide) (by decide)).trans <| (fld_skip 1 (bit_lt xg.inv) (by decide)).trans <| (fld_skip 3 xg.p.isLt (by decide)).trans <| fld_take (by decide))
  have f_20_5 : fld w 20 5 = 0x0 := hE.symm ▸ ((fld_skip 6 (by decide) (by decide)).trans <| (fld_skip 1 (bit_lt xg.inv) (by decide)).trans <| (fld_skip 3 xg.p.isLt (by decide)).trans <| (fld_skip 5 (by decide) (by decide)).trans <| (fld_skip 5 b_a (by decide)).trans <| (by decide))
  have o_a : fbv w 15 5 = xa := fbv_eq (hE.symm ▸ ((fld_skip 6 (by decide) (by decide)).trans <| (fld_skip 1 (bit_lt xg.inv) (by decide)).trans <| (fld_skip 3 xg.p.isLt (by decide)).trans <| (fld_skip 5 (by decide) (by decide)).trans <| fld_take b_a))
  have o_g : fguard w = xg := fguard_eq (hE.symm ▸ ((fld_skip 6 (by decide) (by decide)).trans <| (fld_skip 1 (bit_lt xg.inv) (by decide)).trans <| fld_take xg.p.isLt)) (hE.symm ▸ ((fld_skip 6 (by decide) (by decide)).trans <| fld_take (bit_lt xg.inv)))
  refine decodeNat_of_raw ((decodeRaw_0C hm).trans ?_) hw
  unfold decodeMajor0C
  refine (if_neg fun h => absurd (f_0_6.symm.trans h.1) (by decide)).trans ?_
  refine (if_neg fun h => absurd (f_0_6.symm.trans h.1) (by decide)).trans ?_
  refine (if_neg fun h => absurd (f_0_6.symm.trans h.1) (by decide)).trans ?_
  refine (if_pos ⟨f_0_6, f_10_5, f_20_5⟩).trans ?_
  simp only [o_a, o_g]

theorem RoundTrip.ctxq (xd : BitVec 5) (xa : BitVec 5) (xg : Guard) : RoundTrip.Statement (.ctxq xd xa xg) := by
  intro hw w h
  have hE : w = 4 + 2 ^ 6 * (bit xg.inv + 2 ^ 1 * (xg.p.toNat + 2 ^ 3 * (0 + 2 ^ 5 * (xa.toNat + 2 ^ 5 * (xd.toNat + 2 ^ 5 * (12)))))) := by have := Option.some.inj h; simp only [guardBits] at this; omega
  have b_d := xd.isLt
  have b_a := xa.isLt
  have b_g := xg.p.isLt
  have b'_g := bit_lt xg.inv
  have hm : fld w 25 6 = 0x0C := hE.symm ▸ ((fld_skip 6 (by decide) (by decide)).trans <| (fld_skip 1 (bit_lt xg.inv) (by decide)).trans <| (fld_skip 3 xg.p.isLt (by decide)).trans <| (fld_skip 5 (by decide) (by decide)).trans <| (fld_skip 5 b_a (by decide)).trans <| (fld_skip 5 b_d (by decide)).trans <| fld_whole (by decide))
  have f_0_6 : fld w 0 6 = 0x4 := hE.symm ▸ (fld_take (by decide))
  have f_10_5 : fld w 10 5 = 0x0 := hE.symm ▸ ((fld_skip 6 (by decide) (by decide)).trans <| (fld_skip 1 (bit_lt xg.inv) (by decide)).trans <| (fld_skip 3 xg.p.isLt (by decide)).trans <| fld_take (by decide))
  have o_d : fbv w 20 5 = xd := fbv_eq (hE.symm ▸ ((fld_skip 6 (by decide) (by decide)).trans <| (fld_skip 1 (bit_lt xg.inv) (by decide)).trans <| (fld_skip 3 xg.p.isLt (by decide)).trans <| (fld_skip 5 (by decide) (by decide)).trans <| (fld_skip 5 b_a (by decide)).trans <| fld_take b_d))
  have o_a : fbv w 15 5 = xa := fbv_eq (hE.symm ▸ ((fld_skip 6 (by decide) (by decide)).trans <| (fld_skip 1 (bit_lt xg.inv) (by decide)).trans <| (fld_skip 3 xg.p.isLt (by decide)).trans <| (fld_skip 5 (by decide) (by decide)).trans <| fld_take b_a))
  have o_g : fguard w = xg := fguard_eq (hE.symm ▸ ((fld_skip 6 (by decide) (by decide)).trans <| (fld_skip 1 (bit_lt xg.inv) (by decide)).trans <| fld_take xg.p.isLt)) (hE.symm ▸ ((fld_skip 6 (by decide) (by decide)).trans <| fld_take (bit_lt xg.inv)))
  refine decodeNat_of_raw ((decodeRaw_0C hm).trans ?_) hw
  unfold decodeMajor0C
  refine (if_neg fun h => absurd (f_0_6.symm.trans h.1) (by decide)).trans ?_
  refine (if_neg fun h => absurd (f_0_6.symm.trans h.1) (by decide)).trans ?_
  refine (if_neg fun h => absurd (f_0_6.symm.trans h.1) (by decide)).trans ?_
  refine (if_neg fun h => absurd (f_0_6.symm.trans h.1) (by decide)).trans ?_
  refine (if_pos ⟨f_0_6, f_10_5⟩).trans ?_
  simp only [o_d, o_a, o_g]

theorem RoundTrip.tlod (xd : BitVec 4) (xa : BitVec 4) (xb : BitVec 4) (xk : BitVec 2) (xs : BitVec 5) (xc : BitVec 2) : RoundTrip.Statement (.tlod xd xa xb xk xs xc) := by
  intro hw w h
  have hE : w = xc.toNat + 2 ^ 2 * (0 + 2 ^ 4 * (xs.toNat + 2 ^ 5 * (xk.toNat + 2 ^ 2 * (xb.toNat + 2 ^ 4 * (xa.toNat + 2 ^ 4 * (xd.toNat + 2 ^ 4 * (13))))))) := by have := Option.some.inj h; omega
  have b_d := xd.isLt
  have b_a := xa.isLt
  have b_b := xb.isLt
  have b_k := xk.isLt
  have b_s := xs.isLt
  have b_c := xc.isLt
  have hm : fld w 25 6 = 0x0D := hE.symm ▸ ((fld_skip 2 b_c (by decide)).trans <| (fld_skip 4 (by decide) (by decide)).trans <| (fld_skip 5 b_s (by decide)).trans <| (fld_skip 2 b_k (by decide)).trans <| (fld_skip 4 b_b (by decide)).trans <| (fld_skip 4 b_a (by decide)).trans <| (fld_skip 4 b_d (by decide)).trans <| fld_whole (by decide))
  have f_2_4 : fld w 2 4 = 0x0 := hE.symm ▸ ((fld_skip 2 b_c (by decide)).trans <| fld_take (by decide))
  have o_d : fbv w 21 4 = xd := fbv_eq (hE.symm ▸ ((fld_skip 2 b_c (by decide)).trans <| (fld_skip 4 (by decide) (by decide)).trans <| (fld_skip 5 b_s (by decide)).trans <| (fld_skip 2 b_k (by decide)).trans <| (fld_skip 4 b_b (by decide)).trans <| (fld_skip 4 b_a (by decide)).trans <| fld_take b_d))
  have o_a : fbv w 17 4 = xa := fbv_eq (hE.symm ▸ ((fld_skip 2 b_c (by decide)).trans <| (fld_skip 4 (by decide) (by decide)).trans <| (fld_skip 5 b_s (by decide)).trans <| (fld_skip 2 b_k (by decide)).trans <| (fld_skip 4 b_b (by decide)).trans <| fld_take b_a))
  have o_b : fbv w 13 4 = xb := fbv_eq (hE.symm ▸ ((fld_skip 2 b_c (by decide)).trans <| (fld_skip 4 (by decide) (by decide)).trans <| (fld_skip 5 b_s (by decide)).trans <| (fld_skip 2 b_k (by decide)).trans <| fld_take b_b))
  have o_k : fbv w 11 2 = xk := fbv_eq (hE.symm ▸ ((fld_skip 2 b_c (by decide)).trans <| (fld_skip 4 (by decide) (by decide)).trans <| (fld_skip 5 b_s (by decide)).trans <| fld_take b_k))
  have o_s : fbv w 6 5 = xs := fbv_eq (hE.symm ▸ ((fld_skip 2 b_c (by decide)).trans <| (fld_skip 4 (by decide) (by decide)).trans <| fld_take b_s))
  have o_c : fbv w 0 2 = xc := fbv_eq (hE.symm ▸ (fld_take b_c))
  refine decodeNat_of_raw ((decodeRaw_0D hm).trans ?_) hw
  unfold decodeMajor0D
  refine (if_pos f_2_4).trans ?_
  simp only [o_d, o_a, o_b, o_k, o_s, o_c]

theorem RoundTrip.tsmp (xd : BitVec 4) (xa : BitVec 4) (xb : BitVec 4) (xk : BitVec 2) (xs : BitVec 5) (xc : BitVec 2) : RoundTrip.Statement (.tsmp xd xa xb xk xs xc) := by
  intro hw w h
  have hE : w = xc.toNat + 2 ^ 2 * (2 + 2 ^ 4 * (xs.toNat + 2 ^ 5 * (xk.toNat + 2 ^ 2 * (xb.toNat + 2 ^ 4 * (xa.toNat + 2 ^ 4 * (xd.toNat + 2 ^ 4 * (13))))))) := by have := Option.some.inj h; omega
  have b_d := xd.isLt
  have b_a := xa.isLt
  have b_b := xb.isLt
  have b_k := xk.isLt
  have b_s := xs.isLt
  have b_c := xc.isLt
  have hm : fld w 25 6 = 0x0D := hE.symm ▸ ((fld_skip 2 b_c (by decide)).trans <| (fld_skip 4 (by decide) (by decide)).trans <| (fld_skip 5 b_s (by decide)).trans <| (fld_skip 2 b_k (by decide)).trans <| (fld_skip 4 b_b (by decide)).trans <| (fld_skip 4 b_a (by decide)).trans <| (fld_skip 4 b_d (by decide)).trans <| fld_whole (by decide))
  have f_2_4 : fld w 2 4 = 0x2 := hE.symm ▸ ((fld_skip 2 b_c (by decide)).trans <| fld_take (by decide))
  have o_d : fbv w 21 4 = xd := fbv_eq (hE.symm ▸ ((fld_skip 2 b_c (by decide)).trans <| (fld_skip 4 (by decide) (by decide)).trans <| (fld_skip 5 b_s (by decide)).trans <| (fld_skip 2 b_k (by decide)).trans <| (fld_skip 4 b_b (by decide)).trans <| (fld_skip 4 b_a (by decide)).trans <| fld_take b_d))
  have o_a : fbv w 17 4 = xa := fbv_eq (hE.symm ▸ ((fld_skip 2 b_c (by decide)).trans <| (fld_skip 4 (by decide) (by decide)).trans <| (fld_skip 5 b_s (by decide)).trans <| (fld_skip 2 b_k (by decide)).trans <| (fld_skip 4 b_b (by decide)).trans <| fld_take b_a))
  have o_b : fbv w 13 4 = xb := fbv_eq (hE.symm ▸ ((fld_skip 2 b_c (by decide)).trans <| (fld_skip 4 (by decide) (by decide)).trans <| (fld_skip 5 b_s (by decide)).trans <| (fld_skip 2 b_k (by decide)).trans <| fld_take b_b))
  have o_k : fbv w 11 2 = xk := fbv_eq (hE.symm ▸ ((fld_skip 2 b_c (by decide)).trans <| (fld_skip 4 (by decide) (by decide)).trans <| (fld_skip 5 b_s (by decide)).trans <| fld_take b_k))
  have o_s : fbv w 6 5 = xs := fbv_eq (hE.symm ▸ ((fld_skip 2 b_c (by decide)).trans <| (fld_skip 4 (by decide) (by decide)).trans <| fld_take b_s))
  have o_c : fbv w 0 2 = xc := fbv_eq (hE.symm ▸ (fld_take b_c))
  refine decodeNat_of_raw ((decodeRaw_0D hm).trans ?_) hw
  unfold decodeMajor0D
  refine (if_neg fun h => absurd (f_2_4.symm.trans h) (by decide)).trans ?_
  refine (if_pos f_2_4).trans ?_
  simp only [o_d, o_a, o_b, o_k, o_s, o_c]

theorem RoundTrip.resq (xd : BitVec 4) (xa : BitVec 4) (xk : BitVec 2) (xs : BitVec 5) : RoundTrip.Statement (.resq xd xa xk xs) := by
  intro hw w h
  have hE : w = 16 + 2 ^ 6 * (xs.toNat + 2 ^ 5 * (xk.toNat + 2 ^ 2 * (0 + 2 ^ 4 * (xa.toNat + 2 ^ 4 * (xd.toNat + 2 ^ 4 * (13)))))) := by have := Option.some.inj h; omega
  have b_d := xd.isLt
  have b_a := xa.isLt
  have b_k := xk.isLt
  have b_s := xs.isLt
  have hm : fld w 25 6 = 0x0D := hE.symm ▸ ((fld_skip 6 (by decide) (by decide)).trans <| (fld_skip 5 b_s (by decide)).trans <| (fld_skip 2 b_k (by decide)).trans <| (fld_skip 4 (by decide) (by decide)).trans <| (fld_skip 4 b_a (by decide)).trans <| (fld_skip 4 b_d (by decide)).trans <| fld_whole (by decide))
  have f_2_4 : fld w 2 4 = 0x4 := hE.symm ▸ ((fld_low (by decide)).trans (by decide))
  have f_0_6 : fld w 0 6 = 0x10 := hE.symm ▸ (fld_take (by decide))
  have f_13_4 : fld w 13 4 = 0x0 := hE.symm ▸ ((fld_skip 6 (by decide) (by decide)).trans <| (fld_skip 5 b_s (by decide)).trans <| (fld_skip 2 b_k (by decide)).trans <| fld_take (by decide))
  have o_d : fbv w 21 4 = xd := fbv_eq (hE.symm ▸ ((fld_skip 6 (by decide) (by decide)).trans <| (fld_skip 5 b_s (by decide)).trans <| (fld_skip 2 b_k (by decide)).trans <| (fld_skip 4 (by decide) (by decide)).trans <| (fld_skip 4 b_a (by decide)).trans <| fld_take b_d))
  have o_a : fbv w 17 4 = xa := fbv_eq (hE.symm ▸ ((fld_skip 6 (by decide) (by decide)).trans <| (fld_skip 5 b_s (by decide)).trans <| (fld_skip 2 b_k (by decide)).trans <| (fld_skip 4 (by decide) (by decide)).trans <| fld_take b_a))
  have o_k : fbv w 11 2 = xk := fbv_eq (hE.symm ▸ ((fld_skip 6 (by decide) (by decide)).trans <| (fld_skip 5 b_s (by decide)).trans <| fld_take b_k))
  have o_s : fbv w 6 5 = xs := fbv_eq (hE.symm ▸ ((fld_skip 6 (by decide) (by decide)).trans <| fld_take b_s))
  refine decodeNat_of_raw ((decodeRaw_0D hm).trans ?_) hw
  unfold decodeMajor0D
  refine (if_neg fun h => absurd (f_2_4.symm.trans h) (by decide)).trans ?_
  refine (if_neg fun h => absurd (f_2_4.symm.trans h) (by decide)).trans ?_
  refine (if_pos ⟨f_0_6, f_13_4⟩).trans ?_
  simp only [o_d, o_a, o_k, o_s]

theorem RoundTrip.resw (xd : BitVec 4) (xa : BitVec 4) (xk : BitVec 2) (xs : BitVec 5) (xt : Bool) : RoundTrip.Statement (.resw xd xa xk xs xt) := by
  intro hw w h
  have hE : w = 0 + 2 ^ 2 * (bit xt + 2 ^ 1 * (3 + 2 ^ 3 * (xs.toNat + 2 ^ 5 * (xk.toNat + 2 ^ 2 * (0 + 2 ^ 4 * (xa.toNat + 2 ^ 4 * (xd.toNat + 2 ^ 4 * (13)))))))) := by have := Option.some.inj h; omega
  have b_d := xd.isLt
  have b_a := xa.isLt
  have b_k := xk.isLt
  have b_s := xs.isLt
  have b_t := bit_lt xt
  have hm : fld w 25 6 = 0x0D := hE.symm ▸ ((fld_skip 2 (by decide) (by decide)).trans <| (fld_skip 1 b_t (by decide)).trans <| (fld_skip 3 (by decide) (by decide)).trans <| (fld_skip 5 b_s (by decide)).trans <| (fld_skip 2 b_k (by decide)).trans <| (fld_skip 4 (by decide) (by decide)).trans <| (fld_skip 4 b_a (by decide)).trans <| (fld_skip 4 b_d (by decide)).trans <| fld_whole (by decide))
  have f_13_4 : fld w 13 4 = 0x0 := hE.symm ▸ ((fld_skip 2 (by decide) (by decide)).trans <| (fld_skip 1 b_t (by decide)).trans <| (fld_skip 3 (by decide) (by decide)).trans <| (fld_skip 5 b_s (by decide)).trans <| (fld_skip 2 b_k (by decide)).trans <| fld_take (by decide))
  have f_0_2 : fld w 0 2 = 0x0 := hE.symm ▸ (fld_take (by decide))
  have f_3_3 : fld w 3 3 = 0x3 := hE.symm ▸ ((fld_skip 2 (by decide) (by decide)).trans <| (fld_skip 1 b_t (by decide)).trans <| fld_take (by decide))
  have t_3 : fld w 3 1 = 1 := hE.symm ▸ ((fld_skip 2 (by decide) (by decide)).trans <| (fld_skip 1 b_t (by decide)).trans <| (fld_low (by decide)).trans (by decide))
  have t_4 : fld w 4 1 = 1 := hE.symm ▸ ((fld_skip 2 (by decide) (by decide)).trans <| (fld_skip 1 b_t (by decide)).trans <| (fld_low (by decide)).trans (by decide))
  have o_d : fbv w 21 4 = xd := fbv_eq (hE.symm ▸ ((fld_skip 2 (by decide) (by decide)).trans <| (fld_skip 1 b_t (by decide)).trans <| (fld_skip 3 (by decide) (by decide)).trans <| (fld_skip 5 b_s (by decide)).trans <| (fld_skip 2 b_k (by decide)).trans <| (fld_skip 4 (by decide) (by decide)).trans <| (fld_skip 4 b_a (by decide)).trans <| fld_take b_d))
  have o_a : fbv w 17 4 = xa := fbv_eq (hE.symm ▸ ((fld_skip 2 (by decide) (by decide)).trans <| (fld_skip 1 b_t (by decide)).trans <| (fld_skip 3 (by decide) (by decide)).trans <| (fld_skip 5 b_s (by decide)).trans <| (fld_skip 2 b_k (by decide)).trans <| (fld_skip 4 (by decide) (by decide)).trans <| fld_take b_a))
  have o_k : fbv w 11 2 = xk := fbv_eq (hE.symm ▸ ((fld_skip 2 (by decide) (by decide)).trans <| (fld_skip 1 b_t (by decide)).trans <| (fld_skip 3 (by decide) (by decide)).trans <| (fld_skip 5 b_s (by decide)).trans <| fld_take b_k))
  have o_s : fbv w 6 5 = xs := fbv_eq (hE.symm ▸ ((fld_skip 2 (by decide) (by decide)).trans <| (fld_skip 1 b_t (by decide)).trans <| (fld_skip 3 (by decide) (by decide)).trans <| fld_take b_s))
  have o_t : fbit w 2 = xt := fbit_eq (hE.symm ▸ ((fld_skip 2 (by decide) (by decide)).trans <| fld_take b_t))
  refine decodeNat_of_raw ((decodeRaw_0D hm).trans ?_) hw
  unfold decodeMajor0D
  refine (if_neg fun h => fld_ne t_3 (by decide) (by decide) (by decide) h).trans ?_
  refine (if_neg fun h => fld_ne t_4 (by decide) (by decide) (by decide) h).trans ?_
  refine (if_neg fun h => fld_ne t_3 (by decide) (by decide) (by decide) h.1).trans ?_
  refine (if_pos ⟨f_0_2, f_3_3, f_13_4⟩).trans ?_
  simp only [o_d, o_a, o_k, o_s, o_t]

theorem RoundTrip.rmfence (xs : BitVec 5) : RoundTrip.Statement (.rmfence xs) := by
  intro hw w h
  have hE : w = 32 + 2 ^ 6 * (xs.toNat + 2 ^ 5 * (212992)) := by have := Option.some.inj h; omega
  have b_s := xs.isLt
  have hm : fld w 25 6 = 0x0D := hE.symm ▸ ((fld_skip 6 (by decide) (by decide)).trans <| (fld_skip 5 b_s (by decide)).trans <| (by decide))
  have f_2_4 : fld w 2 4 = 0x8 := hE.symm ▸ ((fld_low (by decide)).trans (by decide))
  have f_0_6 : fld w 0 6 = 0x20 := hE.symm ▸ (fld_take (by decide))
  have f_13_4 : fld w 13 4 = 0x0 := hE.symm ▸ ((fld_skip 6 (by decide) (by decide)).trans <| (fld_skip 5 b_s (by decide)).trans <| (by decide))
  have f_0_2 : fld w 0 2 = 0x0 := hE.symm ▸ ((fld_low (by decide)).trans (by decide))
  have f_3_3 : fld w 3 3 = 0x4 := hE.symm ▸ ((fld_low (by decide)).trans (by decide))
  have f_11_14 : fld w 11 14 = 0x0 := hE.symm ▸ ((fld_skip 6 (by decide) (by decide)).trans <| (fld_skip 5 b_s (by decide)).trans <| (by decide))
  have o_s : fbv w 6 5 = xs := fbv_eq (hE.symm ▸ ((fld_skip 6 (by decide) (by decide)).trans <| fld_take b_s))
  refine decodeNat_of_raw ((decodeRaw_0D hm).trans ?_) hw
  unfold decodeMajor0D
  refine (if_neg fun h => absurd (f_2_4.symm.trans h) (by decide)).trans ?_
  refine (if_neg fun h => absurd (f_2_4.symm.trans h) (by decide)).trans ?_
  refine (if_neg fun h => absurd (f_0_6.symm.trans h.1) (by decide)).trans ?_
  refine (if_neg fun h => absurd (f_3_3.symm.trans h.2.1) (by decide)).trans ?_
  refine (if_pos ⟨f_0_6, f_11_14⟩).trans ?_
  simp only [o_s]

theorem RoundTrip.spawnr (xd : BitVec 5) (xa : BitVec 5) (xb : BitVec 5) (xg : Guard) : RoundTrip.Statement (.spawnr xd xa xb xg) := by
  intro hw w h
  have hE : w = 0 + 2 ^ 6 * (bit xg.inv + 2 ^ 1 * (xg.p.toNat + 2 ^ 3 * (xb.toNat + 2 ^ 5 * (xa.toNat + 2 ^ 5 * (xd.toNat + 2 ^ 5 * (14)))))) := by have := Option.some.inj h; simp only [guardBits] at this; omega
  have b_d := xd.isLt
  have b_a := xa.isLt
  have b_b := xb.isLt
  have b_g := xg.p.isLt
  have b'_g := bit_lt xg.inv
  have hm : fld w 25 6 = 0x0E := hE.symm ▸ ((fld_skip 6 (by decide) (by decide)).trans <| (fld_skip 1 (bit_lt xg.inv) (by decide)).trans <| (fld_skip 3 xg.p.isLt (by decide)).trans <| (fld_skip 5 b_b (by decide)).trans <| (fld_skip 5 b_a (by decide)).trans <| (fld_skip 5 b_d (by decide)).trans <| fld_whole (by decide))
  have f_0_6 : fld w 0 6 = 0x0 := hE.symm ▸ (fld_take (by decide))
  have o_d : fbv w 20 5 = xd := fbv_eq (hE.symm ▸ ((fld_skip 6 (by decide) (by decide)).trans <| (fld_skip 1 (bit_lt xg.inv) (by decide)).trans <| (fld_skip 3 xg.p.isLt (by decide)).trans <| (fld_skip 5 b_b (by decide)).trans <| (fld_skip 5 b_a (by decide)).trans <| fld_take b_d))
  have o_a : fbv w 15 5 = xa := fbv_eq (hE.symm ▸ ((fld_skip 6 (by decide) (by decide)).trans <| (fld_skip 1 (bit_lt xg.inv) (by decide)).trans <| (fld_skip 3 xg.p.isLt (by decide)).trans <| (fld_skip 5 b_b (by decide)).trans <| fld_take b_a))
  have o_b : fbv w 10 5 = xb := fbv_eq (hE.symm ▸ ((fld_skip 6 (by decide) (by decide)).trans <| (fld_skip 1 (bit_lt xg.inv) (by decide)).trans <| (fld_skip 3 xg.p.isLt (by decide)).trans <| fld_take b_b))
  have o_g : fguard w = xg := fguard_eq (hE.symm ▸ ((fld_skip 6 (by decide) (by decide)).trans <| (fld_skip 1 (bit_lt xg.inv) (by decide)).trans <| fld_take xg.p.isLt)) (hE.symm ▸ ((fld_skip 6 (by decide) (by decide)).trans <| fld_take (bit_lt xg.inv)))
  refine decodeNat_of_raw ((decodeRaw_0E hm).trans ?_) hw
  unfold decodeMajor0E
  refine (if_pos f_0_6).trans ?_
  simp only [o_d, o_a, o_b, o_g]

theorem RoundTrip.spawnc (xa : BitVec 5) (xg : Guard) : RoundTrip.Statement (.spawnc xa xg) := by
  intro hw w h
  have hE : w = 1 + 2 ^ 6 * (bit xg.inv + 2 ^ 1 * (xg.p.toNat + 2 ^ 3 * (0 + 2 ^ 5 * (xa.toNat + 2 ^ 5 * (448))))) := by have := Option.some.inj h; simp only [guardBits] at this; omega
  have b_a := xa.isLt
  have b_g := xg.p.isLt
  have b'_g := bit_lt xg.inv
  have hm : fld w 25 6 = 0x0E := hE.symm ▸ ((fld_skip 6 (by decide) (by decide)).trans <| (fld_skip 1 (bit_lt xg.inv) (by decide)).trans <| (fld_skip 3 xg.p.isLt (by decide)).trans <| (fld_skip 5 (by decide) (by decide)).trans <| (fld_skip 5 b_a (by decide)).trans <| (by decide))
  have f_0_6 : fld w 0 6 = 0x1 := hE.symm ▸ (fld_take (by decide))
  have f_10_5 : fld w 10 5 = 0x0 := hE.symm ▸ ((fld_skip 6 (by decide) (by decide)).trans <| (fld_skip 1 (bit_lt xg.inv) (by decide)).trans <| (fld_skip 3 xg.p.isLt (by decide)).trans <| fld_take (by decide))
  have f_20_5 : fld w 20 5 = 0x0 := hE.symm ▸ ((fld_skip 6 (by decide) (by decide)).trans <| (fld_skip 1 (bit_lt xg.inv) (by decide)).trans <| (fld_skip 3 xg.p.isLt (by decide)).trans <| (fld_skip 5 (by decide) (by decide)).trans <| (fld_skip 5 b_a (by decide)).trans <| (by decide))
  have o_a : fbv w 15 5 = xa := fbv_eq (hE.symm ▸ ((fld_skip 6 (by decide) (by decide)).trans <| (fld_skip 1 (bit_lt xg.inv) (by decide)).trans <| (fld_skip 3 xg.p.isLt (by decide)).trans <| (fld_skip 5 (by decide) (by decide)).trans <| fld_take b_a))
  have o_g : fguard w = xg := fguard_eq (hE.symm ▸ ((fld_skip 6 (by decide) (by decide)).trans <| (fld_skip 1 (bit_lt xg.inv) (by decide)).trans <| fld_take xg.p.isLt)) (hE.symm ▸ ((fld_skip 6 (by decide) (by decide)).trans <| fld_take (bit_lt xg.inv)))
  refine decodeNat_of_raw ((decodeRaw_0E hm).trans ?_) hw
  unfold decodeMajor0E
  refine (if_neg fun h => absurd (f_0_6.symm.trans h) (by decide)).trans ?_
  refine (if_pos ⟨f_0_6, f_10_5, f_20_5⟩).trans ?_
  simp only [o_a, o_g]

theorem RoundTrip.tend : RoundTrip.Statement (.tend) := by
  intro hw w h
  have hE : w = 469762050 := by have := Option.some.inj h; omega
  have hm : fld w 25 6 = 0x0E := hE.symm ▸ ((by decide))
  have f_0_6 : fld w 0 6 = 0x2 := hE.symm ▸ ((by decide))
  have f_10_5 : fld w 10 5 = 0x0 := hE.symm ▸ ((by decide))
  have f_20_5 : fld w 20 5 = 0x0 := hE.symm ▸ ((by decide))
  have f_0_25 : fld w 0 25 = 0x2 := hE.symm ▸ ((by decide))
  refine decodeNat_of_raw ((decodeRaw_0E hm).trans ?_) hw
  unfold decodeMajor0E
  refine (if_neg fun h => absurd (f_0_6.symm.trans h) (by decide)).trans ?_
  refine (if_neg fun h => absurd (f_0_6.symm.trans h.1) (by decide)).trans ?_
  refine (if_pos f_0_25).trans ?_
  rfl

theorem RoundTrip.await (xa : BitVec 5) : RoundTrip.Statement (.await xa) := by
  intro hw w h
  have hE : w = 3 + 2 ^ 15 * (xa.toNat + 2 ^ 5 * (448)) := by have := Option.some.inj h; omega
  have b_a := xa.isLt
  have hm : fld w 25 6 = 0x0E := hE.symm ▸ ((fld_skip 15 (by decide) (by decide)).trans <| (fld_skip 5 b_a (by decide)).trans <| (by decide))
  have f_0_6 : fld w 0 6 = 0x3 := hE.symm ▸ ((fld_low (by decide)).trans (by decide))
  have f_10_5 : fld w 10 5 = 0x0 := hE.symm ▸ ((fld_low (by decide)).trans (by decide))
  have f_20_5 : fld w 20 5 = 0x0 := hE.symm ▸ ((fld_skip 15 (by decide) (by decide)).trans <| (fld_skip 5 b_a (by decide)).trans <| (by decide))
  have f_0_15 : fld w 0 15 = 0x3 := hE.symm ▸ (fld_take (by decide))
  have t_0 : fld w 0 1 = 1 := hE.symm ▸ ((fld_low (by decide)).trans (by decide))
  have o_a : fbv w 15 5 = xa := fbv_eq (hE.symm ▸ ((fld_skip 15 (by decide) (by decide)).trans <| fld_take b_a))
  refine decodeNat_of_raw ((decodeRaw_0E hm).trans ?_) hw
  unfold decodeMajor0E
  refine (if_neg fun h => absurd (f_0_6.symm.trans h) (by decide)).trans ?_
  refine (if_neg fun h => absurd (f_0_6.symm.trans h.1) (by decide)).trans ?_
  refine (if_neg fun h => fld_ne t_0 (by decide) (by decide) (by decide) h).trans ?_
  refine (if_pos ⟨f_0_15, f_20_5⟩).trans ?_
  simp only [o_a]

theorem RoundTrip.join (xa : BitVec 5) (xg : Guard) : RoundTrip.Statement (.join xa xg) := by
  intro hw w h
  have hE : w = 4 + 2 ^ 6 * (bit xg.inv + 2 ^ 1 * (xg.p.toNat + 2 ^ 3 * (0 + 2 ^ 5 * (xa.toNat + 2 ^ 5 * (448))))) := by have := Option.some.inj h; simp only [guardBits] at this; omega
  have b_a := xa.isLt
  have b_g := xg.p.isLt
  have b'_g := bit_lt xg.inv
  have hm : fld w 25 6 = 0x0E := hE.symm ▸ ((fld_skip 6 (by decide) (by decide)).trans <| (fld_skip 1 (bit_lt xg.inv) (by decide)).trans <| (fld_skip 3 xg.p.isLt (by decide)).trans <| (fld_skip 5 (by decide) (by decide)).trans <| (fld_skip 5 b_a (by decide)).trans <| (by decide))
  have f_0_6 : fld w 0 6 = 0x4 := hE.symm ▸ (fld_take (by decide))
  have f_10_5 : fld w 10 5 = 0x0 := hE.symm ▸ ((fld_skip 6 (by decide) (by decide)).trans <| (fld_skip 1 (bit_lt xg.inv) (by decide)).trans <| (fld_skip 3 xg.p.isLt (by decide)).trans <| fld_take (by decide))
  have f_20_5 : fld w 20 5 = 0x0 := hE.symm ▸ ((fld_skip 6 (by decide) (by decide)).trans <| (fld_skip 1 (bit_lt xg.inv) (by decide)).trans <| (fld_skip 3 xg.p.isLt (by decide)).trans <| (fld_skip 5 (by decide) (by decide)).trans <| (fld_skip 5 b_a (by decide)).trans <| (by decide))
  have t_1 : fld w 1 1 = 0 := hE.symm ▸ ((fld_low (by decide)).trans (by decide))
  have t_0 : fld w 0 1 = 0 := hE.symm ▸ ((fld_low (by decide)).trans (by decide))
  have o_a : fbv w 15 5 = xa := fbv_eq (hE.symm ▸ ((fld_skip 6 (by decide) (by decide)).trans <| (fld_skip 1 (bit_lt xg.inv) (by decide)).trans <| (fld_skip 3 xg.p.isLt (by decide)).trans <| (fld_skip 5 (by decide) (by decide)).trans <| fld_take b_a))
  have o_g : fguard w = xg := fguard_eq (hE.symm ▸ ((fld_skip 6 (by decide) (by decide)).trans <| (fld_skip 1 (bit_lt xg.inv) (by decide)).trans <| fld_take xg.p.isLt)) (hE.symm ▸ ((fld_skip 6 (by decide) (by decide)).trans <| fld_take (bit_lt xg.inv)))
  refine decodeNat_of_raw ((decodeRaw_0E hm).trans ?_) hw
  unfold decodeMajor0E
  refine (if_neg fun h => absurd (f_0_6.symm.trans h) (by decide)).trans ?_
  refine (if_neg fun h => absurd (f_0_6.symm.trans h.1) (by decide)).trans ?_
  refine (if_neg fun h => fld_ne t_1 (by decide) (by decide) (by decide) h).trans ?_
  refine (if_neg fun h => fld_ne t_0 (by decide) (by decide) (by decide) h.1).trans ?_
  refine (if_pos ⟨f_0_6, f_10_5, f_20_5⟩).trans ?_
  simp only [o_a, o_g]

theorem RoundTrip.stamp (xd : BitVec 5) (xa : BitVec 5) (xb : BitVec 5) (xg : Guard) : RoundTrip.Statement (.stamp xd xa xb xg) := by
  intro hw w h
  have hE : w = 5 + 2 ^ 6 * (bit xg.inv + 2 ^ 1 * (xg.p.toNat + 2 ^ 3 * (xb.toNat + 2 ^ 5 * (xa.toNat + 2 ^ 5 * (xd.toNat + 2 ^ 5 * (14)))))) := by have := Option.some.inj h; simp only [guardBits] at this; omega
  have b_d := xd.isLt
  have b_a := xa.isLt
  have b_b := xb.isLt
  have b_g := xg.p.isLt
  have b'_g := bit_lt xg.inv
  have hm : fld w 25 6 = 0x0E := hE.symm ▸ ((fld_skip 6 (by decide) (by decide)).trans <| (fld_skip 1 (bit_lt xg.inv) (by decide)).trans <| (fld_skip 3 xg.p.isLt (by decide)).trans <| (fld_skip 5 b_b (by decide)).trans <| (fld_skip 5 b_a (by decide)).trans <| (fld_skip 5 b_d (by decide)).trans <| fld_whole (by decide))
  have f_0_6 : fld w 0 6 = 0x5 := hE.symm ▸ (fld_take (by decide))
  have t_0 : fld w 0 1 = 1 := hE.symm ▸ ((fld_low (by decide)).trans (by decide))
  have t_1 : fld w 1 1 = 0 := hE.symm ▸ ((fld_low (by decide)).trans (by decide))
  have o_d : fbv w 20 5 = xd := fbv_eq (hE.symm ▸ ((fld_skip 6 (by decide) (by decide)).trans <| (fld_skip 1 (bit_lt xg.inv) (by decide)).trans <| (fld_skip 3 xg.p.isLt (by decide)).trans <| (fld_skip 5 b_b (by decide)).trans <| (fld_skip 5 b_a (by decide)).trans <| fld_take b_d))
  have o_a : fbv w 15 5 = xa := fbv_eq (hE.symm ▸ ((fld_skip 6 (by decide) (by decide)).trans <| (fld_skip 1 (bit_lt xg.inv) (by decide)).trans <| (fld_skip 3 xg.p.isLt (by decide)).trans <| (fld_skip 5 b_b (by decide)).trans <| fld_take b_a))
  have o_b : fbv w 10 5 = xb := fbv_eq (hE.symm ▸ ((fld_skip 6 (by decide) (by decide)).trans <| (fld_skip 1 (bit_lt xg.inv) (by decide)).trans <| (fld_skip 3 xg.p.isLt (by decide)).trans <| fld_take b_b))
  have o_g : fguard w = xg := fguard_eq (hE.symm ▸ ((fld_skip 6 (by decide) (by decide)).trans <| (fld_skip 1 (bit_lt xg.inv) (by decide)).trans <| fld_take xg.p.isLt)) (hE.symm ▸ ((fld_skip 6 (by decide) (by decide)).trans <| fld_take (bit_lt xg.inv)))
  refine decodeNat_of_raw ((decodeRaw_0E hm).trans ?_) hw
  unfold decodeMajor0E
  refine (if_neg fun h => absurd (f_0_6.symm.trans h) (by decide)).trans ?_
  refine (if_neg fun h => absurd (f_0_6.symm.trans h.1) (by decide)).trans ?_
  refine (if_neg fun h => fld_ne t_0 (by decide) (by decide) (by decide) h).trans ?_
  refine (if_neg fun h => fld_ne t_1 (by decide) (by decide) (by decide) h.1).trans ?_
  refine (if_neg fun h => absurd (f_0_6.symm.trans h.1) (by decide)).trans ?_
  refine (if_pos f_0_6).trans ?_
  simp only [o_d, o_a, o_b, o_g]

theorem RoundTrip.yield : RoundTrip.Statement (.yield) := by
  intro hw w h
  have hE : w = 469762054 := by have := Option.some.inj h; omega
  have hm : fld w 25 6 = 0x0E := hE.symm ▸ ((by decide))
  have f_0_6 : fld w 0 6 = 0x6 := hE.symm ▸ ((by decide))
  have f_10_5 : fld w 10 5 = 0x0 := hE.symm ▸ ((by decide))
  have f_20_5 : fld w 20 5 = 0x0 := hE.symm ▸ ((by decide))
  have f_0_25 : fld w 0 25 = 0x6 := hE.symm ▸ ((by decide))
  have f_0_15 : fld w 0 15 = 0x6 := hE.symm ▸ ((by decide))
  refine decodeNat_of_raw ((decodeRaw_0E hm).trans ?_) hw
  unfold decodeMajor0E
  refine (if_neg fun h => absurd (f_0_6.symm.trans h) (by decide)).trans ?_
  refine (if_neg fun h => absurd (f_0_6.symm.trans h.1) (by decide)).trans ?_
  refine (if_neg fun h => absurd (f_0_25.symm.trans h) (by decide)).trans ?_
  refine (if_neg fun h => absurd (f_0_15.symm.trans h.1) (by decide)).trans ?_
  refine (if_neg fun h => absurd (f_0_6.symm.trans h.1) (by decide)).trans ?_
  refine (if_neg fun h => absurd (f_0_6.symm.trans h) (by decide)).trans ?_
  refine (if_pos f_0_25).trans ?_
  rfl

theorem RoundTrip.bar (xl : BitVec 3) : RoundTrip.Statement (.bar xl) := by
  intro hw w h
  have hE : w = xl.toNat + 2 ^ 3 * (62914560) := by have := Option.some.inj h; omega
  have b_l := xl.isLt
  have hm : fld w 25 6 = 0x0F := hE.symm ▸ ((fld_skip 3 b_l (by decide)).trans <| (by decide))
  have f_3_22 : fld w 3 22 = 0x0 := hE.symm ▸ ((fld_skip 3 b_l (by decide)).trans <| (by decide))
  have o_l : fbv w 0 3 = xl := fbv_eq (hE.symm ▸ (fld_take b_l))
  refine decodeNat_of_raw ((decodeRaw_0F hm).trans ?_) hw
  unfold decodeMajor0F
  refine (if_pos f_3_22).trans ?_
  simp only [o_l]

theorem RoundTrip.barX (xl : BitVec 3) : RoundTrip.Statement (.barX xl) := by
  intro hw w h
  have hE : w = xl.toNat + 2 ^ 3 * (62914561) := by have := Option.some.inj h; omega
  have b_l := xl.isLt
  have hm : fld w 25 6 = 0x0F := hE.symm ▸ ((fld_skip 3 b_l (by decide)).trans <| (by decide))
  have f_3_22 : fld w 3 22 = 0x1 := hE.symm ▸ ((fld_skip 3 b_l (by decide)).trans <| (by decide))
  have o_l : fbv w 0 3 = xl := fbv_eq (hE.symm ▸ (fld_take b_l))
  refine decodeNat_of_raw ((decodeRaw_0F hm).trans ?_) hw
  unfold decodeMajor0F
  refine (if_neg fun h => absurd (f_3_22.symm.trans h) (by decide)).trans ?_
  refine (if_pos f_3_22).trans ?_
  simp only [o_l]

theorem RoundTrip.barv (xd : BitVec 5) (xa : BitVec 5) (xb : VoteOp) (xl : BitVec 3) : RoundTrip.Statement (.barv xd xa xb xl) := by
  intro hw w h
  have hE : w = xl.toNat + 2 ^ 3 * (2 + 2 ^ 7 * (xb.code + 2 ^ 2 * (0 + 2 ^ 3 * (xa.toNat + 2 ^ 5 * (xd.toNat + 2 ^ 5 * (15)))))) := by have := Option.some.inj h; omega
  have b_d := xd.isLt
  have b_a := xa.isLt
  have b_b := VoteOp.code_lt xb
  have b_l := xl.isLt
  have hm : fld w 25 6 = 0x0F := hE.symm ▸ ((fld_skip 3 b_l (by decide)).trans <| (fld_skip 7 (by decide) (by decide)).trans <| (fld_skip 2 b_b (by decide)).trans <| (fld_skip 3 (by decide) (by decide)).trans <| (fld_skip 5 b_a (by decide)).trans <| (fld_skip 5 b_d (by decide)).trans <| fld_whole (by decide))
  have f_3_7 : fld w 3 7 = 0x2 := hE.symm ▸ ((fld_skip 3 b_l (by decide)).trans <| fld_take (by decide))
  have t_4 : fld w 4 1 = 1 := hE.symm ▸ ((fld_skip 3 b_l (by decide)).trans <| (fld_low (by decide)).trans (by decide))
  have t_3 : fld w 3 1 = 0 := hE.symm ▸ ((fld_skip 3 b_l (by decide)).trans <| (fld_low (by decide)).trans (by decide))
  have o_d : fbv w 20 5 = xd := fbv_eq (hE.symm ▸ ((fld_skip 3 b_l (by decide)).trans <| (fld_skip 7 (by decide) (by decide)).trans <| (fld_skip 2 b_b (by decide)).trans <| (fld_skip 3 (by decide) (by decide)).trans <| (fld_skip 5 b_a (by decide)).trans <| fld_take b_d))
  have o_a : fbv w 15 5 = xa := fbv_eq (hE.symm ▸ ((fld_skip 3 b_l (by decide)).trans <| (fld_skip 7 (by decide) (by decide)).trans <| (fld_skip 2 b_b (by decide)).trans <| (fld_skip 3 (by decide) (by decide)).trans <| fld_take b_a))
  have o_b : fld w 10 5 = xb.code := fld_mid (15360 + xd.toNat * 32 + xa.toNat * 1) (16 + xl.toNat * 1) (by omega) (by omega) (by omega)
  have o_l : fbv w 0 3 = xl := fbv_eq (hE.symm ▸ (fld_take b_l))
  refine decodeNat_of_raw ((decodeRaw_0F hm).trans ?_) hw
  unfold decodeMajor0F
  refine (if_neg fun h => fld_ne t_4 (by decide) (by decide) (by decide) h).trans ?_
  refine (if_neg fun h => fld_ne t_3 (by decide) (by decide) (by decide) h).trans ?_
  refine (if_pos f_3_7).trans ?_
  simp only [o_d, o_a, o_b, o_l, VoteOp.ofCode_code, Option.bind_some]

theorem RoundTrip.barvX (xd : BitVec 5) (xa : BitVec 5) (xb : VoteOp) (xl : BitVec 3) : RoundTrip.Statement (.barvX xd xa xb xl) := by
  intro hw w h
  have hE : w = xl.toNat + 2 ^ 3 * (3 + 2 ^ 7 * (xb.code + 2 ^ 2 * (0 + 2 ^ 3 * (xa.toNat + 2 ^ 5 * (xd.toNat + 2 ^ 5 * (15)))))) := by have := Option.some.inj h; omega
  have b_d := xd.isLt
  have b_a := xa.isLt
  have b_b := VoteOp.code_lt xb
  have b_l := xl.isLt
  have hm : fld w 25 6 = 0x0F := hE.symm ▸ ((fld_skip 3 b_l (by decide)).trans <| (fld_skip 7 (by decide) (by decide)).trans <| (fld_skip 2 b_b (by decide)).trans <| (fld_skip 3 (by decide) (by decide)).trans <| (fld_skip 5 b_a (by decide)).trans <| (fld_skip 5 b_d (by decide)).trans <| fld_whole (by decide))
  have f_3_7 : fld w 3 7 = 0x3 := hE.symm ▸ ((fld_skip 3 b_l (by decide)).trans <| fld_take (by decide))
  have t_3 : fld w 3 1 = 1 := hE.symm ▸ ((fld_skip 3 b_l (by decide)).trans <| (fld_low (by decide)).trans (by decide))
  have t_4 : fld w 4 1 = 1 := hE.symm ▸ ((fld_skip 3 b_l (by decide)).trans <| (fld_low (by decide)).trans (by decide))
  have o_d : fbv w 20 5 = xd := fbv_eq (hE.symm ▸ ((fld_skip 3 b_l (by decide)).trans <| (fld_skip 7 (by decide) (by decide)).trans <| (fld_skip 2 b_b (by decide)).trans <| (fld_skip 3 (by decide) (by decide)).trans <| (fld_skip 5 b_a (by decide)).trans <| fld_take b_d))
  have o_a : fbv w 15 5 = xa := fbv_eq (hE.symm ▸ ((fld_skip 3 b_l (by decide)).trans <| (fld_skip 7 (by decide) (by decide)).trans <| (fld_skip 2 b_b (by decide)).trans <| (fld_skip 3 (by decide) (by decide)).trans <| fld_take b_a))
  have o_b : fld w 10 5 = xb.code := fld_mid (15360 + xd.toNat * 32 + xa.toNat * 1) (24 + xl.toNat * 1) (by omega) (by omega) (by omega)
  have o_l : fbv w 0 3 = xl := fbv_eq (hE.symm ▸ (fld_take b_l))
  refine decodeNat_of_raw ((decodeRaw_0F hm).trans ?_) hw
  unfold decodeMajor0F
  refine (if_neg fun h => fld_ne t_3 (by decide) (by decide) (by decide) h).trans ?_
  refine (if_neg fun h => fld_ne t_4 (by decide) (by decide) (by decide) h).trans ?_
  refine (if_neg fun h => absurd (f_3_7.symm.trans h) (by decide)).trans ?_
  refine (if_pos f_3_7).trans ?_
  simp only [o_d, o_a, o_b, o_l, VoteOp.ofCode_code, Option.bind_some]

theorem RoundTrip.domq (xd : BitVec 5) (xg : Guard) (xl : BitVec 3) : RoundTrip.Statement (.domq xd xg xl) := by
  intro hw w h
  have hE : w = xl.toNat + 2 ^ 3 * (4 + 2 ^ 3 * (bit xg.inv + 2 ^ 1 * (xg.p.toNat + 2 ^ 3 * (0 + 2 ^ 10 * (xd.toNat + 2 ^ 5 * (15)))))) := by have := Option.some.inj h; simp only [guardBits] at this; omega
  have b_d := xd.isLt
  have b_g := xg.p.isLt
  have b'_g := bit_lt xg.inv
  have b_l := xl.isLt
  have hm : fld w 25 6 = 0x0F := hE.symm ▸ ((fld_skip 3 b_l (by decide)).trans <| (fld_skip 3 (by decide) (by decide)).trans <| (fld_skip 1 (bit_lt xg.inv) (by decide)).trans <| (fld_skip 3 xg.p.isLt (by decide)).trans <| (fld_skip 10 (by decide) (by decide)).trans <| (fld_skip 5 b_d (by decide)).trans <| fld_whole (by decide))
  have f_3_3 : fld w 3 3 = 0x4 := hE.symm ▸ ((fld_skip 3 b_l (by decide)).trans <| fld_take (by decide))
  have f_10_10 : fld w 10 10 = 0x0 := hE.symm ▸ ((fld_skip 3 b_l (by decide)).trans <| (fld_skip 3 (by decide) (by decide)).trans <| (fld_skip 1 (bit_lt xg.inv) (by decide)).trans <| (fld_skip 3 xg.p.isLt (by decide)).trans <| fld_take (by decide))
  have t_5 : fld w 5 1 = 1 := hE.symm ▸ ((fld_skip 3 b_l (by decide)).trans <| (fld_low (by decide)).trans (by decide))
  have t_3 : fld w 3 1 = 0 := hE.symm ▸ ((fld_skip 3 b_l (by decide)).trans <| (fld_low (by decide)).trans (by decide))
  have t_4 : fld w 4 1 = 0 := hE.symm ▸ ((fld_skip 3 b_l (by decide)).trans <| (fld_low (by decide)).trans (by decide))
  have o_d : fbv w 20 5 = xd := fbv_eq (hE.symm ▸ ((fld_skip 3 b_l (by decide)).trans <| (fld_skip 3 (by decide) (by decide)).trans <| (fld_skip 1 (bit_lt xg.inv) (by decide)).trans <| (fld_skip 3 xg.p.isLt (by decide)).trans <| (fld_skip 10 (by decide) (by decide)).trans <| fld_take b_d))
  have o_g : fguard w = xg := fguard_eq (hE.symm ▸ ((fld_skip 3 b_l (by decide)).trans <| (fld_skip 3 (by decide) (by decide)).trans <| (fld_skip 1 (bit_lt xg.inv) (by decide)).trans <| fld_take xg.p.isLt)) (hE.symm ▸ ((fld_skip 3 b_l (by decide)).trans <| (fld_skip 3 (by decide) (by decide)).trans <| fld_take (bit_lt xg.inv)))
  have o_l : fbv w 0 3 = xl := fbv_eq (hE.symm ▸ (fld_take b_l))
  refine decodeNat_of_raw ((decodeRaw_0F hm).trans ?_) hw
  unfold decodeMajor0F
  refine (if_neg fun h => fld_ne t_5 (by decide) (by decide) (by decide) h).trans ?_
  refine (if_neg fun h => fld_ne t_3 (by decide) (by decide) (by decide) h).trans ?_
  refine (if_neg fun h => fld_ne t_4 (by decide) (by decide) (by decide) h).trans ?_
  refine (if_neg fun h => fld_ne t_3 (by decide) (by decide) (by decide) h).trans ?_
  refine (if_pos ⟨f_3_3, f_10_10⟩).trans ?_
  simp only [o_d, o_g, o_l]

theorem RoundTrip.send (xa : BitVec 5) (xb : BitVec 5) (xg : Guard) : RoundTrip.Statement (.send xa xb xg) := by
  intro hw w h
  have hE : w = 0 + 2 ^ 6 * (bit xg.inv + 2 ^ 1 * (xg.p.toNat + 2 ^ 3 * (xb.toNat + 2 ^ 5 * (xa.toNat + 2 ^ 5 * (512))))) := by have := Option.some.inj h; simp only [guardBits] at this; omega
  have b_a := xa.isLt
  have b_b := xb.isLt
  have b_g := xg.p.isLt
  have b'_g := bit_lt xg.inv
  have hm : fld w 25 6 = 0x10 := hE.symm ▸ ((fld_skip 6 (by decide) (by decide)).trans <| (fld_skip 1 (bit_lt xg.inv) (by decide)).trans <| (fld_skip 3 xg.p.isLt (by decide)).trans <| (fld_skip 5 b_b (by decide)).trans <| (fld_skip 5 b_a (by decide)).trans <| (by decide))
  have f_0_6 : fld w 0 6 = 0x0 := hE.symm ▸ (fld_take (by decide))
  have f_20_5 : fld w 20 5 = 0x0 := hE.symm ▸ ((fld_skip 6 (by decide) (by decide)).trans <| (fld_skip 1 (bit_lt xg.inv) (by decide)).trans <| (fld_skip 3 xg.p.isLt (by decide)).trans <| (fld_skip 5 b_b (by decide)).trans <| (fld_skip 5 b_a (by decide)).trans <| (by decide))
  have o_a : fbv w 15 5 = xa := fbv_eq (hE.symm ▸ ((fld_skip 6 (by decide) (by decide)).trans <| (fld_skip 1 (bit_lt xg.inv) (by decide)).trans <| (fld_skip 3 xg.p.isLt (by decide)).trans <| (fld_skip 5 b_b (by decide)).trans <| fld_take b_a))
  have o_b : fbv w 10 5 = xb := fbv_eq (hE.symm ▸ ((fld_skip 6 (by decide) (by decide)).trans <| (fld_skip 1 (bit_lt xg.inv) (by decide)).trans <| (fld_skip 3 xg.p.isLt (by decide)).trans <| fld_take b_b))
  have o_g : fguard w = xg := fguard_eq (hE.symm ▸ ((fld_skip 6 (by decide) (by decide)).trans <| (fld_skip 1 (bit_lt xg.inv) (by decide)).trans <| fld_take xg.p.isLt)) (hE.symm ▸ ((fld_skip 6 (by decide) (by decide)).trans <| fld_take (bit_lt xg.inv)))
  refine decodeNat_of_raw ((decodeRaw_10 hm).trans ?_) hw
  unfold decodeMajor10
  refine (if_pos ⟨f_0_6, f_20_5⟩).trans ?_
  simp only [o_a, o_b, o_g]

theorem RoundTrip.recv (xd : BitVec 5) (xa : BitVec 5) (xc : BitVec 5) : RoundTrip.Statement (.recv xd xa xc) := by
  intro hw w h
  have hE : w = 1 + 2 ^ 10 * (xc.toNat + 2 ^ 5 * (xa.toNat + 2 ^ 5 * (xd.toNat + 2 ^ 5 * (16)))) := by have := Option.some.inj h; omega
  have b_d := xd.isLt
  have b_a := xa.isLt
  have b_c := xc.isLt
  have hm : fld w 25 6 = 0x10 := hE.symm ▸ ((fld_skip 10 (by decide) (by decide)).trans <| (fld_skip 5 b_c (by decide)).trans <| (fld_skip 5 b_a (by decide)).trans <| (fld_skip 5 b_d (by decide)).trans <| fld_whole (by decide))
  have f_0_6 : fld w 0 6 = 0x1 := hE.symm ▸ ((fld_low (by decide)).trans (by decide))
  have f_0_10 : fld w 0 10 = 0x1 := hE.symm ▸ (fld_take (by decide))
  have o_d : fbv w 20 5 = xd := fbv_eq (hE.symm ▸ ((fld_skip 10 (by decide) (by decide)).trans <| (fld_skip 5 b_c (by decide)).trans <| (fld_skip 5 b_a (by decide)).trans <| fld_take b_d))
  have o_a : fbv w 15 5 = xa := fbv_eq (hE.symm ▸ ((fld_skip 10 (by decide) (by decide)).trans <| (fld_skip 5 b_c (by decide)).trans <| fld_take b_a))
  have o_c : fbv w 10 5 = xc := fbv_eq (hE.symm ▸ ((fld_skip 10 (by decide) (by decide)).trans <| fld_take b_c))
  refine decodeNat_of_raw ((decodeRaw_10 hm).trans ?_) hw
  unfold decodeMajor10
  refine (if_neg fun h => absurd (f_0_6.symm.trans h.1) (by decide)).trans ?_
  refine (if_pos f_0_10).trans ?_
  simp only [o_d, o_a, o_c]

theorem RoundTrip.recvq (xd : BitVec 5) (xc : BitVec 5) (xg : Guard) : RoundTrip.Statement (.recvq xd xc xg) := by
  intro hw w h
  have hE : w = 2 + 2 ^ 6 * (bit xg.inv + 2 ^ 1 * (xg.p.toNat + 2 ^ 3 * (xc.toNat + 2 ^ 5 * (0 + 2 ^ 5 * (xd.toNat + 2 ^ 5 * (16)))))) := by have := Option.some.inj h; simp only [guardBits] at this; omega
  have b_d := xd.isLt
  have b_c := xc.isLt
  have b_g := xg.p.isLt
  have b'_g := bit_lt xg.inv
  have hm : fld w 25 6 = 0x10 := hE.symm ▸ ((fld_skip 6 (by decide) (by decide)).trans <| (fld_skip 1 (bit_lt xg.inv) (by decide)).trans <| (fld_skip 3 xg.p.isLt (by decide)).trans <| (fld_skip 5 b_c (by decide)).trans <| (fld_skip 5 (by decide) (by decide)).trans <| (fld_skip 5 b_d (by decide)).trans <| fld_whole (by decide))
  have f_0_6 : fld w 0 6 = 0x2 := hE.symm ▸ (fld_take (by decide))
  have f_15_5 : fld w 15 5 = 0x0 := hE.symm ▸ ((fld_skip 6 (by decide) (by decide)).trans <| (fld_skip 1 (bit_lt xg.inv) (by decide)).trans <| (fld_skip 3 xg.p.isLt (by decide)).trans <| (fld_skip 5 b_c (by decide)).trans <| fld_take (by decide))
  have t_0 : fld w 0 1 = 0 := hE.symm ▸ ((fld_low (by decide)).trans (by decide))
  have o_d : fbv w 20 5 = xd := fbv_eq (hE.symm ▸ ((fld_skip 6 (by decide) (by decide)).trans <| (fld_skip 1 (bit_lt xg.inv) (by decide)).trans <| (fld_skip 3 xg.p.isLt (by decide)).trans <| (fld_skip 5 b_c (by decide)).trans <| (fld_skip 5 (by decide) (by decide)).trans <| fld_take b_d))
  have o_c : fbv w 10 5 = xc := fbv_eq (hE.symm ▸ ((fld_skip 6 (by decide) (by decide)).trans <| (fld_skip 1 (bit_lt xg.inv) (by decide)).trans <| (fld_skip 3 xg.p.isLt (by decide)).trans <| fld_take b_c))
  have o_g : fguard w = xg := fguard_eq (hE.symm ▸ ((fld_skip 6 (by decide) (by decide)).trans <| (fld_skip 1 (bit_lt xg.inv) (by decide)).trans <| fld_take xg.p.isLt)) (hE.symm ▸ ((fld_skip 6 (by decide) (by decide)).trans <| fld_take (bit_lt xg.inv)))
  refine decodeNat_of_raw ((decodeRaw_10 hm).trans ?_) hw
  unfold decodeMajor10
  refine (if_neg fun h => absurd (f_0_6.symm.trans h.1) (by decide)).trans ?_
  refine (if_neg fun h => fld_ne t_0 (by decide) (by decide) (by decide) h).trans ?_
  refine (if_pos ⟨f_0_6, f_15_5⟩).trans ?_
  simp only [o_d, o_c, o_g]

theorem RoundTrip.rplay (xd : BitVec 5) (xa : BitVec 5) (xg : Guard) : RoundTrip.Statement (.rplay xd xa xg) := by
  intro hw w h
  have hE : w = 3 + 2 ^ 6 * (bit xg.inv + 2 ^ 1 * (xg.p.toNat + 2 ^ 3 * (0 + 2 ^ 5 * (xa.toNat + 2 ^ 5 * (xd.toNat + 2 ^ 5 * (16)))))) := by have := Option.some.inj h; simp only [guardBits] at this; omega
  have b_d := xd.isLt
  have b_a := xa.isLt
  have b_g := xg.p.isLt
  have b'_g := bit_lt xg.inv
  have hm : fld w 25 6 = 0x10 := hE.symm ▸ ((fld_skip 6 (by decide) (by decide)).trans <| (fld_skip 1 (bit_lt xg.inv) (by decide)).trans <| (fld_skip 3 xg.p.isLt (by decide)).trans <| (fld_skip 5 (by decide) (by decide)).trans <| (fld_skip 5 b_a (by decide)).trans <| (fld_skip 5 b_d (by decide)).trans <| fld_whole (by decide))
  have f_0_6 : fld w 0 6 = 0x3 := hE.symm ▸ (fld_take (by decide))
  have f_10_5 : fld w 10 5 = 0x0 := hE.symm ▸ ((fld_skip 6 (by decide) (by decide)).trans <| (fld_skip 1 (bit_lt xg.inv) (by decide)).trans <| (fld_skip 3 xg.p.isLt (by decide)).trans <| fld_take (by decide))
  have t_1 : fld w 1 1 = 1 := hE.symm ▸ ((fld_low (by decide)).trans (by decide))
  have o_d : fbv w 20 5 = xd := fbv_eq (hE.symm ▸ ((fld_skip 6 (by decide) (by decide)).trans <| (fld_skip 1 (bit_lt xg.inv) (by decide)).trans <| (fld_skip 3 xg.p.isLt (by decide)).trans <| (fld_skip 5 (by decide) (by decide)).trans <| (fld_skip 5 b_a (by decide)).trans <| fld_take b_d))
  have o_a : fbv w 15 5 = xa := fbv_eq (hE.symm ▸ ((fld_skip 6 (by decide) (by decide)).trans <| (fld_skip 1 (bit_lt xg.inv) (by decide)).trans <| (fld_skip 3 xg.p.isLt (by decide)).trans <| (fld_skip 5 (by decide) (by decide)).trans <| fld_take b_a))
  have o_g : fguard w = xg := fguard_eq (hE.symm ▸ ((fld_skip 6 (by decide) (by decide)).trans <| (fld_skip 1 (bit_lt xg.inv) (by decide)).trans <| fld_take xg.p.isLt)) (hE.symm ▸ ((fld_skip 6 (by decide) (by decide)).trans <| fld_take (bit_lt xg.inv)))
  refine decodeNat_of_raw ((decodeRaw_10 hm).trans ?_) hw
  unfold decodeMajor10
  refine (if_neg fun h => absurd (f_0_6.symm.trans h.1) (by decide)).trans ?_
  refine (if_neg fun h => fld_ne t_1 (by decide) (by decide) (by decide) h).trans ?_
  refine (if_neg fun h => absurd (f_0_6.symm.trans h.1) (by decide)).trans ?_
  refine (if_pos ⟨f_0_6, f_10_5⟩).trans ?_
  simp only [o_d, o_a, o_g]

theorem RoundTrip.xsend (xr : BitVec 5) (xs : BitVec 5) (xl : BitVec 10) : RoundTrip.Statement (.xsend xr xs xl) := by
  intro hw w h
  have hE : w = xl.toNat + 2 ^ 10 * (0 + 2 ^ 5 * (xs.toNat + 2 ^ 5 * (xr.toNat + 2 ^ 5 * (17)))) := by have := Option.some.inj h; omega
  have b_r := xr.isLt
  have b_s := xs.isLt
  have b_l := xl.isLt
  have hm : fld w 25 6 = 0x11 := hE.symm ▸ ((fld_skip 10 b_l (by decide)).trans <| (fld_skip 5 (by decide) (by decide)).trans <| (fld_skip 5 b_s (by decide)).trans <| (fld_skip 5 b_r (by decide)).trans <| fld_whole (by decide))
  have f_10_5 : fld w 10 5 = 0x0 := hE.symm ▸ ((fld_skip 10 b_l (by decide)).trans <| fld_take (by decide))
  have o_r : fbv w 20 5 = xr := fbv_eq (hE.symm ▸ ((fld_skip 10 b_l (by decide)).trans <| (fld_skip 5 (by decide) (by decide)).trans <| (fld_skip 5 b_s (by decide)).trans <| fld_take b_r))
  have o_s : fbv w 15 5 = xs := fbv_eq (hE.symm ▸ ((fld_skip 10 b_l (by decide)).trans <| (fld_skip 5 (by decide) (by decide)).trans <| fld_take b_s))
  have o_l : fbv w 0 10 = xl := fbv_eq (hE.symm ▸ (fld_take b_l))
  refine decodeNat_of_raw ((decodeRaw_11 hm).trans ?_) hw
  unfold decodeMajor11
  refine (if_pos f_10_5).trans ?_
  simp only [o_r, o_s, o_l]

theorem RoundTrip.xrecv (xc : BitVec 5) (xk : BitVec 14) : RoundTrip.Statement (.xrecv xc xk) := by
  intro hw w h
  have hE : w = xk.toNat + 2 ^ 14 * (1 + 2 ^ 6 * (xc.toNat + 2 ^ 5 * (17))) := by have := Option.some.inj h; omega
  have b_c := xc.isLt
  have b_k := xk.isLt
  have hm : fld w 25 6 = 0x11 := hE.symm ▸ ((fld_skip 14 b_k (by decide)).trans <| (fld_skip 6 (by decide) (by decide)).trans <| (fld_skip 5 b_c (by decide)).trans <| fld_whole (by decide))
  have f_14_6 : fld w 14 6 = 0x1 := hE.symm ▸ ((fld_skip 14 b_k (by decide)).trans <| fld_take (by decide))
  have t_14 : fld w 14 1 = 1 := hE.symm ▸ ((fld_skip 14 b_k (by decide)).trans <| (fld_low (by decide)).trans (by decide))
  have o_c : fbv w 20 5 = xc := fbv_eq (hE.symm ▸ ((fld_skip 14 b_k (by decide)).trans <| (fld_skip 6 (by decide) (by decide)).trans <| fld_take b_c))
  have o_k : fbv w 0 14 = xk := fbv_eq (hE.symm ▸ (fld_take b_k))
  refine decodeNat_of_raw ((decodeRaw_11 hm).trans ?_) hw
  unfold decodeMajor11
  refine (if_neg fun h => fld_ne t_14 (by decide) (by decide) (by decide) h).trans ?_
  refine (if_pos f_14_6).trans ?_
  simp only [o_c, o_k]

theorem RoundTrip.mlease (xn : BitVec 6) : RoundTrip.Statement (.mlease xn) := by
  intro hw w h
  have hE : w = xn.toNat + 2 ^ 6 * (9437184) := by have := Option.some.inj h; omega
  have b_n := xn.isLt
  have hm : fld w 25 6 = 0x12 := hE.symm ▸ ((fld_skip 6 b_n (by decide)).trans <| (by decide))
  have f_6_19 : fld w 6 19 = 0x0 := hE.symm ▸ ((fld_skip 6 b_n (by decide)).trans <| (by decide))
  have o_n : fbv w 0 6 = xn := fbv_eq (hE.symm ▸ (fld_take b_n))
  refine decodeNat_of_raw ((decodeRaw_12 hm).trans ?_) hw
  unfold decodeMajor12
  refine (if_pos f_6_19).trans ?_
  simp only [o_n]

theorem RoundTrip.mrel : RoundTrip.Statement (.mrel) := by
  intro hw w h
  have hE : w = 603981824 := by have := Option.some.inj h; omega
  have hm : fld w 25 6 = 0x12 := hE.symm ▸ ((by decide))
  have f_6_19 : fld w 6 19 = 0x20 := hE.symm ▸ ((by decide))
  have f_0_25 : fld w 0 25 = 0x800 := hE.symm ▸ ((by decide))
  refine decodeNat_of_raw ((decodeRaw_12 hm).trans ?_) hw
  unfold decodeMajor12
  refine (if_neg fun h => absurd (f_6_19.symm.trans h) (by decide)).trans ?_
  refine (if_pos f_0_25).trans ?_
  rfl

theorem RoundTrip.mclr (xr : BitVec 2) (xc : BitVec 2) (xm : BitVec 2) (xn : BitVec 2) : RoundTrip.Statement (.mclr xr xc xm xn) := by
  intro hw w h
  have hE : w = xn.toNat + 2 ^ 2 * (xm.toNat + 2 ^ 2 * (xc.toNat + 2 ^ 2 * (xr.toNat + 2 ^ 2 * (2359312)))) := by have := Option.some.inj h; omega
  have b_r := xr.isLt
  have b_c := xc.isLt
  have b_m := xm.isLt
  have b_n := xn.isLt
  have hm : fld w 25 6 = 0x12 := hE.symm ▸ ((fld_skip 2 b_n (by decide)).trans <| (fld_skip 2 b_m (by decide)).trans <| (fld_skip 2 b_c (by decide)).trans <| (fld_skip 2 b_r (by decide)).trans <| (by decide))
  have f_8_17 : fld w 8 17 = 0x10 := hE.symm ▸ ((fld_skip 2 b_n (by decide)).trans <| (fld_skip 2 b_m (by decide)).trans <| (fld_skip 2 b_c (by decide)).trans <| (fld_skip 2 b_r (by decide)).trans <| (by decide))
  have t_12 : fld w 12 1 = 1 := hE.symm ▸ ((fld_skip 2 b_n (by decide)).trans <| (fld_skip 2 b_m (by decide)).trans <| (fld_skip 2 b_c (by decide)).trans <| (fld_skip 2 b_r (by decide)).trans <| (by decide))
  have t_11 : fld w 11 1 = 0 := hE.symm ▸ ((fld_skip 2 b_n (by decide)).trans <| (fld_skip 2 b_m (by decide)).trans <| (fld_skip 2 b_c (by decide)).trans <| (fld_skip 2 b_r (by decide)).trans <| (by decide))
  have o_r : fbv w 6 2 = xr := fbv_eq (hE.symm ▸ ((fld_skip 2 b_n (by decide)).trans <| (fld_skip 2 b_m (by decide)).trans <| (fld_skip 2 b_c (by decide)).trans <| fld_take b_r))
  have o_c : fbv w 4 2 = xc := fbv_eq (hE.symm ▸ ((fld_skip 2 b_n (by decide)).trans <| (fld_skip 2 b_m (by decide)).trans <| fld_take b_c))
  have o_m : fbv w 2 2 = xm := fbv_eq (hE.symm ▸ ((fld_skip 2 b_n (by decide)).trans <| fld_take b_m))
  have o_n : fbv w 0 2 = xn := fbv_eq (hE.symm ▸ (fld_take b_n))
  refine decodeNat_of_raw ((decodeRaw_12 hm).trans ?_) hw
  unfold decodeMajor12
  refine (if_neg fun h => fld_ne t_12 (by decide) (by decide) (by decide) h).trans ?_
  refine (if_neg fun h => fld_ne t_11 (by decide) (by decide) (by decide) h).trans ?_
  refine (if_pos f_8_17).trans ?_
  simp only [o_r, o_c, o_m, o_n]

theorem RoundTrip.mrot (xa : BitVec 5) (xb : BitVec 5) (xk : BitVec 6) : RoundTrip.Statement (.mrot xa xb xk) := by
  intro hw w h
  have hE : w = xk.toNat + 2 ^ 6 * (96 + 2 ^ 9 * (xb.toNat + 2 ^ 5 * (xa.toNat + 2 ^ 5 * (18)))) := by have := Option.some.inj h; omega
  have b_a := xa.isLt
  have b_b := xb.isLt
  have b_k := xk.isLt
  have hm : fld w 25 6 = 0x12 := hE.symm ▸ ((fld_skip 6 b_k (by decide)).trans <| (fld_skip 9 (by decide) (by decide)).trans <| (fld_skip 5 b_b (by decide)).trans <| (fld_skip 5 b_a (by decide)).trans <| fld_whole (by decide))
  have f_6_9 : fld w 6 9 = 0x60 := hE.symm ▸ ((fld_skip 6 b_k (by decide)).trans <| fld_take (by decide))
  have t_11 : fld w 11 1 = 1 := hE.symm ▸ ((fld_skip 6 b_k (by decide)).trans <| (fld_low (by decide)).trans (by decide))
  have t_12 : fld w 12 1 = 1 := hE.symm ▸ ((fld_skip 6 b_k (by decide)).trans <| (fld_low (by decide)).trans (by decide))
  have o_a : fbv w 20 5 = xa := fbv_eq (hE.symm ▸ ((fld_skip 6 b_k (by decide)).trans <| (fld_skip 9 (by decide) (by decide)).trans <| (fld_skip 5 b_b (by decide)).trans <| fld_take b_a))
  have o_b : fbv w 15 5 = xb := fbv_eq (hE.symm ▸ ((fld_skip 6 b_k (by decide)).trans <| (fld_skip 9 (by decide) (by decide)).trans <| fld_take b_b))
  have o_k : fbv w 0 6 = xk := fbv_eq (hE.symm ▸ (fld_take b_k))
  refine decodeNat_of_raw ((decodeRaw_12 hm).trans ?_) hw
  unfold decodeMajor12
  refine (if_neg fun h => fld_ne t_11 (by decide) (by decide) (by decide) h).trans ?_
  refine (if_neg fun h => fld_ne t_12 (by decide) (by decide) (by decide) h).trans ?_
  refine (if_neg fun h => fld_ne t_11 (by decide) (by decide) (by decide) h).trans ?_
  refine (if_pos f_6_9).trans ?_
  simp only [o_a, o_b, o_k]

theorem RoundTrip.mrd (xa : BitVec 5) (xb : BitVec 5) : RoundTrip.Statement (.mrd xa xb) := by
  intro hw w h
  have hE : w = 8192 + 2 ^ 15 * (xb.toNat + 2 ^ 5 * (xa.toNat + 2 ^ 5 * (18))) := by have := Option.some.inj h; omega
  have b_a := xa.isLt
  have b_b := xb.isLt
  have hm : fld w 25 6 = 0x12 := hE.symm ▸ ((fld_skip 15 (by decide) (by decide)).trans <| (fld_skip 5 b_b (by decide)).trans <| (fld_skip 5 b_a (by decide)).trans <| fld_whole (by decide))
  have f_6_9 : fld w 6 9 = 0x80 := hE.symm ▸ ((fld_low (by decide)).trans (by decide))
  have f_0_15 : fld w 0 15 = 0x2000 := hE.symm ▸ (fld_take (by decide))
  have t_13 : fld w 13 1 = 1 := hE.symm ▸ ((fld_low (by decide)).trans (by decide))
  have t_11 : fld w 11 1 = 0 := hE.symm ▸ ((fld_low (by decide)).trans (by decide))
  have t_12 : fld w 12 1 = 0 := hE.symm ▸ ((fld_low (by decide)).trans (by decide))
  have o_a : fbv w 20 5 = xa := fbv_eq (hE.symm ▸ ((fld_skip 15 (by decide) (by decide)).trans <| (fld_skip 5 b_b (by decide)).trans <| fld_take b_a))
  have o_b : fbv w 15 5 = xb := fbv_eq (hE.symm ▸ ((fld_skip 15 (by decide) (by decide)).trans <| fld_take b_b))
  refine decodeNat_of_raw ((decodeRaw_12 hm).trans ?_) hw
  unfold decodeMajor12
  refine (if_neg fun h => fld_ne t_13 (by decide) (by decide) (by decide) h).trans ?_
  refine (if_neg fun h => fld_ne t_11 (by decide) (by decide) (by decide) h).trans ?_
  refine (if_neg fun h => fld_ne t_12 (by decide) (by decide) (by decide) h).trans ?_
  refine (if_neg fun h => absurd (f_6_9.symm.trans h) (by decide)).trans ?_
  refine (if_pos f_0_15).trans ?_
  simp only [o_a, o_b]

theorem RoundTrip.mrdv (xb : BitVec 5) (xv : BitVec 4) : RoundTrip.Statement (.mrdv xb xv) := by
  intro hw w h
  have hE : w = xv.toNat + 2 ^ 4 * (640 + 2 ^ 11 * (xb.toNat + 2 ^ 5 * (576))) := by have := Option.some.inj h; omega
  have b_b := xb.isLt
  have b_v := xv.isLt
  have hm : fld w 25 6 = 0x12 := hE.symm ▸ ((fld_skip 4 b_v (by decide)).trans <| (fld_skip 11 (by decide) (by decide)).trans <| (fld_skip 5 b_b (by decide)).trans <| (by decide))
  have f_6_9 : fld w 6 9 = 0xA0 := hE.symm ▸ ((fld_skip 4 b_v (by decide)).trans <| (fld_low (by decide)).trans (by decide))
  have f_4_11 : fld w 4 11 = 0x280 := hE.symm ▸ ((fld_skip 4 b_v (by decide)).trans <| fld_take (by decide))
  have f_20_5 : fld w 20 5 = 0x0 := hE.symm ▸ ((fld_skip 4 b_v (by decide)).trans <| (fld_skip 11 (by decide) (by decide)).trans <| (fld_skip 5 b_b (by decide)).trans <| (by decide))
  have t_11 : fld w 11 1 = 1 := hE.symm ▸ ((fld_skip 4 b_v (by decide)).trans <| (fld_low (by decide)).trans (by decide))
  have t_13 : fld w 13 1 = 1 := hE.symm ▸ ((fld_skip 4 b_v (by decide)).trans <| (fld_low (by decide)).trans (by decide))
  have o_b : fbv w 15 5 = xb := fbv_eq (hE.symm ▸ ((fld_skip 4 b_v (by decide)).trans <| (fld_skip 11 (by decide) (by decide)).trans <| fld_take b_b))
  have o_v : fbv w 0 4 = xv := fbv_eq (hE.symm ▸ (fld_take b_v))
  refine decodeNat_of_raw ((decodeRaw_12 hm).trans ?_) hw
  unfold decodeMajor12
  refine (if_neg fun h => fld_ne t_11 (by decide) (by decide) (by decide) h).trans ?_
  refine (if_neg fun h => fld_ne t_13 (by decide) (by decide) (by decide) h).trans ?_
  refine (if_neg fun h => fld_ne t_11 (by decide) (by decide) (by decide) h).trans ?_
  refine (if_neg fun h => absurd (f_6_9.symm.trans h) (by decide)).trans ?_
  refine (if_neg fun h => fld_ne t_11 (by decide) (by decide) (by decide) h).trans ?_
  refine (if_pos ⟨f_4_11, f_20_5⟩).trans ?_
  simp only [o_b, o_v]

theorem RoundTrip.mma (xa : BitVec 5) (xb : BitVec 5) (xr : BitVec 2) (xc : BitVec 2) (xm : BitVec 2) (xn : BitVec 2) (xk : BitVec 6) : RoundTrip.Statement (.mma xa xb xr xc xm xn xk) := by
  intro hw w h
  have hE : w = xk.toNat + 2 ^ 6 * (xn.toNat + 2 ^ 2 * (xm.toNat + 2 ^ 2 * (xc.toNat + 2 ^ 2 * (xr.toNat + 2 ^ 2 * (1 + 2 ^ 1 * (xb.toNat + 2 ^ 5 * (xa.toNat + 2 ^ 5 * (18)))))))) := by have := Option.some.inj h; omega
  have b_a := xa.isLt
  have b_b := xb.isLt
  have b_r := xr.isLt
  have b_c := xc.isLt
  have b_m := xm.isLt
  have b_n := xn.isLt
  have b_k := xk.isLt
  have hm : fld w 25 6 = 0x12 := hE.symm ▸ ((fld_skip 6 b_k (by decide)).trans <| (fld_skip 2 b_n (by decide)).trans <| (fld_skip 2 b_m (by decide)).trans <| (fld_skip 2 b_c (by decide)).trans <| (fld_skip 2 b_r (by decide)).trans <| (fld_skip 1 (by decide) (by decide)).trans <| (fld_skip 5 b_b (by decide)).trans <| (fld_skip 5 b_a (by decide)).trans <| fld_whole (by decide))
  have f_14_1 : fld w 14 1 = 0x1 := hE.symm ▸ ((fld_skip 6 b_k (by decide)).trans <| (fld_skip 2 b_n (by decide)).trans <| (fld_skip 2 b_m (by decide)).trans <| (fld_skip 2 b_c (by decide)).trans <| (fld_skip 2 b_r (by decide)).trans <| fld_take (by decide))
  have t_14 : fld w 14 1 = 1 := hE.symm ▸ ((fld_skip 6 b_k (by decide)).trans <| (fld_skip 2 b_n (by decide)).trans <| (fld_skip 2 b_m (by decide)).trans <| (fld_skip 2 b_c (by decide)).trans <| (fld_skip 2 b_r (by decide)).trans <| fld_take (by decide))
  have o_a : fbv w 20 5 = xa := fbv_eq (hE.symm ▸ ((fld_skip 6 b_k (by decide)).trans <| (fld_skip 2 b_n (by decide)).trans <| (fld_skip 2 b_m (by decide)).trans <| (fld_skip 2 b_c (by decide)).trans <| (fld_skip 2 b_r (by decide)).trans <| (fld_skip 1 (by decide) (by decide)).trans <| (fld_skip 5 b_b (by decide)).trans <| fld_take b_a))
  have o_b : fbv w 15 5 = xb := fbv_eq (hE.symm ▸ ((fld_skip 6 b_k (by decide)).trans <| (fld_skip 2 b_n (by decide)).trans <| (fld_skip 2 b_m (by decide)).trans <| (fld_skip 2 b_c (by decide)).trans <| (fld_skip 2 b_r (by decide)).trans <| (fld_skip 1 (by decide) (by decide)).trans <| fld_take b_b))
  have o_r : fbv w 12 2 = xr := fbv_eq (hE.symm ▸ ((fld_skip 6 b_k (by decide)).trans <| (fld_skip 2 b_n (by decide)).trans <| (fld_skip 2 b_m (by decide)).trans <| (fld_skip 2 b_c (by decide)).trans <| fld_take b_r))
  have o_c : fbv w 10 2 = xc := fbv_eq (hE.symm ▸ ((fld_skip 6 b_k (by decide)).trans <| (fld_skip 2 b_n (by decide)).trans <| (fld_skip 2 b_m (by decide)).trans <| fld_take b_c))
  have o_m : fbv w 8 2 = xm := fbv_eq (hE.symm ▸ ((fld_skip 6 b_k (by decide)).trans <| (fld_skip 2 b_n (by decide)).trans <| fld_take b_m))
  have o_n : fbv w 6 2 = xn := fbv_eq (hE.symm ▸ ((fld_skip 6 b_k (by decide)).trans <| fld_take b_n))
  have o_k : fbv w 0 6 = xk := fbv_eq (hE.symm ▸ (fld_take b_k))
  refine decodeNat_of_raw ((decodeRaw_12 hm).trans ?_) hw
  unfold decodeMajor12
  refine (if_neg fun h => fld_ne t_14 (by decide) (by decide) (by decide) h).trans ?_
  refine (if_neg fun h => fld_ne t_14 (by decide) (by decide) (by decide) h).trans ?_
  refine (if_neg fun h => fld_ne t_14 (by decide) (by decide) (by decide) h).trans ?_
  refine (if_neg fun h => fld_ne t_14 (by decide) (by decide) (by decide) h).trans ?_
  refine (if_neg fun h => fld_ne t_14 (by decide) (by decide) (by decide) h).trans ?_
  refine (if_neg fun h => fld_ne t_14 (by decide) (by decide) (by decide) h.1).trans ?_
  refine (if_pos f_14_1).trans ?_
  simp only [o_a, o_b, o_r, o_c, o_m, o_n, o_k]

theorem RoundTrip.cpy (xa : BitVec 5) (xb : BitVec 5) (xl : BitVec 12) : RoundTrip.Statement (.cpy xa xb xl) := by
  intro hw w h
  have hE : w = xl.toNat + 2 ^ 12 * (0 + 2 ^ 3 * (xb.toNat + 2 ^ 5 * (xa.toNat + 2 ^ 5 * (19)))) := by have := Option.some.inj h; omega
  have b_a := xa.isLt
  have b_b := xb.isLt
  have b_l := xl.isLt
  have hm : fld w 25 6 = 0x13 := hE.symm ▸ ((fld_skip 12 b_l (by decide)).trans <| (fld_skip 3 (by decide) (by decide)).trans <| (fld_skip 5 b_b (by decide)).trans <| (fld_skip 5 b_a (by decide)).trans <| fld_whole (by decide))
  have f_12_3 : fld w 12 3 = 0x0 := hE.symm ▸ ((fld_skip 12 b_l (by decide)).trans <| fld_take (by decide))
  have o_a : fbv w 20 5 = xa := fbv_eq (hE.symm ▸ ((fld_skip 12 b_l (by decide)).trans <| (fld_skip 3 (by decide) (by decide)).trans <| (fld_skip 5 b_b (by decide)).trans <| fld_take b_a))
  have o_b : fbv w 15 5 = xb := fbv_eq (hE.symm ▸ ((fld_skip 12 b_l (by decide)).trans <| (fld_skip 3 (by decide) (by decide)).trans <| fld_take b_b))
  have o_l : fbv w 0 12 = xl := fbv_eq (hE.symm ▸ (fld_take b_l))
  refine decodeNat_of_raw ((decodeRaw_13 hm).trans ?_) hw
  unfold decodeMajor13
  refine (if_pos f_12_3).trans ?_
  simp only [o_a, o_b, o_l]

theorem RoundTrip.cpy2d (xa : BitVec 5) (xb : BitVec 5) (xr : BitVec 6) (xl : BitVec 6) : RoundTrip.Statement (.cpy2d xa xb xr xl) := by
  intro hw w h
  have hE : w = xl.toNat + 2 ^ 6 * (xr.toNat + 2 ^ 6 * (1 + 2 ^ 3 * (xb.toNat + 2 ^ 5 * (xa.toNat + 2 ^ 5 * (19))))) := by have := Option.some.inj h; omega
  have b_a := xa.isLt
  have b_b := xb.isLt
  have b_r := xr.isLt
  have b_l := xl.isLt
  have hm : fld w 25 6 = 0x13 := hE.symm ▸ ((fld_skip 6 b_l (by decide)).trans <| (fld_skip 6 b_r (by decide)).trans <| (fld_skip 3 (by decide) (by decide)).trans <| (fld_skip 5 b_b (by decide)).trans <| (fld_skip 5 b_a (by decide)).trans <| fld_whole (by decide))
  have f_12_3 : fld w 12 3 = 0x1 := hE.symm ▸ ((fld_skip 6 b_l (by decide)).trans <| (fld_skip 6 b_r (by decide)).trans <| fld_take (by decide))
  have o_a : fbv w 20 5 = xa := fbv_eq (hE.symm ▸ ((fld_skip 6 b_l (by decide)).trans <| (fld_skip 6 b_r (by decide)).trans <| (fld_skip 3 (by decide) (by decide)).trans <| (fld_skip 5 b_b (by decide)).trans <| fld_take b_a))
  have o_b : fbv w 15 5 = xb := fbv_eq (hE.symm ▸ ((fld_skip 6 b_l (by decide)).trans <| (fld_skip 6 b_r (by decide)).trans <| (fld_skip 3 (by decide) (by decide)).trans <| fld_take b_b))
  have o_r : fbv w 6 6 = xr := fbv_eq (hE.symm ▸ ((fld_skip 6 b_l (by decide)).trans <| fld_take b_r))
  have o_l : fbv w 0 6 = xl := fbv_eq (hE.symm ▸ (fld_take b_l))
  refine decodeNat_of_raw ((decodeRaw_13 hm).trans ?_) hw
  unfold decodeMajor13
  refine (if_neg fun h => absurd (f_12_3.symm.trans h) (by decide)).trans ?_
  refine (if_pos f_12_3).trans ?_
  simp only [o_a, o_b, o_r, o_l]

theorem RoundTrip.cpyg (xa : BitVec 5) (xb : BitVec 5) (xl : BitVec 12) : RoundTrip.Statement (.cpyg xa xb xl) := by
  intro hw w h
  have hE : w = xl.toNat + 2 ^ 12 * (2 + 2 ^ 3 * (xb.toNat + 2 ^ 5 * (xa.toNat + 2 ^ 5 * (19)))) := by have := Option.some.inj h; omega
  have b_a := xa.isLt
  have b_b := xb.isLt
  have b_l := xl.isLt
  have hm : fld w 25 6 = 0x13 := hE.symm ▸ ((fld_skip 12 b_l (by decide)).trans <| (fld_skip 3 (by decide) (by decide)).trans <| (fld_skip 5 b_b (by decide)).trans <| (fld_skip 5 b_a (by decide)).trans <| fld_whole (by decide))
  have f_12_3 : fld w 12 3 = 0x2 := hE.symm ▸ ((fld_skip 12 b_l (by decide)).trans <| fld_take (by decide))
  have o_a : fbv w 20 5 = xa := fbv_eq (hE.symm ▸ ((fld_skip 12 b_l (by decide)).trans <| (fld_skip 3 (by decide) (by decide)).trans <| (fld_skip 5 b_b (by decide)).trans <| fld_take b_a))
  have o_b : fbv w 15 5 = xb := fbv_eq (hE.symm ▸ ((fld_skip 12 b_l (by decide)).trans <| (fld_skip 3 (by decide) (by decide)).trans <| fld_take b_b))
  have o_l : fbv w 0 12 = xl := fbv_eq (hE.symm ▸ (fld_take b_l))
  refine decodeNat_of_raw ((decodeRaw_13 hm).trans ?_) hw
  unfold decodeMajor13
  refine (if_neg fun h => absurd (f_12_3.symm.trans h) (by decide)).trans ?_
  refine (if_neg fun h => absurd (f_12_3.symm.trans h) (by decide)).trans ?_
  refine (if_pos f_12_3).trans ?_
  simp only [o_a, o_b, o_l]

theorem RoundTrip.coll (xa : BitVec 5) (xb : BitVec 5) (xk : CollKind) (xe : BitVec 3) (xl : BitVec 6) : RoundTrip.Statement (.coll xa xb xk xe xl) := by
  intro hw w h
  have hE : w = xl.toNat + 2 ^ 6 * (xe.toNat + 2 ^ 3 * (xk.code + 2 ^ 2 * (6 + 2 ^ 4 * (xb.toNat + 2 ^ 5 * (xa.toNat + 2 ^ 5 * (19)))))) := by have := Option.some.inj h; omega
  have b_a := xa.isLt
  have b_b := xb.isLt
  have b_k := CollKind.code_lt xk
  have b_e := xe.isLt
  have b_l := xl.isLt
  have hm : fld w 25 6 = 0x13 := hE.symm ▸ ((fld_skip 6 b_l (by decide)).trans <| (fld_skip 3 b_e (by decide)).trans <| (fld_skip 2 b_k (by decide)).trans <| (fld_skip 4 (by decide) (by decide)).trans <| (fld_skip 5 b_b (by decide)).trans <| (fld_skip 5 b_a (by decide)).trans <| fld_whole (by decide))
  have f_12_3 : fld w 12 3 = 0x3 := hE.symm ▸ ((fld_skip 6 b_l (by decide)).trans <| (fld_skip 3 b_e (by decide)).trans <| (fld_skip 2 b_k (by decide)).trans <| (fld_low (by decide)).trans (by decide))
  have o_a : fbv w 20 5 = xa := fbv_eq (hE.symm ▸ ((fld_skip 6 b_l (by decide)).trans <| (fld_skip 3 b_e (by decide)).trans <| (fld_skip 2 b_k (by decide)).trans <| (fld_skip 4 (by decide) (by decide)).trans <| (fld_skip 5 b_b (by decide)).trans <| fld_take b_a))
  have o_b : fbv w 15 5 = xb := fbv_eq (hE.symm ▸ ((fld_skip 6 b_l (by decide)).trans <| (fld_skip 3 b_e (by decide)).trans <| (fld_skip 2 b_k (by decide)).trans <| (fld_skip 4 (by decide) (by decide)).trans <| fld_take b_b))
  have o_k : fld w 9 3 = xk.code := fld_mid (155651 + xa.toNat * 256 + xb.toNat * 8) (0 + xe.toNat * 64 + xl.toNat * 1) (by omega) (by omega) (by omega)
  have o_e : fbv w 6 3 = xe := fbv_eq (hE.symm ▸ ((fld_skip 6 b_l (by decide)).trans <| fld_take b_e))
  have o_l : fbv w 0 6 = xl := fbv_eq (hE.symm ▸ (fld_take b_l))
  refine decodeNat_of_raw ((decodeRaw_13 hm).trans ?_) hw
  unfold decodeMajor13
  refine (if_neg fun h => absurd (f_12_3.symm.trans h) (by decide)).trans ?_
  refine (if_neg fun h => absurd (f_12_3.symm.trans h) (by decide)).trans ?_
  refine (if_neg fun h => absurd (f_12_3.symm.trans h) (by decide)).trans ?_
  refine (if_pos f_12_3).trans ?_
  simp only [o_a, o_b, o_k, o_e, o_l, CollKind.ofCode_code, Option.bind_some]

theorem RoundTrip.psetup (xd : BitVec 4) (xa : BitVec 4) : RoundTrip.Statement (.psetup xd xa) := by
  intro hw w h
  have hE : w = 0 + 2 ^ 17 * (xa.toNat + 2 ^ 4 * (xd.toNat + 2 ^ 4 * (20))) := by have := Option.some.inj h; omega
  have b_d := xd.isLt
  have b_a := xa.isLt
  have hm : fld w 25 6 = 0x14 := hE.symm ▸ ((fld_skip 17 (by decide) (by decide)).trans <| (fld_skip 4 b_a (by decide)).trans <| (fld_skip 4 b_d (by decide)).trans <| fld_whole (by decide))
  have f_0_17 : fld w 0 17 = 0x0 := hE.symm ▸ (fld_take (by decide))
  have o_d : fbv w 21 4 = xd := fbv_eq (hE.symm ▸ ((fld_skip 17 (by decide) (by decide)).trans <| (fld_skip 4 b_a (by decide)).trans <| fld_take b_d))
  have o_a : fbv w 17 4 = xa := fbv_eq (hE.symm ▸ ((fld_skip 17 (by decide) (by decide)).trans <| fld_take b_a))
  refine decodeNat_of_raw ((decodeRaw_14 hm).trans ?_) hw
  unfold decodeMajor14
  refine (if_pos f_0_17).trans ?_
  simp only [o_d, o_a]

theorem RoundTrip.pcover (xd : BitVec 4) (xa : BitVec 4) (xc : BitVec 2) (xl : BitVec 2) (xm : BitVec 2) (xs : BitVec 5) : RoundTrip.Statement (.pcover xd xa xc xl xm xs) := by
  intro hw w h
  have hE : w = 8 + 2 ^ 6 * (xs.toNat + 2 ^ 5 * (xm.toNat + 2 ^ 2 * (xl.toNat + 2 ^ 2 * (xc.toNat + 2 ^ 2 * (xa.toNat + 2 ^ 4 * (xd.toNat + 2 ^ 4 * (20))))))) := by have := Option.some.inj h; omega
  have b_d := xd.isLt
  have b_a := xa.isLt
  have b_c := xc.isLt
  have b_l := xl.isLt
  have b_m := xm.isLt
  have b_s := xs.isLt
  have hm : fld w 25 6 = 0x14 := hE.symm ▸ ((fld_skip 6 (by decide) (by decide)).trans <| (fld_skip 5 b_s (by decide)).trans <| (fld_skip 2 b_m (by decide)).trans <| (fld_skip 2 b_l (by decide)).trans <| (fld_skip 2 b_c (by decide)).trans <| (fld_skip 4 b_a (by decide)).trans <| (fld_skip 4 b_d (by decide)).trans <| fld_whole (by decide))
  have f_0_6 : fld w 0 6 = 0x8 := hE.symm ▸ (fld_take (by decide))
  have t_3 : fld w 3 1 = 1 := hE.symm ▸ ((fld_low (by decide)).trans (by decide))
  have o_d : fbv w 21 4 = xd := fbv_eq (hE.symm ▸ ((fld_skip 6 (by decide) (by decide)).trans <| (fld_skip 5 b_s (by decide)).trans <| (fld_skip 2 b_m (by decide)).trans <| (fld_skip 2 b_l (by decide)).trans <| (fld_skip 2 b_c (by decide)).trans <| (fld_skip 4 b_a (by decide)).trans <| fld_take b_d))
  have o_a : fbv w 17 4 = xa := fbv_eq (hE.symm ▸ ((fld_skip 6 (by decide) (by decide)).trans <| (fld_skip 5 b_s (by decide)).trans <| (fld_skip 2 b_m (by decide)).trans <| (fld_skip 2 b_l (by decide)).trans <| (fld_skip 2 b_c (by decide)).trans <| fld_take b_a))
  have o_c : fbv w 15 2 = xc := fbv_eq (hE.symm ▸ ((fld_skip 6 (by decide) (by decide)).trans <| (fld_skip 5 b_s (by decide)).trans <| (fld_skip 2 b_m (by decide)).trans <| (fld_skip 2 b_l (by decide)).trans <| fld_take b_c))
  have o_l : fbv w 13 2 = xl := fbv_eq (hE.symm ▸ ((fld_skip 6 (by decide) (by decide)).trans <| (fld_skip 5 b_s (by decide)).trans <| (fld_skip 2 b_m (by decide)).trans <| fld_take b_l))
  have o_m : fbv w 11 2 = xm := fbv_eq (hE.symm ▸ ((fld_skip 6 (by decide) (by decide)).trans <| (fld_skip 5 b_s (by decide)).trans <| fld_take b_m))
  have o_s : fbv w 6 5 = xs := fbv_eq (hE.symm ▸ ((fld_skip 6 (by decide) (by decide)).trans <| fld_take b_s))
  refine decodeNat_of_raw ((decodeRaw_14 hm).trans ?_) hw
  unfold decodeMajor14
  refine (if_neg fun h => fld_ne t_3 (by decide) (by decide) (by decide) h).trans ?_
  refine (if_pos f_0_6).trans ?_
  simp only [o_d, o_a, o_c, o_l, o_m, o_s]

theorem RoundTrip.pdepth (xe : BitVec 2) (xa : BitVec 4) (xw : Bool) (xm : BitVec 2) (xs : BitVec 5) (xc : DepthCond) : RoundTrip.Statement (.pdepth xe xa xw xm xs xc) := by
  intro hw w h
  have hE : w = xc.code + 2 ^ 3 * (2 + 2 ^ 3 * (xs.toNat + 2 ^ 5 * (xm.toNat + 2 ^ 2 * (bit xw + 2 ^ 1 * (0 + 2 ^ 3 * (xa.toNat + 2 ^ 4 * (xe.toNat + 2 ^ 2 * (80)))))))) := by have := Option.some.inj h; omega
  have b_e := xe.isLt
  have b_a := xa.isLt
  have b_w := bit_lt xw
  have b_m := xm.isLt
  have b_s := xs.isLt
  have b_c := DepthCond.code_lt xc
  have hm : fld w 25 6 = 0x14 := hE.symm ▸ ((fld_skip 3 b_c (by decide)).trans <| (fld_skip 3 (by decide) (by decide)).trans <| (fld_skip 5 b_s (by decide)).trans <| (fld_skip 2 b_m (by decide)).trans <| (fld_skip 1 b_w (by decide)).trans <| (fld_skip 3 (by decide) (by decide)).trans <| (fld_skip 4 b_a (by decide)).trans <| (fld_skip 2 b_e (by decide)).trans <| (by decide))
  have f_3_3 : fld w 3 3 = 0x2 := hE.symm ▸ ((fld_skip 3 b_c (by decide)).trans <| fld_take (by decide))
  have f_14_3 : fld w 14 3 = 0x0 := hE.symm ▸ ((fld_skip 3 b_c (by decide)).trans <| (fld_skip 3 (by decide) (by decide)).trans <| (fld_skip 5 b_s (by decide)).trans <| (fld_skip 2 b_m (by decide)).trans <| (fld_skip 1 b_w (by decide)).trans <| fld_take (by decide))
  have f_23_2 : fld w 23 2 = 0x0 := hE.symm ▸ ((fld_skip 3 b_c (by decide)).trans <| (fld_skip 3 (by decide) (by decide)).trans <| (fld_skip 5 b_s (by decide)).trans <| (fld_skip 2 b_m (by decide)).trans <| (fld_skip 1 b_w (by decide)).trans <| (fld_skip 3 (by decide) (by decide)).trans <| (fld_skip 4 b_a (by decide)).trans <| (fld_skip 2 b_e (by decide)).trans <| (by decide))
  have t_4 : fld w 4 1 = 1 := hE.symm ▸ ((fld_skip 3 b_c (by decide)).trans <| (fld_low (by decide)).trans (by decide))
  have t_3 : fld w 3 1 = 0 := hE.symm ▸ ((fld_skip 3 b_c (by decide)).trans <| (fld_low (by decide)).trans (by decide))
  have o_e : fbv w 21 2 = xe := fbv_eq (hE.symm ▸ ((fld_skip 3 b_c (by decide)).trans <| (fld_skip 3 (by decide) (by decide)).trans <| (fld_skip 5 b_s (by decide)).trans <| (fld_skip 2 b_m (by decide)).trans <| (fld_skip 1 b_w (by decide)).trans <| (fld_skip 3 (by decide) (by decide)).trans <| (fld_skip 4 b_a (by decide)).trans <| fld_take b_e))
  have o_a : fbv w 17 4 = xa := fbv_eq (hE.symm ▸ ((fld_skip 3 b_c (by decide)).trans <| (fld_skip 3 (by decide) (by decide)).trans <| (fld_skip 5 b_s (by decide)).trans <| (fld_skip 2 b_m (by decide)).trans <| (fld_skip 1 b_w (by decide)).trans <| (fld_skip 3 (by decide) (by decide)).trans <| fld_take b_a))
  have o_w : fbit w 13 = xw := fbit_eq (hE.symm ▸ ((fld_skip 3 b_c (by decide)).trans <| (fld_skip 3 (by decide) (by decide)).trans <| (fld_skip 5 b_s (by decide)).trans <| (fld_skip 2 b_m (by decide)).trans <| fld_take b_w))
  have o_m : fbv w 11 2 = xm := fbv_eq (hE.symm ▸ ((fld_skip 3 b_c (by decide)).trans <| (fld_skip 3 (by decide) (by decide)).trans <| (fld_skip 5 b_s (by decide)).trans <| fld_take b_m))
  have o_s : fbv w 6 5 = xs := fbv_eq (hE.symm ▸ ((fld_skip 3 b_c (by decide)).trans <| (fld_skip 3 (by decide) (by decide)).trans <| fld_take b_s))
  have o_c : fld w 0 3 = xc.code := hE.symm ▸ (fld_take b_c)
  refine decodeNat_of_raw ((decodeRaw_14 hm).trans ?_) hw
  unfold decodeMajor14
  refine (if_neg fun h => fld_ne t_4 (by decide) (by decide) (by decide) h).trans ?_
  refine (if_neg fun h => fld_ne t_3 (by decide) (by decide) (by decide) h).trans ?_
  refine (if_pos ⟨f_3_3, f_14_3, f_23_2⟩).trans ?_
  simp only [o_e, o_a, o_w, o_m, o_s, o_c, DepthCond.ofCode_code, Option.bind_some]

theorem RoundTrip.pblend (xr : Bool) (xa : BitVec 4) (xb : BitVec 4) (xm : BitVec 2) (xs : BitVec 5) (xo : BlendOp) : RoundTrip.Statement (.pblend xr xa xb xm xs xo) := by
  intro hw w h
  have hE : w = xo.code + 2 ^ 3 * (3 + 2 ^ 3 * (xs.toNat + 2 ^ 5 * (xm.toNat + 2 ^ 2 * (xb.toNat + 2 ^ 4 * (xa.toNat + 2 ^ 4 * (0 + 2 ^ 1 * (bit xr + 2 ^ 1 * (80)))))))) := by have := Option.some.inj h; omega
  have b_r := bit_lt xr
  have b_a := xa.isLt
  have b_b := xb.isLt
  have b_m := xm.isLt
  have b_s := xs.isLt
  have b_o := BlendOp.code_lt xo
  have hm : fld w 25 6 = 0x14 := hE.symm ▸ ((fld_skip 3 b_o (by decide)).trans <| (fld_skip 3 (by decide) (by decide)).trans <| (fld_skip 5 b_s (by decide)).trans <| (fld_skip 2 b_m (by decide)).trans <| (fld_skip 4 b_b (by decide)).trans <| (fld_skip 4 b_a (by decide)).trans <| (fld_skip 1 (by decide) (by decide)).trans <| (fld_skip 1 b_r (by decide)).trans <| (by decide))
  have f_3_3 : fld w 3 3 = 0x3 := hE.symm ▸ ((fld_skip 3 b_o (by decide)).trans <| fld_take (by decide))
  have f_23_2 : fld w 23 2 = 0x0 := hE.symm ▸ ((fld_skip 3 b_o (by decide)).trans <| (fld_skip 3 (by decide) (by decide)).trans <| (fld_skip 5 b_s (by decide)).trans <| (fld_skip 2 b_m (by decide)).trans <| (fld_skip 4 b_b (by decide)).trans <| (fld_skip 4 b_a (by decide)).trans <| (fld_skip 1 (by decide) (by decide)).trans <| (fld_skip 1 b_r (by decide)).trans <| (by decide))
  have f_21_1 : fld w 21 1 = 0x0 := hE.symm ▸ ((fld_skip 3 b_o (by decide)).trans <| (fld_skip 3 (by decide) (by decide)).trans <| (fld_skip 5 b_s (by decide)).trans <| (fld_skip 2 b_m (by decide)).trans <| (fld_skip 4 b_b (by decide)).trans <| (fld_skip 4 b_a (by decide)).trans <| fld_take (by decide))
  have t_3 : fld w 3 1 = 1 := hE.symm ▸ ((fld_skip 3 b_o (by decide)).trans <| (fld_low (by decide)).trans (by decide))
  have t_4 : fld w 4 1 = 1 := hE.symm ▸ ((fld_skip 3 b_o (by decide)).trans <| (fld_low (by decide)).trans (by decide))
  have o_r : fbit w 22 = xr := fbit_eq (hE.symm ▸ ((fld_skip 3 b_o (by decide)).trans <| (fld_skip 3 (by decide) (by decide)).trans <| (fld_skip 5 b_s (by decide)).trans <| (fld_skip 2 b_m (by decide)).trans <| (fld_skip 4 b_b (by decide)).trans <| (fld_skip 4 b_a (by decide)).trans <| (fld_skip 1 (by decide) (by decide)).trans <| fld_take b_r))
  have o_a : fbv w 17 4 = xa := fbv_eq (hE.symm ▸ ((fld_skip 3 b_o (by decide)).trans <| (fld_skip 3 (by decide) (by decide)).trans <| (fld_skip 5 b_s (by decide)).trans <| (fld_skip 2 b_m (by decide)).trans <| (fld_skip 4 b_b (by decide)).trans <| fld_take b_a))
  have o_b : fbv w 13 4 = xb := fbv_eq (hE.symm ▸ ((fld_skip 3 b_o (by decide)).trans <| (fld_skip 3 (by decide) (by decide)).trans <| (fld_skip 5 b_s (by decide)).trans <| (fld_skip 2 b_m (by decide)).trans <| fld_take b_b))
  have o_m : fbv w 11 2 = xm := fbv_eq (hE.symm ▸ ((fld_skip 3 b_o (by decide)).trans <| (fld_skip 3 (by decide) (by decide)).trans <| (fld_skip 5 b_s (by decide)).trans <| fld_take b_m))
  have o_s : fbv w 6 5 = xs := fbv_eq (hE.symm ▸ ((fld_skip 3 b_o (by decide)).trans <| (fld_skip 3 (by decide) (by decide)).trans <| fld_take b_s))
  have o_o : fld w 0 3 = xo.code := hE.symm ▸ (fld_take b_o)
  refine decodeNat_of_raw ((decodeRaw_14 hm).trans ?_) hw
  unfold decodeMajor14
  refine (if_neg fun h => fld_ne t_3 (by decide) (by decide) (by decide) h).trans ?_
  refine (if_neg fun h => fld_ne t_4 (by decide) (by decide) (by decide) h).trans ?_
  refine (if_neg fun h => absurd (f_3_3.symm.trans h.1) (by decide)).trans ?_
  refine (if_pos ⟨f_3_3, f_21_1, f_23_2⟩).trans ?_
  simp only [o_r, o_a, o_b, o_m, o_s, o_o, BlendOp.ofCode_code, Option.bind_some]

theorem RoundTrip.pblendC (xr : Bool) (xa : BitVec 4) (xb : BitVec 4) (xm : BitVec 2) (xs : BitVec 5) (xo : BlendOp) : RoundTrip.Statement (.pblendC xr xa xb xm xs xo) := by
  intro hw w h
  have hE : w = xo.code + 2 ^ 3 * (3 + 2 ^ 3 * (xs.toNat + 2 ^ 5 * (xm.toNat + 2 ^ 2 * (xb.toNat + 2 ^ 4 * (xa.toNat + 2 ^ 4 * (1 + 2 ^ 1 * (bit xr + 2 ^ 1 * (80)))))))) := by have := Option.some.inj h; omega
  have b_r := bit_lt xr
  have b_a := xa.isLt
  have b_b := xb.isLt
  have b_m := xm.isLt
  have b_s := xs.isLt
  have b_o := BlendOp.code_lt xo
  have hm : fld w 25 6 = 0x14 := hE.symm ▸ ((fld_skip 3 b_o (by decide)).trans <| (fld_skip 3 (by decide) (by decide)).trans <| (fld_skip 5 b_s (by decide)).trans <| (fld_skip 2 b_m (by decide)).trans <| (fld_skip 4 b_b (by decide)).trans <| (fld_skip 4 b_a (by decide)).trans <| (fld_skip 1 (by decide) (by decide)).trans <| (fld_skip 1 b_r (by decide)).trans <| (by decide))
  have f_3_3 : fld w 3 3 = 0x3 := hE.symm ▸ ((fld_skip 3 b_o (by decide)).trans <| fld_take (by decide))
  have f_23_2 : fld w 23 2 = 0x0 := hE.symm ▸ ((fld_skip 3 b_o (by decide)).trans <| (fld_skip 3 (by decide) (by decide)).trans <| (fld_skip 5 b_s (by decide)).trans <| (fld_skip 2 b_m (by decide)).trans <| (fld_skip 4 b_b (by decide)).trans <| (fld_skip 4 b_a (by decide)).trans <| (fld_skip 1 (by decide) (by decide)).trans <| (fld_skip 1 b_r (by decide)).trans <| (by decide))
  have f_21_1 : fld w 21 1 = 0x1 := hE.symm ▸ ((fld_skip 3 b_o (by decide)).trans <| (fld_skip 3 (by decide) (by decide)).trans <| (fld_skip 5 b_s (by decide)).trans <| (fld_skip 2 b_m (by decide)).trans <| (fld_skip 4 b_b (by decide)).trans <| (fld_skip 4 b_a (by decide)).trans <| fld_take (by decide))
  have t_3 : fld w 3 1 = 1 := hE.symm ▸ ((fld_skip 3 b_o (by decide)).trans <| (fld_low (by decide)).trans (by decide))
  have t_4 : fld w 4 1 = 1 := hE.symm ▸ ((fld_skip 3 b_o (by decide)).trans <| (fld_low (by decide)).trans (by decide))
  have o_r : fbit w 22 = xr := fbit_eq (hE.symm ▸ ((fld_skip 3 b_o (by decide)).trans <| (fld_skip 3 (by decide) (by decide)).trans <| (fld_skip 5 b_s (by decide)).trans <| (fld_skip 2 b_m (by decide)).trans <| (fld_skip 4 b_b (by decide)).trans <| (fld_skip 4 b_a (by decide)).trans <| (fld_skip 1 (by decide) (by decide)).trans <| fld_take b_r))
  have o_a : fbv w 17 4 = xa := fbv_eq (hE.symm ▸ ((fld_skip 3 b_o (by decide)).trans <| (fld_skip 3 (by decide) (by decide)).trans <| (fld_skip 5 b_s (by decide)).trans <| (fld_skip 2 b_m (by decide)).trans <| (fld_skip 4 b_b (by decide)).trans <| fld_take b_a))
  have o_b : fbv w 13 4 = xb := fbv_eq (hE.symm ▸ ((fld_skip 3 b_o (by decide)).trans <| (fld_skip 3 (by decide) (by decide)).trans <| (fld_skip 5 b_s (by decide)).trans <| (fld_skip 2 b_m (by decide)).trans <| fld_take b_b))
  have o_m : fbv w 11 2 = xm := fbv_eq (hE.symm ▸ ((fld_skip 3 b_o (by decide)).trans <| (fld_skip 3 (by decide) (by decide)).trans <| (fld_skip 5 b_s (by decide)).trans <| fld_take b_m))
  have o_s : fbv w 6 5 = xs := fbv_eq (hE.symm ▸ ((fld_skip 3 b_o (by decide)).trans <| (fld_skip 3 (by decide) (by decide)).trans <| fld_take b_s))
  have o_o : fld w 0 3 = xo.code := hE.symm ▸ (fld_take b_o)
  refine decodeNat_of_raw ((decodeRaw_14 hm).trans ?_) hw
  unfold decodeMajor14
  refine (if_neg fun h => fld_ne t_3 (by decide) (by decide) (by decide) h).trans ?_
  refine (if_neg fun h => fld_ne t_4 (by decide) (by decide) (by decide) h).trans ?_
  refine (if_neg fun h => absurd (f_3_3.symm.trans h.1) (by decide)).trans ?_
  refine (if_neg fun h => absurd (f_21_1.symm.trans h.2.1) (by decide)).trans ?_
  refine (if_pos ⟨f_3_3, f_21_1, f_23_2⟩).trans ?_
  simp only [o_r, o_a, o_b, o_m, o_s, o_o, BlendOp.ofCode_code, Option.bind_some]

theorem RoundTrip.pld (xd : BitVec 4) (xm : BitVec 2) (xs : BitVec 5) (xl : Plane) : RoundTrip.Statement (.pld xd xm xs xl) := by
  intro hw w h
  have hE : w = xl.code + 2 ^ 3 * (4 + 2 ^ 3 * (xs.toNat + 2 ^ 5 * (xm.toNat + 2 ^ 2 * (0 + 2 ^ 8 * (xd.toNat + 2 ^ 4 * (20)))))) := by have := Option.some.inj h; omega
  have b_d := xd.isLt
  have b_m := xm.isLt
  have b_s := xs.isLt
  have b_l := Plane.code_lt xl
  have hm : fld w 25 6 = 0x14 := hE.symm ▸ ((fld_skip 3 b_l (by decide)).trans <| (fld_skip 3 (by decide) (by decide)).trans <| (fld_skip 5 b_s (by decide)).trans <| (fld_skip 2 b_m (by decide)).trans <| (fld_skip 8 (by decide) (by decide)).trans <| (fld_skip 4 b_d (by decide)).trans <| fld_whole (by decide))
  have f_3_3 : fld w 3 3 = 0x4 := hE.symm ▸ ((fld_skip 3 b_l (by decide)).trans <| fld_take (by decide))
  have f_14_3 : fld w 14 3 = 0x0 := hE.symm ▸ ((fld_skip 3 b_l (by decide)).trans <| (fld_skip 3 (by decide) (by decide)).trans <| (fld_skip 5 b_s (by decide)).trans <| (fld_skip 2 b_m (by decide)).trans <| (fld_low (by decide)).trans (by decide))
  have f_13_8 : fld w 13 8 = 0x0 := hE.symm ▸ ((fld_skip 3 b_l (by decide)).trans <| (fld_skip 3 (by decide) (by decide)).trans <| (fld_skip 5 b_s (by decide)).trans <| (fld_skip 2 b_m (by decide)).trans <| fld_take (by decide))
  have t_5 : fld w 5 1 = 1 := hE.symm ▸ ((fld_skip 3 b_l (by decide)).trans <| (fld_low (by decide)).trans (by decide))
  have t_3 : fld w 3 1 = 0 := hE.symm ▸ ((fld_skip 3 b_l (by decide)).trans <| (fld_low (by decide)).trans (by decide))
  have o_d : fbv w 21 4 = xd := fbv_eq (hE.symm ▸ ((fld_skip 3 b_l (by decide)).trans <| (fld_skip 3 (by decide) (by decide)).trans <| (fld_skip 5 b_s (by decide)).trans <| (fld_skip 2 b_m (by decide)).trans <| (fld_skip 8 (by decide) (by decide)).trans <| fld_take b_d))
  have o_m : fbv w 11 2 = xm := fbv_eq (hE.symm ▸ ((fld_skip 3 b_l (by decide)).trans <| (fld_skip 3 (by decide) (by decide)).trans <| (fld_skip 5 b_s (by decide)).trans <| fld_take b_m))
  have o_s : fbv w 6 5 = xs := fbv_eq (hE.symm ▸ ((fld_skip 3 b_l (by decide)).trans <| (fld_skip 3 (by decide) (by decide)).trans <| fld_take b_s))
  have o_l : fld w 0 3 = xl.code := hE.symm ▸ (fld_take b_l)
  refine decodeNat_of_raw ((decodeRaw_14 hm).trans ?_) hw
  unfold decodeMajor14
  refine (if_neg fun h => fld_ne t_5 (by decide) (by decide) (by decide) h).trans ?_
  refine (if_neg fun h => fld_ne t_3 (by decide) (by decide) (by decide) h).trans ?_
  refine (if_neg fun h => absurd (f_3_3.symm.trans h.1) (by decide)).trans ?_
  refine (if_neg fun h => absurd (f_3_3.symm.trans h.1) (by decide)).trans ?_
  refine (if_neg fun h => absurd (f_3_3.symm.trans h.1) (by decide)).trans ?_
  refine (if_pos ⟨f_3_3, f_13_8⟩).trans ?_
  simp only [o_d, o_m, o_s, o_l, Plane.ofCode_code, Option.bind_some]

theorem RoundTrip.pst (xd : BitVec 4) (xm : BitVec 2) (xs : BitVec 5) (xl : Plane) : RoundTrip.Statement (.pst xd xm xs xl) := by
  intro hw w h
  have hE : w = xl.code + 2 ^ 3 * (5 + 2 ^ 3 * (xs.toNat + 2 ^ 5 * (xm.toNat + 2 ^ 2 * (0 + 2 ^ 8 * (xd.toNat + 2 ^ 4 * (20)))))) := by have := Option.some.inj h; omega
  have b_d := xd.isLt
  have b_m := xm.isLt
  have b_s := xs.isLt
  have b_l := Plane.code_lt xl
  have hm : fld w 25 6 = 0x14 := hE.symm ▸ ((fld_skip 3 b_l (by decide)).trans <| (fld_skip 3 (by decide) (by decide)).trans <| (fld_skip 5 b_s (by decide)).trans <| (fld_skip 2 b_m (by decide)).trans <| (fld_skip 8 (by decide) (by decide)).trans <| (fld_skip 4 b_d (by decide)).trans <| fld_whole (by decide))
  have f_3_3 : fld w 3 3 = 0x5 := hE.symm ▸ ((fld_skip 3 b_l (by decide)).trans <| fld_take (by decide))
  have f_14_3 : fld w 14 3 = 0x0 := hE.symm ▸ ((fld_skip 3 b_l (by decide)).trans <| (fld_skip 3 (by decide) (by decide)).trans <| (fld_skip 5 b_s (by decide)).trans <| (fld_skip 2 b_m (by decide)).trans <| (fld_low (by decide)).trans (by decide))
  have f_13_8 : fld w 13 8 = 0x0 := hE.symm ▸ ((fld_skip 3 b_l (by decide)).trans <| (fld_skip 3 (by decide) (by decide)).trans <| (fld_skip 5 b_s (by decide)).trans <| (fld_skip 2 b_m (by decide)).trans <| fld_take (by decide))
  have t_3 : fld w 3 1 = 1 := hE.symm ▸ ((fld_skip 3 b_l (by decide)).trans <| (fld_low (by decide)).trans (by decide))
  have t_5 : fld w 5 1 = 1 := hE.symm ▸ ((fld_skip 3 b_l (by decide)).trans <| (fld_low (by decide)).trans (by decide))
  have o_d : fbv w 21 4 = xd := fbv_eq (hE.symm ▸ ((fld_skip 3 b_l (by decide)).trans <| (fld_skip 3 (by decide) (by decide)).trans <| (fld_skip 5 b_s (by decide)).trans <| (fld_skip 2 b_m (by decide)).trans <| (fld_skip 8 (by decide) (by decide)).trans <| fld_take b_d))
  have o_m : fbv w 11 2 = xm := fbv_eq (hE.symm ▸ ((fld_skip 3 b_l (by decide)).trans <| (fld_skip 3 (by decide) (by decide)).trans <| (fld_skip 5 b_s (by decide)).trans <| fld_take b_m))
  have o_s : fbv w 6 5 = xs := fbv_eq (hE.symm ▸ ((fld_skip 3 b_l (by decide)).trans <| (fld_skip 3 (by decide) (by decide)).trans <| fld_take b_s))
  have o_l : fld w 0 3 = xl.code := hE.symm ▸ (fld_take b_l)
  refine decodeNat_of_raw ((decodeRaw_14 hm).trans ?_) hw
  unfold decodeMajor14
  refine (if_neg fun h => fld_ne t_3 (by decide) (by decide) (by decide) h).trans ?_
  refine (if_neg fun h => fld_ne t_5 (by decide) (by decide) (by decide) h).trans ?_
  refine (if_neg fun h => absurd (f_3_3.symm.trans h.1) (by decide)).trans ?_
  refine (if_neg fun h => absurd (f_3_3.symm.trans h.1) (by decide)).trans ?_
  refine (if_neg fun h => absurd (f_3_3.symm.trans h.1) (by decide)).trans ?_
  refine (if_neg fun h => absurd (f_3_3.symm.trans h.1) (by decide)).trans ?_
  refine (if_pos ⟨f_3_3, f_13_8⟩).trans ?_
  simp only [o_d, o_m, o_s, o_l, Plane.ofCode_code, Option.bind_some]

theorem RoundTrip.pstX (xd : BitVec 4) (xa : BitVec 4) (xm : BitVec 2) (xl : Plane) : RoundTrip.Statement (.pstX xd xa xm xl) := by
  intro hw w h
  have hE : w = xl.code + 2 ^ 3 * (6 + 2 ^ 8 * (xm.toNat + 2 ^ 2 * (0 + 2 ^ 4 * (xa.toNat + 2 ^ 4 * (xd.toNat + 2 ^ 4 * (20)))))) := by have := Option.some.inj h; omega
  have b_d := xd.isLt
  have b_a := xa.isLt
  have b_m := xm.isLt
  have b_l := Plane.code_lt xl
  have hm : fld w 25 6 = 0x14 := hE.symm ▸ ((fld_skip 3 b_l (by decide)).trans <| (fld_skip 8 (by decide) (by decide)).trans <| (fld_skip 2 b_m (by decide)).trans <| (fld_skip 4 (by decide) (by decide)).trans <| (fld_skip 4 b_a (by decide)).trans <| (fld_skip 4 b_d (by decide)).trans <| fld_whole (by decide))
  have f_3_3 : fld w 3 3 = 0x6 := hE.symm ▸ ((fld_skip 3 b_l (by decide)).trans <| (fld_low (by decide)).trans (by decide))
  have f_14_3 : fld w 14 3 = 0x0 := hE.symm ▸ ((fld_skip 3 b_l (by decide)).trans <| (fld_skip 8 (by decide) (by decide)).trans <| (fld_skip 2 b_m (by decide)).trans <| (fld_low (by decide)).trans (by decide))
  have f_3_8 : fld w 3 8 = 0x6 := hE.symm ▸ ((fld_skip 3 b_l (by decide)).trans <| fld_take (by decide))
  have f_13_4 : fld w 13 4 = 0x0 := hE.symm ▸ ((fld_skip 3 b_l (by decide)).trans <| (fld_skip 8 (by decide) (by decide)).trans <| (fld_skip 2 b_m (by decide)).trans <| fld_take (by decide))
  have t_4 : fld w 4 1 = 1 := hE.symm ▸ ((fld_skip 3 b_l (by decide)).trans <| (fld_low (by decide)).trans (by decide))
  have t_3 : fld w 3 1 = 0 := hE.symm ▸ ((fld_skip 3 b_l (by decide)).trans <| (fld_low (by decide)).trans (by decide))
  have o_d : fbv w 21 4 = xd := fbv_eq (hE.symm ▸ ((fld_skip 3 b_l (by decide)).trans <| (fld_skip 8 (by decide) (by decide)).trans <| (fld_skip 2 b_m (by decide)).trans <| (fld_skip 4 (by decide) (by decide)).trans <| (fld_skip 4 b_a (by decide)).trans <| fld_take b_d))
  have o_a : fbv w 17 4 = xa := fbv_eq (hE.symm ▸ ((fld_skip 3 b_l (by decide)).trans <| (fld_skip 8 (by decide) (by decide)).trans <| (fld_skip 2 b_m (by decide)).trans <| (fld_skip 4 (by decide) (by decide)).trans <| fld_take b_a))
  have o_m : fbv w 11 2 = xm := fbv_eq (hE.symm ▸ ((fld_skip 3 b_l (by decide)).trans <| (fld_skip 8 (by decide) (by decide)).trans <| fld_take b_m))
  have o_l : fld w 0 3 = xl.code := hE.symm ▸ (fld_take b_l)
  refine decodeNat_of_raw ((decodeRaw_14 hm).trans ?_) hw
  unfold decodeMajor14
  refine (if_neg fun h => fld_ne t_4 (by decide) (by decide) (by decide) h).trans ?_
  refine (if_neg fun h => fld_ne t_3 (by decide) (by decide) (by decide) h).trans ?_
  refine (if_neg fun h => absurd (f_3_3.symm.trans h.1) (by decide)).trans ?_
  refine (if_neg fun h => absurd (f_3_3.symm.trans h.1) (by decide)).trans ?_
  refine (if_neg fun h => absurd (f_3_3.symm.trans h.1) (by decide)).trans ?_
  refine (if_neg fun h => absurd (f_3_3.symm.trans h.1) (by decide)).trans ?_
  refine (if_neg fun h => absurd (f_3_3.symm.trans h.1) (by decide)).trans ?_
  refine (if_pos ⟨f_3_8, f_13_4⟩).trans ?_
  simp only [o_d, o_a, o_m, o_l, Plane.ofCode_code, Option.bind_some]

theorem RoundTrip.emit (xa : BitVec 5) (xb : BitVec 5) : RoundTrip.Statement (.emit xa xb) := by
  intro hw w h
  have hE : w = 0 + 2 ^ 15 * (xb.toNat + 2 ^ 5 * (xa.toNat + 2 ^ 5 * (21))) := by have := Option.some.inj h; omega
  have b_a := xa.isLt
  have b_b := xb.isLt
  have hm : fld w 25 6 = 0x15 := hE.symm ▸ ((fld_skip 15 (by decide) (by decide)).trans <| (fld_skip 5 b_b (by decide)).trans <| (fld_skip 5 b_a (by decide)).trans <| fld_whole (by decide))
  have f_0_15 : fld w 0 15 = 0x0 := hE.symm ▸ (fld_take (by decide))
  have o_a : fbv w 20 5 = xa := fbv_eq (hE.symm ▸ ((fld_skip 15 (by decide) (by decide)).trans <| (fld_skip 5 b_b (by decide)).trans <| fld_take b_a))
  have o_b : fbv w 15 5 = xb := fbv_eq (hE.symm ▸ ((fld_skip 15 (by decide) (by decide)).trans <| fld_take b_b))
  refine decodeNat_of_raw ((decodeRaw_15 hm).trans ?_) hw
  unfold decodeMajor15
  refine (if_pos f_0_15).trans ?_
  simp only [o_a, o_b]

theorem RoundTrip.emitq (xa : BitVec 5) (xb : BitVec 5) : RoundTrip.Statement (.emitq xa xb) := by
  intro hw w h
  have hE : w = 16384 + 2 ^ 15 * (xb.toNat + 2 ^ 5 * (xa.toNat + 2 ^ 5 * (21))) := by have := Option.some.inj h; omega
  have b_a := xa.isLt
  have b_b := xb.isLt
  have hm : fld w 25 6 = 0x15 := hE.symm ▸ ((fld_skip 15 (by decide) (by decide)).trans <| (fld_skip 5 b_b (by decide)).trans <| (fld_skip 5 b_a (by decide)).trans <| fld_whole (by decide))
  have f_0_15 : fld w 0 15 = 0x4000 := hE.symm ▸ (fld_take (by decide))
  have o_a : fbv w 20 5 = xa := fbv_eq (hE.symm ▸ ((fld_skip 15 (by decide) (by decide)).trans <| (fld_skip 5 b_b (by decide)).trans <| fld_take b_a))
  have o_b : fbv w 15 5 = xb := fbv_eq (hE.symm ▸ ((fld_skip 15 (by decide) (by decide)).trans <| fld_take b_b))
  refine decodeNat_of_raw ((decodeRaw_15 hm).trans ?_) hw
  unfold decodeMajor15
  refine (if_neg fun h => absurd (f_0_15.symm.trans h) (by decide)).trans ?_
  refine (if_pos f_0_15).trans ?_
  simp only [o_a, o_b]

theorem RoundTrip.vfpush (xa : BitVec 4) (xs : BitVec 5) (xf : FifoFmt) : RoundTrip.Statement (.vfpush xa xs xf) := by
  intro hw w h
  have hE : w = 0 + 2 ^ 1 * (xf.code + 2 ^ 2 * (0 + 2 ^ 3 * (xs.toNat + 2 ^ 5 * (0 + 2 ^ 6 * (xa.toNat + 2 ^ 4 * (352)))))) := by have := Option.some.inj h; omega
  have b_a := xa.isLt
  have b_s := xs.isLt
  have b_f := FifoFmt.code_lt xf
  have hm : fld w 25 6 = 0x16 := hE.symm ▸ ((fld_skip 1 (by decide) (by decide)).trans <| (fld_skip 2 b_f (by decide)).trans <| (fld_skip 3 (by decide) (by decide)).trans <| (fld_skip 5 b_s (by decide)).trans <| (fld_skip 6 (by decide) (by decide)).trans <| (fld_skip 4 b_a (by decide)).trans <| (by decide))
  have f_0_1 : fld w 0 1 = 0x0 := hE.symm ▸ (fld_take (by decide))
  have f_3_3 : fld w 3 3 = 0x0 := hE.symm ▸ ((fld_skip 1 (by decide) (by decide)).trans <| (fld_skip 2 b_f (by decide)).trans <| fld_take (by decide))
  have f_11_6 : fld w 11 6 = 0x0 := hE.symm ▸ ((fld_skip 1 (by decide) (by decide)).trans <| (fld_skip 2 b_f (by decide)).trans <| (fld_skip 3 (by decide) (by decide)).trans <| (fld_skip 5 b_s (by decide)).trans <| fld_take (by decide))
  have f_21_4 : fld w 21 4 = 0x0 := hE.symm ▸ ((fld_skip 1 (by decide) (by decide)).trans <| (fld_skip 2 b_f (by decide)).trans <| (fld_skip 3 (by decide) (by decide)).trans <| (fld_skip 5 b_s (by decide)).trans <| (fld_skip 6 (by decide) (by decide)).trans <| (fld_skip 4 b_a (by decide)).trans <| (by decide))
  have o_a : fbv w 17 4 = xa := fbv_eq (hE.symm ▸ ((fld_skip 1 (by decide) (by decide)).trans <| (fld_skip 2 b_f (by decide)).trans <| (fld_skip 3 (by decide) (by decide)).trans <| (fld_skip 5 b_s (by decide)).trans <| (fld_skip 6 (by decide) (by decide)).trans <| fld_take b_a))
  have o_s : fbv w 6 5 = xs := fbv_eq (hE.symm ▸ ((fld_skip 1 (by decide) (by decide)).trans <| (fld_skip 2 b_f (by decide)).trans <| (fld_skip 3 (by decide) (by decide)).trans <| fld_take b_s))
  have o_f : fld w 1 2 = xf.code := hE.symm ▸ ((fld_skip 1 (by decide) (by decide)).trans <| fld_take b_f)
  refine decodeNat_of_raw ((decodeRaw_16 hm).trans ?_) hw
  unfold decodeMajor16
  refine (if_pos ⟨f_0_1, f_3_3, f_11_6, f_21_4⟩).trans ?_
  simp only [o_a, o_s, o_f, FifoFmt.ofCode_code, Option.bind_some]

theorem RoundTrip.vfpop (xd : BitVec 4) (xs : BitVec 5) : RoundTrip.Statement (.vfpop xd xs) := by
  intro hw w h
  have hE : w = 8 + 2 ^ 6 * (xs.toNat + 2 ^ 5 * (0 + 2 ^ 10 * (xd.toNat + 2 ^ 4 * (22)))) := by have := Option.some.inj h; omega
  have b_d := xd.isLt
  have b_s := xs.isLt
  have hm : fld w 25 6 = 0x16 := hE.symm ▸ ((fld_skip 6 (by decide) (by decide)).trans <| (fld_skip 5 b_s (by decide)).trans <| (fld_skip 10 (by decide) (by decide)).trans <| (fld_skip 4 b_d (by decide)).trans <| fld_whole (by decide))
  have f_0_1 : fld w 0 1 = 0x0 := hE.symm ▸ ((fld_low (by decide)).trans (by decide))
  have f_3_3 : fld w 3 3 = 0x1 := hE.symm ▸ ((fld_low (by decide)).trans (by decide))
  have f_11_6 : fld w 11 6 = 0x0 := hE.symm ▸ ((fld_skip 6 (by decide) (by decide)).trans <| (fld_skip 5 b_s (by decide)).trans <| (fld_low (by decide)).trans (by decide))
  have f_0_6 : fld w 0 6 = 0x8 := hE.symm ▸ (fld_take (by decide))
  have f_11_10 : fld w 11 10 = 0x0 := hE.symm ▸ ((fld_skip 6 (by decide) (by decide)).trans <| (fld_skip 5 b_s (by decide)).trans <| fld_take (by decide))
  have o_d : fbv w 21 4 = xd := fbv_eq (hE.symm ▸ ((fld_skip 6 (by decide) (by decide)).trans <| (fld_skip 5 b_s (by decide)).trans <| (fld_skip 10 (by decide) (by decide)).trans <| fld_take b_d))
  have o_s : fbv w 6 5 = xs := fbv_eq (hE.symm ▸ ((fld_skip 6 (by decide) (by decide)).trans <| fld_take b_s))
  refine decodeNat_of_raw ((decodeRaw_16 hm).trans ?_) hw
  unfold decodeMajor16
  refine (if_neg fun h => absurd (f_3_3.symm.trans h.2.1) (by decide)).trans ?_
  refine (if_pos ⟨f_0_6, f_11_10⟩).trans ?_
  simp only [o_d, o_s]

theorem RoundTrip.vffree (xs : BitVec 5) : RoundTrip.Statement (.vffree xs) := by
  intro hw w h
  have hE : w = 16 + 2 ^ 6 * (xs.toNat + 2 ^ 5 * (360448)) := by have := Option.some.inj h; omega
  have b_s := xs.isLt
  have hm : fld w 25 6 = 0x16 := hE.symm ▸ ((fld_skip 6 (by decide) (by decide)).trans <| (fld_skip 5 b_s (by decide)).trans <| (by decide))
  have f_0_1 : fld w 0 1 = 0x0 := hE.symm ▸ ((fld_low (by decide)).trans (by decide))
  have f_3_3 : fld w 3 3 = 0x2 := hE.symm ▸ ((fld_low (by decide)).trans (by decide))
  have f_11_6 : fld w 11 6 = 0x0 := hE.symm ▸ ((fld_skip 6 (by decide) (by decide)).trans <| (fld_skip 5 b_s (by decide)).trans <| (by decide))
  have f_21_4 : fld w 21 4 = 0x0 := hE.symm ▸ ((fld_skip 6 (by decide) (by decide)).trans <| (fld_skip 5 b_s (by decide)).trans <| (by decide))
  have f_0_6 : fld w 0 6 = 0x10 := hE.symm ▸ (fld_take (by decide))
  have f_11_10 : fld w 11 10 = 0x0 := hE.symm ▸ ((fld_skip 6 (by decide) (by decide)).trans <| (fld_skip 5 b_s (by decide)).trans <| (by decide))
  have f_11_14 : fld w 11 14 = 0x0 := hE.symm ▸ ((fld_skip 6 (by decide) (by decide)).trans <| (fld_skip 5 b_s (by decide)).trans <| (by decide))
  have o_s : fbv w 6 5 = xs := fbv_eq (hE.symm ▸ ((fld_skip 6 (by decide) (by decide)).trans <| fld_take b_s))
  refine decodeNat_of_raw ((decodeRaw_16 hm).trans ?_) hw
  unfold decodeMajor16
  refine (if_neg fun h => absurd (f_3_3.symm.trans h.2.1) (by decide)).trans ?_
  refine (if_neg fun h => absurd (f_0_6.symm.trans h.1) (by decide)).trans ?_
  refine (if_pos ⟨f_0_6, f_11_14⟩).trans ?_
  simp only [o_s]

theorem RoundTrip.vclaim (xd : BitVec 5) (xa : BitVec 5) (xg : Guard) : RoundTrip.Statement (.vclaim xd xa xg) := by
  intro hw w h
  have hE : w = 0 + 2 ^ 6 * (bit xg.inv + 2 ^ 1 * (xg.p.toNat + 2 ^ 3 * (0 + 2 ^ 5 * (xa.toNat + 2 ^ 5 * (xd.toNat + 2 ^ 5 * (23)))))) := by have := Option.some.inj h; simp only [guardBits] at this; omega
  have b_d := xd.isLt
  have b_a := xa.isLt
  have b_g := xg.p.isLt
  have b'_g := bit_lt xg.inv
  have hm : fld w 25 6 = 0x17 := hE.symm ▸ ((fld_skip 6 (by decide) (by decide)).trans <| (fld_skip 1 (bit_lt xg.inv) (by decide)).trans <| (fld_skip 3 xg.p.isLt (by decide)).trans <| (fld_skip 5 (by decide) (by decide)).trans <| (fld_skip 5 b_a (by decide)).trans <| (fld_skip 5 b_d (by decide)).trans <| fld_whole (by decide))
  have f_0_6 : fld w 0 6 = 0x0 := hE.symm ▸ (fld_take (by decide))
  have f_10_5 : fld w 10 5 = 0x0 := hE.symm ▸ ((fld_skip 6 (by decide) (by decide)).trans <| (fld_skip 1 (bit_lt xg.inv) (by decide)).trans <| (fld_skip 3 xg.p.isLt (by decide)).trans <| fld_take (by decide))
  have o_d : fbv w 20 5 = xd := fbv_eq (hE.symm ▸ ((fld_skip 6 (by decide) (by decide)).trans <| (fld_skip 1 (bit_lt xg.inv) (by decide)).trans <| (fld_skip 3 xg.p.isLt (by decide)).trans <| (fld_skip 5 (by decide) (by decide)).trans <| (fld_skip 5 b_a (by decide)).trans <| fld_take b_d))
  have o_a : fbv w 15 5 = xa := fbv_eq (hE.symm ▸ ((fld_skip 6 (by decide) (by decide)).trans <| (fld_skip 1 (bit_lt xg.inv) (by decide)).trans <| (fld_skip 3 xg.p.isLt (by decide)).trans <| (fld_skip 5 (by decide) (by decide)).trans <| fld_take b_a))
  have o_g : fguard w = xg := fguard_eq (hE.symm ▸ ((fld_skip 6 (by decide) (by decide)).trans <| (fld_skip 1 (bit_lt xg.inv) (by decide)).trans <| fld_take xg.p.isLt)) (hE.symm ▸ ((fld_skip 6 (by decide) (by decide)).trans <| fld_take (bit_lt xg.inv)))
  refine decodeNat_of_raw ((decodeRaw_17 hm).trans ?_) hw
  unfold decodeMajor17
  refine (if_pos ⟨f_0_6, f_10_5⟩).trans ?_
  simp only [o_d, o_a, o_g]

theorem RoundTrip.vrel (xg : Guard) : RoundTrip.Statement (.vrel xg) := by
  intro hw w h
  have hE : w = 1 + 2 ^ 6 * (bit xg.inv + 2 ^ 1 * (xg.p.toNat + 2 ^ 3 * (753664))) := by have := Option.some.inj h; simp only [guardBits] at this; omega
  have b_g := xg.p.isLt
  have b'_g := bit_lt xg.inv
  have hm : fld w 25 6 = 0x17 := hE.symm ▸ ((fld_skip 6 (by decide) (by decide)).trans <| (fld_skip 1 (bit_lt xg.inv) (by decide)).trans <| (fld_skip 3 xg.p.isLt (by decide)).trans <| (by decide))
  have f_0_6 : fld w 0 6 = 0x1 := hE.symm ▸ (fld_take (by decide))
  have f_10_5 : fld w 10 5 = 0x0 := hE.symm ▸ ((fld_skip 6 (by decide) (by decide)).trans <| (fld_skip 1 (bit_lt xg.inv) (by decide)).trans <| (fld_skip 3 xg.p.isLt (by decide)).trans <| (by decide))
  have f_10_15 : fld w 10 15 = 0x0 := hE.symm ▸ ((fld_skip 6 (by decide) (by decide)).trans <| (fld_skip 1 (bit_lt xg.inv) (by decide)).trans <| (fld_skip 3 xg.p.isLt (by decide)).trans <| (by decide))
  have o_g : fguard w = xg := fguard_eq (hE.symm ▸ ((fld_skip 6 (by decide) (by decide)).trans <| (fld_skip 1 (bit_lt xg.inv) (by decide)).trans <| fld_take xg.p.isLt)) (hE.symm ▸ ((fld_skip 6 (by decide) (by decide)).trans <| fld_take (bit_lt xg.inv)))
  refine decodeNat_of_raw ((decodeRaw_17 hm).trans ?_) hw
  unfold decodeMajor17
  refine (if_neg fun h => absurd (f_0_6.symm.trans h.1) (by decide)).trans ?_
  refine (if_pos ⟨f_0_6, f_10_15⟩).trans ?_
  simp only [o_g]

theorem RoundTrip.add (xd : BitVec 5) (xa : BitVec 5) (xb : BitVec 5) (xg : Guard) : RoundTrip.Statement (.add xd xa xb xg) := by
  intro hw w h
  have hE : w = 0 + 2 ^ 6 * (bit xg.inv + 2 ^ 1 * (xg.p.toNat + 2 ^ 3 * (xb.toNat + 2 ^ 5 * (xa.toNat + 2 ^ 5 * (xd.toNat + 2 ^ 5 * (32)))))) := by have := Option.some.inj h; simp only [guardBits] at this; omega
  have b_d := xd.isLt
  have b_a := xa.isLt
  have b_b := xb.isLt
  have b_g := xg.p.isLt
  have b'_g := bit_lt xg.inv
  have hm : fld w 25 6 = 0x20 := hE.symm ▸ ((fld_skip 6 (by decide) (by decide)).trans <| (fld_skip 1 (bit_lt xg.inv) (by decide)).trans <| (fld_skip 3 xg.p.isLt (by decide)).trans <| (fld_skip 5 b_b (by decide)).trans <| (fld_skip 5 b_a (by decide)).trans <| (fld_skip 5 b_d (by decide)).trans <| fld_whole (by decide))
  have f_0_6 : fld w 0 6 = 0x0 := hE.symm ▸ (fld_take (by decide))
  have o_d : fbv w 20 5 = xd := fbv_eq (hE.symm ▸ ((fld_skip 6 (by decide) (by decide)).trans <| (fld_skip 1 (bit_lt xg.inv) (by decide)).trans <| (fld_skip 3 xg.p.isLt (by decide)).trans <| (fld_skip 5 b_b (by decide)).trans <| (fld_skip 5 b_a (by decide)).trans <| fld_take b_d))
  have o_a : fbv w 15 5 = xa := fbv_eq (hE.symm ▸ ((fld_skip 6 (by decide) (by decide)).trans <| (fld_skip 1 (bit_lt xg.inv) (by decide)).trans <| (fld_skip 3 xg.p.isLt (by decide)).trans <| (fld_skip 5 b_b (by decide)).trans <| fld_take b_a))
  have o_b : fbv w 10 5 = xb := fbv_eq (hE.symm ▸ ((fld_skip 6 (by decide) (by decide)).trans <| (fld_skip 1 (bit_lt xg.inv) (by decide)).trans <| (fld_skip 3 xg.p.isLt (by decide)).trans <| fld_take b_b))
  have o_g : fguard w = xg := fguard_eq (hE.symm ▸ ((fld_skip 6 (by decide) (by decide)).trans <| (fld_skip 1 (bit_lt xg.inv) (by decide)).trans <| fld_take xg.p.isLt)) (hE.symm ▸ ((fld_skip 6 (by decide) (by decide)).trans <| fld_take (bit_lt xg.inv)))
  refine decodeNat_of_raw ((decodeRaw_20 hm).trans ?_) hw
  unfold decodeMajor20
  refine (if_pos f_0_6).trans ?_
  simp only [o_d, o_a, o_b, o_g]

theorem RoundTrip.sub (xd : BitVec 5) (xa : BitVec 5) (xb : BitVec 5) (xg : Guard) : RoundTrip.Statement (.sub xd xa xb xg) := by
  intro hw w h
  have hE : w = 1 + 2 ^ 6 * (bit xg.inv + 2 ^ 1 * (xg.p.toNat + 2 ^ 3 * (xb.toNat + 2 ^ 5 * (xa.toNat + 2 ^ 5 * (xd.toNat + 2 ^ 5 * (32)))))) := by have := Option.some.inj h; simp only [guardBits] at this; omega
  have b_d := xd.isLt
  have b_a := xa.isLt
  have b_b := xb.isLt
  have b_g := xg.p.isLt
  have b'_g := bit_lt xg.inv
  have hm : fld w 25 6 = 0x20 := hE.symm ▸ ((fld_skip 6 (by decide) (by decide)).trans <| (fld_skip 1 (bit_lt xg.inv) (by decide)).trans <| (fld_skip 3 xg.p.isLt (by decide)).trans <| (fld_skip 5 b_b (by decide)).trans <| (fld_skip 5 b_a (by decide)).trans <| (fld_skip 5 b_d (by decide)).trans <| fld_whole (by decide))
  have f_0_6 : fld w 0 6 = 0x1 := hE.symm ▸ (fld_take (by decide))
  have o_d : fbv w 20 5 = xd := fbv_eq (hE.symm ▸ ((fld_skip 6 (by decide) (by decide)).trans <| (fld_skip 1 (bit_lt xg.inv) (by decide)).trans <| (fld_skip 3 xg.p.isLt (by decide)).trans <| (fld_skip 5 b_b (by decide)).trans <| (fld_skip 5 b_a (by decide)).trans <| fld_take b_d))
  have o_a : fbv w 15 5 = xa := fbv_eq (hE.symm ▸ ((fld_skip 6 (by decide) (by decide)).trans <| (fld_skip 1 (bit_lt xg.inv) (by decide)).trans <| (fld_skip 3 xg.p.isLt (by decide)).trans <| (fld_skip 5 b_b (by decide)).trans <| fld_take b_a))
  have o_b : fbv w 10 5 = xb := fbv_eq (hE.symm ▸ ((fld_skip 6 (by decide) (by decide)).trans <| (fld_skip 1 (bit_lt xg.inv) (by decide)).trans <| (fld_skip 3 xg.p.isLt (by decide)).trans <| fld_take b_b))
  have o_g : fguard w = xg := fguard_eq (hE.symm ▸ ((fld_skip 6 (by decide) (by decide)).trans <| (fld_skip 1 (bit_lt xg.inv) (by decide)).trans <| fld_take xg.p.isLt)) (hE.symm ▸ ((fld_skip 6 (by decide) (by decide)).trans <| fld_take (bit_lt xg.inv)))
  refine decodeNat_of_raw ((decodeRaw_20 hm).trans ?_) hw
  unfold decodeMajor20
  refine (if_neg fun h => absurd (f_0_6.symm.trans h) (by decide)).trans ?_
  refine (if_pos f_0_6).trans ?_
  simp only [o_d, o_a, o_b, o_g]

theorem RoundTrip.and (xd : BitVec 5) (xa : BitVec 5) (xb : BitVec 5) (xg : Guard) : RoundTrip.Statement (.and xd xa xb xg) := by
  intro hw w h
  have hE : w = 2 + 2 ^ 6 * (bit xg.inv + 2 ^ 1 * (xg.p.toNat + 2 ^ 3 * (xb.toNat + 2 ^ 5 * (xa.toNat + 2 ^ 5 * (xd.toNat + 2 ^ 5 * (32)))))) := by have := Option.some.inj h; simp only [guardBits] at this; omega
  have b_d := xd.isLt
  have b_a := xa.isLt
  have b_b := xb.isLt
  have b_g := xg.p.isLt
  have b'_g := bit_lt xg.inv
  have hm : fld w 25 6 = 0x20 := hE.symm ▸ ((fld_skip 6 (by decide) (by decide)).trans <| (fld_skip 1 (bit_lt xg.inv) (by decide)).trans <| (fld_skip 3 xg.p.isLt (by decide)).trans <| (fld_skip 5 b_b (by decide)).trans <| (fld_skip 5 b_a (by decide)).trans <| (fld_skip 5 b_d (by decide)).trans <| fld_whole (by decide))
  have f_0_6 : fld w 0 6 = 0x2 := hE.symm ▸ (fld_take (by decide))
  have o_d : fbv w 20 5 = xd := fbv_eq (hE.symm ▸ ((fld_skip 6 (by decide) (by decide)).trans <| (fld_skip 1 (bit_lt xg.inv) (by decide)).trans <| (fld_skip 3 xg.p.isLt (by decide)).trans <| (fld_skip 5 b_b (by decide)).trans <| (fld_skip 5 b_a (by decide)).trans <| fld_take b_d))
  have o_a : fbv w 15 5 = xa := fbv_eq (hE.symm ▸ ((fld_skip 6 (by decide) (by decide)).trans <| (fld_skip 1 (bit_lt xg.inv) (by decide)).trans <| (fld_skip 3 xg.p.isLt (by decide)).trans <| (fld_skip 5 b_b (by decide)).trans <| fld_take b_a))
  have o_b : fbv w 10 5 = xb := fbv_eq (hE.symm ▸ ((fld_skip 6 (by decide) (by decide)).trans <| (fld_skip 1 (bit_lt xg.inv) (by decide)).trans <| (fld_skip 3 xg.p.isLt (by decide)).trans <| fld_take b_b))
  have o_g : fguard w = xg := fguard_eq (hE.symm ▸ ((fld_skip 6 (by decide) (by decide)).trans <| (fld_skip 1 (bit_lt xg.inv) (by decide)).trans <| fld_take xg.p.isLt)) (hE.symm ▸ ((fld_skip 6 (by decide) (by decide)).trans <| fld_take (bit_lt xg.inv)))
  refine decodeNat_of_raw ((decodeRaw_20 hm).trans ?_) hw
  unfold decodeMajor20
  refine (if_neg fun h => absurd (f_0_6.symm.trans h) (by decide)).trans ?_
  refine (if_neg fun h => absurd (f_0_6.symm.trans h) (by decide)).trans ?_
  refine (if_pos f_0_6).trans ?_
  simp only [o_d, o_a, o_b, o_g]

theorem RoundTrip.or (xd : BitVec 5) (xa : BitVec 5) (xb : BitVec 5) (xg : Guard) : RoundTrip.Statement (.or xd xa xb xg) := by
  intro hw w h
  have hE : w = 3 + 2 ^ 6 * (bit xg.inv + 2 ^ 1 * (xg.p.toNat + 2 ^ 3 * (xb.toNat + 2 ^ 5 * (xa.toNat + 2 ^ 5 * (xd.toNat + 2 ^ 5 * (32)))))) := by have := Option.some.inj h; simp only [guardBits] at this; omega
  have b_d := xd.isLt
  have b_a := xa.isLt
  have b_b := xb.isLt
  have b_g := xg.p.isLt
  have b'_g := bit_lt xg.inv
  have hm : fld w 25 6 = 0x20 := hE.symm ▸ ((fld_skip 6 (by decide) (by decide)).trans <| (fld_skip 1 (bit_lt xg.inv) (by decide)).trans <| (fld_skip 3 xg.p.isLt (by decide)).trans <| (fld_skip 5 b_b (by decide)).trans <| (fld_skip 5 b_a (by decide)).trans <| (fld_skip 5 b_d (by decide)).trans <| fld_whole (by decide))
  have f_0_6 : fld w 0 6 = 0x3 := hE.symm ▸ (fld_take (by decide))
  have o_d : fbv w 20 5 = xd := fbv_eq (hE.symm ▸ ((fld_skip 6 (by decide) (by decide)).trans <| (fld_skip 1 (bit_lt xg.inv) (by decide)).trans <| (fld_skip 3 xg.p.isLt (by decide)).trans <| (fld_skip 5 b_b (by decide)).trans <| (fld_skip 5 b_a (by decide)).trans <| fld_take b_d))
  have o_a : fbv w 15 5 = xa := fbv_eq (hE.symm ▸ ((fld_skip 6 (by decide) (by decide)).trans <| (fld_skip 1 (bit_lt xg.inv) (by decide)).trans <| (fld_skip 3 xg.p.isLt (by decide)).trans <| (fld_skip 5 b_b (by decide)).trans <| fld_take b_a))
  have o_b : fbv w 10 5 = xb := fbv_eq (hE.symm ▸ ((fld_skip 6 (by decide) (by decide)).trans <| (fld_skip 1 (bit_lt xg.inv) (by decide)).trans <| (fld_skip 3 xg.p.isLt (by decide)).trans <| fld_take b_b))
  have o_g : fguard w = xg := fguard_eq (hE.symm ▸ ((fld_skip 6 (by decide) (by decide)).trans <| (fld_skip 1 (bit_lt xg.inv) (by decide)).trans <| fld_take xg.p.isLt)) (hE.symm ▸ ((fld_skip 6 (by decide) (by decide)).trans <| fld_take (bit_lt xg.inv)))
  refine decodeNat_of_raw ((decodeRaw_20 hm).trans ?_) hw
  unfold decodeMajor20
  refine (if_neg fun h => absurd (f_0_6.symm.trans h) (by decide)).trans ?_
  refine (if_neg fun h => absurd (f_0_6.symm.trans h) (by decide)).trans ?_
  refine (if_neg fun h => absurd (f_0_6.symm.trans h) (by decide)).trans ?_
  refine (if_pos f_0_6).trans ?_
  simp only [o_d, o_a, o_b, o_g]

theorem RoundTrip.xor (xd : BitVec 5) (xa : BitVec 5) (xb : BitVec 5) (xg : Guard) : RoundTrip.Statement (.xor xd xa xb xg) := by
  intro hw w h
  have hE : w = 4 + 2 ^ 6 * (bit xg.inv + 2 ^ 1 * (xg.p.toNat + 2 ^ 3 * (xb.toNat + 2 ^ 5 * (xa.toNat + 2 ^ 5 * (xd.toNat + 2 ^ 5 * (32)))))) := by have := Option.some.inj h; simp only [guardBits] at this; omega
  have b_d := xd.isLt
  have b_a := xa.isLt
  have b_b := xb.isLt
  have b_g := xg.p.isLt
  have b'_g := bit_lt xg.inv
  have hm : fld w 25 6 = 0x20 := hE.symm ▸ ((fld_skip 6 (by decide) (by decide)).trans <| (fld_skip 1 (bit_lt xg.inv) (by decide)).trans <| (fld_skip 3 xg.p.isLt (by decide)).trans <| (fld_skip 5 b_b (by decide)).trans <| (fld_skip 5 b_a (by decide)).trans <| (fld_skip 5 b_d (by decide)).trans <| fld_whole (by decide))
  have f_0_6 : fld w 0 6 = 0x4 := hE.symm ▸ (fld_take (by decide))
  have o_d : fbv w 20 5 = xd := fbv_eq (hE.symm ▸ ((fld_skip 6 (by decide) (by decide)).trans <| (fld_skip 1 (bit_lt xg.inv) (by decide)).trans <| (fld_skip 3 xg.p.isLt (by decide)).trans <| (fld_skip 5 b_b (by decide)).trans <| (fld_skip 5 b_a (by decide)).trans <| fld_take b_d))
  have o_a : fbv w 15 5 = xa := fbv_eq (hE.symm ▸ ((fld_skip 6 (by decide) (by decide)).trans <| (fld_skip 1 (bit_lt xg.inv) (by decide)).trans <| (fld_skip 3 xg.p.isLt (by decide)).trans <| (fld_skip 5 b_b (by decide)).trans <| fld_take b_a))
  have o_b : fbv w 10 5 = xb := fbv_eq (hE.symm ▸ ((fld_skip 6 (by decide) (by decide)).trans <| (fld_skip 1 (bit_lt xg.inv) (by decide)).trans <| (fld_skip 3 xg.p.isLt (by decide)).trans <| fld_take b_b))
  have o_g : fguard w = xg := fguard_eq (hE.symm ▸ ((fld_skip 6 (by decide) (by decide)).trans <| (fld_skip 1 (bit_lt xg.inv) (by decide)).trans <| fld_take xg.p.isLt)) (hE.symm ▸ ((fld_skip 6 (by decide) (by decide)).trans <| fld_take (bit_lt xg.inv)))
  refine decodeNat_of_raw ((decodeRaw_20 hm).trans ?_) hw
  unfold decodeMajor20
  refine (if_neg fun h => absurd (f_0_6.symm.trans h) (by decide)).trans ?_
  refine (if_neg fun h => absurd (f_0_6.symm.trans h) (by decide)).trans ?_
  refine (if_neg fun h => absurd (f_0_6.symm.trans h) (by decide)).trans ?_
  refine (if_neg fun h => absurd (f_0_6.symm.trans h) (by decide)).trans ?_
  refine (if_pos f_0_6).trans ?_
  simp only [o_d, o_a, o_b, o_g]

theorem RoundTrip.andn (xd : BitVec 5) (xa : BitVec 5) (xb : BitVec 5) (xg : Guard) : RoundTrip.Statement (.andn xd xa xb xg) := by
  intro hw w h
  have hE : w = 5 + 2 ^ 6 * (bit xg.inv + 2 ^ 1 * (xg.p.toNat + 2 ^ 3 * (xb.toNat + 2 ^ 5 * (xa.toNat + 2 ^ 5 * (xd.toNat + 2 ^ 5 * (32)))))) := by have := Option.some.inj h; simp only [guardBits] at this; omega
  have b_d := xd.isLt
  have b_a := xa.isLt
  have b_b := xb.isLt
  have b_g := xg.p.isLt
  have b'_g := bit_lt xg.inv
  have hm : fld w 25 6 = 0x20 := hE.symm ▸ ((fld_skip 6 (by decide) (by decide)).trans <| (fld_skip 1 (bit_lt xg.inv) (by decide)).trans <| (fld_skip 3 xg.p.isLt (by decide)).trans <| (fld_skip 5 b_b (by decide)).trans <| (fld_skip 5 b_a (by decide)).trans <| (fld_skip 5 b_d (by decide)).trans <| fld_whole (by decide))
  have f_0_6 : fld w 0 6 = 0x5 := hE.symm ▸ (fld_take (by decide))
  have o_d : fbv w 20 5 = xd := fbv_eq (hE.symm ▸ ((fld_skip 6 (by decide) (by decide)).trans <| (fld_skip 1 (bit_lt xg.inv) (by decide)).trans <| (fld_skip 3 xg.p.isLt (by decide)).trans <| (fld_skip 5 b_b (by decide)).trans <| (fld_skip 5 b_a (by decide)).trans <| fld_take b_d))
  have o_a : fbv w 15 5 = xa := fbv_eq (hE.symm ▸ ((fld_skip 6 (by decide) (by decide)).trans <| (fld_skip 1 (bit_lt xg.inv) (by decide)).trans <| (fld_skip 3 xg.p.isLt (by decide)).trans <| (fld_skip 5 b_b (by decide)).trans <| fld_take b_a))
  have o_b : fbv w 10 5 = xb := fbv_eq (hE.symm ▸ ((fld_skip 6 (by decide) (by decide)).trans <| (fld_skip 1 (bit_lt xg.inv) (by decide)).trans <| (fld_skip 3 xg.p.isLt (by decide)).trans <| fld_take b_b))
  have o_g : fguard w = xg := fguard_eq (hE.symm ▸ ((fld_skip 6 (by decide) (by decide)).trans <| (fld_skip 1 (bit_lt xg.inv) (by decide)).trans <| fld_take xg.p.isLt)) (hE.symm ▸ ((fld_skip 6 (by decide) (by decide)).trans <| fld_take (bit_lt xg.inv)))
  refine decodeNat_of_raw ((decodeRaw_20 hm).trans ?_) hw
  unfold decodeMajor20
  refine (if_neg fun h => absurd (f_0_6.symm.trans h) (by decide)).trans ?_
  refine (if_neg fun h => absurd (f_0_6.symm.trans h) (by decide)).trans ?_
  refine (if_neg fun h => absurd (f_0_6.symm.trans h) (by decide)).trans ?_
  refine (if_neg fun h => absurd (f_0_6.symm.trans h) (by decide)).trans ?_
  refine (if_neg fun h => absurd (f_0_6.symm.trans h) (by decide)).trans ?_
  refine (if_pos f_0_6).trans ?_
  simp only [o_d, o_a, o_b, o_g]

theorem RoundTrip.orn (xd : BitVec 5) (xa : BitVec 5) (xb : BitVec 5) (xg : Guard) : RoundTrip.Statement (.orn xd xa xb xg) := by
  intro hw w h
  have hE : w = 6 + 2 ^ 6 * (bit xg.inv + 2 ^ 1 * (xg.p.toNat + 2 ^ 3 * (xb.toNat + 2 ^ 5 * (xa.toNat + 2 ^ 5 * (xd.toNat + 2 ^ 5 * (32)))))) := by have := Option.some.inj h; simp only [guardBits] at this; omega
  have b_d := xd.isLt
  have b_a := xa.isLt
  have b_b := xb.isLt
  have b_g := xg.p.isLt
  have b'_g := bit_lt xg.inv
  have hm : fld w 25 6 = 0x20 := hE.symm ▸ ((fld_skip 6 (by decide) (by decide)).trans <| (fld_skip 1 (bit_lt xg.inv) (by decide)).trans <| (fld_skip 3 xg.p.isLt (by decide)).trans <| (fld_skip 5 b_b (by decide)).trans <| (fld_skip 5 b_a (by decide)).trans <| (fld_skip 5 b_d (by decide)).trans <| fld_whole (by decide))
  have f_0_6 : fld w 0 6 = 0x6 := hE.symm ▸ (fld_take (by decide))
  have o_d : fbv w 20 5 = xd := fbv_eq (hE.symm ▸ ((fld_skip 6 (by decide) (by decide)).trans <| (fld_skip 1 (bit_lt xg.inv) (by decide)).trans <| (fld_skip 3 xg.p.isLt (by decide)).trans <| (fld_skip 5 b_b (by decide)).trans <| (fld_skip 5 b_a (by decide)).trans <| fld_take b_d))
  have o_a : fbv w 15 5 = xa := fbv_eq (hE.symm ▸ ((fld_skip 6 (by decide) (by decide)).trans <| (fld_skip 1 (bit_lt xg.inv) (by decide)).trans <| (fld_skip 3 xg.p.isLt (by decide)).trans <| (fld_skip 5 b_b (by decide)).trans <| fld_take b_a))
  have o_b : fbv w 10 5 = xb := fbv_eq (hE.symm ▸ ((fld_skip 6 (by decide) (by decide)).trans <| (fld_skip 1 (bit_lt xg.inv) (by decide)).trans <| (fld_skip 3 xg.p.isLt (by decide)).trans <| fld_take b_b))
  have o_g : fguard w = xg := fguard_eq (hE.symm ▸ ((fld_skip 6 (by decide) (by decide)).trans <| (fld_skip 1 (bit_lt xg.inv) (by decide)).trans <| fld_take xg.p.isLt)) (hE.symm ▸ ((fld_skip 6 (by decide) (by decide)).trans <| fld_take (bit_lt xg.inv)))
  refine decodeNat_of_raw ((decodeRaw_20 hm).trans ?_) hw
  unfold decodeMajor20
  refine (if_neg fun h => absurd (f_0_6.symm.trans h) (by decide)).trans ?_
  refine (if_neg fun h => absurd (f_0_6.symm.trans h) (by decide)).trans ?_
  refine (if_neg fun h => absurd (f_0_6.symm.trans h) (by decide)).trans ?_
  refine (if_neg fun h => absurd (f_0_6.symm.trans h) (by decide)).trans ?_
  refine (if_neg fun h => absurd (f_0_6.symm.trans h) (by decide)).trans ?_
  refine (if_neg fun h => absurd (f_0_6.symm.trans h) (by decide)).trans ?_
  refine (if_pos f_0_6).trans ?_
  simp only [o_d, o_a, o_b, o_g]

theorem RoundTrip.sll (xd : BitVec 5) (xa : BitVec 5) (xb : BitVec 5) (xg : Guard) : RoundTrip.Statement (.sll xd xa xb xg) := by
  intro hw w h
  have hE : w = 8 + 2 ^ 6 * (bit xg.inv + 2 ^ 1 * (xg.p.toNat + 2 ^ 3 * (xb.toNat + 2 ^ 5 * (xa.toNat + 2 ^ 5 * (xd.toNat + 2 ^ 5 * (32)))))) := by have := Option.some.inj h; simp only [guardBits] at this; omega
  have b_d := xd.isLt
  have b_a := xa.isLt
  have b_b := xb.isLt
  have b_g := xg.p.isLt
  have b'_g := bit_lt xg.inv
  have hm : fld w 25 6 = 0x20 := hE.symm ▸ ((fld_skip 6 (by decide) (by decide)).trans <| (fld_skip 1 (bit_lt xg.inv) (by decide)).trans <| (fld_skip 3 xg.p.isLt (by decide)).trans <| (fld_skip 5 b_b (by decide)).trans <| (fld_skip 5 b_a (by decide)).trans <| (fld_skip 5 b_d (by decide)).trans <| fld_whole (by decide))
  have f_0_6 : fld w 0 6 = 0x8 := hE.symm ▸ (fld_take (by decide))
  have o_d : fbv w 20 5 = xd := fbv_eq (hE.symm ▸ ((fld_skip 6 (by decide) (by decide)).trans <| (fld_skip 1 (bit_lt xg.inv) (by decide)).trans <| (fld_skip 3 xg.p.isLt (by decide)).trans <| (fld_skip 5 b_b (by decide)).trans <| (fld_skip 5 b_a (by decide)).trans <| fld_take b_d))
  have o_a : fbv w 15 5 = xa := fbv_eq (hE.symm ▸ ((fld_skip 6 (by decide) (by decide)).trans <| (fld_skip 1 (bit_lt xg.inv) (by decide)).trans <| (fld_skip 3 xg.p.isLt (by decide)).trans <| (fld_skip 5 b_b (by decide)).trans <| fld_take b_a))
  have o_b : fbv w 10 5 = xb := fbv_eq (hE.symm ▸ ((fld_skip 6 (by decide) (by decide)).trans <| (fld_skip 1 (bit_lt xg.inv) (by decide)).trans <| (fld_skip 3 xg.p.isLt (by decide)).trans <| fld_take b_b))
  have o_g : fguard w = xg := fguard_eq (hE.symm ▸ ((fld_skip 6 (by decide) (by decide)).trans <| (fld_skip 1 (bit_lt xg.inv) (by decide)).trans <| fld_take xg.p.isLt)) (hE.symm ▸ ((fld_skip 6 (by decide) (by decide)).trans <| fld_take (bit_lt xg.inv)))
  refine decodeNat_of_raw ((decodeRaw_20 hm).trans ?_) hw
  unfold decodeMajor20
  refine (if_neg fun h => absurd (f_0_6.symm.trans h) (by decide)).trans ?_
  refine (if_neg fun h => absurd (f_0_6.symm.trans h) (by decide)).trans ?_
  refine (if_neg fun h => absurd (f_0_6.symm.trans h) (by decide)).trans ?_
  refine (if_neg fun h => absurd (f_0_6.symm.trans h) (by decide)).trans ?_
  refine (if_neg fun h => absurd (f_0_6.symm.trans h) (by decide)).trans ?_
  refine (if_neg fun h => absurd (f_0_6.symm.trans h) (by decide)).trans ?_
  refine (if_neg fun h => absurd (f_0_6.symm.trans h) (by decide)).trans ?_
  refine (if_pos f_0_6).trans ?_
  simp only [o_d, o_a, o_b, o_g]

theorem RoundTrip.srl (xd : BitVec 5) (xa : BitVec 5) (xb : BitVec 5) (xg : Guard) : RoundTrip.Statement (.srl xd xa xb xg) := by
  intro hw w h
  have hE : w = 9 + 2 ^ 6 * (bit xg.inv + 2 ^ 1 * (xg.p.toNat + 2 ^ 3 * (xb.toNat + 2 ^ 5 * (xa.toNat + 2 ^ 5 * (xd.toNat + 2 ^ 5 * (32)))))) := by have := Option.some.inj h; simp only [guardBits] at this; omega
  have b_d := xd.isLt
  have b_a := xa.isLt
  have b_b := xb.isLt
  have b_g := xg.p.isLt
  have b'_g := bit_lt xg.inv
  have hm : fld w 25 6 = 0x20 := hE.symm ▸ ((fld_skip 6 (by decide) (by decide)).trans <| (fld_skip 1 (bit_lt xg.inv) (by decide)).trans <| (fld_skip 3 xg.p.isLt (by decide)).trans <| (fld_skip 5 b_b (by decide)).trans <| (fld_skip 5 b_a (by decide)).trans <| (fld_skip 5 b_d (by decide)).trans <| fld_whole (by decide))
  have f_0_6 : fld w 0 6 = 0x9 := hE.symm ▸ (fld_take (by decide))
  have o_d : fbv w 20 5 = xd := fbv_eq (hE.symm ▸ ((fld_skip 6 (by decide) (by decide)).trans <| (fld_skip 1 (bit_lt xg.inv) (by decide)).trans <| (fld_skip 3 xg.p.isLt (by decide)).trans <| (fld_skip 5 b_b (by decide)).trans <| (fld_skip 5 b_a (by decide)).trans <| fld_take b_d))
  have o_a : fbv w 15 5 = xa := fbv_eq (hE.symm ▸ ((fld_skip 6 (by decide) (by decide)).trans <| (fld_skip 1 (bit_lt xg.inv) (by decide)).trans <| (fld_skip 3 xg.p.isLt (by decide)).trans <| (fld_skip 5 b_b (by decide)).trans <| fld_take b_a))
  have o_b : fbv w 10 5 = xb := fbv_eq (hE.symm ▸ ((fld_skip 6 (by decide) (by decide)).trans <| (fld_skip 1 (bit_lt xg.inv) (by decide)).trans <| (fld_skip 3 xg.p.isLt (by decide)).trans <| fld_take b_b))
  have o_g : fguard w = xg := fguard_eq (hE.symm ▸ ((fld_skip 6 (by decide) (by decide)).trans <| (fld_skip 1 (bit_lt xg.inv) (by decide)).trans <| fld_take xg.p.isLt)) (hE.symm ▸ ((fld_skip 6 (by decide) (by decide)).trans <| fld_take (bit_lt xg.inv)))
  refine decodeNat_of_raw ((decodeRaw_20 hm).trans ?_) hw
  unfold decodeMajor20
  refine (if_neg fun h => absurd (f_0_6.symm.trans h) (by decide)).trans ?_
  refine (if_neg fun h => absurd (f_0_6.symm.trans h) (by decide)).trans ?_
  refine (if_neg fun h => absurd (f_0_6.symm.trans h) (by decide)).trans ?_
  refine (if_neg fun h => absurd (f_0_6.symm.trans h) (by decide)).trans ?_
  refine (if_neg fun h => absurd (f_0_6.symm.trans h) (by decide)).trans ?_
  refine (if_neg fun h => absurd (f_0_6.symm.trans h) (by decide)).trans ?_
  refine (if_neg fun h => absurd (f_0_6.symm.trans h) (by decide)).trans ?_
  refine (if_neg fun h => absurd (f_0_6.symm.trans h) (by decide)).trans ?_
  refine (if_pos f_0_6).trans ?_
  simp only [o_d, o_a, o_b, o_g]

theorem RoundTrip.sra (xd : BitVec 5) (xa : BitVec 5) (xb : BitVec 5) (xg : Guard) : RoundTrip.Statement (.sra xd xa xb xg) := by
  intro hw w h
  have hE : w = 10 + 2 ^ 6 * (bit xg.inv + 2 ^ 1 * (xg.p.toNat + 2 ^ 3 * (xb.toNat + 2 ^ 5 * (xa.toNat + 2 ^ 5 * (xd.toNat + 2 ^ 5 * (32)))))) := by have := Option.some.inj h; simp only [guardBits] at this; omega
  have b_d := xd.isLt
  have b_a := xa.isLt
  have b_b := xb.isLt
  have b_g := xg.p.isLt
  have b'_g := bit_lt xg.inv
  have hm : fld w 25 6 = 0x20 := hE.symm ▸ ((fld_skip 6 (by decide) (by decide)).trans <| (fld_skip 1 (bit_lt xg.inv) (by decide)).trans <| (fld_skip 3 xg.p.isLt (by decide)).trans <| (fld_skip 5 b_b (by decide)).trans <| (fld_skip 5 b_a (by decide)).trans <| (fld_skip 5 b_d (by decide)).trans <| fld_whole (by decide))
  have f_0_6 : fld w 0 6 = 0xA := hE.symm ▸ (fld_take (by decide))
  have o_d : fbv w 20 5 = xd := fbv_eq (hE.symm ▸ ((fld_skip 6 (by decide) (by decide)).trans <| (fld_skip 1 (bit_lt xg.inv) (by decide)).trans <| (fld_skip 3 xg.p.isLt (by decide)).trans <| (fld_skip 5 b_b (by decide)).trans <| (fld_skip 5 b_a (by decide)).trans <| fld_take b_d))
  have o_a : fbv w 15 5 = xa := fbv_eq (hE.symm ▸ ((fld_skip 6 (by decide) (by decide)).trans <| (fld_skip 1 (bit_lt xg.inv) (by decide)).trans <| (fld_skip 3 xg.p.isLt (by decide)).trans <| (fld_skip 5 b_b (by decide)).trans <| fld_take b_a))
  have o_b : fbv w 10 5 = xb := fbv_eq (hE.symm ▸ ((fld_skip 6 (by decide) (by decide)).trans <| (fld_skip 1 (bit_lt xg.inv) (by decide)).trans <| (fld_skip 3 xg.p.isLt (by decide)).trans <| fld_take b_b))
  have o_g : fguard w = xg := fguard_eq (hE.symm ▸ ((fld_skip 6 (by decide) (by decide)).trans <| (fld_skip 1 (bit_lt xg.inv) (by decide)).trans <| fld_take xg.p.isLt)) (hE.symm ▸ ((fld_skip 6 (by decide) (by decide)).trans <| fld_take (bit_lt xg.inv)))
  refine decodeNat_of_raw ((decodeRaw_20 hm).trans ?_) hw
  unfold decodeMajor20
  refine (if_neg fun h => absurd (f_0_6.symm.trans h) (by decide)).trans ?_
  refine (if_neg fun h => absurd (f_0_6.symm.trans h) (by decide)).trans ?_
  refine (if_neg fun h => absurd (f_0_6.symm.trans h) (by decide)).trans ?_
  refine (if_neg fun h => absurd (f_0_6.symm.trans h) (by decide)).trans ?_
  refine (if_neg fun h => absurd (f_0_6.symm.trans h) (by decide)).trans ?_
  refine (if_neg fun h => absurd (f_0_6.symm.trans h) (by decide)).trans ?_
  refine (if_neg fun h => absurd (f_0_6.symm.trans h) (by decide)).trans ?_
  refine (if_neg fun h => absurd (f_0_6.symm.trans h) (by decide)).trans ?_
  refine (if_neg fun h => absurd (f_0_6.symm.trans h) (by decide)).trans ?_
  refine (if_pos f_0_6).trans ?_
  simp only [o_d, o_a, o_b, o_g]

theorem RoundTrip.rol (xd : BitVec 5) (xa : BitVec 5) (xb : BitVec 5) (xg : Guard) : RoundTrip.Statement (.rol xd xa xb xg) := by
  intro hw w h
  have hE : w = 11 + 2 ^ 6 * (bit xg.inv + 2 ^ 1 * (xg.p.toNat + 2 ^ 3 * (xb.toNat + 2 ^ 5 * (xa.toNat + 2 ^ 5 * (xd.toNat + 2 ^ 5 * (32)))))) := by have := Option.some.inj h; simp only [guardBits] at this; omega
  have b_d := xd.isLt
  have b_a := xa.isLt
  have b_b := xb.isLt
  have b_g := xg.p.isLt
  have b'_g := bit_lt xg.inv
  have hm : fld w 25 6 = 0x20 := hE.symm ▸ ((fld_skip 6 (by decide) (by decide)).trans <| (fld_skip 1 (bit_lt xg.inv) (by decide)).trans <| (fld_skip 3 xg.p.isLt (by decide)).trans <| (fld_skip 5 b_b (by decide)).trans <| (fld_skip 5 b_a (by decide)).trans <| (fld_skip 5 b_d (by decide)).trans <| fld_whole (by decide))
  have f_0_6 : fld w 0 6 = 0xB := hE.symm ▸ (fld_take (by decide))
  have o_d : fbv w 20 5 = xd := fbv_eq (hE.symm ▸ ((fld_skip 6 (by decide) (by decide)).trans <| (fld_skip 1 (bit_lt xg.inv) (by decide)).trans <| (fld_skip 3 xg.p.isLt (by decide)).trans <| (fld_skip 5 b_b (by decide)).trans <| (fld_skip 5 b_a (by decide)).trans <| fld_take b_d))
  have o_a : fbv w 15 5 = xa := fbv_eq (hE.symm ▸ ((fld_skip 6 (by decide) (by decide)).trans <| (fld_skip 1 (bit_lt xg.inv) (by decide)).trans <| (fld_skip 3 xg.p.isLt (by decide)).trans <| (fld_skip 5 b_b (by decide)).trans <| fld_take b_a))
  have o_b : fbv w 10 5 = xb := fbv_eq (hE.symm ▸ ((fld_skip 6 (by decide) (by decide)).trans <| (fld_skip 1 (bit_lt xg.inv) (by decide)).trans <| (fld_skip 3 xg.p.isLt (by decide)).trans <| fld_take b_b))
  have o_g : fguard w = xg := fguard_eq (hE.symm ▸ ((fld_skip 6 (by decide) (by decide)).trans <| (fld_skip 1 (bit_lt xg.inv) (by decide)).trans <| fld_take xg.p.isLt)) (hE.symm ▸ ((fld_skip 6 (by decide) (by decide)).trans <| fld_take (bit_lt xg.inv)))
  refine decodeNat_of_raw ((decodeRaw_20 hm).trans ?_) hw
  unfold decodeMajor20
  refine (if_neg fun h => absurd (f_0_6.symm.trans h) (by decide)).trans ?_
  refine (if_neg fun h => absurd (f_0_6.symm.trans h) (by decide)).trans ?_
  refine (if_neg fun h => absurd (f_0_6.symm.trans h) (by decide)).trans ?_
  refine (if_neg fun h => absurd (f_0_6.symm.trans h) (by decide)).trans ?_
  refine (if_neg fun h => absurd (f_0_6.symm.trans h) (by decide)).trans ?_
  refine (if_neg fun h => absurd (f_0_6.symm.trans h) (by decide)).trans ?_
  refine (if_neg fun h => absurd (f_0_6.symm.trans h) (by decide)).trans ?_
  refine (if_neg fun h => absurd (f_0_6.symm.trans h) (by decide)).trans ?_
  refine (if_neg fun h => absurd (f_0_6.symm.trans h) (by decide)).trans ?_
  refine (if_neg fun h => absurd (f_0_6.symm.trans h) (by decide)).trans ?_
  refine (if_pos f_0_6).trans ?_
  simp only [o_d, o_a, o_b, o_g]

theorem RoundTrip.ror (xd : BitVec 5) (xa : BitVec 5) (xb : BitVec 5) (xg : Guard) : RoundTrip.Statement (.ror xd xa xb xg) := by
  intro hw w h
  have hE : w = 12 + 2 ^ 6 * (bit xg.inv + 2 ^ 1 * (xg.p.toNat + 2 ^ 3 * (xb.toNat + 2 ^ 5 * (xa.toNat + 2 ^ 5 * (xd.toNat + 2 ^ 5 * (32)))))) := by have := Option.some.inj h; simp only [guardBits] at this; omega
  have b_d := xd.isLt
  have b_a := xa.isLt
  have b_b := xb.isLt
  have b_g := xg.p.isLt
  have b'_g := bit_lt xg.inv
  have hm : fld w 25 6 = 0x20 := hE.symm ▸ ((fld_skip 6 (by decide) (by decide)).trans <| (fld_skip 1 (bit_lt xg.inv) (by decide)).trans <| (fld_skip 3 xg.p.isLt (by decide)).trans <| (fld_skip 5 b_b (by decide)).trans <| (fld_skip 5 b_a (by decide)).trans <| (fld_skip 5 b_d (by decide)).trans <| fld_whole (by decide))
  have f_0_6 : fld w 0 6 = 0xC := hE.symm ▸ (fld_take (by decide))
  have o_d : fbv w 20 5 = xd := fbv_eq (hE.symm ▸ ((fld_skip 6 (by decide) (by decide)).trans <| (fld_skip 1 (bit_lt xg.inv) (by decide)).trans <| (fld_skip 3 xg.p.isLt (by decide)).trans <| (fld_skip 5 b_b (by decide)).trans <| (fld_skip 5 b_a (by decide)).trans <| fld_take b_d))
  have o_a : fbv w 15 5 = xa := fbv_eq (hE.symm ▸ ((fld_skip 6 (by decide) (by decide)).trans <| (fld_skip 1 (bit_lt xg.inv) (by decide)).trans <| (fld_skip 3 xg.p.isLt (by decide)).trans <| (fld_skip 5 b_b (by decide)).trans <| fld_take b_a))
  have o_b : fbv w 10 5 = xb := fbv_eq (hE.symm ▸ ((fld_skip 6 (by decide) (by decide)).trans <| (fld_skip 1 (bit_lt xg.inv) (by decide)).trans <| (fld_skip 3 xg.p.isLt (by decide)).trans <| fld_take b_b))
  have o_g : fguard w = xg := fguard_eq (hE.symm ▸ ((fld_skip 6 (by decide) (by decide)).trans <| (fld_skip 1 (bit_lt xg.inv) (by decide)).trans <| fld_take xg.p.isLt)) (hE.symm ▸ ((fld_skip 6 (by decide) (by decide)).trans <| fld_take (bit_lt xg.inv)))
  refine decodeNat_of_raw ((decodeRaw_20 hm).trans ?_) hw
  unfold decodeMajor20
  refine (if_neg fun h => absurd (f_0_6.symm.trans h) (by decide)).trans ?_
  refine (if_neg fun h => absurd (f_0_6.symm.trans h) (by decide)).trans ?_
  refine (if_neg fun h => absurd (f_0_6.symm.trans h) (by decide)).trans ?_
  refine (if_neg fun h => absurd (f_0_6.symm.trans h) (by decide)).trans ?_
  refine (if_neg fun h => absurd (f_0_6.symm.trans h) (by decide)).trans ?_
  refine (if_neg fun h => absurd (f_0_6.symm.trans h) (by decide)).trans ?_
  refine (if_neg fun h => absurd (f_0_6.symm.trans h) (by decide)).trans ?_
  refine (if_neg fun h => absurd (f_0_6.symm.trans h) (by decide)).trans ?_
  refine (if_neg fun h => absurd (f_0_6.symm.trans h) (by decide)).trans ?_
  refine (if_neg fun h => absurd (f_0_6.symm.trans h) (by decide)).trans ?_
  refine (if_neg fun h => absurd (f_0_6.symm.trans h) (by decide)).trans ?_
  refine (if_pos f_0_6).trans ?_
  simp only [o_d, o_a, o_b, o_g]

theorem RoundTrip.min (xd : BitVec 5) (xa : BitVec 5) (xb : BitVec 5) (xg : Guard) : RoundTrip.Statement (.min xd xa xb xg) := by
  intro hw w h
  have hE : w = 16 + 2 ^ 6 * (bit xg.inv + 2 ^ 1 * (xg.p.toNat + 2 ^ 3 * (xb.toNat + 2 ^ 5 * (xa.toNat + 2 ^ 5 * (xd.toNat + 2 ^ 5 * (32)))))) := by have := Option.some.inj h; simp only [guardBits] at this; omega
  have b_d := xd.isLt
  have b_a := xa.isLt
  have b_b := xb.isLt
  have b_g := xg.p.isLt
  have b'_g := bit_lt xg.inv
  have hm : fld w 25 6 = 0x20 := hE.symm ▸ ((fld_skip 6 (by decide) (by decide)).trans <| (fld_skip 1 (bit_lt xg.inv) (by decide)).trans <| (fld_skip 3 xg.p.isLt (by decide)).trans <| (fld_skip 5 b_b (by decide)).trans <| (fld_skip 5 b_a (by decide)).trans <| (fld_skip 5 b_d (by decide)).trans <| fld_whole (by decide))
  have f_0_6 : fld w 0 6 = 0x10 := hE.symm ▸ (fld_take (by decide))
  have o_d : fbv w 20 5 = xd := fbv_eq (hE.symm ▸ ((fld_skip 6 (by decide) (by decide)).trans <| (fld_skip 1 (bit_lt xg.inv) (by decide)).trans <| (fld_skip 3 xg.p.isLt (by decide)).trans <| (fld_skip 5 b_b (by decide)).trans <| (fld_skip 5 b_a (by decide)).trans <| fld_take b_d))
  have o_a : fbv w 15 5 = xa := fbv_eq (hE.symm ▸ ((fld_skip 6 (by decide) (by decide)).trans <| (fld_skip 1 (bit_lt xg.inv) (by decide)).trans <| (fld_skip 3 xg.p.isLt (by decide)).trans <| (fld_skip 5 b_b (by decide)).trans <| fld_take b_a))
  have o_b : fbv w 10 5 = xb := fbv_eq (hE.symm ▸ ((fld_skip 6 (by decide) (by decide)).trans <| (fld_skip 1 (bit_lt xg.inv) (by decide)).trans <| (fld_skip 3 xg.p.isLt (by decide)).trans <| fld_take b_b))
  have o_g : fguard w = xg := fguard_eq (hE.symm ▸ ((fld_skip 6 (by decide) (by decide)).trans <| (fld_skip 1 (bit_lt xg.inv) (by decide)).trans <| fld_take xg.p.isLt)) (hE.symm ▸ ((fld_skip 6 (by decide) (by decide)).trans <| fld_take (bit_lt xg.inv)))
  refine decodeNat_of_raw ((decodeRaw_20 hm).trans ?_) hw
  unfold decodeMajor20
  refine (if_neg fun h => absurd (f_0_6.symm.trans h) (by decide)).trans ?_
  refine (if_neg fun h => absurd (f_0_6.symm.trans h) (by decide)).trans ?_
  refine (if_neg fun h => absurd (f_0_6.symm.trans h) (by decide)).trans ?_
  refine (if_neg fun h => absurd (f_0_6.symm.trans h) (by decide)).trans ?_
  refine (if_neg fun h => absurd (f_0_6.symm.trans h) (by decide)).trans ?_
  refine (if_neg fun h => absurd (f_0_6.symm.trans h) (by decide)).trans ?_
  refine (if_neg fun h => absurd (f_0_6.symm.trans h) (by decide)).trans ?_
  refine (if_neg fun h => absurd (f_0_6.symm.trans h) (by decide)).trans ?_
  refine (if_neg fun h => absurd (f_0_6.symm.trans h) (by decide)).trans ?_
  refine (if_neg fun h => absurd (f_0_6.symm.trans h) (by decide)).trans ?_
  refine (if_neg fun h => absurd (f_0_6.symm.trans h) (by decide)).trans ?_
  refine (if_neg fun h => absurd (f_0_6.symm.trans h) (by decide)).trans ?_
  refine (if_pos f_0_6).trans ?_
  simp only [o_d, o_a, o_b, o_g]

theorem RoundTrip.max (xd : BitVec 5) (xa : BitVec 5) (xb : BitVec 5) (xg : Guard) : RoundTrip.Statement (.max xd xa xb xg) := by
  intro hw w h
  have hE : w = 17 + 2 ^ 6 * (bit xg.inv + 2 ^ 1 * (xg.p.toNat + 2 ^ 3 * (xb.toNat + 2 ^ 5 * (xa.toNat + 2 ^ 5 * (xd.toNat + 2 ^ 5 * (32)))))) := by have := Option.some.inj h; simp only [guardBits] at this; omega
  have b_d := xd.isLt
  have b_a := xa.isLt
  have b_b := xb.isLt
  have b_g := xg.p.isLt
  have b'_g := bit_lt xg.inv
  have hm : fld w 25 6 = 0x20 := hE.symm ▸ ((fld_skip 6 (by decide) (by decide)).trans <| (fld_skip 1 (bit_lt xg.inv) (by decide)).trans <| (fld_skip 3 xg.p.isLt (by decide)).trans <| (fld_skip 5 b_b (by decide)).trans <| (fld_skip 5 b_a (by decide)).trans <| (fld_skip 5 b_d (by decide)).trans <| fld_whole (by decide))
  have f_0_6 : fld w 0 6 = 0x11 := hE.symm ▸ (fld_take (by decide))
  have o_d : fbv w 20 5 = xd := fbv_eq (hE.symm ▸ ((fld_skip 6 (by decide) (by decide)).trans <| (fld_skip 1 (bit_lt xg.inv) (by decide)).trans <| (fld_skip 3 xg.p.isLt (by decide)).trans <| (fld_skip 5 b_b (by decide)).trans <| (fld_skip 5 b_a (by decide)).trans <| fld_take b_d))
  have o_a : fbv w 15 5 = xa := fbv_eq (hE.symm ▸ ((fld_skip 6 (by decide) (by decide)).trans <| (fld_skip 1 (bit_lt xg.inv) (by decide)).trans <| (fld_skip 3 xg.p.isLt (by decide)).trans <| (fld_skip 5 b_b (by decide)).trans <| fld_take b_a))
  have o_b : fbv w 10 5 = xb := fbv_eq (hE.symm ▸ ((fld_skip 6 (by decide) (by decide)).trans <| (fld_skip 1 (bit_lt xg.inv) (by decide)).trans <| (fld_skip 3 xg.p.isLt (by decide)).trans <| fld_take b_b))
  have o_g : fguard w = xg := fguard_eq (hE.symm ▸ ((fld_skip 6 (by decide) (by decide)).trans <| (fld_skip 1 (bit_lt xg.inv) (by decide)).trans <| fld_take xg.p.isLt)) (hE.symm ▸ ((fld_skip 6 (by decide) (by decide)).trans <| fld_take (bit_lt xg.inv)))
  refine decodeNat_of_raw ((decodeRaw_20 hm).trans ?_) hw
  unfold decodeMajor20
  refine (if_neg fun h => absurd (f_0_6.symm.trans h) (by decide)).trans ?_
  refine (if_neg fun h => absurd (f_0_6.symm.trans h) (by decide)).trans ?_
  refine (if_neg fun h => absurd (f_0_6.symm.trans h) (by decide)).trans ?_
  refine (if_neg fun h => absurd (f_0_6.symm.trans h) (by decide)).trans ?_
  refine (if_neg fun h => absurd (f_0_6.symm.trans h) (by decide)).trans ?_
  refine (if_neg fun h => absurd (f_0_6.symm.trans h) (by decide)).trans ?_
  refine (if_neg fun h => absurd (f_0_6.symm.trans h) (by decide)).trans ?_
  refine (if_neg fun h => absurd (f_0_6.symm.trans h) (by decide)).trans ?_
  refine (if_neg fun h => absurd (f_0_6.symm.trans h) (by decide)).trans ?_
  refine (if_neg fun h => absurd (f_0_6.symm.trans h) (by decide)).trans ?_
  refine (if_neg fun h => absurd (f_0_6.symm.trans h) (by decide)).trans ?_
  refine (if_neg fun h => absurd (f_0_6.symm.trans h) (by decide)).trans ?_
  refine (if_neg fun h => absurd (f_0_6.symm.trans h) (by decide)).trans ?_
  refine (if_pos f_0_6).trans ?_
  simp only [o_d, o_a, o_b, o_g]

theorem RoundTrip.minz (xd : BitVec 5) (xa : BitVec 5) (xb : BitVec 5) (xg : Guard) : RoundTrip.Statement (.minz xd xa xb xg) := by
  intro hw w h
  have hE : w = 18 + 2 ^ 6 * (bit xg.inv + 2 ^ 1 * (xg.p.toNat + 2 ^ 3 * (xb.toNat + 2 ^ 5 * (xa.toNat + 2 ^ 5 * (xd.toNat + 2 ^ 5 * (32)))))) := by have := Option.some.inj h; simp only [guardBits] at this; omega
  have b_d := xd.isLt
  have b_a := xa.isLt
  have b_b := xb.isLt
  have b_g := xg.p.isLt
  have b'_g := bit_lt xg.inv
  have hm : fld w 25 6 = 0x20 := hE.symm ▸ ((fld_skip 6 (by decide) (by decide)).trans <| (fld_skip 1 (bit_lt xg.inv) (by decide)).trans <| (fld_skip 3 xg.p.isLt (by decide)).trans <| (fld_skip 5 b_b (by decide)).trans <| (fld_skip 5 b_a (by decide)).trans <| (fld_skip 5 b_d (by decide)).trans <| fld_whole (by decide))
  have f_0_6 : fld w 0 6 = 0x12 := hE.symm ▸ (fld_take (by decide))
  have o_d : fbv w 20 5 = xd := fbv_eq (hE.symm ▸ ((fld_skip 6 (by decide) (by decide)).trans <| (fld_skip 1 (bit_lt xg.inv) (by decide)).trans <| (fld_skip 3 xg.p.isLt (by decide)).trans <| (fld_skip 5 b_b (by decide)).trans <| (fld_skip 5 b_a (by decide)).trans <| fld_take b_d))
  have o_a : fbv w 15 5 = xa := fbv_eq (hE.symm ▸ ((fld_skip 6 (by decide) (by decide)).trans <| (fld_skip 1 (bit_lt xg.inv) (by decide)).trans <| (fld_skip 3 xg.p.isLt (by decide)).trans <| (fld_skip 5 b_b (by decide)).trans <| fld_take b_a))
  have o_b : fbv w 10 5 = xb := fbv_eq (hE.symm ▸ ((fld_skip 6 (by decide) (by decide)).trans <| (fld_skip 1 (bit_lt xg.inv) (by decide)).trans <| (fld_skip 3 xg.p.isLt (by decide)).trans <| fld_take b_b))
  have o_g : fguard w = xg := fguard_eq (hE.symm ▸ ((fld_skip 6 (by decide) (by decide)).trans <| (fld_skip 1 (bit_lt xg.inv) (by decide)).trans <| fld_take xg.p.isLt)) (hE.symm ▸ ((fld_skip 6 (by decide) (by decide)).trans <| fld_take (bit_lt xg.inv)))
  refine decodeNat_of_raw ((decodeRaw_20 hm).trans ?_) hw
  unfold decodeMajor20
  refine (if_neg fun h => absurd (f_0_6.symm.trans h) (by decide)).trans ?_
  refine (if_neg fun h => absurd (f_0_6.symm.trans h) (by decide)).trans ?_
  refine (if_neg fun h => absurd (f_0_6.symm.trans h) (by decide)).trans ?_
  refine (if_neg fun h => absurd (f_0_6.symm.trans h) (by decide)).trans ?_
  refine (if_neg fun h => absurd (f_0_6.symm.trans h) (by decide)).trans ?_
  refine (if_neg fun h => absurd (f_0_6.symm.trans h) (by decide)).trans ?_
  refine (if_neg fun h => absurd (f_0_6.symm.trans h) (by decide)).trans ?_
  refine (if_neg fun h => absurd (f_0_6.symm.trans h) (by decide)).trans ?_
  refine (if_neg fun h => absurd (f_0_6.symm.trans h) (by decide)).trans ?_
  refine (if_neg fun h => absurd (f_0_6.symm.trans h) (by decide)).trans ?_
  refine (if_neg fun h => absurd (f_0_6.symm.trans h) (by decide)).trans ?_
  refine (if_neg fun h => absurd (f_0_6.symm.trans h) (by decide)).trans ?_
  refine (if_neg fun h => absurd (f_0_6.symm.trans h) (by decide)).trans ?_
  refine (if_neg fun h => absurd (f_0_6.symm.trans h) (by decide)).trans ?_
  refine (if_pos f_0_6).trans ?_
  simp only [o_d, o_a, o_b, o_g]

theorem RoundTrip.maxz (xd : BitVec 5) (xa : BitVec 5) (xb : BitVec 5) (xg : Guard) : RoundTrip.Statement (.maxz xd xa xb xg) := by
  intro hw w h
  have hE : w = 19 + 2 ^ 6 * (bit xg.inv + 2 ^ 1 * (xg.p.toNat + 2 ^ 3 * (xb.toNat + 2 ^ 5 * (xa.toNat + 2 ^ 5 * (xd.toNat + 2 ^ 5 * (32)))))) := by have := Option.some.inj h; simp only [guardBits] at this; omega
  have b_d := xd.isLt
  have b_a := xa.isLt
  have b_b := xb.isLt
  have b_g := xg.p.isLt
  have b'_g := bit_lt xg.inv
  have hm : fld w 25 6 = 0x20 := hE.symm ▸ ((fld_skip 6 (by decide) (by decide)).trans <| (fld_skip 1 (bit_lt xg.inv) (by decide)).trans <| (fld_skip 3 xg.p.isLt (by decide)).trans <| (fld_skip 5 b_b (by decide)).trans <| (fld_skip 5 b_a (by decide)).trans <| (fld_skip 5 b_d (by decide)).trans <| fld_whole (by decide))
  have f_0_6 : fld w 0 6 = 0x13 := hE.symm ▸ (fld_take (by decide))
  have o_d : fbv w 20 5 = xd := fbv_eq (hE.symm ▸ ((fld_skip 6 (by decide) (by decide)).trans <| (fld_skip 1 (bit_lt xg.inv) (by decide)).trans <| (fld_skip 3 xg.p.isLt (by decide)).trans <| (fld_skip 5 b_b (by decide)).trans <| (fld_skip 5 b_a (by decide)).trans <| fld_take b_d))
  have o_a : fbv w 15 5 = xa := fbv_eq (hE.symm ▸ ((fld_skip 6 (by decide) (by decide)).trans <| (fld_skip 1 (bit_lt xg.inv) (by decide)).trans <| (fld_skip 3 xg.p.isLt (by decide)).trans <| (fld_skip 5 b_b (by decide)).trans <| fld_take b_a))
  have o_b : fbv w 10 5 = xb := fbv_eq (hE.symm ▸ ((fld_skip 6 (by decide) (by decide)).trans <| (fld_skip 1 (bit_lt xg.inv) (by decide)).trans <| (fld_skip 3 xg.p.isLt (by decide)).trans <| fld_take b_b))
  have o_g : fguard w = xg := fguard_eq (hE.symm ▸ ((fld_skip 6 (by decide) (by decide)).trans <| (fld_skip 1 (bit_lt xg.inv) (by decide)).trans <| fld_take xg.p.isLt)) (hE.symm ▸ ((fld_skip 6 (by decide) (by decide)).trans <| fld_take (bit_lt xg.inv)))
  refine decodeNat_of_raw ((decodeRaw_20 hm).trans ?_) hw
  unfold decodeMajor20
  refine (if_neg fun h => absurd (f_0_6.symm.trans h) (by decide)).trans ?_
  refine (if_neg fun h => absurd (f_0_6.symm.trans h) (by decide)).trans ?_
  refine (if_neg fun h => absurd (f_0_6.symm.trans h) (by decide)).trans ?_
  refine (if_neg fun h => absurd (f_0_6.symm.trans h) (by decide)).trans ?_
  refine (if_neg fun h => absurd (f_0_6.symm.trans h) (by decide)).trans ?_
  refine (if_neg fun h => absurd (f_0_6.symm.trans h) (by decide)).trans ?_
  refine (if_neg fun h => absurd (f_0_6.symm.trans h) (by decide)).trans ?_
  refine (if_neg fun h => absurd (f_0_6.symm.trans h) (by decide)).trans ?_
  refine (if_neg fun h => absurd (f_0_6.symm.trans h) (by decide)).trans ?_
  refine (if_neg fun h => absurd (f_0_6.symm.trans h) (by decide)).trans ?_
  refine (if_neg fun h => absurd (f_0_6.symm.trans h) (by decide)).trans ?_
  refine (if_neg fun h => absurd (f_0_6.symm.trans h) (by decide)).trans ?_
  refine (if_neg fun h => absurd (f_0_6.symm.trans h) (by decide)).trans ?_
  refine (if_neg fun h => absurd (f_0_6.symm.trans h) (by decide)).trans ?_
  refine (if_neg fun h => absurd (f_0_6.symm.trans h) (by decide)).trans ?_
  refine (if_pos f_0_6).trans ?_
  simp only [o_d, o_a, o_b, o_g]

theorem RoundTrip.addsh (xd : BitVec 5) (xa : BitVec 5) (xb : BitVec 5) (xg : Guard) (xs : BitVec 3) : RoundTrip.Statement (.addsh xd xa xb xg xs) := by
  intro hw w h
  have hE : w = xs.toNat + 2 ^ 3 * (3 + 2 ^ 3 * (bit xg.inv + 2 ^ 1 * (xg.p.toNat + 2 ^ 3 * (xb.toNat + 2 ^ 5 * (xa.toNat + 2 ^ 5 * (xd.toNat + 2 ^ 5 * (32))))))) := by have := Option.some.inj h; simp only [guardBits] at this; omega
  have b_d := xd.isLt
  have b_a := xa.isLt
  have b_b := xb.isLt
  have b_g := xg.p.isLt
  have b'_g := bit_lt xg.inv
  have b_s := xs.isLt
  have hm : fld w 25 6 = 0x20 := hE.symm ▸ ((fld_skip 3 b_s (by decide)).trans <| (fld_skip 3 (by decide) (by decide)).trans <| (fld_skip 1 (bit_lt xg.inv) (by decide)).trans <| (fld_skip 3 xg.p.isLt (by decide)).trans <| (fld_skip 5 b_b (by decide)).trans <| (fld_skip 5 b_a (by decide)).trans <| (fld_skip 5 b_d (by decide)).trans <| fld_whole (by decide))
  have f_3_3 : fld w 3 3 = 0x3 := hE.symm ▸ ((fld_skip 3 b_s (by decide)).trans <| fld_take (by decide))
  have t_3 : fld w 3 1 = 1 := hE.symm ▸ ((fld_skip 3 b_s (by decide)).trans <| (fld_low (by decide)).trans (by decide))
  have t_4 : fld w 4 1 = 1 := hE.symm ▸ ((fld_skip 3 b_s (by decide)).trans <| (fld_low (by decide)).trans (by decide))
  have o_d : fbv w 20 5 = xd := fbv_eq (hE.symm ▸ ((fld_skip 3 b_s (by decide)).trans <| (fld_skip 3 (by decide) (by decide)).trans <| (fld_skip 1 (bit_lt xg.inv) (by decide)).trans <| (fld_skip 3 xg.p.isLt (by decide)).trans <| (fld_skip 5 b_b (by decide)).trans <| (fld_skip 5 b_a (by decide)).trans <| fld_take b_d))
  have o_a : fbv w 15 5 = xa := fbv_eq (hE.symm ▸ ((fld_skip 3 b_s (by decide)).trans <| (fld_skip 3 (by decide) (by decide)).trans <| (fld_skip 1 (bit_lt xg.inv) (by decide)).trans <| (fld_skip 3 xg.p.isLt (by decide)).trans <| (fld_skip 5 b_b (by decide)).trans <| fld_take b_a))
  have o_b : fbv w 10 5 = xb := fbv_eq (hE.symm ▸ ((fld_skip 3 b_s (by decide)).trans <| (fld_skip 3 (by decide) (by decide)).trans <| (fld_skip 1 (bit_lt xg.inv) (by decide)).trans <| (fld_skip 3 xg.p.isLt (by decide)).trans <| fld_take b_b))
  have o_g : fguard w = xg := fguard_eq (hE.symm ▸ ((fld_skip 3 b_s (by decide)).trans <| (fld_skip 3 (by decide) (by decide)).trans <| (fld_skip 1 (bit_lt xg.inv) (by decide)).trans <| fld_take xg.p.isLt)) (hE.symm ▸ ((fld_skip 3 b_s (by decide)).trans <| (fld_skip 3 (by decide) (by decide)).trans <| fld_take (bit_lt xg.inv)))
  have o_s : fbv w 0 3 = xs := fbv_eq (hE.symm ▸ (fld_take b_s))
  refine decodeNat_of_raw ((decodeRaw_20 hm).trans ?_) hw
  unfold decodeMajor20
  refine (if_neg fun h => fld_ne t_3 (by decide) (by decide) (by decide) h).trans ?_
  refine (if_neg fun h => fld_ne t_3 (by decide) (by decide) (by decide) h).trans ?_
  refine (if_neg fun h => fld_ne t_3 (by decide) (by decide) (by decide) h).trans ?_
  refine (if_neg fun h => fld_ne t_3 (by decide) (by decide) (by decide) h).trans ?_
  refine (if_neg fun h => fld_ne t_3 (by decide) (by decide) (by decide) h).trans ?_
  refine (if_neg fun h => fld_ne t_3 (by decide) (by decide) (by decide) h).trans ?_
  refine (if_neg fun h => fld_ne t_3 (by decide) (by decide) (by decide) h).trans ?_
  refine (if_neg fun h => fld_ne t_4 (by decide) (by decide) (by decide) h).trans ?_
  refine (if_neg fun h => fld_ne t_4 (by decide) (by decide) (by decide) h).trans ?_
  refine (if_neg fun h => fld_ne t_4 (by decide) (by decide) (by decide) h).trans ?_
  refine (if_neg fun h => fld_ne t_4 (by decide) (by decide) (by decide) h).trans ?_
  refine (if_neg fun h => fld_ne t_4 (by decide) (by decide) (by decide) h).trans ?_
  refine (if_neg fun h => fld_ne t_3 (by decide) (by decide) (by decide) h).trans ?_
  refine (if_neg fun h => fld_ne t_3 (by decide) (by decide) (by decide) h).trans ?_
  refine (if_neg fun h => fld_ne t_3 (by decide) (by decide) (by decide) h).trans ?_
  refine (if_neg fun h => fld_ne t_3 (by decide) (by decide) (by decide) h).trans ?_
  refine (if_pos f_3_3).trans ?_
  simp only [o_d, o_a, o_b, o_g, o_s]

theorem RoundTrip.sext (xd : BitVec 5) (xa : BitVec 5) (xg : Guard) (xw : SubWidth) : RoundTrip.Statement (.sext xd xa xg xw) := by
  intro hw w h
  have hE : w = xw.code + 2 ^ 2 * (8 + 2 ^ 4 * (bit xg.inv + 2 ^ 1 * (xg.p.toNat + 2 ^ 3 * (0 + 2 ^ 5 * (xa.toNat + 2 ^ 5 * (xd.toNat + 2 ^ 5 * (32))))))) := by have := Option.some.inj h; simp only [guardBits] at this; omega
  have b_d := xd.isLt
  have b_a := xa.isLt
  have b_g := xg.p.isLt
  have b'_g := bit_lt xg.inv
  have b_w := SubWidth.code_lt xw
  have hm : fld w 25 6 = 0x20 := hE.symm ▸ ((fld_skip 2 b_w (by decide)).trans <| (fld_skip 4 (by decide) (by decide)).trans <| (fld_skip 1 (bit_lt xg.inv) (by decide)).trans <| (fld_skip 3 xg.p.isLt (by decide)).trans <| (fld_skip 5 (by decide) (by decide)).trans <| (fld_skip 5 b_a (by decide)).trans <| (fld_skip 5 b_d (by decide)).trans <| fld_whole (by decide))
  have f_3_3 : fld w 3 3 = 0x4 := hE.symm ▸ ((fld_skip 2 b_w (by decide)).trans <| (fld_low (by decide)).trans (by decide))
  have f_2_4 : fld w 2 4 = 0x8 := hE.symm ▸ ((fld_skip 2 b_w (by decide)).trans <| fld_take (by decide))
  have f_10_5 : fld w 10 5 = 0x0 := hE.symm ▸ ((fld_skip 2 b_w (by decide)).trans <| (fld_skip 4 (by decide) (by decide)).trans <| (fld_skip 1 (bit_lt xg.inv) (by decide)).trans <| (fld_skip 3 xg.p.isLt (by decide)).trans <| fld_take (by decide))
  have t_5 : fld w 5 1 = 1 := hE.symm ▸ ((fld_skip 2 b_w (by decide)).trans <| (fld_low (by decide)).trans (by decide))
  have t_2 : fld w 2 1 = 0 := hE.symm ▸ ((fld_skip 2 b_w (by decide)).trans <| (fld_low (by decide)).trans (by decide))
  have t_3 : fld w 3 1 = 0 := hE.symm ▸ ((fld_skip 2 b_w (by decide)).trans <| (fld_low (by decide)).trans (by decide))
  have t_4 : fld w 4 1 = 0 := hE.symm ▸ ((fld_skip 2 b_w (by decide)).trans <| (fld_low (by decide)).trans (by decide))
  have o_d : fbv w 20 5 = xd := fbv_eq (hE.symm ▸ ((fld_skip 2 b_w (by decide)).trans <| (fld_skip 4 (by decide) (by decide)).trans <| (fld_skip 1 (bit_lt xg.inv) (by decide)).trans <| (fld_skip 3 xg.p.isLt (by decide)).trans <| (fld_skip 5 (by decide) (by decide)).trans <| (fld_skip 5 b_a (by decide)).trans <| fld_take b_d))
  have o_a : fbv w 15 5 = xa := fbv_eq (hE.symm ▸ ((fld_skip 2 b_w (by decide)).trans <| (fld_skip 4 (by decide) (by decide)).trans <| (fld_skip 1 (bit_lt xg.inv) (by decide)).trans <| (fld_skip 3 xg.p.isLt (by decide)).trans <| (fld_skip 5 (by decide) (by decide)).trans <| fld_take b_a))
  have o_g : fguard w = xg := fguard_eq (hE.symm ▸ ((fld_skip 2 b_w (by decide)).trans <| (fld_skip 4 (by decide) (by decide)).trans <| (fld_skip 1 (bit_lt xg.inv) (by decide)).trans <| fld_take xg.p.isLt)) (hE.symm ▸ ((fld_skip 2 b_w (by decide)).trans <| (fld_skip 4 (by decide) (by decide)).trans <| fld_take (bit_lt xg.inv)))
  have o_w : fld w 0 2 = xw.code := hE.symm ▸ (fld_take b_w)
  refine decodeNat_of_raw ((decodeRaw_20 hm).trans ?_) hw
  unfold decodeMajor20
  refine (if_neg fun h => fld_ne t_5 (by decide) (by decide) (by decide) h).trans ?_
  refine (if_neg fun h => fld_ne t_5 (by decide) (by decide) (by decide) h).trans ?_
  refine (if_neg fun h => fld_ne t_5 (by decide) (by decide) (by decide) h).trans ?_
  refine (if_neg fun h => fld_ne t_5 (by decide) (by decide) (by decide) h).trans ?_
  refine (if_neg fun h => fld_ne t_2 (by decide) (by decide) (by decide) h).trans ?_
  refine (if_neg fun h => fld_ne t_2 (by decide) (by decide) (by decide) h).trans ?_
  refine (if_neg fun h => fld_ne t_2 (by decide) (by decide) (by decide) h).trans ?_
  refine (if_neg fun h => fld_ne t_3 (by decide) (by decide) (by decide) h).trans ?_
  refine (if_neg fun h => fld_ne t_3 (by decide) (by decide) (by decide) h).trans ?_
  refine (if_neg fun h => fld_ne t_3 (by decide) (by decide) (by decide) h).trans ?_
  refine (if_neg fun h => fld_ne t_3 (by decide) (by decide) (by decide) h).trans ?_
  refine (if_neg fun h => fld_ne t_2 (by decide) (by decide) (by decide) h).trans ?_
  refine (if_neg fun h => fld_ne t_4 (by decide) (by decide) (by decide) h).trans ?_
  refine (if_neg fun h => fld_ne t_4 (by decide) (by decide) (by decide) h).trans ?_
  refine (if_neg fun h => fld_ne t_4 (by decide) (by decide) (by decide) h).trans ?_
  refine (if_neg fun h => fld_ne t_4 (by decide) (by decide) (by decide) h).trans ?_
  refine (if_neg fun h => absurd (f_3_3.symm.trans h) (by decide)).trans ?_
  refine (if_pos ⟨f_2_4, f_10_5⟩).trans ?_
  simp only [o_d, o_a, o_g, o_w, SubWidth.ofCode_code, Option.bind_some]

theorem RoundTrip.zext (xd : BitVec 5) (xa : BitVec 5) (xg : Guard) (xw : SubWidth) : RoundTrip.Statement (.zext xd xa xg xw) := by
  intro hw w h
  have hE : w = xw.code + 2 ^ 2 * (9 + 2 ^ 4 * (bit xg.inv + 2 ^ 1 * (xg.p.toNat + 2 ^ 3 * (0 + 2 ^ 5 * (xa.toNat + 2 ^ 5 * (xd.toNat + 2 ^ 5 * (32))))))) := by have := Option.some.inj h; simp only [guardBits] at this; omega
  have b_d := xd.isLt
  have b_a := xa.isLt
  have b_g := xg.p.isLt
  have b'_g := bit_lt xg.inv
  have b_w := SubWidth.code_lt xw
  have hm : fld w 25 6 = 0x20 := hE.symm ▸ ((fld_skip 2 b_w (by decide)).trans <| (fld_skip 4 (by decide) (by decide)).trans <| (fld_skip 1 (bit_lt xg.inv) (by decide)).trans <| (fld_skip 3 xg.p.isLt (by decide)).trans <| (fld_skip 5 (by decide) (by decide)).trans <| (fld_skip 5 b_a (by decide)).trans <| (fld_skip 5 b_d (by decide)).trans <| fld_whole (by decide))
  have f_3_3 : fld w 3 3 = 0x4 := hE.symm ▸ ((fld_skip 2 b_w (by decide)).trans <| (fld_low (by decide)).trans (by decide))
  have f_2_4 : fld w 2 4 = 0x9 := hE.symm ▸ ((fld_skip 2 b_w (by decide)).trans <| fld_take (by decide))
  have f_10_5 : fld w 10 5 = 0x0 := hE.symm ▸ ((fld_skip 2 b_w (by decide)).trans <| (fld_skip 4 (by decide) (by decide)).trans <| (fld_skip 1 (bit_lt xg.inv) (by decide)).trans <| (fld_skip 3 xg.p.isLt (by decide)).trans <| fld_take (by decide))
  have t_2 : fld w 2 1 = 1 := hE.symm ▸ ((fld_skip 2 b_w (by decide)).trans <| (fld_low (by decide)).trans (by decide))
  have t_5 : fld w 5 1 = 1 := hE.symm ▸ ((fld_skip 2 b_w (by decide)).trans <| (fld_low (by decide)).trans (by decide))
  have t_3 : fld w 3 1 = 0 := hE.symm ▸ ((fld_skip 2 b_w (by decide)).trans <| (fld_low (by decide)).trans (by decide))
  have o_d : fbv w 20 5 = xd := fbv_eq (hE.symm ▸ ((fld_skip 2 b_w (by decide)).trans <| (fld_skip 4 (by decide) (by decide)).trans <| (fld_skip 1 (bit_lt xg.inv) (by decide)).trans <| (fld_skip 3 xg.p.isLt (by decide)).trans <| (fld_skip 5 (by decide) (by decide)).trans <| (fld_skip 5 b_a (by decide)).trans <| fld_take b_d))
  have o_a : fbv w 15 5 = xa := fbv_eq (hE.symm ▸ ((fld_skip 2 b_w (by decide)).trans <| (fld_skip 4 (by decide) (by decide)).trans <| (fld_skip 1 (bit_lt xg.inv) (by decide)).trans <| (fld_skip 3 xg.p.isLt (by decide)).trans <| (fld_skip 5 (by decide) (by decide)).trans <| fld_take b_a))
  have o_g : fguard w = xg := fguard_eq (hE.symm ▸ ((fld_skip 2 b_w (by decide)).trans <| (fld_skip 4 (by decide) (by decide)).trans <| (fld_skip 1 (bit_lt xg.inv) (by decide)).trans <| fld_take xg.p.isLt)) (hE.symm ▸ ((fld_skip 2 b_w (by decide)).trans <| (fld_skip 4 (by decide) (by decide)).trans <| fld_take (bit_lt xg.inv)))
  have o_w : fld w 0 2 = xw.code := hE.symm ▸ (fld_take b_w)
  refine decodeNat_of_raw ((decodeRaw_20 hm).trans ?_) hw
  unfold decodeMajor20
  refine (if_neg fun h => fld_ne t_2 (by decide) (by decide) (by decide) h).trans ?_
  refine (if_neg fun h => fld_ne t_2 (by decide) (by decide) (by decide) h).trans ?_
  refine (if_neg fun h => fld_ne t_2 (by decide) (by decide) (by decide) h).trans ?_
  refine (if_neg fun h => fld_ne t_2 (by decide) (by decide) (by decide) h).trans ?_
  refine (if_neg fun h => fld_ne t_5 (by decide) (by decide) (by decide) h).trans ?_
  refine (if_neg fun h => fld_ne t_5 (by decide) (by decide) (by decide) h).trans ?_
  refine (if_neg fun h => fld_ne t_5 (by decide) (by decide) (by decide) h).trans ?_
  refine (if_neg fun h => fld_ne t_2 (by decide) (by decide) (by decide) h).trans ?_
  refine (if_neg fun h => fld_ne t_2 (by decide) (by decide) (by decide) h).trans ?_
  refine (if_neg fun h => fld_ne t_2 (by decide) (by decide) (by decide) h).trans ?_
  refine (if_neg fun h => fld_ne t_2 (by decide) (by decide) (by decide) h).trans ?_
  refine (if_neg fun h => fld_ne t_3 (by decide) (by decide) (by decide) h).trans ?_
  refine (if_neg fun h => fld_ne t_2 (by decide) (by decide) (by decide) h).trans ?_
  refine (if_neg fun h => fld_ne t_2 (by decide) (by decide) (by decide) h).trans ?_
  refine (if_neg fun h => fld_ne t_2 (by decide) (by decide) (by decide) h).trans ?_
  refine (if_neg fun h => fld_ne t_2 (by decide) (by decide) (by decide) h).trans ?_
  refine (if_neg fun h => absurd (f_3_3.symm.trans h) (by decide)).trans ?_
  refine (if_neg fun h => absurd (f_2_4.symm.trans h.1) (by decide)).trans ?_
  refine (if_pos ⟨f_2_4, f_10_5⟩).trans ?_
  simp only [o_d, o_a, o_g, o_w, SubWidth.ofCode_code, Option.bind_some]

theorem RoundTrip.clz (xd : BitVec 5) (xa : BitVec 5) (xg : Guard) : RoundTrip.Statement (.clz xd xa xg) := by
  intro hw w h
  have hE : w = 40 + 2 ^ 6 * (bit xg.inv + 2 ^ 1 * (xg.p.toNat + 2 ^ 3 * (0 + 2 ^ 5 * (xa.toNat + 2 ^ 5 * (xd.toNat + 2 ^ 5 * (32)))))) := by have := Option.some.inj h; simp only [guardBits] at this; omega
  have b_d := xd.isLt
  have b_a := xa.isLt
  have b_g := xg.p.isLt
  have b'_g := bit_lt xg.inv
  have hm : fld w 25 6 = 0x20 := hE.symm ▸ ((fld_skip 6 (by decide) (by decide)).trans <| (fld_skip 1 (bit_lt xg.inv) (by decide)).trans <| (fld_skip 3 xg.p.isLt (by decide)).trans <| (fld_skip 5 (by decide) (by decide)).trans <| (fld_skip 5 b_a (by decide)).trans <| (fld_skip 5 b_d (by decide)).trans <| fld_whole (by decide))
  have f_0_6 : fld w 0 6 = 0x28 := hE.symm ▸ (fld_take (by decide))
  have f_3_3 : fld w 3 3 = 0x5 := hE.symm ▸ ((fld_low (by decide)).trans (by decide))
  have f_2_4 : fld w 2 4 = 0xA := hE.symm ▸ ((fld_low (by decide)).trans (by decide))
  have f_10_5 : fld w 10 5 = 0x0 := hE.symm ▸ ((fld_skip 6 (by decide) (by decide)).trans <| (fld_skip 1 (bit_lt xg.inv) (by decide)).trans <| (fld_skip 3 xg.p.isLt (by decide)).trans <| fld_take (by decide))
  have o_d : fbv w 20 5 = xd := fbv_eq (hE.symm ▸ ((fld_skip 6 (by decide) (by decide)).trans <| (fld_skip 1 (bit_lt xg.inv) (by decide)).trans <| (fld_skip 3 xg.p.isLt (by decide)).trans <| (fld_skip 5 (by decide) (by decide)).trans <| (fld_skip 5 b_a (by decide)).trans <| fld_take b_d))
  have o_a : fbv w 15 5 = xa := fbv_eq (hE.symm ▸ ((fld_skip 6 (by decide) (by decide)).trans <| (fld_skip 1 (bit_lt xg.inv) (by decide)).trans <| (fld_skip 3 xg.p.isLt (by decide)).trans <| (fld_skip 5 (by decide) (by decide)).trans <| fld_take b_a))
  have o_g : fguard w = xg := fguard_eq (hE.symm ▸ ((fld_skip 6 (by decide) (by decide)).trans <| (fld_skip 1 (bit_lt xg.inv) (by decide)).trans <| fld_take xg.p.isLt)) (hE.symm ▸ ((fld_skip 6 (by decide) (by decide)).trans <| fld_take (bit_lt xg.inv)))
  refine decodeNat_of_raw ((decodeRaw_20 hm).trans ?_) hw
  unfold decodeMajor20
  refine (if_neg fun h => absurd (f_0_6.symm.trans h) (by decide)).trans ?_
  refine (if_neg fun h => absurd (f_0_6.symm.trans h) (by decide)).trans ?_
  refine (if_neg fun h => absurd (f_0_6.symm.trans h) (by decide)).trans ?_
  refine (if_neg fun h => absurd (f_0_6.symm.trans h) (by decide)).trans ?_
  refine (if_neg fun h => absurd (f_0_6.symm.trans h) (by decide)).trans ?_
  refine (if_neg fun h => absurd (f_0_6.symm.trans h) (by decide)).trans ?_
  refine (if_neg fun h => absurd (f_0_6.symm.trans h) (by decide)).trans ?_
  refine (if_neg fun h => absurd (f_0_6.symm.trans h) (by decide)).trans ?_
  refine (if_neg fun h => absurd (f_0_6.symm.trans h) (by decide)).trans ?_
  refine (if_neg fun h => absurd (f_0_6.symm.trans h) (by decide)).trans ?_
  refine (if_neg fun h => absurd (f_0_6.symm.trans h) (by decide)).trans ?_
  refine (if_neg fun h => absurd (f_0_6.symm.trans h) (by decide)).trans ?_
  refine (if_neg fun h => absurd (f_0_6.symm.trans h) (by decide)).trans ?_
  refine (if_neg fun h => absurd (f_0_6.symm.trans h) (by decide)).trans ?_
  refine (if_neg fun h => absurd (f_0_6.symm.trans h) (by decide)).trans ?_
  refine (if_neg fun h => absurd (f_0_6.symm.trans h) (by decide)).trans ?_
  refine (if_neg fun h => absurd (f_3_3.symm.trans h) (by decide)).trans ?_
  refine (if_neg fun h => absurd (f_2_4.symm.trans h.1) (by decide)).trans ?_
  refine (if_neg fun h => absurd (f_2_4.symm.trans h.1) (by decide)).trans ?_
  refine (if_pos ⟨f_0_6, f_10_5⟩).trans ?_
  simp only [o_d, o_a, o_g]

theorem RoundTrip.ctz (xd : BitVec 5) (xa : BitVec 5) (xg : Guard) : RoundTrip.Statement (.ctz xd xa xg) := by
  intro hw w h
  have hE : w = 41 + 2 ^ 6 * (bit xg.inv + 2 ^ 1 * (xg.p.toNat + 2 ^ 3 * (0 + 2 ^ 5 * (xa.toNat + 2 ^ 5 * (xd.toNat + 2 ^ 5 * (32)))))) := by have := Option.some.inj h; simp only [guardBits] at this; omega
  have b_d := xd.isLt
  have b_a := xa.isLt
  have b_g := xg.p.isLt
  have b'_g := bit_lt xg.inv
  have hm : fld w 25 6 = 0x20 := hE.symm ▸ ((fld_skip 6 (by decide) (by decide)).trans <| (fld_skip 1 (bit_lt xg.inv) (by decide)).trans <| (fld_skip 3 xg.p.isLt (by decide)).trans <| (fld_skip 5 (by decide) (by decide)).trans <| (fld_skip 5 b_a (by decide)).trans <| (fld_skip 5 b_d (by decide)).trans <| fld_whole (by decide))
  have f_0_6 : fld w 0 6 = 0x29 := hE.symm ▸ (fld_take (by decide))
  have f_3_3 : fld w 3 3 = 0x5 := hE.symm ▸ ((fld_low (by decide)).trans (by decide))
  have f_2_4 : fld w 2 4 = 0xA := hE.symm ▸ ((fld_low (by decide)).trans (by decide))
  have f_10_5 : fld w 10 5 = 0x0 := hE.symm ▸ ((fld_skip 6 (by decide) (by decide)).trans <| (fld_skip 1 (bit_lt xg.inv) (by decide)).trans <| (fld_skip 3 xg.p.isLt (by decide)).trans <| fld_take (by decide))
  have o_d : fbv w 20 5 = xd := fbv_eq (hE.symm ▸ ((fld_skip 6 (by decide) (by decide)).trans <| (fld_skip 1 (bit_lt xg.inv) (by decide)).trans <| (fld_skip 3 xg.p.isLt (by decide)).trans <| (fld_skip 5 (by decide) (by decide)).trans <| (fld_skip 5 b_a (by decide)).trans <| fld_take b_d))
  have o_a : fbv w 15 5 = xa := fbv_eq (hE.symm ▸ ((fld_skip 6 (by decide) (by decide)).trans <| (fld_skip 1 (bit_lt xg.inv) (by decide)).trans <| (fld_skip 3 xg.p.isLt (by decide)).trans <| (fld_skip 5 (by decide) (by decide)).trans <| fld_take b_a))
  have o_g : fguard w = xg := fguard_eq (hE.symm ▸ ((fld_skip 6 (by decide) (by decide)).trans <| (fld_skip 1 (bit_lt xg.inv) (by decide)).trans <| fld_take xg.p.isLt)) (hE.symm ▸ ((fld_skip 6 (by decide) (by decide)).trans <| fld_take (bit_lt xg.inv)))
  refine decodeNat_of_raw ((decodeRaw_20 hm).trans ?_) hw
  unfold decodeMajor20
  refine (if_neg fun h => absurd (f_0_6.symm.trans h) (by decide)).trans ?_
  refine (if_neg fun h => absurd (f_0_6.symm.trans h) (by decide)).trans ?_
  refine (if_neg fun h => absurd (f_0_6.symm.trans h) (by decide)).trans ?_
  refine (if_neg fun h => absurd (f_0_6.symm.trans h) (by decide)).trans ?_
  refine (if_neg fun h => absurd (f_0_6.symm.trans h) (by decide)).trans ?_
  refine (if_neg fun h => absurd (f_0_6.symm.trans h) (by decide)).trans ?_
  refine (if_neg fun h => absurd (f_0_6.symm.trans h) (by decide)).trans ?_
  refine (if_neg fun h => absurd (f_0_6.symm.trans h) (by decide)).trans ?_
  refine (if_neg fun h => absurd (f_0_6.symm.trans h) (by decide)).trans ?_
  refine (if_neg fun h => absurd (f_0_6.symm.trans h) (by decide)).trans ?_
  refine (if_neg fun h => absurd (f_0_6.symm.trans h) (by decide)).trans ?_
  refine (if_neg fun h => absurd (f_0_6.symm.trans h) (by decide)).trans ?_
  refine (if_neg fun h => absurd (f_0_6.symm.trans h) (by decide)).trans ?_
  refine (if_neg fun h => absurd (f_0_6.symm.trans h) (by decide)).trans ?_
  refine (if_neg fun h => absurd (f_0_6.symm.trans h) (by decide)).trans ?_
  refine (if_neg fun h => absurd (f_0_6.symm.trans h) (by decide)).trans ?_
  refine (if_neg fun h => absurd (f_3_3.symm.trans h) (by decide)).trans ?_
  refine (if_neg fun h => absurd (f_2_4.symm.trans h.1) (by decide)).trans ?_
  refine (if_neg fun h => absurd (f_2_4.symm.trans h.1) (by decide)).trans ?_
  refine (if_neg fun h => absurd (f_0_6.symm.trans h.1) (by decide)).trans ?_
  refine (if_pos ⟨f_0_6, f_10_5⟩).trans ?_
  simp only [o_d, o_a, o_g]

theorem RoundTrip.popc (xd : BitVec 5) (xa : BitVec 5) (xg : Guard) : RoundTrip.Statement (.popc xd xa xg) := by
  intro hw w h
  have hE : w = 42 + 2 ^ 6 * (bit xg.inv + 2 ^ 1 * (xg.p.toNat + 2 ^ 3 * (0 + 2 ^ 5 * (xa.toNat + 2 ^ 5 * (xd.toNat + 2 ^ 5 * (32)))))) := by have := Option.some.inj h; simp only [guardBits] at this; omega
  have b_d := xd.isLt
  have b_a := xa.isLt
  have b_g := xg.p.isLt
  have b'_g := bit_lt xg.inv
  have hm : fld w 25 6 = 0x20 := hE.symm ▸ ((fld_skip 6 (by decide) (by decide)).trans <| (fld_skip 1 (bit_lt xg.inv) (by decide)).trans <| (fld_skip 3 xg.p.isLt (by decide)).trans <| (fld_skip 5 (by decide) (by decide)).trans <| (fld_skip 5 b_a (by decide)).trans <| (fld_skip 5 b_d (by decide)).trans <| fld_whole (by decide))
  have f_0_6 : fld w 0 6 = 0x2A := hE.symm ▸ (fld_take (by decide))
  have f_3_3 : fld w 3 3 = 0x5 := hE.symm ▸ ((fld_low (by decide)).trans (by decide))
  have f_2_4 : fld w 2 4 = 0xA := hE.symm ▸ ((fld_low (by decide)).trans (by decide))
  have f_10_5 : fld w 10 5 = 0x0 := hE.symm ▸ ((fld_skip 6 (by decide) (by decide)).trans <| (fld_skip 1 (bit_lt xg.inv) (by decide)).trans <| (fld_skip 3 xg.p.isLt (by decide)).trans <| fld_take (by decide))
  have o_d : fbv w 20 5 = xd := fbv_eq (hE.symm ▸ ((fld_skip 6 (by decide) (by decide)).trans <| (fld_skip 1 (bit_lt xg.inv) (by decide)).trans <| (fld_skip 3 xg.p.isLt (by decide)).trans <| (fld_skip 5 (by decide) (by decide)).trans <| (fld_skip 5 b_a (by decide)).trans <| fld_take b_d))
  have o_a : fbv w 15 5 = xa := fbv_eq (hE.symm ▸ ((fld_skip 6 (by decide) (by decide)).trans <| (fld_skip 1 (bit_lt xg.inv) (by decide)).trans <| (fld_skip 3 xg.p.isLt (by decide)).trans <| (fld_skip 5 (by decide) (by decide)).trans <| fld_take b_a))
  have o_g : fguard w = xg := fguard_eq (hE.symm ▸ ((fld_skip 6 (by decide) (by decide)).trans <| (fld_skip 1 (bit_lt xg.inv) (by decide)).trans <| fld_take xg.p.isLt)) (hE.symm ▸ ((fld_skip 6 (by decide) (by decide)).trans <| fld_take (bit_lt xg.inv)))
  refine decodeNat_of_raw ((decodeRaw_20 hm).trans ?_) hw
  unfold decodeMajor20
  refine (if_neg fun h => absurd (f_0_6.symm.trans h) (by decide)).trans ?_
  refine (if_neg fun h => absurd (f_0_6.symm.trans h) (by decide)).trans ?_
  refine (if_neg fun h => absurd (f_0_6.symm.trans h) (by decide)).trans ?_
  refine (if_neg fun h => absurd (f_0_6.symm.trans h) (by decide)).trans ?_
  refine (if_neg fun h => absurd (f_0_6.symm.trans h) (by decide)).trans ?_
  refine (if_neg fun h => absurd (f_0_6.symm.trans h) (by decide)).trans ?_
  refine (if_neg fun h => absurd (f_0_6.symm.trans h) (by decide)).trans ?_
  refine (if_neg fun h => absurd (f_0_6.symm.trans h) (by decide)).trans ?_
  refine (if_neg fun h => absurd (f_0_6.symm.trans h) (by decide)).trans ?_
  refine (if_neg fun h => absurd (f_0_6.symm.trans h) (by decide)).trans ?_
  refine (if_neg fun h => absurd (f_0_6.symm.trans h) (by decide)).trans ?_
  refine (if_neg fun h => absurd (f_0_6.symm.trans h) (by decide)).trans ?_
  refine (if_neg fun h => absurd (f_0_6.symm.trans h) (by decide)).trans ?_
  refine (if_neg fun h => absurd (f_0_6.symm.trans h) (by decide)).trans ?_
  refine (if_neg fun h => absurd (f_0_6.symm.trans h) (by decide)).trans ?_
  refine (if_neg fun h => absurd (f_0_6.symm.trans h) (by decide)).trans ?_
  refine (if_neg fun h => absurd (f_3_3.symm.trans h) (by decide)).trans ?_
  refine (if_neg fun h => absurd (f_2_4.symm.trans h.1) (by decide)).trans ?_
  refine (if_neg fun h => absurd (f_2_4.symm.trans h.1) (by decide)).trans ?_
  refine (if_neg fun h => absurd (f_0_6.symm.trans h.1) (by decide)).trans ?_
  refine (if_neg fun h => absurd (f_0_6.symm.trans h.1) (by decide)).trans ?_
  refine (if_pos ⟨f_0_6, f_10_5⟩).trans ?_
  simp only [o_d, o_a, o_g]

theorem RoundTrip.bswap (xd : BitVec 5) (xa : BitVec 5) (xg : Guard) : RoundTrip.Statement (.bswap xd xa xg) := by
  intro hw w h
  have hE : w = 43 + 2 ^ 6 * (bit xg.inv + 2 ^ 1 * (xg.p.toNat + 2 ^ 3 * (0 + 2 ^ 5 * (xa.toNat + 2 ^ 5 * (xd.toNat + 2 ^ 5 * (32)))))) := by have := Option.some.inj h; simp only [guardBits] at this; omega
  have b_d := xd.isLt
  have b_a := xa.isLt
  have b_g := xg.p.isLt
  have b'_g := bit_lt xg.inv
  have hm : fld w 25 6 = 0x20 := hE.symm ▸ ((fld_skip 6 (by decide) (by decide)).trans <| (fld_skip 1 (bit_lt xg.inv) (by decide)).trans <| (fld_skip 3 xg.p.isLt (by decide)).trans <| (fld_skip 5 (by decide) (by decide)).trans <| (fld_skip 5 b_a (by decide)).trans <| (fld_skip 5 b_d (by decide)).trans <| fld_whole (by decide))
  have f_0_6 : fld w 0 6 = 0x2B := hE.symm ▸ (fld_take (by decide))
  have f_3_3 : fld w 3 3 = 0x5 := hE.symm ▸ ((fld_low (by decide)).trans (by decide))
  have f_2_4 : fld w 2 4 = 0xA := hE.symm ▸ ((fld_low (by decide)).trans (by decide))
  have f_10_5 : fld w 10 5 = 0x0 := hE.symm ▸ ((fld_skip 6 (by decide) (by decide)).trans <| (fld_skip 1 (bit_lt xg.inv) (by decide)).trans <| (fld_skip 3 xg.p.isLt (by decide)).trans <| fld_take (by decide))
  have o_d : fbv w 20 5 = xd := fbv_eq (hE.symm ▸ ((fld_skip 6 (by decide) (by decide)).trans <| (fld_skip 1 (bit_lt xg.inv) (by decide)).trans <| (fld_skip 3 xg.p.isLt (by decide)).trans <| (fld_skip 5 (by decide) (by decide)).trans <| (fld_skip 5 b_a (by decide)).trans <| fld_take b_d))
  have o_a : fbv w 15 5 = xa := fbv_eq (hE.symm ▸ ((fld_skip 6 (by decide) (by decide)).trans <| (fld_skip 1 (bit_lt xg.inv) (by decide)).trans <| (fld_skip 3 xg.p.isLt (by decide)).trans <| (fld_skip 5 (by decide) (by decide)).trans <| fld_take b_a))
  have o_g : fguard w = xg := fguard_eq (hE.symm ▸ ((fld_skip 6 (by decide) (by decide)).trans <| (fld_skip 1 (bit_lt xg.inv) (by decide)).trans <| fld_take xg.p.isLt)) (hE.symm ▸ ((fld_skip 6 (by decide) (by decide)).trans <| fld_take (bit_lt xg.inv)))
  refine decodeNat_of_raw ((decodeRaw_20 hm).trans ?_) hw
  unfold decodeMajor20
  refine (if_neg fun h => absurd (f_0_6.symm.trans h) (by decide)).trans ?_
  refine (if_neg fun h => absurd (f_0_6.symm.trans h) (by decide)).trans ?_
  refine (if_neg fun h => absurd (f_0_6.symm.trans h) (by decide)).trans ?_
  refine (if_neg fun h => absurd (f_0_6.symm.trans h) (by decide)).trans ?_
  refine (if_neg fun h => absurd (f_0_6.symm.trans h) (by decide)).trans ?_
  refine (if_neg fun h => absurd (f_0_6.symm.trans h) (by decide)).trans ?_
  refine (if_neg fun h => absurd (f_0_6.symm.trans h) (by decide)).trans ?_
  refine (if_neg fun h => absurd (f_0_6.symm.trans h) (by decide)).trans ?_
  refine (if_neg fun h => absurd (f_0_6.symm.trans h) (by decide)).trans ?_
  refine (if_neg fun h => absurd (f_0_6.symm.trans h) (by decide)).trans ?_
  refine (if_neg fun h => absurd (f_0_6.symm.trans h) (by decide)).trans ?_
  refine (if_neg fun h => absurd (f_0_6.symm.trans h) (by decide)).trans ?_
  refine (if_neg fun h => absurd (f_0_6.symm.trans h) (by decide)).trans ?_
  refine (if_neg fun h => absurd (f_0_6.symm.trans h) (by decide)).trans ?_
  refine (if_neg fun h => absurd (f_0_6.symm.trans h) (by decide)).trans ?_
  refine (if_neg fun h => absurd (f_0_6.symm.trans h) (by decide)).trans ?_
  refine (if_neg fun h => absurd (f_3_3.symm.trans h) (by decide)).trans ?_
  refine (if_neg fun h => absurd (f_2_4.symm.trans h.1) (by decide)).trans ?_
  refine (if_neg fun h => absurd (f_2_4.symm.trans h.1) (by decide)).trans ?_
  refine (if_neg fun h => absurd (f_0_6.symm.trans h.1) (by decide)).trans ?_
  refine (if_neg fun h => absurd (f_0_6.symm.trans h.1) (by decide)).trans ?_
  refine (if_neg fun h => absurd (f_0_6.symm.trans h.1) (by decide)).trans ?_
  refine (if_pos ⟨f_0_6, f_10_5⟩).trans ?_
  simp only [o_d, o_a, o_g]

theorem RoundTrip.sel (xd : BitVec 5) (xa : BitVec 5) (xb : BitVec 5) (xp : BitVec 3) (xinv : Bool) : RoundTrip.Statement (.sel xd xa xb xp xinv) := by
  intro hw w h
  have hE : w = 48 + 2 ^ 6 * (bit xinv + 2 ^ 1 * (xp.toNat + 2 ^ 3 * (xb.toNat + 2 ^ 5 * (xa.toNat + 2 ^ 5 * (xd.toNat + 2 ^ 5 * (32)))))) := by have := Option.some.inj h; omega
  have b_d := xd.isLt
  have b_a := xa.isLt
  have b_b := xb.isLt
  have b_p := xp.isLt
  have b_inv := bit_lt xinv
  have hm : fld w 25 6 = 0x20 := hE.symm ▸ ((fld_skip 6 (by decide) (by decide)).trans <| (fld_skip 1 b_inv (by decide)).trans <| (fld_skip 3 b_p (by decide)).trans <| (fld_skip 5 b_b (by decide)).trans <| (fld_skip 5 b_a (by decide)).trans <| (fld_skip 5 b_d (by decide)).trans <| fld_whole (by decide))
  have f_0_6 : fld w 0 6 = 0x30 := hE.symm ▸ (fld_take (by decide))
  have f_3_3 : fld w 3 3 = 0x6 := hE.symm ▸ ((fld_low (by decide)).trans (by decide))
  have f_2_4 : fld w 2 4 = 0xC := hE.symm ▸ ((fld_low (by decide)).trans (by decide))
  have o_d : fbv w 20 5 = xd := fbv_eq (hE.symm ▸ ((fld_skip 6 (by decide) (by decide)).trans <| (fld_skip 1 b_inv (by decide)).trans <| (fld_skip 3 b_p (by decide)).trans <| (fld_skip 5 b_b (by decide)).trans <| (fld_skip 5 b_a (by decide)).trans <| fld_take b_d))
  have o_a : fbv w 15 5 = xa := fbv_eq (hE.symm ▸ ((fld_skip 6 (by decide) (by decide)).trans <| (fld_skip 1 b_inv (by decide)).trans <| (fld_skip 3 b_p (by decide)).trans <| (fld_skip 5 b_b (by decide)).trans <| fld_take b_a))
  have o_b : fbv w 10 5 = xb := fbv_eq (hE.symm ▸ ((fld_skip 6 (by decide) (by decide)).trans <| (fld_skip 1 b_inv (by decide)).trans <| (fld_skip 3 b_p (by decide)).trans <| fld_take b_b))
  have o_p : fbv w 7 3 = xp := fbv_eq (hE.symm ▸ ((fld_skip 6 (by decide) (by decide)).trans <| (fld_skip 1 b_inv (by decide)).trans <| fld_take b_p))
  have o_inv : fbit w 6 = xinv := fbit_eq (hE.symm ▸ ((fld_skip 6 (by decide) (by decide)).trans <| fld_take b_inv))
  refine decodeNat_of_raw ((decodeRaw_20 hm).trans ?_) hw
  unfold decodeMajor20
  refine (if_neg fun h => absurd (f_0_6.symm.trans h) (by decide)).trans ?_
  refine (if_neg fun h => absurd (f_0_6.symm.trans h) (by decide)).trans ?_
  refine (if_neg fun h => absurd (f_0_6.symm.trans h) (by decide)).trans ?_
  refine (if_neg fun h => absurd (f_0_6.symm.trans h) (by decide)).trans ?_
  refine (if_neg fun h => absurd (f_0_6.symm.trans h) (by decide)).trans ?_
  refine (if_neg fun h => absurd (f_0_6.symm.trans h) (by decide)).trans ?_
  refine (if_neg fun h => absurd (f_0_6.symm.trans h) (by decide)).trans ?_
  refine (if_neg fun h => absurd (f_0_6.symm.trans h) (by decide)).trans ?_
  refine (if_neg fun h => absurd (f_0_6.symm.trans h) (by decide)).trans ?_
  refine (if_neg fun h => absurd (f_0_6.symm.trans h) (by decide)).trans ?_
  refine (if_neg fun h => absurd (f_0_6.symm.trans h) (by decide)).trans ?_
  refine (if_neg fun h => absurd (f_0_6.symm.trans h) (by decide)).trans ?_
  refine (if_neg fun h => absurd (f_0_6.symm.trans h) (by decide)).trans ?_
  refine (if_neg fun h => absurd (f_0_6.symm.trans h) (by decide)).trans ?_
  refine (if_neg fun h => absurd (f_0_6.symm.trans h) (by decide)).trans ?_
  refine (if_neg fun h => absurd (f_0_6.symm.trans h) (by decide)).trans ?_
  refine (if_neg fun h => absurd (f_3_3.symm.trans h) (by decide)).trans ?_
  refine (if_neg fun h => absurd (f_2_4.symm.trans h.1) (by decide)).trans ?_
  refine (if_neg fun h => absurd (f_2_4.symm.trans h.1) (by decide)).trans ?_
  refine (if_neg fun h => absurd (f_0_6.symm.trans h.1) (by decide)).trans ?_
  refine (if_neg fun h => absurd (f_0_6.symm.trans h.1) (by decide)).trans ?_
  refine (if_neg fun h => absurd (f_0_6.symm.trans h.1) (by decide)).trans ?_
  refine (if_neg fun h => absurd (f_0_6.symm.trans h.1) (by decide)).trans ?_
  refine (if_pos f_0_6).trans ?_
  simp only [o_d, o_a, o_b, o_p, o_inv]

theorem RoundTrip.addi (xd : BitVec 5) (xa : BitVec 5) (xi : BitVec 15) : RoundTrip.Statement (.addi xd xa xi) := by
  intro hw w h
  have hE : w = xi.toNat + 2 ^ 15 * (xa.toNat + 2 ^ 5 * (xd.toNat + 2 ^ 5 * (33))) := by have := Option.some.inj h; omega
  have b_d := xd.isLt
  have b_a := xa.isLt
  have b_i := xi.isLt
  have hm : fld w 25 6 = 0x21 := hE.symm ▸ ((fld_skip 15 b_i (by decide)).trans <| (fld_skip 5 b_a (by decide)).trans <| (fld_skip 5 b_d (by decide)).trans <| fld_whole (by decide))
  have o_d : fbv w 20 5 = xd := fbv_eq (hE.symm ▸ ((fld_skip 15 b_i (by decide)).trans <| (fld_skip 5 b_a (by decide)).trans <| fld_take b_d))
  have o_a : fbv w 15 5 = xa := fbv_eq (hE.symm ▸ ((fld_skip 15 b_i (by decide)).trans <| fld_take b_a))
  have o_i : fbv w 0 15 = xi := fbv_eq (hE.symm ▸ (fld_take b_i))
  refine decodeNat_of_raw ((decodeRaw_21 hm).trans ?_) hw
  unfold decodeMajor21
  refine (if_pos trivial).trans ?_
  simp only [o_d, o_a, o_i]

theorem RoundTrip.andi (xd : BitVec 5) (xa : BitVec 5) (xi : BitVec 15) : RoundTrip.Statement (.andi xd xa xi) := by
  intro hw w h
  have hE : w = xi.toNat + 2 ^ 15 * (xa.toNat + 2 ^ 5 * (xd.toNat + 2 ^ 5 * (34))) := by have := Option.some.inj h; omega
  have b_d := xd.isLt
  have b_a := xa.isLt
  have b_i := xi.isLt
  have hm : fld w 25 6 = 0x22 := hE.symm ▸ ((fld_skip 15 b_i (by decide)).trans <| (fld_skip 5 b_a (by decide)).trans <| (fld_skip 5 b_d (by decide)).trans <| fld_whole (by decide))
  have o_d : fbv w 20 5 = xd := fbv_eq (hE.symm ▸ ((fld_skip 15 b_i (by decide)).trans <| (fld_skip 5 b_a (by decide)).trans <| fld_take b_d))
  have o_a : fbv w 15 5 = xa := fbv_eq (hE.symm ▸ ((fld_skip 15 b_i (by decide)).trans <| fld_take b_a))
  have o_i : fbv w 0 15 = xi := fbv_eq (hE.symm ▸ (fld_take b_i))
  refine decodeNat_of_raw ((decodeRaw_22 hm).trans ?_) hw
  unfold decodeMajor22
  refine (if_pos trivial).trans ?_
  simp only [o_d, o_a, o_i]

theorem RoundTrip.ori (xd : BitVec 5) (xa : BitVec 5) (xi : BitVec 15) : RoundTrip.Statement (.ori xd xa xi) := by
  intro hw w h
  have hE : w = xi.toNat + 2 ^ 15 * (xa.toNat + 2 ^ 5 * (xd.toNat + 2 ^ 5 * (35))) := by have := Option.some.inj h; omega
  have b_d := xd.isLt
  have b_a := xa.isLt
  have b_i := xi.isLt
  have hm : fld w 25 6 = 0x23 := hE.symm ▸ ((fld_skip 15 b_i (by decide)).trans <| (fld_skip 5 b_a (by decide)).trans <| (fld_skip 5 b_d (by decide)).trans <| fld_whole (by decide))
  have o_d : fbv w 20 5 = xd := fbv_eq (hE.symm ▸ ((fld_skip 15 b_i (by decide)).trans <| (fld_skip 5 b_a (by decide)).trans <| fld_take b_d))
  have o_a : fbv w 15 5 = xa := fbv_eq (hE.symm ▸ ((fld_skip 15 b_i (by decide)).trans <| fld_take b_a))
  have o_i : fbv w 0 15 = xi := fbv_eq (hE.symm ▸ (fld_take b_i))
  refine decodeNat_of_raw ((decodeRaw_23 hm).trans ?_) hw
  unfold decodeMajor23
  refine (if_pos trivial).trans ?_
  simp only [o_d, o_a, o_i]

theorem RoundTrip.xori (xd : BitVec 5) (xa : BitVec 5) (xi : BitVec 15) : RoundTrip.Statement (.xori xd xa xi) := by
  intro hw w h
  have hE : w = xi.toNat + 2 ^ 15 * (xa.toNat + 2 ^ 5 * (xd.toNat + 2 ^ 5 * (36))) := by have := Option.some.inj h; omega
  have b_d := xd.isLt
  have b_a := xa.isLt
  have b_i := xi.isLt
  have hm : fld w 25 6 = 0x24 := hE.symm ▸ ((fld_skip 15 b_i (by decide)).trans <| (fld_skip 5 b_a (by decide)).trans <| (fld_skip 5 b_d (by decide)).trans <| fld_whole (by decide))
  have o_d : fbv w 20 5 = xd := fbv_eq (hE.symm ▸ ((fld_skip 15 b_i (by decide)).trans <| (fld_skip 5 b_a (by decide)).trans <| fld_take b_d))
  have o_a : fbv w 15 5 = xa := fbv_eq (hE.symm ▸ ((fld_skip 15 b_i (by decide)).trans <| fld_take b_a))
  have o_i : fbv w 0 15 = xi := fbv_eq (hE.symm ▸ (fld_take b_i))
  refine decodeNat_of_raw ((decodeRaw_24 hm).trans ?_) hw
  unfold decodeMajor24
  refine (if_pos trivial).trans ?_
  simp only [o_d, o_a, o_i]

theorem RoundTrip.slli (xd : BitVec 5) (xa : BitVec 5) (xm : BitVec 6) : RoundTrip.Statement (.slli xd xa xm) := by
  intro hw w h
  have hE : w = xm.toNat + 2 ^ 6 * (0 + 2 ^ 9 * (xa.toNat + 2 ^ 5 * (xd.toNat + 2 ^ 5 * (37)))) := by have := Option.some.inj h; omega
  have b_d := xd.isLt
  have b_a := xa.isLt
  have b_m := xm.isLt
  have hm : fld w 25 6 = 0x25 := hE.symm ▸ ((fld_skip 6 b_m (by decide)).trans <| (fld_skip 9 (by decide) (by decide)).trans <| (fld_skip 5 b_a (by decide)).trans <| (fld_skip 5 b_d (by decide)).trans <| fld_whole (by decide))
  have f_6_9 : fld w 6 9 = 0x0 := hE.symm ▸ ((fld_skip 6 b_m (by decide)).trans <| fld_take (by decide))
  have o_d : fbv w 20 5 = xd := fbv_eq (hE.symm ▸ ((fld_skip 6 b_m (by decide)).trans <| (fld_skip 9 (by decide) (by decide)).trans <| (fld_skip 5 b_a (by decide)).trans <| fld_take b_d))
  have o_a : fbv w 15 5 = xa := fbv_eq (hE.symm ▸ ((fld_skip 6 b_m (by decide)).trans <| (fld_skip 9 (by decide) (by decide)).trans <| fld_take b_a))
  have o_m : fbv w 0 6 = xm := fbv_eq (hE.symm ▸ (fld_take b_m))
  refine decodeNat_of_raw ((decodeRaw_25 hm).trans ?_) hw
  unfold decodeMajor25
  refine (if_pos f_6_9).trans ?_
  simp only [o_d, o_a, o_m]

theorem RoundTrip.srli (xd : BitVec 5) (xa : BitVec 5) (xm : BitVec 6) : RoundTrip.Statement (.srli xd xa xm) := by
  intro hw w h
  have hE : w = xm.toNat + 2 ^ 6 * (64 + 2 ^ 9 * (xa.toNat + 2 ^ 5 * (xd.toNat + 2 ^ 5 * (37)))) := by have := Option.some.inj h; omega
  have b_d := xd.isLt
  have b_a := xa.isLt
  have b_m := xm.isLt
  have hm : fld w 25 6 = 0x25 := hE.symm ▸ ((fld_skip 6 b_m (by decide)).trans <| (fld_skip 9 (by decide) (by decide)).trans <| (fld_skip 5 b_a (by decide)).trans <| (fld_skip 5 b_d (by decide)).trans <| fld_whole (by decide))
  have f_6_9 : fld w 6 9 = 0x40 := hE.symm ▸ ((fld_skip 6 b_m (by decide)).trans <| fld_take (by decide))
  have o_d : fbv w 20 5 = xd := fbv_eq (hE.symm ▸ ((fld_skip 6 b_m (by decide)).trans <| (fld_skip 9 (by decide) (by decide)).trans <| (fld_skip 5 b_a (by decide)).trans <| fld_take b_d))
  have o_a : fbv w 15 5 = xa := fbv_eq (hE.symm ▸ ((fld_skip 6 b_m (by decide)).trans <| (fld_skip 9 (by decide) (by decide)).trans <| fld_take b_a))
  have o_m : fbv w 0 6 = xm := fbv_eq (hE.symm ▸ (fld_take b_m))
  refine decodeNat_of_raw ((decodeRaw_25 hm).trans ?_) hw
  unfold decodeMajor25
  refine (if_neg fun h => absurd (f_6_9.symm.trans h) (by decide)).trans ?_
  refine (if_pos f_6_9).trans ?_
  simp only [o_d, o_a, o_m]

theorem RoundTrip.srai (xd : BitVec 5) (xa : BitVec 5) (xm : BitVec 6) : RoundTrip.Statement (.srai xd xa xm) := by
  intro hw w h
  have hE : w = xm.toNat + 2 ^ 6 * (128 + 2 ^ 9 * (xa.toNat + 2 ^ 5 * (xd.toNat + 2 ^ 5 * (37)))) := by have := Option.some.inj h; omega
  have b_d := xd.isLt
  have b_a := xa.isLt
  have b_m := xm.isLt
  have hm : fld w 25 6 = 0x25 := hE.symm ▸ ((fld_skip 6 b_m (by decide)).trans <| (fld_skip 9 (by decide) (by decide)).trans <| (fld_skip 5 b_a (by decide)).trans <| (fld_skip 5 b_d (by decide)).trans <| fld_whole (by decide))
  have f_6_9 : fld w 6 9 = 0x80 := hE.symm ▸ ((fld_skip 6 b_m (by decide)).trans <| fld_take (by decide))
  have o_d : fbv w 20 5 = xd := fbv_eq (hE.symm ▸ ((fld_skip 6 b_m (by decide)).trans <| (fld_skip 9 (by decide) (by decide)).trans <| (fld_skip 5 b_a (by decide)).trans <| fld_take b_d))
  have o_a : fbv w 15 5 = xa := fbv_eq (hE.symm ▸ ((fld_skip 6 b_m (by decide)).trans <| (fld_skip 9 (by decide) (by decide)).trans <| fld_take b_a))
  have o_m : fbv w 0 6 = xm := fbv_eq (hE.symm ▸ (fld_take b_m))
  refine decodeNat_of_raw ((decodeRaw_25 hm).trans ?_) hw
  unfold decodeMajor25
  refine (if_neg fun h => absurd (f_6_9.symm.trans h) (by decide)).trans ?_
  refine (if_neg fun h => absurd (f_6_9.symm.trans h) (by decide)).trans ?_
  refine (if_pos f_6_9).trans ?_
  simp only [o_d, o_a, o_m]

theorem RoundTrip.roli (xd : BitVec 5) (xa : BitVec 5) (xm : BitVec 6) : RoundTrip.Statement (.roli xd xa xm) := by
  intro hw w h
  have hE : w = xm.toNat + 2 ^ 6 * (192 + 2 ^ 9 * (xa.toNat + 2 ^ 5 * (xd.toNat + 2 ^ 5 * (37)))) := by have := Option.some.inj h; omega
  have b_d := xd.isLt
  have b_a := xa.isLt
  have b_m := xm.isLt
  have hm : fld w 25 6 = 0x25 := hE.symm ▸ ((fld_skip 6 b_m (by decide)).trans <| (fld_skip 9 (by decide) (by decide)).trans <| (fld_skip 5 b_a (by decide)).trans <| (fld_skip 5 b_d (by decide)).trans <| fld_whole (by decide))
  have f_6_9 : fld w 6 9 = 0xC0 := hE.symm ▸ ((fld_skip 6 b_m (by decide)).trans <| fld_take (by decide))
  have o_d : fbv w 20 5 = xd := fbv_eq (hE.symm ▸ ((fld_skip 6 b_m (by decide)).trans <| (fld_skip 9 (by decide) (by decide)).trans <| (fld_skip 5 b_a (by decide)).trans <| fld_take b_d))
  have o_a : fbv w 15 5 = xa := fbv_eq (hE.symm ▸ ((fld_skip 6 b_m (by decide)).trans <| (fld_skip 9 (by decide) (by decide)).trans <| fld_take b_a))
  have o_m : fbv w 0 6 = xm := fbv_eq (hE.symm ▸ (fld_take b_m))
  refine decodeNat_of_raw ((decodeRaw_25 hm).trans ?_) hw
  unfold decodeMajor25
  refine (if_neg fun h => absurd (f_6_9.symm.trans h) (by decide)).trans ?_
  refine (if_neg fun h => absurd (f_6_9.symm.trans h) (by decide)).trans ?_
  refine (if_neg fun h => absurd (f_6_9.symm.trans h) (by decide)).trans ?_
  refine (if_pos f_6_9).trans ?_
  simp only [o_d, o_a, o_m]

theorem RoundTrip.rori (xd : BitVec 5) (xa : BitVec 5) (xm : BitVec 6) : RoundTrip.Statement (.rori xd xa xm) := by
  intro hw w h
  have hE : w = xm.toNat + 2 ^ 6 * (256 + 2 ^ 9 * (xa.toNat + 2 ^ 5 * (xd.toNat + 2 ^ 5 * (37)))) := by have := Option.some.inj h; omega
  have b_d := xd.isLt
  have b_a := xa.isLt
  have b_m := xm.isLt
  have hm : fld w 25 6 = 0x25 := hE.symm ▸ ((fld_skip 6 b_m (by decide)).trans <| (fld_skip 9 (by decide) (by decide)).trans <| (fld_skip 5 b_a (by decide)).trans <| (fld_skip 5 b_d (by decide)).trans <| fld_whole (by decide))
  have f_6_9 : fld w 6 9 = 0x100 := hE.symm ▸ ((fld_skip 6 b_m (by decide)).trans <| fld_take (by decide))
  have o_d : fbv w 20 5 = xd := fbv_eq (hE.symm ▸ ((fld_skip 6 b_m (by decide)).trans <| (fld_skip 9 (by decide) (by decide)).trans <| (fld_skip 5 b_a (by decide)).trans <| fld_take b_d))
  have o_a : fbv w 15 5 = xa := fbv_eq (hE.symm ▸ ((fld_skip 6 b_m (by decide)).trans <| (fld_skip 9 (by decide) (by decide)).trans <| fld_take b_a))
  have o_m : fbv w 0 6 = xm := fbv_eq (hE.symm ▸ (fld_take b_m))
  refine decodeNat_of_raw ((decodeRaw_25 hm).trans ?_) hw
  unfold decodeMajor25
  refine (if_neg fun h => absurd (f_6_9.symm.trans h) (by decide)).trans ?_
  refine (if_neg fun h => absurd (f_6_9.symm.trans h) (by decide)).trans ?_
  refine (if_neg fun h => absurd (f_6_9.symm.trans h) (by decide)).trans ?_
  refine (if_neg fun h => absurd (f_6_9.symm.trans h) (by decide)).trans ?_
  refine (if_pos f_6_9).trans ?_
  simp only [o_d, o_a, o_m]

theorem RoundTrip.ldhi (xd : BitVec 5) (xi : BitVec 20) : RoundTrip.Statement (.ldhi xd xi) := by
  intro hw w h
  have hE : w = xi.toNat + 2 ^ 20 * (xd.toNat + 2 ^ 5 * (38)) := by have := Option.some.inj h; omega
  have b_d := xd.isLt
  have b_i := xi.isLt
  have hm : fld w 25 6 = 0x26 := hE.symm ▸ ((fld_skip 20 b_i (by decide)).trans <| (fld_skip 5 b_d (by decide)).trans <| fld_whole (by decide))
  have o_d : fbv w 20 5 = xd := fbv_eq (hE.symm ▸ ((fld_skip 20 b_i (by decide)).trans <| fld_take b_d))
  have o_i : fbv w 0 20 = xi := fbv_eq (hE.symm ▸ (fld_take b_i))
  refine decodeNat_of_raw ((decodeRaw_26 hm).trans ?_) hw
  unfold decodeMajor26
  refine (if_pos trivial).trans ?_
  simp only [o_d, o_i]

theorem RoundTrip.cmp (xp : BitVec 3) (xa : BitVec 5) (xb : BitVec 5) (xg : Guard) (xc : CmpCond) : RoundTrip.Statement (.cmp xp xa xb xg xc) := by
  intro hw w h
  have hE : w = xc.code + 2 ^ 3 * (0 + 2 ^ 3 * (bit xg.inv + 2 ^ 1 * (xg.p.toNat + 2 ^ 3 * (xb.toNat + 2 ^ 5 * (xa.toNat + 2 ^ 5 * (xp.toNat + 2 ^ 3 * (156))))))) := by have := Option.some.inj h; simp only [guardBits] at this; omega
  have b_p := xp.isLt
  have b_a := xa.isLt
  have b_b := xb.isLt
  have b_g := xg.p.isLt
  have b'_g := bit_lt xg.inv
  have b_c := CmpCond.code_lt xc
  have hm : fld w 25 6 = 0x27 := hE.symm ▸ ((fld_skip 3 b_c (by decide)).trans <| (fld_skip 3 (by decide) (by decide)).trans <| (fld_skip 1 (bit_lt xg.inv) (by decide)).trans <| (fld_skip 3 xg.p.isLt (by decide)).trans <| (fld_skip 5 b_b (by decide)).trans <| (fld_skip 5 b_a (by decide)).trans <| (fld_skip 3 b_p (by decide)).trans <| (by decide))
  have f_3_3 : fld w 3 3 = 0x0 := hE.symm ▸ ((fld_skip 3 b_c (by decide)).trans <| fld_take (by decide))
  have f_23_2 : fld w 23 2 = 0x0 := hE.symm ▸ ((fld_skip 3 b_c (by decide)).trans <| (fld_skip 3 (by decide) (by decide)).trans <| (fld_skip 1 (bit_lt xg.inv) (by decide)).trans <| (fld_skip 3 xg.p.isLt (by decide)).trans <| (fld_skip 5 b_b (by decide)).trans <| (fld_skip 5 b_a (by decide)).trans <| (fld_skip 3 b_p (by decide)).trans <| (by decide))
  have o_p : fbv w 20 3 = xp := fbv_eq (hE.symm ▸ ((fld_skip 3 b_c (by decide)).trans <| (fld_skip 3 (by decide) (by decide)).trans <| (fld_skip 1 (bit_lt xg.inv) (by decide)).trans <| (fld_skip 3 xg.p.isLt (by decide)).trans <| (fld_skip 5 b_b (by decide)).trans <| (fld_skip 5 b_a (by decide)).trans <| fld_take b_p))
  have o_a : fbv w 15 5 = xa := fbv_eq (hE.symm ▸ ((fld_skip 3 b_c (by decide)).trans <| (fld_skip 3 (by decide) (by decide)).trans <| (fld_skip 1 (bit_lt xg.inv) (by decide)).trans <| (fld_skip 3 xg.p.isLt (by decide)).trans <| (fld_skip 5 b_b (by decide)).trans <| fld_take b_a))
  have o_b : fbv w 10 5 = xb := fbv_eq (hE.symm ▸ ((fld_skip 3 b_c (by decide)).trans <| (fld_skip 3 (by decide) (by decide)).trans <| (fld_skip 1 (bit_lt xg.inv) (by decide)).trans <| (fld_skip 3 xg.p.isLt (by decide)).trans <| fld_take b_b))
  have o_g : fguard w = xg := fguard_eq (hE.symm ▸ ((fld_skip 3 b_c (by decide)).trans <| (fld_skip 3 (by decide) (by decide)).trans <| (fld_skip 1 (bit_lt xg.inv) (by decide)).trans <| fld_take xg.p.isLt)) (hE.symm ▸ ((fld_skip 3 b_c (by decide)).trans <| (fld_skip 3 (by decide) (by decide)).trans <| fld_take (bit_lt xg.inv)))
  have o_c : fld w 0 3 = xc.code := hE.symm ▸ (fld_take b_c)
  refine decodeNat_of_raw ((decodeRaw_27 hm).trans ?_) hw
  unfold decodeMajor27
  refine (if_pos ⟨f_3_3, f_23_2⟩).trans ?_
  simp only [o_p, o_a, o_b, o_g, o_c, CmpCond.ofCode_code, Option.bind_some]

theorem RoundTrip.cmpi (xp : BitVec 3) (xa : BitVec 5) (xc : CmpCond) (xi : BitVec 12) : RoundTrip.Statement (.cmpi xp xa xc xi) := by
  intro hw w h
  have hE : w = xi.toNat + 2 ^ 12 * (xc.code + 2 ^ 3 * (xa.toNat + 2 ^ 5 * (xp.toNat + 2 ^ 3 * (160)))) := by have := Option.some.inj h; omega
  have b_p := xp.isLt
  have b_a := xa.isLt
  have b_c := CmpCond.code_lt xc
  have b_i := xi.isLt
  have hm : fld w 25 6 = 0x28 := hE.symm ▸ ((fld_skip 12 b_i (by decide)).trans <| (fld_skip 3 b_c (by decide)).trans <| (fld_skip 5 b_a (by decide)).trans <| (fld_skip 3 b_p (by decide)).trans <| (by decide))
  have f_23_2 : fld w 23 2 = 0x0 := hE.symm ▸ ((fld_skip 12 b_i (by decide)).trans <| (fld_skip 3 b_c (by decide)).trans <| (fld_skip 5 b_a (by decide)).trans <| (fld_skip 3 b_p (by decide)).trans <| (by decide))
  have o_p : fbv w 20 3 = xp := fbv_eq (hE.symm ▸ ((fld_skip 12 b_i (by decide)).trans <| (fld_skip 3 b_c (by decide)).trans <| (fld_skip 5 b_a (by decide)).trans <| fld_take b_p))
  have o_a : fbv w 15 5 = xa := fbv_eq (hE.symm ▸ ((fld_skip 12 b_i (by decide)).trans <| (fld_skip 3 b_c (by decide)).trans <| fld_take b_a))
  have o_c : fld w 12 3 = xc.code := hE.symm ▸ ((fld_skip 12 b_i (by decide)).trans <| fld_take b_c)
  have o_i : fbv w 0 12 = xi := fbv_eq (hE.symm ▸ (fld_take b_i))
  refine decodeNat_of_raw ((decodeRaw_28 hm).trans ?_) hw
  unfold decodeMajor28
  refine (if_pos f_23_2).trans ?_
  simp only [o_p, o_a, o_c, o_i, CmpCond.ofCode_code, Option.bind_some]

theorem RoundTrip.mul (xd : BitVec 5) (xa : BitVec 5) (xb : BitVec 5) (xg : Guard) : RoundTrip.Statement (.mul xd xa xb xg) := by
  intro hw w h
  have hE : w = 0 + 2 ^ 6 * (bit xg.inv + 2 ^ 1 * (xg.p.toNat + 2 ^ 3 * (xb.toNat + 2 ^ 5 * (xa.toNat + 2 ^ 5 * (xd.toNat + 2 ^ 5 * (41)))))) := by have := Option.some.inj h; simp only [guardBits] at this; omega
  have b_d := xd.isLt
  have b_a := xa.isLt
  have b_b := xb.isLt
  have b_g := xg.p.isLt
  have b'_g := bit_lt xg.inv
  have hm : fld w 25 6 = 0x29 := hE.symm ▸ ((fld_skip 6 (by decide) (by decide)).trans <| (fld_skip 1 (bit_lt xg.inv) (by decide)).trans <| (fld_skip 3 xg.p.isLt (by decide)).trans <| (fld_skip 5 b_b (by decide)).trans <| (fld_skip 5 b_a (by decide)).trans <| (fld_skip 5 b_d (by decide)).trans <| fld_whole (by decide))
  have f_0_6 : fld w 0 6 = 0x0 := hE.symm ▸ (fld_take (by decide))
  have o_d : fbv w 20 5 = xd := fbv_eq (hE.symm ▸ ((fld_skip 6 (by decide) (by decide)).trans <| (fld_skip 1 (bit_lt xg.inv) (by decide)).trans <| (fld_skip 3 xg.p.isLt (by decide)).trans <| (fld_skip 5 b_b (by decide)).trans <| (fld_skip 5 b_a (by decide)).trans <| fld_take b_d))
  have o_a : fbv w 15 5 = xa := fbv_eq (hE.symm ▸ ((fld_skip 6 (by decide) (by decide)).trans <| (fld_skip 1 (bit_lt xg.inv) (by decide)).trans <| (fld_skip 3 xg.p.isLt (by decide)).trans <| (fld_skip 5 b_b (by decide)).trans <| fld_take b_a))
  have o_b : fbv w 10 5 = xb := fbv_eq (hE.symm ▸ ((fld_skip 6 (by decide) (by decide)).trans <| (fld_skip 1 (bit_lt xg.inv) (by decide)).trans <| (fld_skip 3 xg.p.isLt (by decide)).trans <| fld_take b_b))
  have o_g : fguard w = xg := fguard_eq (hE.symm ▸ ((fld_skip 6 (by decide) (by decide)).trans <| (fld_skip 1 (bit_lt xg.inv) (by decide)).trans <| fld_take xg.p.isLt)) (hE.symm ▸ ((fld_skip 6 (by decide) (by decide)).trans <| fld_take (bit_lt xg.inv)))
  refine decodeNat_of_raw ((decodeRaw_29 hm).trans ?_) hw
  unfold decodeMajor29
  refine (if_pos f_0_6).trans ?_
  simp only [o_d, o_a, o_b, o_g]

theorem RoundTrip.mulh (xd : BitVec 5) (xa : BitVec 5) (xb : BitVec 5) (xg : Guard) : RoundTrip.Statement (.mulh xd xa xb xg) := by
  intro hw w h
  have hE : w = 1 + 2 ^ 6 * (bit xg.inv + 2 ^ 1 * (xg.p.toNat + 2 ^ 3 * (xb.toNat + 2 ^ 5 * (xa.toNat + 2 ^ 5 * (xd.toNat + 2 ^ 5 * (41)))))) := by have := Option.some.inj h; simp only [guardBits] at this; omega
  have b_d := xd.isLt
  have b_a := xa.isLt
  have b_b := xb.isLt
  have b_g := xg.p.isLt
  have b'_g := bit_lt xg.inv
  have hm : fld w 25 6 = 0x29 := hE.symm ▸ ((fld_skip 6 (by decide) (by decide)).trans <| (fld_skip 1 (bit_lt xg.inv) (by decide)).trans <| (fld_skip 3 xg.p.isLt (by decide)).trans <| (fld_skip 5 b_b (by decide)).trans <| (fld_skip 5 b_a (by decide)).trans <| (fld_skip 5 b_d (by decide)).trans <| fld_whole (by decide))
  have f_0_6 : fld w 0 6 = 0x1 := hE.symm ▸ (fld_take (by decide))
  have o_d : fbv w 20 5 = xd := fbv_eq (hE.symm ▸ ((fld_skip 6 (by decide) (by decide)).trans <| (fld_skip 1 (bit_lt xg.inv) (by decide)).trans <| (fld_skip 3 xg.p.isLt (by decide)).trans <| (fld_skip 5 b_b (by decide)).trans <| (fld_skip 5 b_a (by decide)).trans <| fld_take b_d))
  have o_a : fbv w 15 5 = xa := fbv_eq (hE.symm ▸ ((fld_skip 6 (by decide) (by decide)).trans <| (fld_skip 1 (bit_lt xg.inv) (by decide)).trans <| (fld_skip 3 xg.p.isLt (by decide)).trans <| (fld_skip 5 b_b (by decide)).trans <| fld_take b_a))
  have o_b : fbv w 10 5 = xb := fbv_eq (hE.symm ▸ ((fld_skip 6 (by decide) (by decide)).trans <| (fld_skip 1 (bit_lt xg.inv) (by decide)).trans <| (fld_skip 3 xg.p.isLt (by decide)).trans <| fld_take b_b))
  have o_g : fguard w = xg := fguard_eq (hE.symm ▸ ((fld_skip 6 (by decide) (by decide)).trans <| (fld_skip 1 (bit_lt xg.inv) (by decide)).trans <| fld_take xg.p.isLt)) (hE.symm ▸ ((fld_skip 6 (by decide) (by decide)).trans <| fld_take (bit_lt xg.inv)))
  refine decodeNat_of_raw ((decodeRaw_29 hm).trans ?_) hw
  unfold decodeMajor29
  refine (if_neg fun h => absurd (f_0_6.symm.trans h) (by decide)).trans ?_
  refine (if_pos f_0_6).trans ?_
  simp only [o_d, o_a, o_b, o_g]

theorem RoundTrip.mulhz (xd : BitVec 5) (xa : BitVec 5) (xb : BitVec 5) (xg : Guard) : RoundTrip.Statement (.mulhz xd xa xb xg) := by
  intro hw w h
  have hE : w = 2 + 2 ^ 6 * (bit xg.inv + 2 ^ 1 * (xg.p.toNat + 2 ^ 3 * (xb.toNat + 2 ^ 5 * (xa.toNat + 2 ^ 5 * (xd.toNat + 2 ^ 5 * (41)))))) := by have := Option.some.inj h; simp only [guardBits] at this; omega
  have b_d := xd.isLt
  have b_a := xa.isLt
  have b_b := xb.isLt
  have b_g := xg.p.isLt
  have b'_g := bit_lt xg.inv
  have hm : fld w 25 6 = 0x29 := hE.symm ▸ ((fld_skip 6 (by decide) (by decide)).trans <| (fld_skip 1 (bit_lt xg.inv) (by decide)).trans <| (fld_skip 3 xg.p.isLt (by decide)).trans <| (fld_skip 5 b_b (by decide)).trans <| (fld_skip 5 b_a (by decide)).trans <| (fld_skip 5 b_d (by decide)).trans <| fld_whole (by decide))
  have f_0_6 : fld w 0 6 = 0x2 := hE.symm ▸ (fld_take (by decide))
  have o_d : fbv w 20 5 = xd := fbv_eq (hE.symm ▸ ((fld_skip 6 (by decide) (by decide)).trans <| (fld_skip 1 (bit_lt xg.inv) (by decide)).trans <| (fld_skip 3 xg.p.isLt (by decide)).trans <| (fld_skip 5 b_b (by decide)).trans <| (fld_skip 5 b_a (by decide)).trans <| fld_take b_d))
  have o_a : fbv w 15 5 = xa := fbv_eq (hE.symm ▸ ((fld_skip 6 (by decide) (by decide)).trans <| (fld_skip 1 (bit_lt xg.inv) (by decide)).trans <| (fld_skip 3 xg.p.isLt (by decide)).trans <| (fld_skip 5 b_b (by decide)).trans <| fld_take b_a))
  have o_b : fbv w 10 5 = xb := fbv_eq (hE.symm ▸ ((fld_skip 6 (by decide) (by decide)).trans <| (fld_skip 1 (bit_lt xg.inv) (by decide)).trans <| (fld_skip 3 xg.p.isLt (by decide)).trans <| fld_take b_b))
  have o_g : fguard w = xg := fguard_eq (hE.symm ▸ ((fld_skip 6 (by decide) (by decide)).trans <| (fld_skip 1 (bit_lt xg.inv) (by decide)).trans <| fld_take xg.p.isLt)) (hE.symm ▸ ((fld_skip 6 (by decide) (by decide)).trans <| fld_take (bit_lt xg.inv)))
  refine decodeNat_of_raw ((decodeRaw_29 hm).trans ?_) hw
  unfold decodeMajor29
  refine (if_neg fun h => absurd (f_0_6.symm.trans h) (by decide)).trans ?_
  refine (if_neg fun h => absurd (f_0_6.symm.trans h) (by decide)).trans ?_
  refine (if_pos f_0_6).trans ?_
  simp only [o_d, o_a, o_b, o_g]

theorem RoundTrip.div (xd : BitVec 5) (xa : BitVec 5) (xb : BitVec 5) (xg : Guard) : RoundTrip.Statement (.div xd xa xb xg) := by
  intro hw w h
  have hE : w = 4 + 2 ^ 6 * (bit xg.inv + 2 ^ 1 * (xg.p.toNat + 2 ^ 3 * (xb.toNat + 2 ^ 5 * (xa.toNat + 2 ^ 5 * (xd.toNat + 2 ^ 5 * (41)))))) := by have := Option.some.inj h; simp only [guardBits] at this; omega
  have b_d := xd.isLt
  have b_a := xa.isLt
  have b_b := xb.isLt
  have b_g := xg.p.isLt
  have b'_g := bit_lt xg.inv
  have hm : fld w 25 6 = 0x29 := hE.symm ▸ ((fld_skip 6 (by decide) (by decide)).trans <| (fld_skip 1 (bit_lt xg.inv) (by decide)).trans <| (fld_skip 3 xg.p.isLt (by decide)).trans <| (fld_skip 5 b_b (by decide)).trans <| (fld_skip 5 b_a (by decide)).trans <| (fld_skip 5 b_d (by decide)).trans <| fld_whole (by decide))
  have f_0_6 : fld w 0 6 = 0x4 := hE.symm ▸ (fld_take (by decide))
  have o_d : fbv w 20 5 = xd := fbv_eq (hE.symm ▸ ((fld_skip 6 (by decide) (by decide)).trans <| (fld_skip 1 (bit_lt xg.inv) (by decide)).trans <| (fld_skip 3 xg.p.isLt (by decide)).trans <| (fld_skip 5 b_b (by decide)).trans <| (fld_skip 5 b_a (by decide)).trans <| fld_take b_d))
  have o_a : fbv w 15 5 = xa := fbv_eq (hE.symm ▸ ((fld_skip 6 (by decide) (by decide)).trans <| (fld_skip 1 (bit_lt xg.inv) (by decide)).trans <| (fld_skip 3 xg.p.isLt (by decide)).trans <| (fld_skip 5 b_b (by decide)).trans <| fld_take b_a))
  have o_b : fbv w 10 5 = xb := fbv_eq (hE.symm ▸ ((fld_skip 6 (by decide) (by decide)).trans <| (fld_skip 1 (bit_lt xg.inv) (by decide)).trans <| (fld_skip 3 xg.p.isLt (by decide)).trans <| fld_take b_b))
  have o_g : fguard w = xg := fguard_eq (hE.symm ▸ ((fld_skip 6 (by decide) (by decide)).trans <| (fld_skip 1 (bit_lt xg.inv) (by decide)).trans <| fld_take xg.p.isLt)) (hE.symm ▸ ((fld_skip 6 (by decide) (by decide)).trans <| fld_take (bit_lt xg.inv)))
  refine decodeNat_of_raw ((decodeRaw_29 hm).trans ?_) hw
  unfold decodeMajor29
  refine (if_neg fun h => absurd (f_0_6.symm.trans h) (by decide)).trans ?_
  refine (if_neg fun h => absurd (f_0_6.symm.trans h) (by decide)).trans ?_
  refine (if_neg fun h => absurd (f_0_6.symm.trans h) (by decide)).trans ?_
  refine (if_pos f_0_6).trans ?_
  simp only [o_d, o_a, o_b, o_g]

theorem RoundTrip.divz (xd : BitVec 5) (xa : BitVec 5) (xb : BitVec 5) (xg : Guard) : RoundTrip.Statement (.divz xd xa xb xg) := by
  intro hw w h
  have hE : w = 5 + 2 ^ 6 * (bit xg.inv + 2 ^ 1 * (xg.p.toNat + 2 ^ 3 * (xb.toNat + 2 ^ 5 * (xa.toNat + 2 ^ 5 * (xd.toNat + 2 ^ 5 * (41)))))) := by have := Option.some.inj h; simp only [guardBits] at this; omega
  have b_d := xd.isLt
  have b_a := xa.isLt
  have b_b := xb.isLt
  have b_g := xg.p.isLt
  have b'_g := bit_lt xg.inv
  have hm : fld w 25 6 = 0x29 := hE.symm ▸ ((fld_skip 6 (by decide) (by decide)).trans <| (fld_skip 1 (bit_lt xg.inv) (by decide)).trans <| (fld_skip 3 xg.p.isLt (by decide)).trans <| (fld_skip 5 b_b (by decide)).trans <| (fld_skip 5 b_a (by decide)).trans <| (fld_skip 5 b_d (by decide)).trans <| fld_whole (by decide))
  have f_0_6 : fld w 0 6 = 0x5 := hE.symm ▸ (fld_take (by decide))
  have o_d : fbv w 20 5 = xd := fbv_eq (hE.symm ▸ ((fld_skip 6 (by decide) (by decide)).trans <| (fld_skip 1 (bit_lt xg.inv) (by decide)).trans <| (fld_skip 3 xg.p.isLt (by decide)).trans <| (fld_skip 5 b_b (by decide)).trans <| (fld_skip 5 b_a (by decide)).trans <| fld_take b_d))
  have o_a : fbv w 15 5 = xa := fbv_eq (hE.symm ▸ ((fld_skip 6 (by decide) (by decide)).trans <| (fld_skip 1 (bit_lt xg.inv) (by decide)).trans <| (fld_skip 3 xg.p.isLt (by decide)).trans <| (fld_skip 5 b_b (by decide)).trans <| fld_take b_a))
  have o_b : fbv w 10 5 = xb := fbv_eq (hE.symm ▸ ((fld_skip 6 (by decide) (by decide)).trans <| (fld_skip 1 (bit_lt xg.inv) (by decide)).trans <| (fld_skip 3 xg.p.isLt (by decide)).trans <| fld_take b_b))
  have o_g : fguard w = xg := fguard_eq (hE.symm ▸ ((fld_skip 6 (by decide) (by decide)).trans <| (fld_skip 1 (bit_lt xg.inv) (by decide)).trans <| fld_take xg.p.isLt)) (hE.symm ▸ ((fld_skip 6 (by decide) (by decide)).trans <| fld_take (bit_lt xg.inv)))
  refine decodeNat_of_raw ((decodeRaw_29 hm).trans ?_) hw
  unfold decodeMajor29
  refine (if_neg fun h => absurd (f_0_6.symm.trans h) (by decide)).trans ?_
  refine (if_neg fun h => absurd (f_0_6.symm.trans h) (by decide)).trans ?_
  refine (if_neg fun h => absurd (f_0_6.symm.trans h) (by decide)).trans ?_
  refine (if_neg fun h => absurd (f_0_6.symm.trans h) (by decide)).trans ?_
  refine (if_pos f_0_6).trans ?_
  simp only [o_d, o_a, o_b, o_g]

theorem RoundTrip.rem (xd : BitVec 5) (xa : BitVec 5) (xb : BitVec 5) (xg : Guard) : RoundTrip.Statement (.rem xd xa xb xg) := by
  intro hw w h
  have hE : w = 6 + 2 ^ 6 * (bit xg.inv + 2 ^ 1 * (xg.p.toNat + 2 ^ 3 * (xb.toNat + 2 ^ 5 * (xa.toNat + 2 ^ 5 * (xd.toNat + 2 ^ 5 * (41)))))) := by have := Option.some.inj h; simp only [guardBits] at this; omega
  have b_d := xd.isLt
  have b_a := xa.isLt
  have b_b := xb.isLt
  have b_g := xg.p.isLt
  have b'_g := bit_lt xg.inv
  have hm : fld w 25 6 = 0x29 := hE.symm ▸ ((fld_skip 6 (by decide) (by decide)).trans <| (fld_skip 1 (bit_lt xg.inv) (by decide)).trans <| (fld_skip 3 xg.p.isLt (by decide)).trans <| (fld_skip 5 b_b (by decide)).trans <| (fld_skip 5 b_a (by decide)).trans <| (fld_skip 5 b_d (by decide)).trans <| fld_whole (by decide))
  have f_0_6 : fld w 0 6 = 0x6 := hE.symm ▸ (fld_take (by decide))
  have o_d : fbv w 20 5 = xd := fbv_eq (hE.symm ▸ ((fld_skip 6 (by decide) (by decide)).trans <| (fld_skip 1 (bit_lt xg.inv) (by decide)).trans <| (fld_skip 3 xg.p.isLt (by decide)).trans <| (fld_skip 5 b_b (by decide)).trans <| (fld_skip 5 b_a (by decide)).trans <| fld_take b_d))
  have o_a : fbv w 15 5 = xa := fbv_eq (hE.symm ▸ ((fld_skip 6 (by decide) (by decide)).trans <| (fld_skip 1 (bit_lt xg.inv) (by decide)).trans <| (fld_skip 3 xg.p.isLt (by decide)).trans <| (fld_skip 5 b_b (by decide)).trans <| fld_take b_a))
  have o_b : fbv w 10 5 = xb := fbv_eq (hE.symm ▸ ((fld_skip 6 (by decide) (by decide)).trans <| (fld_skip 1 (bit_lt xg.inv) (by decide)).trans <| (fld_skip 3 xg.p.isLt (by decide)).trans <| fld_take b_b))
  have o_g : fguard w = xg := fguard_eq (hE.symm ▸ ((fld_skip 6 (by decide) (by decide)).trans <| (fld_skip 1 (bit_lt xg.inv) (by decide)).trans <| fld_take xg.p.isLt)) (hE.symm ▸ ((fld_skip 6 (by decide) (by decide)).trans <| fld_take (bit_lt xg.inv)))
  refine decodeNat_of_raw ((decodeRaw_29 hm).trans ?_) hw
  unfold decodeMajor29
  refine (if_neg fun h => absurd (f_0_6.symm.trans h) (by decide)).trans ?_
  refine (if_neg fun h => absurd (f_0_6.symm.trans h) (by decide)).trans ?_
  refine (if_neg fun h => absurd (f_0_6.symm.trans h) (by decide)).trans ?_
  refine (if_neg fun h => absurd (f_0_6.symm.trans h) (by decide)).trans ?_
  refine (if_neg fun h => absurd (f_0_6.symm.trans h) (by decide)).trans ?_
  refine (if_pos f_0_6).trans ?_
  simp only [o_d, o_a, o_b, o_g]

theorem RoundTrip.remz (xd : BitVec 5) (xa : BitVec 5) (xb : BitVec 5) (xg : Guard) : RoundTrip.Statement (.remz xd xa xb xg) := by
  intro hw w h
  have hE : w = 7 + 2 ^ 6 * (bit xg.inv + 2 ^ 1 * (xg.p.toNat + 2 ^ 3 * (xb.toNat + 2 ^ 5 * (xa.toNat + 2 ^ 5 * (xd.toNat + 2 ^ 5 * (41)))))) := by have := Option.some.inj h; simp only [guardBits] at this; omega
  have b_d := xd.isLt
  have b_a := xa.isLt
  have b_b := xb.isLt
  have b_g := xg.p.isLt
  have b'_g := bit_lt xg.inv
  have hm : fld w 25 6 = 0x29 := hE.symm ▸ ((fld_skip 6 (by decide) (by decide)).trans <| (fld_skip 1 (bit_lt xg.inv) (by decide)).trans <| (fld_skip 3 xg.p.isLt (by decide)).trans <| (fld_skip 5 b_b (by decide)).trans <| (fld_skip 5 b_a (by decide)).trans <| (fld_skip 5 b_d (by decide)).trans <| fld_whole (by decide))
  have f_0_6 : fld w 0 6 = 0x7 := hE.symm ▸ (fld_take (by decide))
  have o_d : fbv w 20 5 = xd := fbv_eq (hE.symm ▸ ((fld_skip 6 (by decide) (by decide)).trans <| (fld_skip 1 (bit_lt xg.inv) (by decide)).trans <| (fld_skip 3 xg.p.isLt (by decide)).trans <| (fld_skip 5 b_b (by decide)).trans <| (fld_skip 5 b_a (by decide)).trans <| fld_take b_d))
  have o_a : fbv w 15 5 = xa := fbv_eq (hE.symm ▸ ((fld_skip 6 (by decide) (by decide)).trans <| (fld_skip 1 (bit_lt xg.inv) (by decide)).trans <| (fld_skip 3 xg.p.isLt (by decide)).trans <| (fld_skip 5 b_b (by decide)).trans <| fld_take b_a))
  have o_b : fbv w 10 5 = xb := fbv_eq (hE.symm ▸ ((fld_skip 6 (by decide) (by decide)).trans <| (fld_skip 1 (bit_lt xg.inv) (by decide)).trans <| (fld_skip 3 xg.p.isLt (by decide)).trans <| fld_take b_b))
  have o_g : fguard w = xg := fguard_eq (hE.symm ▸ ((fld_skip 6 (by decide) (by decide)).trans <| (fld_skip 1 (bit_lt xg.inv) (by decide)).trans <| fld_take xg.p.isLt)) (hE.symm ▸ ((fld_skip 6 (by decide) (by decide)).trans <| fld_take (bit_lt xg.inv)))
  refine decodeNat_of_raw ((decodeRaw_29 hm).trans ?_) hw
  unfold decodeMajor29
  refine (if_neg fun h => absurd (f_0_6.symm.trans h) (by decide)).trans ?_
  refine (if_neg fun h => absurd (f_0_6.symm.trans h) (by decide)).trans ?_
  refine (if_neg fun h => absurd (f_0_6.symm.trans h) (by decide)).trans ?_
  refine (if_neg fun h => absurd (f_0_6.symm.trans h) (by decide)).trans ?_
  refine (if_neg fun h => absurd (f_0_6.symm.trans h) (by decide)).trans ?_
  refine (if_neg fun h => absurd (f_0_6.symm.trans h) (by decide)).trans ?_
  refine (if_pos f_0_6).trans ?_
  simp only [o_d, o_a, o_b, o_g]

theorem RoundTrip.fadd (xd : BitVec 5) (xa : BitVec 5) (xb : BitVec 5) (xg : Guard) : RoundTrip.Statement (.fadd xd xa xb xg) := by
  intro hw w h
  have hE : w = 0 + 2 ^ 6 * (bit xg.inv + 2 ^ 1 * (xg.p.toNat + 2 ^ 3 * (xb.toNat + 2 ^ 5 * (xa.toNat + 2 ^ 5 * (xd.toNat + 2 ^ 5 * (42)))))) := by have := Option.some.inj h; simp only [guardBits] at this; omega
  have b_d := xd.isLt
  have b_a := xa.isLt
  have b_b := xb.isLt
  have b_g := xg.p.isLt
  have b'_g := bit_lt xg.inv
  have hm : fld w 25 6 = 0x2A := hE.symm ▸ ((fld_skip 6 (by decide) (by decide)).trans <| (fld_skip 1 (bit_lt xg.inv) (by decide)).trans <| (fld_skip 3 xg.p.isLt (by decide)).trans <| (fld_skip 5 b_b (by decide)).trans <| (fld_skip 5 b_a (by decide)).trans <| (fld_skip 5 b_d (by decide)).trans <| fld_whole (by decide))
  have f_0_6 : fld w 0 6 = 0x0 := hE.symm ▸ (fld_take (by decide))
  have o_d : fbv w 20 5 = xd := fbv_eq (hE.symm ▸ ((fld_skip 6 (by decide) (by decide)).trans <| (fld_skip 1 (bit_lt xg.inv) (by decide)).trans <| (fld_skip 3 xg.p.isLt (by decide)).trans <| (fld_skip 5 b_b (by decide)).trans <| (fld_skip 5 b_a (by decide)).trans <| fld_take b_d))
  have o_a : fbv w 15 5 = xa := fbv_eq (hE.symm ▸ ((fld_skip 6 (by decide) (by decide)).trans <| (fld_skip 1 (bit_lt xg.inv) (by decide)).trans <| (fld_skip 3 xg.p.isLt (by decide)).trans <| (fld_skip 5 b_b (by decide)).trans <| fld_take b_a))
  have o_b : fbv w 10 5 = xb := fbv_eq (hE.symm ▸ ((fld_skip 6 (by decide) (by decide)).trans <| (fld_skip 1 (bit_lt xg.inv) (by decide)).trans <| (fld_skip 3 xg.p.isLt (by decide)).trans <| fld_take b_b))
  have o_g : fguard w = xg := fguard_eq (hE.symm ▸ ((fld_skip 6 (by decide) (by decide)).trans <| (fld_skip 1 (bit_lt xg.inv) (by decide)).trans <| fld_take xg.p.isLt)) (hE.symm ▸ ((fld_skip 6 (by decide) (by decide)).trans <| fld_take (bit_lt xg.inv)))
  refine decodeNat_of_raw ((decodeRaw_2A hm).trans ?_) hw
  unfold decodeMajor2A
  refine (if_pos f_0_6).trans ?_
  simp only [o_d, o_a, o_b, o_g]

theorem RoundTrip.fsub (xd : BitVec 5) (xa : BitVec 5) (xb : BitVec 5) (xg : Guard) : RoundTrip.Statement (.fsub xd xa xb xg) := by
  intro hw w h
  have hE : w = 1 + 2 ^ 6 * (bit xg.inv + 2 ^ 1 * (xg.p.toNat + 2 ^ 3 * (xb.toNat + 2 ^ 5 * (xa.toNat + 2 ^ 5 * (xd.toNat + 2 ^ 5 * (42)))))) := by have := Option.some.inj h; simp only [guardBits] at this; omega
  have b_d := xd.isLt
  have b_a := xa.isLt
  have b_b := xb.isLt
  have b_g := xg.p.isLt
  have b'_g := bit_lt xg.inv
  have hm : fld w 25 6 = 0x2A := hE.symm ▸ ((fld_skip 6 (by decide) (by decide)).trans <| (fld_skip 1 (bit_lt xg.inv) (by decide)).trans <| (fld_skip 3 xg.p.isLt (by decide)).trans <| (fld_skip 5 b_b (by decide)).trans <| (fld_skip 5 b_a (by decide)).trans <| (fld_skip 5 b_d (by decide)).trans <| fld_whole (by decide))
  have f_0_6 : fld w 0 6 = 0x1 := hE.symm ▸ (fld_take (by decide))
  have o_d : fbv w 20 5 = xd := fbv_eq (hE.symm ▸ ((fld_skip 6 (by decide) (by decide)).trans <| (fld_skip 1 (bit_lt xg.inv) (by decide)).trans <| (fld_skip 3 xg.p.isLt (by decide)).trans <| (fld_skip 5 b_b (by decide)).trans <| (fld_skip 5 b_a (by decide)).trans <| fld_take b_d))
  have o_a : fbv w 15 5 = xa := fbv_eq (hE.symm ▸ ((fld_skip 6 (by decide) (by decide)).trans <| (fld_skip 1 (bit_lt xg.inv) (by decide)).trans <| (fld_skip 3 xg.p.isLt (by decide)).trans <| (fld_skip 5 b_b (by decide)).trans <| fld_take b_a))
  have o_b : fbv w 10 5 = xb := fbv_eq (hE.symm ▸ ((fld_skip 6 (by decide) (by decide)).trans <| (fld_skip 1 (bit_lt xg.inv) (by decide)).trans <| (fld_skip 3 xg.p.isLt (by decide)).trans <| fld_take b_b))
  have o_g : fguard w = xg := fguard_eq (hE.symm ▸ ((fld_skip 6 (by decide) (by decide)).trans <| (fld_skip 1 (bit_lt xg.inv) (by decide)).trans <| fld_take xg.p.isLt)) (hE.symm ▸ ((fld_skip 6 (by decide) (by decide)).trans <| fld_take (bit_lt xg.inv)))
  refine decodeNat_of_raw ((decodeRaw_2A hm).trans ?_) hw
  unfold decodeMajor2A
  refine (if_neg fun h => absurd (f_0_6.symm.trans h) (by decide)).trans ?_
  refine (if_pos f_0_6).trans ?_
  simp only [o_d, o_a, o_b, o_g]

theorem RoundTrip.fmul (xd : BitVec 5) (xa : BitVec 5) (xb : BitVec 5) (xg : Guard) : RoundTrip.Statement (.fmul xd xa xb xg) := by
  intro hw w h
  have hE : w = 2 + 2 ^ 6 * (bit xg.inv + 2 ^ 1 * (xg.p.toNat + 2 ^ 3 * (xb.toNat + 2 ^ 5 * (xa.toNat + 2 ^ 5 * (xd.toNat + 2 ^ 5 * (42)))))) := by have := Option.some.inj h; simp only [guardBits] at this; omega
  have b_d := xd.isLt
  have b_a := xa.isLt
  have b_b := xb.isLt
  have b_g := xg.p.isLt
  have b'_g := bit_lt xg.inv
  have hm : fld w 25 6 = 0x2A := hE.symm ▸ ((fld_skip 6 (by decide) (by decide)).trans <| (fld_skip 1 (bit_lt xg.inv) (by decide)).trans <| (fld_skip 3 xg.p.isLt (by decide)).trans <| (fld_skip 5 b_b (by decide)).trans <| (fld_skip 5 b_a (by decide)).trans <| (fld_skip 5 b_d (by decide)).trans <| fld_whole (by decide))
  have f_0_6 : fld w 0 6 = 0x2 := hE.symm ▸ (fld_take (by decide))
  have o_d : fbv w 20 5 = xd := fbv_eq (hE.symm ▸ ((fld_skip 6 (by decide) (by decide)).trans <| (fld_skip 1 (bit_lt xg.inv) (by decide)).trans <| (fld_skip 3 xg.p.isLt (by decide)).trans <| (fld_skip 5 b_b (by decide)).trans <| (fld_skip 5 b_a (by decide)).trans <| fld_take b_d))
  have o_a : fbv w 15 5 = xa := fbv_eq (hE.symm ▸ ((fld_skip 6 (by decide) (by decide)).trans <| (fld_skip 1 (bit_lt xg.inv) (by decide)).trans <| (fld_skip 3 xg.p.isLt (by decide)).trans <| (fld_skip 5 b_b (by decide)).trans <| fld_take b_a))
  have o_b : fbv w 10 5 = xb := fbv_eq (hE.symm ▸ ((fld_skip 6 (by decide) (by decide)).trans <| (fld_skip 1 (bit_lt xg.inv) (by decide)).trans <| (fld_skip 3 xg.p.isLt (by decide)).trans <| fld_take b_b))
  have o_g : fguard w = xg := fguard_eq (hE.symm ▸ ((fld_skip 6 (by decide) (by decide)).trans <| (fld_skip 1 (bit_lt xg.inv) (by decide)).trans <| fld_take xg.p.isLt)) (hE.symm ▸ ((fld_skip 6 (by decide) (by decide)).trans <| fld_take (bit_lt xg.inv)))
  refine decodeNat_of_raw ((decodeRaw_2A hm).trans ?_) hw
  unfold decodeMajor2A
  refine (if_neg fun h => absurd (f_0_6.symm.trans h) (by decide)).trans ?_
  refine (if_neg fun h => absurd (f_0_6.symm.trans h) (by decide)).trans ?_
  refine (if_pos f_0_6).trans ?_
  simp only [o_d, o_a, o_b, o_g]

theorem RoundTrip.ffma (xd : BitVec 5) (xa : BitVec 5) (xb : BitVec 5) (xg : Guard) : RoundTrip.Statement (.ffma xd xa xb xg) := by
  intro hw w h
  have hE : w = 3 + 2 ^ 6 * (bit xg.inv + 2 ^ 1 * (xg.p.toNat + 2 ^ 3 * (xb.toNat + 2 ^ 5 * (xa.toNat + 2 ^ 5 * (xd.toNat + 2 ^ 5 * (42)))))) := by have := Option.some.inj h; simp only [guardBits] at this; omega
  have b_d := xd.isLt
  have b_a := xa.isLt
  have b_b := xb.isLt
  have b_g := xg.p.isLt
  have b'_g := bit_lt xg.inv
  have hm : fld w 25 6 = 0x2A := hE.symm ▸ ((fld_skip 6 (by decide) (by decide)).trans <| (fld_skip 1 (bit_lt xg.inv) (by decide)).trans <| (fld_skip 3 xg.p.isLt (by decide)).trans <| (fld_skip 5 b_b (by decide)).trans <| (fld_skip 5 b_a (by decide)).trans <| (fld_skip 5 b_d (by decide)).trans <| fld_whole (by decide))
  have f_0_6 : fld w 0 6 = 0x3 := hE.symm ▸ (fld_take (by decide))
  have o_d : fbv w 20 5 = xd := fbv_eq (hE.symm ▸ ((fld_skip 6 (by decide) (by decide)).trans <| (fld_skip 1 (bit_lt xg.inv) (by decide)).trans <| (fld_skip 3 xg.p.isLt (by decide)).trans <| (fld_skip 5 b_b (by decide)).trans <| (fld_skip 5 b_a (by decide)).trans <| fld_take b_d))
  have o_a : fbv w 15 5 = xa := fbv_eq (hE.symm ▸ ((fld_skip 6 (by decide) (by decide)).trans <| (fld_skip 1 (bit_lt xg.inv) (by decide)).trans <| (fld_skip 3 xg.p.isLt (by decide)).trans <| (fld_skip 5 b_b (by decide)).trans <| fld_take b_a))
  have o_b : fbv w 10 5 = xb := fbv_eq (hE.symm ▸ ((fld_skip 6 (by decide) (by decide)).trans <| (fld_skip 1 (bit_lt xg.inv) (by decide)).trans <| (fld_skip 3 xg.p.isLt (by decide)).trans <| fld_take b_b))
  have o_g : fguard w = xg := fguard_eq (hE.symm ▸ ((fld_skip 6 (by decide) (by decide)).trans <| (fld_skip 1 (bit_lt xg.inv) (by decide)).trans <| fld_take xg.p.isLt)) (hE.symm ▸ ((fld_skip 6 (by decide) (by decide)).trans <| fld_take (bit_lt xg.inv)))
  refine decodeNat_of_raw ((decodeRaw_2A hm).trans ?_) hw
  unfold decodeMajor2A
  refine (if_neg fun h => absurd (f_0_6.symm.trans h) (by decide)).trans ?_
  refine (if_neg fun h => absurd (f_0_6.symm.trans h) (by decide)).trans ?_
  refine (if_neg fun h => absurd (f_0_6.symm.trans h) (by decide)).trans ?_
  refine (if_pos f_0_6).trans ?_
  simp only [o_d, o_a, o_b, o_g]

theorem RoundTrip.fmin (xd : BitVec 5) (xa : BitVec 5) (xb : BitVec 5) (xg : Guard) : RoundTrip.Statement (.fmin xd xa xb xg) := by
  intro hw w h
  have hE : w = 4 + 2 ^ 6 * (bit xg.inv + 2 ^ 1 * (xg.p.toNat + 2 ^ 3 * (xb.toNat + 2 ^ 5 * (xa.toNat + 2 ^ 5 * (xd.toNat + 2 ^ 5 * (42)))))) := by have := Option.some.inj h; simp only [guardBits] at this; omega
  have b_d := xd.isLt
  have b_a := xa.isLt
  have b_b := xb.isLt
  have b_g := xg.p.isLt
  have b'_g := bit_lt xg.inv
  have hm : fld w 25 6 = 0x2A := hE.symm ▸ ((fld_skip 6 (by decide) (by decide)).trans <| (fld_skip 1 (bit_lt xg.inv) (by decide)).trans <| (fld_skip 3 xg.p.isLt (by decide)).trans <| (fld_skip 5 b_b (by decide)).trans <| (fld_skip 5 b_a (by decide)).trans <| (fld_skip 5 b_d (by decide)).trans <| fld_whole (by decide))
  have f_0_6 : fld w 0 6 = 0x4 := hE.symm ▸ (fld_take (by decide))
  have o_d : fbv w 20 5 = xd := fbv_eq (hE.symm ▸ ((fld_skip 6 (by decide) (by decide)).trans <| (fld_skip 1 (bit_lt xg.inv) (by decide)).trans <| (fld_skip 3 xg.p.isLt (by decide)).trans <| (fld_skip 5 b_b (by decide)).trans <| (fld_skip 5 b_a (by decide)).trans <| fld_take b_d))
  have o_a : fbv w 15 5 = xa := fbv_eq (hE.symm ▸ ((fld_skip 6 (by decide) (by decide)).trans <| (fld_skip 1 (bit_lt xg.inv) (by decide)).trans <| (fld_skip 3 xg.p.isLt (by decide)).trans <| (fld_skip 5 b_b (by decide)).trans <| fld_take b_a))
  have o_b : fbv w 10 5 = xb := fbv_eq (hE.symm ▸ ((fld_skip 6 (by decide) (by decide)).trans <| (fld_skip 1 (bit_lt xg.inv) (by decide)).trans <| (fld_skip 3 xg.p.isLt (by decide)).trans <| fld_take b_b))
  have o_g : fguard w = xg := fguard_eq (hE.symm ▸ ((fld_skip 6 (by decide) (by decide)).trans <| (fld_skip 1 (bit_lt xg.inv) (by decide)).trans <| fld_take xg.p.isLt)) (hE.symm ▸ ((fld_skip 6 (by decide) (by decide)).trans <| fld_take (bit_lt xg.inv)))
  refine decodeNat_of_raw ((decodeRaw_2A hm).trans ?_) hw
  unfold decodeMajor2A
  refine (if_neg fun h => absurd (f_0_6.symm.trans h) (by decide)).trans ?_
  refine (if_neg fun h => absurd (f_0_6.symm.trans h) (by decide)).trans ?_
  refine (if_neg fun h => absurd (f_0_6.symm.trans h) (by decide)).trans ?_
  refine (if_neg fun h => absurd (f_0_6.symm.trans h) (by decide)).trans ?_
  refine (if_pos f_0_6).trans ?_
  simp only [o_d, o_a, o_b, o_g]

theorem RoundTrip.fmax (xd : BitVec 5) (xa : BitVec 5) (xb : BitVec 5) (xg : Guard) : RoundTrip.Statement (.fmax xd xa xb xg) := by
  intro hw w h
  have hE : w = 5 + 2 ^ 6 * (bit xg.inv + 2 ^ 1 * (xg.p.toNat + 2 ^ 3 * (xb.toNat + 2 ^ 5 * (xa.toNat + 2 ^ 5 * (xd.toNat + 2 ^ 5 * (42)))))) := by have := Option.some.inj h; simp only [guardBits] at this; omega
  have b_d := xd.isLt
  have b_a := xa.isLt
  have b_b := xb.isLt
  have b_g := xg.p.isLt
  have b'_g := bit_lt xg.inv
  have hm : fld w 25 6 = 0x2A := hE.symm ▸ ((fld_skip 6 (by decide) (by decide)).trans <| (fld_skip 1 (bit_lt xg.inv) (by decide)).trans <| (fld_skip 3 xg.p.isLt (by decide)).trans <| (fld_skip 5 b_b (by decide)).trans <| (fld_skip 5 b_a (by decide)).trans <| (fld_skip 5 b_d (by decide)).trans <| fld_whole (by decide))
  have f_0_6 : fld w 0 6 = 0x5 := hE.symm ▸ (fld_take (by decide))
  have o_d : fbv w 20 5 = xd := fbv_eq (hE.symm ▸ ((fld_skip 6 (by decide) (by decide)).trans <| (fld_skip 1 (bit_lt xg.inv) (by decide)).trans <| (fld_skip 3 xg.p.isLt (by decide)).trans <| (fld_skip 5 b_b (by decide)).trans <| (fld_skip 5 b_a (by decide)).trans <| fld_take b_d))
  have o_a : fbv w 15 5 = xa := fbv_eq (hE.symm ▸ ((fld_skip 6 (by decide) (by decide)).trans <| (fld_skip 1 (bit_lt xg.inv) (by decide)).trans <| (fld_skip 3 xg.p.isLt (by decide)).trans <| (fld_skip 5 b_b (by decide)).trans <| fld_take b_a))
  have o_b : fbv w 10 5 = xb := fbv_eq (hE.symm ▸ ((fld_skip 6 (by decide) (by decide)).trans <| (fld_skip 1 (bit_lt xg.inv) (by decide)).trans <| (fld_skip 3 xg.p.isLt (by decide)).trans <| fld_take b_b))
  have o_g : fguard w = xg := fguard_eq (hE.symm ▸ ((fld_skip 6 (by decide) (by decide)).trans <| (fld_skip 1 (bit_lt xg.inv) (by decide)).trans <| fld_take xg.p.isLt)) (hE.symm ▸ ((fld_skip 6 (by decide) (by decide)).trans <| fld_take (bit_lt xg.inv)))
  refine decodeNat_of_raw ((decodeRaw_2A hm).trans ?_) hw
  unfold decodeMajor2A
  refine (if_neg fun h => absurd (f_0_6.symm.trans h) (by decide)).trans ?_
  refine (if_neg fun h => absurd (f_0_6.symm.trans h) (by decide)).trans ?_
  refine (if_neg fun h => absurd (f_0_6.symm.trans h) (by decide)).trans ?_
  refine (if_neg fun h => absurd (f_0_6.symm.trans h) (by decide)).trans ?_
  refine (if_neg fun h => absurd (f_0_6.symm.trans h) (by decide)).trans ?_
  refine (if_pos f_0_6).trans ?_
  simp only [o_d, o_a, o_b, o_g]

theorem RoundTrip.fabs (xd : BitVec 5) (xa : BitVec 5) (xg : Guard) : RoundTrip.Statement (.fabs xd xa xg) := by
  intro hw w h
  have hE : w = 6 + 2 ^ 6 * (bit xg.inv + 2 ^ 1 * (xg.p.toNat + 2 ^ 3 * (0 + 2 ^ 5 * (xa.toNat + 2 ^ 5 * (xd.toNat + 2 ^ 5 * (42)))))) := by have := Option.some.inj h; simp only [guardBits] at this; omega
  have b_d := xd.isLt
  have b_a := xa.isLt
  have b_g := xg.p.isLt
  have b'_g := bit_lt xg.inv
  have hm : fld w 25 6 = 0x2A := hE.symm ▸ ((fld_skip 6 (by decide) (by decide)).trans <| (fld_skip 1 (bit_lt xg.inv) (by decide)).trans <| (fld_skip 3 xg.p.isLt (by decide)).trans <| (fld_skip 5 (by decide) (by decide)).trans <| (fld_skip 5 b_a (by decide)).trans <| (fld_skip 5 b_d (by decide)).trans <| fld_whole (by decide))
  have f_0_6 : fld w 0 6 = 0x6 := hE.symm ▸ (fld_take (by decide))
  have f_10_5 : fld w 10 5 = 0x0 := hE.symm ▸ ((fld_skip 6 (by decide) (by decide)).trans <| (fld_skip 1 (bit_lt xg.inv) (by decide)).trans <| (fld_skip 3 xg.p.isLt (by decide)).trans <| fld_take (by decide))
  have o_d : fbv w 20 5 = xd := fbv_eq (hE.symm ▸ ((fld_skip 6 (by decide) (by decide)).trans <| (fld_skip 1 (bit_lt xg.inv) (by decide)).trans <| (fld_skip 3 xg.p.isLt (by decide)).trans <| (fld_skip 5 (by decide) (by decide)).trans <| (fld_skip 5 b_a (by decide)).trans <| fld_take b_d))
  have o_a : fbv w 15 5 = xa := fbv_eq (hE.symm ▸ ((fld_skip 6 (by decide) (by decide)).trans <| (fld_skip 1 (bit_lt xg.inv) (by decide)).trans <| (fld_skip 3 xg.p.isLt (by decide)).trans <| (fld_skip 5 (by decide) (by decide)).trans <| fld_take b_a))
  have o_g : fguard w = xg := fguard_eq (hE.symm ▸ ((fld_skip 6 (by decide) (by decide)).trans <| (fld_skip 1 (bit_lt xg.inv) (by decide)).trans <| fld_take xg.p.isLt)) (hE.symm ▸ ((fld_skip 6 (by decide) (by decide)).trans <| fld_take (bit_lt xg.inv)))
  refine decodeNat_of_raw ((decodeRaw_2A hm).trans ?_) hw
  unfold decodeMajor2A
  refine (if_neg fun h => absurd (f_0_6.symm.trans h) (by decide)).trans ?_
  refine (if_neg fun h => absurd (f_0_6.symm.trans h) (by decide)).trans ?_
  refine (if_neg fun h => absurd (f_0_6.symm.trans h) (by decide)).trans ?_
  refine (if_neg fun h => absurd (f_0_6.symm.trans h) (by decide)).trans ?_
  refine (if_neg fun h => absurd (f_0_6.symm.trans h) (by decide)).trans ?_
  refine (if_neg fun h => absurd (f_0_6.symm.trans h) (by decide)).trans ?_
  refine (if_pos ⟨f_0_6, f_10_5⟩).trans ?_
  simp only [o_d, o_a, o_g]

theorem RoundTrip.fneg (xd : BitVec 5) (xa : BitVec 5) (xg : Guard) : RoundTrip.Statement (.fneg xd xa xg) := by
  intro hw w h
  have hE : w = 7 + 2 ^ 6 * (bit xg.inv + 2 ^ 1 * (xg.p.toNat + 2 ^ 3 * (0 + 2 ^ 5 * (xa.toNat + 2 ^ 5 * (xd.toNat + 2 ^ 5 * (42)))))) := by have := Option.some.inj h; simp only [guardBits] at this; omega
  have b_d := xd.isLt
  have b_a := xa.isLt
  have b_g := xg.p.isLt
  have b'_g := bit_lt xg.inv
  have hm : fld w 25 6 = 0x2A := hE.symm ▸ ((fld_skip 6 (by decide) (by decide)).trans <| (fld_skip 1 (bit_lt xg.inv) (by decide)).trans <| (fld_skip 3 xg.p.isLt (by decide)).trans <| (fld_skip 5 (by decide) (by decide)).trans <| (fld_skip 5 b_a (by decide)).trans <| (fld_skip 5 b_d (by decide)).trans <| fld_whole (by decide))
  have f_0_6 : fld w 0 6 = 0x7 := hE.symm ▸ (fld_take (by decide))
  have f_10_5 : fld w 10 5 = 0x0 := hE.symm ▸ ((fld_skip 6 (by decide) (by decide)).trans <| (fld_skip 1 (bit_lt xg.inv) (by decide)).trans <| (fld_skip 3 xg.p.isLt (by decide)).trans <| fld_take (by decide))
  have o_d : fbv w 20 5 = xd := fbv_eq (hE.symm ▸ ((fld_skip 6 (by decide) (by decide)).trans <| (fld_skip 1 (bit_lt xg.inv) (by decide)).trans <| (fld_skip 3 xg.p.isLt (by decide)).trans <| (fld_skip 5 (by decide) (by decide)).trans <| (fld_skip 5 b_a (by decide)).trans <| fld_take b_d))
  have o_a : fbv w 15 5 = xa := fbv_eq (hE.symm ▸ ((fld_skip 6 (by decide) (by decide)).trans <| (fld_skip 1 (bit_lt xg.inv) (by decide)).trans <| (fld_skip 3 xg.p.isLt (by decide)).trans <| (fld_skip 5 (by decide) (by decide)).trans <| fld_take b_a))
  have o_g : fguard w = xg := fguard_eq (hE.symm ▸ ((fld_skip 6 (by decide) (by decide)).trans <| (fld_skip 1 (bit_lt xg.inv) (by decide)).trans <| fld_take xg.p.isLt)) (hE.symm ▸ ((fld_skip 6 (by decide) (by decide)).trans <| fld_take (bit_lt xg.inv)))
  refine decodeNat_of_raw ((decodeRaw_2A hm).trans ?_) hw
  unfold decodeMajor2A
  refine (if_neg fun h => absurd (f_0_6.symm.trans h) (by decide)).trans ?_
  refine (if_neg fun h => absurd (f_0_6.symm.trans h) (by decide)).trans ?_
  refine (if_neg fun h => absurd (f_0_6.symm.trans h) (by decide)).trans ?_
  refine (if_neg fun h => absurd (f_0_6.symm.trans h) (by decide)).trans ?_
  refine (if_neg fun h => absurd (f_0_6.symm.trans h) (by decide)).trans ?_
  refine (if_neg fun h => absurd (f_0_6.symm.trans h) (by decide)).trans ?_
  refine (if_neg fun h => absurd (f_0_6.symm.trans h.1) (by decide)).trans ?_
  refine (if_pos ⟨f_0_6, f_10_5⟩).trans ?_
  simp only [o_d, o_a, o_g]

theorem RoundTrip.fcmp (xp : BitVec 3) (xa : BitVec 5) (xb : BitVec 5) (xg : Guard) (xc : FcmpCond) : RoundTrip.Statement (.fcmp xp xa xb xg xc) := by
  intro hw w h
  have hE : w = xc.code + 2 ^ 2 * (2 + 2 ^ 4 * (bit xg.inv + 2 ^ 1 * (xg.p.toNat + 2 ^ 3 * (xb.toNat + 2 ^ 5 * (xa.toNat + 2 ^ 5 * (xp.toNat + 2 ^ 3 * (168))))))) := by have := Option.some.inj h; simp only [guardBits] at this; omega
  have b_p := xp.isLt
  have b_a := xa.isLt
  have b_b := xb.isLt
  have b_g := xg.p.isLt
  have b'_g := bit_lt xg.inv
  have b_c := FcmpCond.code_lt xc
  have hm : fld w 25 6 = 0x2A := hE.symm ▸ ((fld_skip 2 b_c (by decide)).trans <| (fld_skip 4 (by decide) (by decide)).trans <| (fld_skip 1 (bit_lt xg.inv) (by decide)).trans <| (fld_skip 3 xg.p.isLt (by decide)).trans <| (fld_skip 5 b_b (by decide)).trans <| (fld_skip 5 b_a (by decide)).trans <| (fld_skip 3 b_p (by decide)).trans <| (by decide))
  have f_2_4 : fld w 2 4 = 0x2 := hE.symm ▸ ((fld_skip 2 b_c (by decide)).trans <| fld_take (by decide))
  have f_23_2 : fld w 23 2 = 0x0 := hE.symm ▸ ((fld_skip 2 b_c (by decide)).trans <| (fld_skip 4 (by decide) (by decide)).trans <| (fld_skip 1 (bit_lt xg.inv) (by decide)).trans <| (fld_skip 3 xg.p.isLt (by decide)).trans <| (fld_skip 5 b_b (by decide)).trans <| (fld_skip 5 b_a (by decide)).trans <| (fld_skip 3 b_p (by decide)).trans <| (by decide))
  have t_3 : fld w 3 1 = 1 := hE.symm ▸ ((fld_skip 2 b_c (by decide)).trans <| (fld_low (by decide)).trans (by decide))
  have t_2 : fld w 2 1 = 0 := hE.symm ▸ ((fld_skip 2 b_c (by decide)).trans <| (fld_low (by decide)).trans (by decide))
  have o_p : fbv w 20 3 = xp := fbv_eq (hE.symm ▸ ((fld_skip 2 b_c (by decide)).trans <| (fld_skip 4 (by decide) (by decide)).trans <| (fld_skip 1 (bit_lt xg.inv) (by decide)).trans <| (fld_skip 3 xg.p.isLt (by decide)).trans <| (fld_skip 5 b_b (by decide)).trans <| (fld_skip 5 b_a (by decide)).trans <| fld_take b_p))
  have o_a : fbv w 15 5 = xa := fbv_eq (hE.symm ▸ ((fld_skip 2 b_c (by decide)).trans <| (fld_skip 4 (by decide) (by decide)).trans <| (fld_skip 1 (bit_lt xg.inv) (by decide)).trans <| (fld_skip 3 xg.p.isLt (by decide)).trans <| (fld_skip 5 b_b (by decide)).trans <| fld_take b_a))
  have o_b : fbv w 10 5 = xb := fbv_eq (hE.symm ▸ ((fld_skip 2 b_c (by decide)).trans <| (fld_skip 4 (by decide) (by decide)).trans <| (fld_skip 1 (bit_lt xg.inv) (by decide)).trans <| (fld_skip 3 xg.p.isLt (by decide)).trans <| fld_take b_b))
  have o_g : fguard w = xg := fguard_eq (hE.symm ▸ ((fld_skip 2 b_c (by decide)).trans <| (fld_skip 4 (by decide) (by decide)).trans <| (fld_skip 1 (bit_lt xg.inv) (by decide)).trans <| fld_take xg.p.isLt)) (hE.symm ▸ ((fld_skip 2 b_c (by decide)).trans <| (fld_skip 4 (by decide) (by decide)).trans <| fld_take (bit_lt xg.inv)))
  have o_c : fld w 0 2 = xc.code := hE.symm ▸ (fld_take b_c)
  refine decodeNat_of_raw ((decodeRaw_2A hm).trans ?_) hw
  unfold decodeMajor2A
  refine (if_neg fun h => fld_ne t_3 (by decide) (by decide) (by decide) h).trans ?_
  refine (if_neg fun h => fld_ne t_3 (by decide) (by decide) (by decide) h).trans ?_
  refine (if_neg fun h => fld_ne t_3 (by decide) (by decide) (by decide) h).trans ?_
  refine (if_neg fun h => fld_ne t_3 (by decide) (by decide) (by decide) h).trans ?_
  refine (if_neg fun h => fld_ne t_2 (by decide) (by decide) (by decide) h).trans ?_
  refine (if_neg fun h => fld_ne t_2 (by decide) (by decide) (by decide) h).trans ?_
  refine (if_neg fun h => fld_ne t_2 (by decide) (by decide) (by decide) h.1).trans ?_
  refine (if_neg fun h => fld_ne t_2 (by decide) (by decide) (by decide) h.1).trans ?_
  refine (if_pos ⟨f_2_4, f_23_2⟩).trans ?_
  simp only [o_p, o_a, o_b, o_g, o_c, FcmpCond.ofCode_code, Option.bind_some]

theorem RoundTrip.fcvt (xd : BitVec 5) (xa : BitVec 5) (xg : Guard) (xc : FcvtKind) : RoundTrip.Statement (.fcvt xd xa xg xc) := by
  intro hw w h
  have hE : w = xc.code + 2 ^ 3 * (2 + 2 ^ 3 * (bit xg.inv + 2 ^ 1 * (xg.p.toNat + 2 ^ 3 * (0 + 2 ^ 5 * (xa.toNat + 2 ^ 5 * (xd.toNat + 2 ^ 5 * (42))))))) := by have := Option.some.inj h; simp only [guardBits] at this; omega
  have b_d := xd.isLt
  have b_a := xa.isLt
  have b_g := xg.p.isLt
  have b'_g := bit_lt xg.inv
  have b_c := FcvtKind.code_lt xc
  have hm : fld w 25 6 = 0x2A := hE.symm ▸ ((fld_skip 3 b_c (by decide)).trans <| (fld_skip 3 (by decide) (by decide)).trans <| (fld_skip 1 (bit_lt xg.inv) (by decide)).trans <| (fld_skip 3 xg.p.isLt (by decide)).trans <| (fld_skip 5 (by decide) (by decide)).trans <| (fld_skip 5 b_a (by decide)).trans <| (fld_skip 5 b_d (by decide)).trans <| fld_whole (by decide))
  have f_10_5 : fld w 10 5 = 0x0 := hE.symm ▸ ((fld_skip 3 b_c (by decide)).trans <| (fld_skip 3 (by decide) (by decide)).trans <| (fld_skip 1 (bit_lt xg.inv) (by decide)).trans <| (fld_skip 3 xg.p.isLt (by decide)).trans <| fld_take (by decide))
  have f_3_3 : fld w 3 3 = 0x2 := hE.symm ▸ ((fld_skip 3 b_c (by decide)).trans <| fld_take (by decide))
  have t_4 : fld w 4 1 = 1 := hE.symm ▸ ((fld_skip 3 b_c (by decide)).trans <| (fld_low (by decide)).trans (by decide))
  have t_3 : fld w 3 1 = 0 := hE.symm ▸ ((fld_skip 3 b_c (by decide)).trans <| (fld_low (by decide)).trans (by decide))
  have o_d : fbv w 20 5 = xd := fbv_eq (hE.symm ▸ ((fld_skip 3 b_c (by decide)).trans <| (fld_skip 3 (by decide) (by decide)).trans <| (fld_skip 1 (bit_lt xg.inv) (by decide)).trans <| (fld_skip 3 xg.p.isLt (by decide)).trans <| (fld_skip 5 (by decide) (by decide)).trans <| (fld_skip 5 b_a (by decide)).trans <| fld_take b_d))
  have o_a : fbv w 15 5 = xa := fbv_eq (hE.symm ▸ ((fld_skip 3 b_c (by decide)).trans <| (fld_skip 3 (by decide) (by decide)).trans <| (fld_skip 1 (bit_lt xg.inv) (by decide)).trans <| (fld_skip 3 xg.p.isLt (by decide)).trans <| (fld_skip 5 (by decide) (by decide)).trans <| fld_take b_a))
  have o_g : fguard w = xg := fguard_eq (hE.symm ▸ ((fld_skip 3 b_c (by decide)).trans <| (fld_skip 3 (by decide) (by decide)).trans <| (fld_skip 1 (bit_lt xg.inv) (by decide)).trans <| fld_take xg.p.isLt)) (hE.symm ▸ ((fld_skip 3 b_c (by decide)).trans <| (fld_skip 3 (by decide) (by decide)).trans <| fld_take (bit_lt xg.inv)))
  have o_c : fld w 0 3 = xc.code := hE.symm ▸ (fld_take b_c)
  refine decodeNat_of_raw ((decodeRaw_2A hm).trans ?_) hw
  unfold decodeMajor2A
  refine (if_neg fun h => fld_ne t_4 (by decide) (by decide) (by decide) h).trans ?_
  refine (if_neg fun h => fld_ne t_4 (by decide) (by decide) (by decide) h).trans ?_
  refine (if_neg fun h => fld_ne t_4 (by decide) (by decide) (by decide) h).trans ?_
  refine (if_neg fun h => fld_ne t_4 (by decide) (by decide) (by decide) h).trans ?_
  refine (if_neg fun h => fld_ne t_4 (by decide) (by decide) (by decide) h).trans ?_
  refine (if_neg fun h => fld_ne t_4 (by decide) (by decide) (by decide) h).trans ?_
  refine (if_neg fun h => fld_ne t_4 (by decide) (by decide) (by decide) h.1).trans ?_
  refine (if_neg fun h => fld_ne t_4 (by decide) (by decide) (by decide) h.1).trans ?_
  refine (if_neg fun h => fld_ne t_3 (by decide) (by decide) (by decide) h.1).trans ?_
  refine (if_pos ⟨f_3_3, f_10_5⟩).trans ?_
  simp only [o_d, o_a, o_g, o_c, FcvtKind.ofCode_code, Option.bind_some]

theorem RoundTrip.bfx (xd : BitVec 5) (xa : BitVec 5) (xp : BitVec 6) (xw : BitVec 6) : RoundTrip.Statement (.bfx xd xa xp xw) := by
  intro hw w h
  have hE : w = xw.toNat + 2 ^ 6 * (xp.toNat + 2 ^ 6 * (0 + 2 ^ 3 * (xa.toNat + 2 ^ 5 * (xd.toNat + 2 ^ 5 * (44))))) := by have := Option.some.inj h; omega
  have b_d := xd.isLt
  have b_a := xa.isLt
  have b_p := xp.isLt
  have b_w := xw.isLt
  have hm : fld w 25 6 = 0x2C := hE.symm ▸ ((fld_skip 6 b_w (by decide)).trans <| (fld_skip 6 b_p (by decide)).trans <| (fld_skip 3 (by decide) (by decide)).trans <| (fld_skip 5 b_a (by decide)).trans <| (fld_skip 5 b_d (by decide)).trans <| fld_whole (by decide))
  have f_12_3 : fld w 12 3 = 0x0 := hE.symm ▸ ((fld_skip 6 b_w (by decide)).trans <| (fld_skip 6 b_p (by decide)).trans <| fld_take (by decide))
  have o_d : fbv w 20 5 = xd := fbv_eq (hE.symm ▸ ((fld_skip 6 b_w (by decide)).trans <| (fld_skip 6 b_p (by decide)).trans <| (fld_skip 3 (by decide) (by decide)).trans <| (fld_skip 5 b_a (by decide)).trans <| fld_take b_d))
  have o_a : fbv w 15 5 = xa := fbv_eq (hE.symm ▸ ((fld_skip 6 b_w (by decide)).trans <| (fld_skip 6 b_p (by decide)).trans <| (fld_skip 3 (by decide) (by decide)).trans <| fld_take b_a))
  have o_p : fbv w 6 6 = xp := fbv_eq (hE.symm ▸ ((fld_skip 6 b_w (by decide)).trans <| fld_take b_p))
  have o_w : fbv w 0 6 = xw := fbv_eq (hE.symm ▸ (fld_take b_w))
  refine decodeNat_of_raw ((decodeRaw_2C hm).trans ?_) hw
  unfold decodeMajor2C
  refine (if_pos f_12_3).trans ?_
  simp only [o_d, o_a, o_p, o_w]

theorem RoundTrip.bfxz (xd : BitVec 5) (xa : BitVec 5) (xp : BitVec 6) (xw : BitVec 6) : RoundTrip.Statement (.bfxz xd xa xp xw) := by
  intro hw w h
  have hE : w = xw.toNat + 2 ^ 6 * (xp.toNat + 2 ^ 6 * (2 + 2 ^ 3 * (xa.toNat + 2 ^ 5 * (xd.toNat + 2 ^ 5 * (44))))) := by have := Option.some.inj h; omega
  have b_d := xd.isLt
  have b_a := xa.isLt
  have b_p := xp.isLt
  have b_w := xw.isLt
  have hm : fld w 25 6 = 0x2C := hE.symm ▸ ((fld_skip 6 b_w (by decide)).trans <| (fld_skip 6 b_p (by decide)).trans <| (fld_skip 3 (by decide) (by decide)).trans <| (fld_skip 5 b_a (by decide)).trans <| (fld_skip 5 b_d (by decide)).trans <| fld_whole (by decide))
  have f_12_3 : fld w 12 3 = 0x2 := hE.symm ▸ ((fld_skip 6 b_w (by decide)).trans <| (fld_skip 6 b_p (by decide)).trans <| fld_take (by decide))
  have o_d : fbv w 20 5 = xd := fbv_eq (hE.symm ▸ ((fld_skip 6 b_w (by decide)).trans <| (fld_skip 6 b_p (by decide)).trans <| (fld_skip 3 (by decide) (by decide)).trans <| (fld_skip 5 b_a (by decide)).trans <| fld_take b_d))
  have o_a : fbv w 15 5 = xa := fbv_eq (hE.symm ▸ ((fld_skip 6 b_w (by decide)).trans <| (fld_skip 6 b_p (by decide)).trans <| (fld_skip 3 (by decide) (by decide)).trans <| fld_take b_a))
  have o_p : fbv w 6 6 = xp := fbv_eq (hE.symm ▸ ((fld_skip 6 b_w (by decide)).trans <| fld_take b_p))
  have o_w : fbv w 0 6 = xw := fbv_eq (hE.symm ▸ (fld_take b_w))
  refine decodeNat_of_raw ((decodeRaw_2C hm).trans ?_) hw
  unfold decodeMajor2C
  refine (if_neg fun h => absurd (f_12_3.symm.trans h) (by decide)).trans ?_
  refine (if_pos f_12_3).trans ?_
  simp only [o_d, o_a, o_p, o_w]

theorem RoundTrip.bfi (xd : BitVec 5) (xa : BitVec 5) (xp : BitVec 6) (xw : BitVec 6) : RoundTrip.Statement (.bfi xd xa xp xw) := by
  intro hw w h
  have hE : w = xw.toNat + 2 ^ 6 * (xp.toNat + 2 ^ 6 * (4 + 2 ^ 3 * (xa.toNat + 2 ^ 5 * (xd.toNat + 2 ^ 5 * (44))))) := by have := Option.some.inj h; omega
  have b_d := xd.isLt
  have b_a := xa.isLt
  have b_p := xp.isLt
  have b_w := xw.isLt
  have hm : fld w 25 6 = 0x2C := hE.symm ▸ ((fld_skip 6 b_w (by decide)).trans <| (fld_skip 6 b_p (by decide)).trans <| (fld_skip 3 (by decide) (by decide)).trans <| (fld_skip 5 b_a (by decide)).trans <| (fld_skip 5 b_d (by decide)).trans <| fld_whole (by decide))
  have f_12_3 : fld w 12 3 = 0x4 := hE.symm ▸ ((fld_skip 6 b_w (by decide)).trans <| (fld_skip 6 b_p (by decide)).trans <| fld_take (by decide))
  have o_d : fbv w 20 5 = xd := fbv_eq (hE.symm ▸ ((fld_skip 6 b_w (by decide)).trans <| (fld_skip 6 b_p (by decide)).trans <| (fld_skip 3 (by decide) (by decide)).trans <| (fld_skip 5 b_a (by decide)).trans <| fld_take b_d))
  have o_a : fbv w 15 5 = xa := fbv_eq (hE.symm ▸ ((fld_skip 6 b_w (by decide)).trans <| (fld_skip 6 b_p (by decide)).trans <| (fld_skip 3 (by decide) (by decide)).trans <| fld_take b_a))
  have o_p : fbv w 6 6 = xp := fbv_eq (hE.symm ▸ ((fld_skip 6 b_w (by decide)).trans <| fld_take b_p))
  have o_w : fbv w 0 6 = xw := fbv_eq (hE.symm ▸ (fld_take b_w))
  refine decodeNat_of_raw ((decodeRaw_2C hm).trans ?_) hw
  unfold decodeMajor2C
  refine (if_neg fun h => absurd (f_12_3.symm.trans h) (by decide)).trans ?_
  refine (if_neg fun h => absurd (f_12_3.symm.trans h) (by decide)).trans ?_
  refine (if_pos f_12_3).trans ?_
  simp only [o_d, o_a, o_p, o_w]

theorem RoundTrip.vaddInt (xd : BitVec 4) (xa : BitVec 4) (xb : BitVec 4) (xk : BitVec 2) (xt : IntTy) (xs : Bool) : RoundTrip.Statement (.vaddInt xd xa xb xk xt xs) := by
  intro hw w h
  have hE : w = 0 + 2 ^ 7 * (bit xs + 2 ^ 1 * (xt.code + 2 ^ 2 * (0 + 2 ^ 1 * (xk.toNat + 2 ^ 2 * (xb.toNat + 2 ^ 4 * (xa.toNat + 2 ^ 4 * (xd.toNat + 2 ^ 4 * (48)))))))) := by have := Option.some.inj h; omega
  have b_d := xd.isLt
  have b_a := xa.isLt
  have b_b := xb.isLt
  have b_k := xk.isLt
  have b_t := IntTy.code_lt xt
  have b_s := bit_lt xs
  have hm : fld w 25 6 = 0x30 := hE.symm ▸ ((fld_skip 7 (by decide) (by decide)).trans <| (fld_skip 1 b_s (by decide)).trans <| (fld_skip 2 b_t (by decide)).trans <| (fld_skip 1 (by decide) (by decide)).trans <| (fld_skip 2 b_k (by decide)).trans <| (fld_skip 4 b_b (by decide)).trans <| (fld_skip 4 b_a (by decide)).trans <| (fld_skip 4 b_d (by decide)).trans <| fld_whole (by decide))
  have f_0_7 : fld w 0 7 = 0x0 := hE.symm ▸ (fld_take (by decide))
  have f_10_1 : fld w 10 1 = 0x0 := hE.symm ▸ ((fld_skip 7 (by decide) (by decide)).trans <| (fld_skip 1 b_s (by decide)).trans <| (fld_skip 2 b_t (by decide)).trans <| fld_take (by decide))
  have o_d : fbv w 21 4 = xd := fbv_eq (hE.symm ▸ ((fld_skip 7 (by decide) (by decide)).trans <| (fld_skip 1 b_s (by decide)).trans <| (fld_skip 2 b_t (by decide)).trans <| (fld_skip 1 (by decide) (by decide)).trans <| (fld_skip 2 b_k (by decide)).trans <| (fld_skip 4 b_b (by decide)).trans <| (fld_skip 4 b_a (by decide)).trans <| fld_take b_d))
  have o_a : fbv w 17 4 = xa := fbv_eq (hE.symm ▸ ((fld_skip 7 (by decide) (by decide)).trans <| (fld_skip 1 b_s (by decide)).trans <| (fld_skip 2 b_t (by decide)).trans <| (fld_skip 1 (by decide) (by decide)).trans <| (fld_skip 2 b_k (by decide)).trans <| (fld_skip 4 b_b (by decide)).trans <| fld_take b_a))
  have o_b : fbv w 13 4 = xb := fbv_eq (hE.symm ▸ ((fld_skip 7 (by decide) (by decide)).trans <| (fld_skip 1 b_s (by decide)).trans <| (fld_skip 2 b_t (by decide)).trans <| (fld_skip 1 (by decide) (by decide)).trans <| (fld_skip 2 b_k (by decide)).trans <| fld_take b_b))
  have o_k : fbv w 11 2 = xk := fbv_eq (hE.symm ▸ ((fld_skip 7 (by decide) (by decide)).trans <| (fld_skip 1 b_s (by decide)).trans <| (fld_skip 2 b_t (by decide)).trans <| (fld_skip 1 (by decide) (by decide)).trans <| fld_take b_k))
  have o_t : fld w 8 2 = xt.code := hE.symm ▸ ((fld_skip 7 (by decide) (by decide)).trans <| (fld_skip 1 b_s (by decide)).trans <| fld_take b_t)
  have o_s : fbit w 7 = xs := fbit_eq (hE.symm ▸ ((fld_skip 7 (by decide) (by decide)).trans <| fld_take b_s))
  refine decodeNat_of_raw ((decodeRaw_30 hm).trans ?_) hw
  unfold decodeMajor30
  refine (if_pos ⟨f_0_7, f_10_1⟩).trans ?_
  simp only [o_d, o_a, o_b, o_k, o_t, o_s, IntTy.ofCode_code, Option.bind_some]

theorem RoundTrip.vsubInt (xd : BitVec 4) (xa : BitVec 4) (xb : BitVec 4) (xk : BitVec 2) (xt : IntTy) (xs : Bool) : RoundTrip.Statement (.vsubInt xd xa xb xk xt xs) := by
  intro hw w h
  have hE : w = 1 + 2 ^ 7 * (bit xs + 2 ^ 1 * (xt.code + 2 ^ 2 * (0 + 2 ^ 1 * (xk.toNat + 2 ^ 2 * (xb.toNat + 2 ^ 4 * (xa.toNat + 2 ^ 4 * (xd.toNat + 2 ^ 4 * (48)))))))) := by have := Option.some.inj h; omega
  have b_d := xd.isLt
  have b_a := xa.isLt
  have b_b := xb.isLt
  have b_k := xk.isLt
  have b_t := IntTy.code_lt xt
  have b_s := bit_lt xs
  have hm : fld w 25 6 = 0x30 := hE.symm ▸ ((fld_skip 7 (by decide) (by decide)).trans <| (fld_skip 1 b_s (by decide)).trans <| (fld_skip 2 b_t (by decide)).trans <| (fld_skip 1 (by decide) (by decide)).trans <| (fld_skip 2 b_k (by decide)).trans <| (fld_skip 4 b_b (by decide)).trans <| (fld_skip 4 b_a (by decide)).trans <| (fld_skip 4 b_d (by decide)).trans <| fld_whole (by decide))
  have f_0_7 : fld w 0 7 = 0x1 := hE.symm ▸ (fld_take (by decide))
  have f_10_1 : fld w 10 1 = 0x0 := hE.symm ▸ ((fld_skip 7 (by decide) (by decide)).trans <| (fld_skip 1 b_s (by decide)).trans <| (fld_skip 2 b_t (by decide)).trans <| fld_take (by decide))
  have o_d : fbv w 21 4 = xd := fbv_eq (hE.symm ▸ ((fld_skip 7 (by decide) (by decide)).trans <| (fld_skip 1 b_s (by decide)).trans <| (fld_skip 2 b_t (by decide)).trans <| (fld_skip 1 (by decide) (by decide)).trans <| (fld_skip 2 b_k (by decide)).trans <| (fld_skip 4 b_b (by decide)).trans <| (fld_skip 4 b_a (by decide)).trans <| fld_take b_d))
  have o_a : fbv w 17 4 = xa := fbv_eq (hE.symm ▸ ((fld_skip 7 (by decide) (by decide)).trans <| (fld_skip 1 b_s (by decide)).trans <| (fld_skip 2 b_t (by decide)).trans <| (fld_skip 1 (by decide) (by decide)).trans <| (fld_skip 2 b_k (by decide)).trans <| (fld_skip 4 b_b (by decide)).trans <| fld_take b_a))
  have o_b : fbv w 13 4 = xb := fbv_eq (hE.symm ▸ ((fld_skip 7 (by decide) (by decide)).trans <| (fld_skip 1 b_s (by decide)).trans <| (fld_skip 2 b_t (by decide)).trans <| (fld_skip 1 (by decide) (by decide)).trans <| (fld_skip 2 b_k (by decide)).trans <| fld_take b_b))
  have o_k : fbv w 11 2 = xk := fbv_eq (hE.symm ▸ ((fld_skip 7 (by decide) (by decide)).trans <| (fld_skip 1 b_s (by decide)).trans <| (fld_skip 2 b_t (by decide)).trans <| (fld_skip 1 (by decide) (by decide)).trans <| fld_take b_k))
  have o_t : fld w 8 2 = xt.code := hE.symm ▸ ((fld_skip 7 (by decide) (by decide)).trans <| (fld_skip 1 b_s (by decide)).trans <| fld_take b_t)
  have o_s : fbit w 7 = xs := fbit_eq (hE.symm ▸ ((fld_skip 7 (by decide) (by decide)).trans <| fld_take b_s))
  refine decodeNat_of_raw ((decodeRaw_30 hm).trans ?_) hw
  unfold decodeMajor30
  refine (if_neg fun h => absurd (f_0_7.symm.trans h.1) (by decide)).trans ?_
  refine (if_pos ⟨f_0_7, f_10_1⟩).trans ?_
  simp only [o_d, o_a, o_b, o_k, o_t, o_s, IntTy.ofCode_code, Option.bind_some]

theorem RoundTrip.vmulInt (xd : BitVec 4) (xa : BitVec 4) (xb : BitVec 4) (xk : BitVec 2) (xt : IntTy) (xs : Bool) : RoundTrip.Statement (.vmulInt xd xa xb xk xt xs) := by
  intro hw w h
  have hE : w = 2 + 2 ^ 7 * (bit xs + 2 ^ 1 * (xt.code + 2 ^ 2 * (0 + 2 ^ 1 * (xk.toNat + 2 ^ 2 * (xb.toNat + 2 ^ 4 * (xa.toNat + 2 ^ 4 * (xd.toNat + 2 ^ 4 * (48)))))))) := by have := Option.some.inj h; omega
  have b_d := xd.isLt
  have b_a := xa.isLt
  have b_b := xb.isLt
  have b_k := xk.isLt
  have b_t := IntTy.code_lt xt
  have b_s := bit_lt xs
  have hm : fld w 25 6 = 0x30 := hE.symm ▸ ((fld_skip 7 (by decide) (by decide)).trans <| (fld_skip 1 b_s (by decide)).trans <| (fld_skip 2 b_t (by decide)).trans <| (fld_skip 1 (by decide) (by decide)).trans <| (fld_skip 2 b_k (by decide)).trans <| (fld_skip 4 b_b (by decide)).trans <| (fld_skip 4 b_a (by decide)).trans <| (fld_skip 4 b_d (by decide)).trans <| fld_whole (by decide))
  have f_0_7 : fld w 0 7 = 0x2 := hE.symm ▸ (fld_take (by decide))
  have f_10_1 : fld w 10 1 = 0x0 := hE.symm ▸ ((fld_skip 7 (by decide) (by decide)).trans <| (fld_skip 1 b_s (by decide)).trans <| (fld_skip 2 b_t (by decide)).trans <| fld_take (by decide))
  have o_d : fbv w 21 4 = xd := fbv_eq (hE.symm ▸ ((fld_skip 7 (by decide) (by decide)).trans <| (fld_skip 1 b_s (by decide)).trans <| (fld_skip 2 b_t (by decide)).trans <| (fld_skip 1 (by decide) (by decide)).trans <| (fld_skip 2 b_k (by decide)).trans <| (fld_skip 4 b_b (by decide)).trans <| (fld_skip 4 b_a (by decide)).trans <| fld_take b_d))
  have o_a : fbv w 17 4 = xa := fbv_eq (hE.symm ▸ ((fld_skip 7 (by decide) (by decide)).trans <| (fld_skip 1 b_s (by decide)).trans <| (fld_skip 2 b_t (by decide)).trans <| (fld_skip 1 (by decide) (by decide)).trans <| (fld_skip 2 b_k (by decide)).trans <| (fld_skip 4 b_b (by decide)).trans <| fld_take b_a))
  have o_b : fbv w 13 4 = xb := fbv_eq (hE.symm ▸ ((fld_skip 7 (by decide) (by decide)).trans <| (fld_skip 1 b_s (by decide)).trans <| (fld_skip 2 b_t (by decide)).trans <| (fld_skip 1 (by decide) (by decide)).trans <| (fld_skip 2 b_k (by decide)).trans <| fld_take b_b))
  have o_k : fbv w 11 2 = xk := fbv_eq (hE.symm ▸ ((fld_skip 7 (by decide) (by decide)).trans <| (fld_skip 1 b_s (by decide)).trans <| (fld_skip 2 b_t (by decide)).trans <| (fld_skip 1 (by decide) (by decide)).trans <| fld_take b_k))
  have o_t : fld w 8 2 = xt.code := hE.symm ▸ ((fld_skip 7 (by decide) (by decide)).trans <| (fld_skip 1 b_s (by decide)).trans <| fld_take b_t)
  have o_s : fbit w 7 = xs := fbit_eq (hE.symm ▸ ((fld_skip 7 (by decide) (by decide)).trans <| fld_take b_s))
  refine decodeNat_of_raw ((decodeRaw_30 hm).trans ?_) hw
  unfold decodeMajor30
  refine (if_neg fun h => absurd (f_0_7.symm.trans h.1) (by decide)).trans ?_
  refine (if_neg fun h => absurd (f_0_7.symm.trans h.1) (by decide)).trans ?_
  refine (if_pos ⟨f_0_7, f_10_1⟩).trans ?_
  simp only [o_d, o_a, o_b, o_k, o_t, o_s, IntTy.ofCode_code, Option.bind_some]

theorem RoundTrip.vmulh (xd : BitVec 4) (xa : BitVec 4) (xb : BitVec 4) (xk : BitVec 2) (xt : IntTy) (xs : Bool) : RoundTrip.Statement (.vmulh xd xa xb xk xt xs) := by
  intro hw w h
  have hE : w = 3 + 2 ^ 7 * (bit xs + 2 ^ 1 * (xt.code + 2 ^ 2 * (0 + 2 ^ 1 * (xk.toNat + 2 ^ 2 * (xb.toNat + 2 ^ 4 * (xa.toNat + 2 ^ 4 * (xd.toNat + 2 ^ 4 * (48)))))))) := by have := Option.some.inj h; omega
  have b_d := xd.isLt
  have b_a := xa.isLt
  have b_b := xb.isLt
  have b_k := xk.isLt
  have b_t := IntTy.code_lt xt
  have b_s := bit_lt xs
  have hm : fld w 25 6 = 0x30 := hE.symm ▸ ((fld_skip 7 (by decide) (by decide)).trans <| (fld_skip 1 b_s (by decide)).trans <| (fld_skip 2 b_t (by decide)).trans <| (fld_skip 1 (by decide) (by decide)).trans <| (fld_skip 2 b_k (by decide)).trans <| (fld_skip 4 b_b (by decide)).trans <| (fld_skip 4 b_a (by decide)).trans <| (fld_skip 4 b_d (by decide)).trans <| fld_whole (by decide))
  have f_0_7 : fld w 0 7 = 0x3 := hE.symm ▸ (fld_take (by decide))
  have f_10_1 : fld w 10 1 = 0x0 := hE.symm ▸ ((fld_skip 7 (by decide) (by decide)).trans <| (fld_skip 1 b_s (by decide)).trans <| (fld_skip 2 b_t (by decide)).trans <| fld_take (by decide))
  have o_d : fbv w 21 4 = xd := fbv_eq (hE.symm ▸ ((fld_skip 7 (by decide) (by decide)).trans <| (fld_skip 1 b_s (by decide)).trans <| (fld_skip 2 b_t (by decide)).trans <| (fld_skip 1 (by decide) (by decide)).trans <| (fld_skip 2 b_k (by decide)).trans <| (fld_skip 4 b_b (by decide)).trans <| (fld_skip 4 b_a (by decide)).trans <| fld_take b_d))
  have o_a : fbv w 17 4 = xa := fbv_eq (hE.symm ▸ ((fld_skip 7 (by decide) (by decide)).trans <| (fld_skip 1 b_s (by decide)).trans <| (fld_skip 2 b_t (by decide)).trans <| (fld_skip 1 (by decide) (by decide)).trans <| (fld_skip 2 b_k (by decide)).trans <| (fld_skip 4 b_b (by decide)).trans <| fld_take b_a))
  have o_b : fbv w 13 4 = xb := fbv_eq (hE.symm ▸ ((fld_skip 7 (by decide) (by decide)).trans <| (fld_skip 1 b_s (by decide)).trans <| (fld_skip 2 b_t (by decide)).trans <| (fld_skip 1 (by decide) (by decide)).trans <| (fld_skip 2 b_k (by decide)).trans <| fld_take b_b))
  have o_k : fbv w 11 2 = xk := fbv_eq (hE.symm ▸ ((fld_skip 7 (by decide) (by decide)).trans <| (fld_skip 1 b_s (by decide)).trans <| (fld_skip 2 b_t (by decide)).trans <| (fld_skip 1 (by decide) (by decide)).trans <| fld_take b_k))
  have o_t : fld w 8 2 = xt.code := hE.symm ▸ ((fld_skip 7 (by decide) (by decide)).trans <| (fld_skip 1 b_s (by decide)).trans <| fld_take b_t)
  have o_s : fbit w 7 = xs := fbit_eq (hE.symm ▸ ((fld_skip 7 (by decide) (by decide)).trans <| fld_take b_s))
  refine decodeNat_of_raw ((decodeRaw_30 hm).trans ?_) hw
  unfold decodeMajor30
  refine (if_neg fun h => absurd (f_0_7.symm.trans h.1) (by decide)).trans ?_
  refine (if_neg fun h => absurd (f_0_7.symm.trans h.1) (by decide)).trans ?_
  refine (if_neg fun h => absurd (f_0_7.symm.trans h.1) (by decide)).trans ?_
  refine (if_pos ⟨f_0_7, f_10_1⟩).trans ?_
  simp only [o_d, o_a, o_b, o_k, o_t, o_s, IntTy.ofCode_code, Option.bind_some]

theorem RoundTrip.vminInt (xd : BitVec 4) (xa : BitVec 4) (xb : BitVec 4) (xk : BitVec 2) (xt : IntTy) (xs : Bool) : RoundTrip.Statement (.vminInt xd xa xb xk xt xs) := by
  intro hw w h
  have hE : w = 4 + 2 ^ 7 * (bit xs + 2 ^ 1 * (xt.code + 2 ^ 2 * (0 + 2 ^ 1 * (xk.toNat + 2 ^ 2 * (xb.toNat + 2 ^ 4 * (xa.toNat + 2 ^ 4 * (xd.toNat + 2 ^ 4 * (48)))))))) := by have := Option.some.inj h; omega
  have b_d := xd.isLt
  have b_a := xa.isLt
  have b_b := xb.isLt
  have b_k := xk.isLt
  have b_t := IntTy.code_lt xt
  have b_s := bit_lt xs
  have hm : fld w 25 6 = 0x30 := hE.symm ▸ ((fld_skip 7 (by decide) (by decide)).trans <| (fld_skip 1 b_s (by decide)).trans <| (fld_skip 2 b_t (by decide)).trans <| (fld_skip 1 (by decide) (by decide)).trans <| (fld_skip 2 b_k (by decide)).trans <| (fld_skip 4 b_b (by decide)).trans <| (fld_skip 4 b_a (by decide)).trans <| (fld_skip 4 b_d (by decide)).trans <| fld_whole (by decide))
  have f_0_7 : fld w 0 7 = 0x4 := hE.symm ▸ (fld_take (by decide))
  have f_10_1 : fld w 10 1 = 0x0 := hE.symm ▸ ((fld_skip 7 (by decide) (by decide)).trans <| (fld_skip 1 b_s (by decide)).trans <| (fld_skip 2 b_t (by decide)).trans <| fld_take (by decide))
  have o_d : fbv w 21 4 = xd := fbv_eq (hE.symm ▸ ((fld_skip 7 (by decide) (by decide)).trans <| (fld_skip 1 b_s (by decide)).trans <| (fld_skip 2 b_t (by decide)).trans <| (fld_skip 1 (by decide) (by decide)).trans <| (fld_skip 2 b_k (by decide)).trans <| (fld_skip 4 b_b (by decide)).trans <| (fld_skip 4 b_a (by decide)).trans <| fld_take b_d))
  have o_a : fbv w 17 4 = xa := fbv_eq (hE.symm ▸ ((fld_skip 7 (by decide) (by decide)).trans <| (fld_skip 1 b_s (by decide)).trans <| (fld_skip 2 b_t (by decide)).trans <| (fld_skip 1 (by decide) (by decide)).trans <| (fld_skip 2 b_k (by decide)).trans <| (fld_skip 4 b_b (by decide)).trans <| fld_take b_a))
  have o_b : fbv w 13 4 = xb := fbv_eq (hE.symm ▸ ((fld_skip 7 (by decide) (by decide)).trans <| (fld_skip 1 b_s (by decide)).trans <| (fld_skip 2 b_t (by decide)).trans <| (fld_skip 1 (by decide) (by decide)).trans <| (fld_skip 2 b_k (by decide)).trans <| fld_take b_b))
  have o_k : fbv w 11 2 = xk := fbv_eq (hE.symm ▸ ((fld_skip 7 (by decide) (by decide)).trans <| (fld_skip 1 b_s (by decide)).trans <| (fld_skip 2 b_t (by decide)).trans <| (fld_skip 1 (by decide) (by decide)).trans <| fld_take b_k))
  have o_t : fld w 8 2 = xt.code := hE.symm ▸ ((fld_skip 7 (by decide) (by decide)).trans <| (fld_skip 1 b_s (by decide)).trans <| fld_take b_t)
  have o_s : fbit w 7 = xs := fbit_eq (hE.symm ▸ ((fld_skip 7 (by decide) (by decide)).trans <| fld_take b_s))
  refine decodeNat_of_raw ((decodeRaw_30 hm).trans ?_) hw
  unfold decodeMajor30
  refine (if_neg fun h => absurd (f_0_7.symm.trans h.1) (by decide)).trans ?_
  refine (if_neg fun h => absurd (f_0_7.symm.trans h.1) (by decide)).trans ?_
  refine (if_neg fun h => absurd (f_0_7.symm.trans h.1) (by decide)).trans ?_
  refine (if_neg fun h => absurd (f_0_7.symm.trans h.1) (by decide)).trans ?_
  refine (if_pos ⟨f_0_7, f_10_1⟩).trans ?_
  simp only [o_d, o_a, o_b, o_k, o_t, o_s, IntTy.ofCode_code, Option.bind_some]

theorem RoundTrip.vmaxInt (xd : BitVec 4) (xa : BitVec 4) (xb : BitVec 4) (xk : BitVec 2) (xt : IntTy) (xs : Bool) : RoundTrip.Statement (.vmaxInt xd xa xb xk xt xs) := by
  intro hw w h
  have hE : w = 5 + 2 ^ 7 * (bit xs + 2 ^ 1 * (xt.code + 2 ^ 2 * (0 + 2 ^ 1 * (xk.toNat + 2 ^ 2 * (xb.toNat + 2 ^ 4 * (xa.toNat + 2 ^ 4 * (xd.toNat + 2 ^ 4 * (48)))))))) := by have := Option.some.inj h; omega
  have b_d := xd.isLt
  have b_a := xa.isLt
  have b_b := xb.isLt
  have b_k := xk.isLt
  have b_t := IntTy.code_lt xt
  have b_s := bit_lt xs
  have hm : fld w 25 6 = 0x30 := hE.symm ▸ ((fld_skip 7 (by decide) (by decide)).trans <| (fld_skip 1 b_s (by decide)).trans <| (fld_skip 2 b_t (by decide)).trans <| (fld_skip 1 (by decide) (by decide)).trans <| (fld_skip 2 b_k (by decide)).trans <| (fld_skip 4 b_b (by decide)).trans <| (fld_skip 4 b_a (by decide)).trans <| (fld_skip 4 b_d (by decide)).trans <| fld_whole (by decide))
  have f_0_7 : fld w 0 7 = 0x5 := hE.symm ▸ (fld_take (by decide))
  have f_10_1 : fld w 10 1 = 0x0 := hE.symm ▸ ((fld_skip 7 (by decide) (by decide)).trans <| (fld_skip 1 b_s (by decide)).trans <| (fld_skip 2 b_t (by decide)).trans <| fld_take (by decide))
  have o_d : fbv w 21 4 = xd := fbv_eq (hE.symm ▸ ((fld_skip 7 (by decide) (by decide)).trans <| (fld_skip 1 b_s (by decide)).trans <| (fld_skip 2 b_t (by decide)).trans <| (fld_skip 1 (by decide) (by decide)).trans <| (fld_skip 2 b_k (by decide)).trans <| (fld_skip 4 b_b (by decide)).trans <| (fld_skip 4 b_a (by decide)).trans <| fld_take b_d))
  have o_a : fbv w 17 4 = xa := fbv_eq (hE.symm ▸ ((fld_skip 7 (by decide) (by decide)).trans <| (fld_skip 1 b_s (by decide)).trans <| (fld_skip 2 b_t (by decide)).trans <| (fld_skip 1 (by decide) (by decide)).trans <| (fld_skip 2 b_k (by decide)).trans <| (fld_skip 4 b_b (by decide)).trans <| fld_take b_a))
  have o_b : fbv w 13 4 = xb := fbv_eq (hE.symm ▸ ((fld_skip 7 (by decide) (by decide)).trans <| (fld_skip 1 b_s (by decide)).trans <| (fld_skip 2 b_t (by decide)).trans <| (fld_skip 1 (by decide) (by decide)).trans <| (fld_skip 2 b_k (by decide)).trans <| fld_take b_b))
  have o_k : fbv w 11 2 = xk := fbv_eq (hE.symm ▸ ((fld_skip 7 (by decide) (by decide)).trans <| (fld_skip 1 b_s (by decide)).trans <| (fld_skip 2 b_t (by decide)).trans <| (fld_skip 1 (by decide) (by decide)).trans <| fld_take b_k))
  have o_t : fld w 8 2 = xt.code := hE.symm ▸ ((fld_skip 7 (by decide) (by decide)).trans <| (fld_skip 1 b_s (by decide)).trans <| fld_take b_t)
  have o_s : fbit w 7 = xs := fbit_eq (hE.symm ▸ ((fld_skip 7 (by decide) (by decide)).trans <| fld_take b_s))
  refine decodeNat_of_raw ((decodeRaw_30 hm).trans ?_) hw
  unfold decodeMajor30
  refine (if_neg fun h => absurd (f_0_7.symm.trans h.1) (by decide)).trans ?_
  refine (if_neg fun h => absurd (f_0_7.symm.trans h.1) (by decide)).trans ?_
  refine (if_neg fun h => absurd (f_0_7.symm.trans h.1) (by decide)).trans ?_
  refine (if_neg fun h => absurd (f_0_7.symm.trans h.1) (by decide)).trans ?_
  refine (if_neg fun h => absurd (f_0_7.symm.trans h.1) (by decide)).trans ?_
  refine (if_pos ⟨f_0_7, f_10_1⟩).trans ?_
  simp only [o_d, o_a, o_b, o_k, o_t, o_s, IntTy.ofCode_code, Option.bind_some]

theorem RoundTrip.vand (xd : BitVec 4) (xa : BitVec 4) (xb : BitVec 4) (xk : BitVec 2) (xt : IntTy) (xs : Bool) : RoundTrip.Statement (.vand xd xa xb xk xt xs) := by
  intro hw w h
  have hE : w = 6 + 2 ^ 7 * (bit xs + 2 ^ 1 * (xt.code + 2 ^ 2 * (0 + 2 ^ 1 * (xk.toNat + 2 ^ 2 * (xb.toNat + 2 ^ 4 * (xa.toNat + 2 ^ 4 * (xd.toNat + 2 ^ 4 * (48)))))))) := by have := Option.some.inj h; omega
  have b_d := xd.isLt
  have b_a := xa.isLt
  have b_b := xb.isLt
  have b_k := xk.isLt
  have b_t := IntTy.code_lt xt
  have b_s := bit_lt xs
  have hm : fld w 25 6 = 0x30 := hE.symm ▸ ((fld_skip 7 (by decide) (by decide)).trans <| (fld_skip 1 b_s (by decide)).trans <| (fld_skip 2 b_t (by decide)).trans <| (fld_skip 1 (by decide) (by decide)).trans <| (fld_skip 2 b_k (by decide)).trans <| (fld_skip 4 b_b (by decide)).trans <| (fld_skip 4 b_a (by decide)).trans <| (fld_skip 4 b_d (by decide)).trans <| fld_whole (by decide))
  have f_0_7 : fld w 0 7 = 0x6 := hE.symm ▸ (fld_take (by decide))
  have f_10_1 : fld w 10 1 = 0x0 := hE.symm ▸ ((fld_skip 7 (by decide) (by decide)).trans <| (fld_skip 1 b_s (by decide)).trans <| (fld_skip 2 b_t (by decide)).trans <| fld_take (by decide))
  have o_d : fbv w 21 4 = xd := fbv_eq (hE.symm ▸ ((fld_skip 7 (by decide) (by decide)).trans <| (fld_skip 1 b_s (by decide)).trans <| (fld_skip 2 b_t (by decide)).trans <| (fld_skip 1 (by decide) (by decide)).trans <| (fld_skip 2 b_k (by decide)).trans <| (fld_skip 4 b_b (by decide)).trans <| (fld_skip 4 b_a (by decide)).trans <| fld_take b_d))
  have o_a : fbv w 17 4 = xa := fbv_eq (hE.symm ▸ ((fld_skip 7 (by decide) (by decide)).trans <| (fld_skip 1 b_s (by decide)).trans <| (fld_skip 2 b_t (by decide)).trans <| (fld_skip 1 (by decide) (by decide)).trans <| (fld_skip 2 b_k (by decide)).trans <| (fld_skip 4 b_b (by decide)).trans <| fld_take b_a))
  have o_b : fbv w 13 4 = xb := fbv_eq (hE.symm ▸ ((fld_skip 7 (by decide) (by decide)).trans <| (fld_skip 1 b_s (by decide)).trans <| (fld_skip 2 b_t (by decide)).trans <| (fld_skip 1 (by decide) (by decide)).trans <| (fld_skip 2 b_k (by decide)).trans <| fld_take b_b))
  have o_k : fbv w 11 2 = xk := fbv_eq (hE.symm ▸ ((fld_skip 7 (by decide) (by decide)).trans <| (fld_skip 1 b_s (by decide)).trans <| (fld_skip 2 b_t (by decide)).trans <| (fld_skip 1 (by decide) (by decide)).trans <| fld_take b_k))
  have o_t : fld w 8 2 = xt.code := hE.symm ▸ ((fld_skip 7 (by decide) (by decide)).trans <| (fld_skip 1 b_s (by decide)).trans <| fld_take b_t)
  have o_s : fbit w 7 = xs := fbit_eq (hE.symm ▸ ((fld_skip 7 (by decide) (by decide)).trans <| fld_take b_s))
  refine decodeNat_of_raw ((decodeRaw_30 hm).trans ?_) hw
  unfold decodeMajor30
  refine (if_neg fun h => absurd (f_0_7.symm.trans h.1) (by decide)).trans ?_
  refine (if_neg fun h => absurd (f_0_7.symm.trans h.1) (by decide)).trans ?_
  refine (if_neg fun h => absurd (f_0_7.symm.trans h.1) (by decide)).trans ?_
  refine (if_neg fun h => absurd (f_0_7.symm.trans h.1) (by decide)).trans ?_
  refine (if_neg fun h => absurd (f_0_7.symm.trans h.1) (by decide)).trans ?_
  refine (if_neg fun h => absurd (f_0_7.symm.trans h.1) (by decide)).trans ?_
  refine (if_pos ⟨f_0_7, f_10_1⟩).trans ?_
  simp only [o_d, o_a, o_b, o_k, o_t, o_s, IntTy.ofCode_code, Option.bind_some]

theorem RoundTrip.vor (xd : BitVec 4) (xa : BitVec 4) (xb : BitVec 4) (xk : BitVec 2) (xt : IntTy) (xs : Bool) : RoundTrip.Statement (.vor xd xa xb xk xt xs) := by
  intro hw w h
  have hE : w = 7 + 2 ^ 7 * (bit xs + 2 ^ 1 * (xt.code + 2 ^ 2 * (0 + 2 ^ 1 * (xk.toNat + 2 ^ 2 * (xb.toNat + 2 ^ 4 * (xa.toNat + 2 ^ 4 * (xd.toNat + 2 ^ 4 * (48)))))))) := by have := Option.some.inj h; omega
  have b_d := xd.isLt
  have b_a := xa.isLt
  have b_b := xb.isLt
  have b_k := xk.isLt
  have b_t := IntTy.code_lt xt
  have b_s := bit_lt xs
  have hm : fld w 25 6 = 0x30 := hE.symm ▸ ((fld_skip 7 (by decide) (by decide)).trans <| (fld_skip 1 b_s (by decide)).trans <| (fld_skip 2 b_t (by decide)).trans <| (fld_skip 1 (by decide) (by decide)).trans <| (fld_skip 2 b_k (by decide)).trans <| (fld_skip 4 b_b (by decide)).trans <| (fld_skip 4 b_a (by decide)).trans <| (fld_skip 4 b_d (by decide)).trans <| fld_whole (by decide))
  have f_0_7 : fld w 0 7 = 0x7 := hE.symm ▸ (fld_take (by decide))
  have f_10_1 : fld w 10 1 = 0x0 := hE.symm ▸ ((fld_skip 7 (by decide) (by decide)).trans <| (fld_skip 1 b_s (by decide)).trans <| (fld_skip 2 b_t (by decide)).trans <| fld_take (by decide))
  have o_d : fbv w 21 4 = xd := fbv_eq (hE.symm ▸ ((fld_skip 7 (by decide) (by decide)).trans <| (fld_skip 1 b_s (by decide)).trans <| (fld_skip 2 b_t (by decide)).trans <| (fld_skip 1 (by decide) (by decide)).trans <| (fld_skip 2 b_k (by decide)).trans <| (fld_skip 4 b_b (by decide)).trans <| (fld_skip 4 b_a (by decide)).trans <| fld_take b_d))
  have o_a : fbv w 17 4 = xa := fbv_eq (hE.symm ▸ ((fld_skip 7 (by decide) (by decide)).trans <| (fld_skip 1 b_s (by decide)).trans <| (fld_skip 2 b_t (by decide)).trans <| (fld_skip 1 (by decide) (by decide)).trans <| (fld_skip 2 b_k (by decide)).trans <| (fld_skip 4 b_b (by decide)).trans <| fld_take b_a))
  have o_b : fbv w 13 4 = xb := fbv_eq (hE.symm ▸ ((fld_skip 7 (by decide) (by decide)).trans <| (fld_skip 1 b_s (by decide)).trans <| (fld_skip 2 b_t (by decide)).trans <| (fld_skip 1 (by decide) (by decide)).trans <| (fld_skip 2 b_k (by decide)).trans <| fld_take b_b))
  have o_k : fbv w 11 2 = xk := fbv_eq (hE.symm ▸ ((fld_skip 7 (by decide) (by decide)).trans <| (fld_skip 1 b_s (by decide)).trans <| (fld_skip 2 b_t (by decide)).trans <| (fld_skip 1 (by decide) (by decide)).trans <| fld_take b_k))
  have o_t : fld w 8 2 = xt.code := hE.symm ▸ ((fld_skip 7 (by decide) (by decide)).trans <| (fld_skip 1 b_s (by decide)).trans <| fld_take b_t)
  have o_s : fbit w 7 = xs := fbit_eq (hE.symm ▸ ((fld_skip 7 (by decide) (by decide)).trans <| fld_take b_s))
  refine decodeNat_of_raw ((decodeRaw_30 hm).trans ?_) hw
  unfold decodeMajor30
  refine (if_neg fun h => absurd (f_0_7.symm.trans h.1) (by decide)).trans ?_
  refine (if_neg fun h => absurd (f_0_7.symm.trans h.1) (by decide)).trans ?_
  refine (if_neg fun h => absurd (f_0_7.symm.trans h.1) (by decide)).trans ?_
  refine (if_neg fun h => absurd (f_0_7.symm.trans h.1) (by decide)).trans ?_
  refine (if_neg fun h => absurd (f_0_7.symm.trans h.1) (by decide)).trans ?_
  refine (if_neg fun h => absurd (f_0_7.symm.trans h.1) (by decide)).trans ?_
  refine (if_neg fun h => absurd (f_0_7.symm.trans h.1) (by decide)).trans ?_
  refine (if_pos ⟨f_0_7, f_10_1⟩).trans ?_
  simp only [o_d, o_a, o_b, o_k, o_t, o_s, IntTy.ofCode_code, Option.bind_some]

theorem RoundTrip.vxor (xd : BitVec 4) (xa : BitVec 4) (xb : BitVec 4) (xk : BitVec 2) (xt : IntTy) (xs : Bool) : RoundTrip.Statement (.vxor xd xa xb xk xt xs) := by
  intro hw w h
  have hE : w = 8 + 2 ^ 7 * (bit xs + 2 ^ 1 * (xt.code + 2 ^ 2 * (0 + 2 ^ 1 * (xk.toNat + 2 ^ 2 * (xb.toNat + 2 ^ 4 * (xa.toNat + 2 ^ 4 * (xd.toNat + 2 ^ 4 * (48)))))))) := by have := Option.some.inj h; omega
  have b_d := xd.isLt
  have b_a := xa.isLt
  have b_b := xb.isLt
  have b_k := xk.isLt
  have b_t := IntTy.code_lt xt
  have b_s := bit_lt xs
  have hm : fld w 25 6 = 0x30 := hE.symm ▸ ((fld_skip 7 (by decide) (by decide)).trans <| (fld_skip 1 b_s (by decide)).trans <| (fld_skip 2 b_t (by decide)).trans <| (fld_skip 1 (by decide) (by decide)).trans <| (fld_skip 2 b_k (by decide)).trans <| (fld_skip 4 b_b (by decide)).trans <| (fld_skip 4 b_a (by decide)).trans <| (fld_skip 4 b_d (by decide)).trans <| fld_whole (by decide))
  have f_0_7 : fld w 0 7 = 0x8 := hE.symm ▸ (fld_take (by decide))
  have f_10_1 : fld w 10 1 = 0x0 := hE.symm ▸ ((fld_skip 7 (by decide) (by decide)).trans <| (fld_skip 1 b_s (by decide)).trans <| (fld_skip 2 b_t (by decide)).trans <| fld_take (by decide))
  have o_d : fbv w 21 4 = xd := fbv_eq (hE.symm ▸ ((fld_skip 7 (by decide) (by decide)).trans <| (fld_skip 1 b_s (by decide)).trans <| (fld_skip 2 b_t (by decide)).trans <| (fld_skip 1 (by decide) (by decide)).trans <| (fld_skip 2 b_k (by decide)).trans <| (fld_skip 4 b_b (by decide)).trans <| (fld_skip 4 b_a (by decide)).trans <| fld_take b_d))
  have o_a : fbv w 17 4 = xa := fbv_eq (hE.symm ▸ ((fld_skip 7 (by decide) (by decide)).trans <| (fld_skip 1 b_s (by decide)).trans <| (fld_skip 2 b_t (by decide)).trans <| (fld_skip 1 (by decide) (by decide)).trans <| (fld_skip 2 b_k (by decide)).trans <| (fld_skip 4 b_b (by decide)).trans <| fld_take b_a))
  have o_b : fbv w 13 4 = xb := fbv_eq (hE.symm ▸ ((fld_skip 7 (by decide) (by decide)).trans <| (fld_skip 1 b_s (by decide)).trans <| (fld_skip 2 b_t (by decide)).trans <| (fld_skip 1 (by decide) (by decide)).trans <| (fld_skip 2 b_k (by decide)).trans <| fld_take b_b))
  have o_k : fbv w 11 2 = xk := fbv_eq (hE.symm ▸ ((fld_skip 7 (by decide) (by decide)).trans <| (fld_skip 1 b_s (by decide)).trans <| (fld_skip 2 b_t (by decide)).trans <| (fld_skip 1 (by decide) (by decide)).trans <| fld_take b_k))
  have o_t : fld w 8 2 = xt.code := hE.symm ▸ ((fld_skip 7 (by decide) (by decide)).trans <| (fld_skip 1 b_s (by decide)).trans <| fld_take b_t)
  have o_s : fbit w 7 = xs := fbit_eq (hE.symm ▸ ((fld_skip 7 (by decide) (by decide)).trans <| fld_take b_s))
  refine decodeNat_of_raw ((decodeRaw_30 hm).trans ?_) hw
  unfold decodeMajor30
  refine (if_neg fun h => absurd (f_0_7.symm.trans h.1) (by decide)).trans ?_
  refine (if_neg fun h => absurd (f_0_7.symm.trans h.1) (by decide)).trans ?_
  refine (if_neg fun h => absurd (f_0_7.symm.trans h.1) (by decide)).trans ?_
  refine (if_neg fun h => absurd (f_0_7.symm.trans h.1) (by decide)).trans ?_
  refine (if_neg fun h => absurd (f_0_7.symm.trans h.1) (by decide)).trans ?_
  refine (if_neg fun h => absurd (f_0_7.symm.trans h.1) (by decide)).trans ?_
  refine (if_neg fun h => absurd (f_0_7.symm.trans h.1) (by decide)).trans ?_
  refine (if_neg fun h => absurd (f_0_7.symm.trans h.1) (by decide)).trans ?_
  refine (if_pos ⟨f_0_7, f_10_1⟩).trans ?_
  simp only [o_d, o_a, o_b, o_k, o_t, o_s, IntTy.ofCode_code, Option.bind_some]

theorem RoundTrip.vandn (xd : BitVec 4) (xa : BitVec 4) (xb : BitVec 4) (xk : BitVec 2) (xt : IntTy) (xs : Bool) : RoundTrip.Statement (.vandn xd xa xb xk xt xs) := by
  intro hw w h
  have hE : w = 9 + 2 ^ 7 * (bit xs + 2 ^ 1 * (xt.code + 2 ^ 2 * (0 + 2 ^ 1 * (xk.toNat + 2 ^ 2 * (xb.toNat + 2 ^ 4 * (xa.toNat + 2 ^ 4 * (xd.toNat + 2 ^ 4 * (48)))))))) := by have := Option.some.inj h; omega
  have b_d := xd.isLt
  have b_a := xa.isLt
  have b_b := xb.isLt
  have b_k := xk.isLt
  have b_t := IntTy.code_lt xt
  have b_s := bit_lt xs
  have hm : fld w 25 6 = 0x30 := hE.symm ▸ ((fld_skip 7 (by decide) (by decide)).trans <| (fld_skip 1 b_s (by decide)).trans <| (fld_skip 2 b_t (by decide)).trans <| (fld_skip 1 (by decide) (by decide)).trans <| (fld_skip 2 b_k (by decide)).trans <| (fld_skip 4 b_b (by decide)).trans <| (fld_skip 4 b_a (by decide)).trans <| (fld_skip 4 b_d (by decide)).trans <| fld_whole (by decide))
  have f_0_7 : fld w 0 7 = 0x9 := hE.symm ▸ (fld_take (by decide))
  have f_10_1 : fld w 10 1 = 0x0 := hE.symm ▸ ((fld_skip 7 (by decide) (by decide)).trans <| (fld_skip 1 b_s (by decide)).trans <| (fld_skip 2 b_t (by decide)).trans <| fld_take (by decide))
  have o_d : fbv w 21 4 = xd := fbv_eq (hE.symm ▸ ((fld_skip 7 (by decide) (by decide)).trans <| (fld_skip 1 b_s (by decide)).trans <| (fld_skip 2 b_t (by decide)).trans <| (fld_skip 1 (by decide) (by decide)).trans <| (fld_skip 2 b_k (by decide)).trans <| (fld_skip 4 b_b (by decide)).trans <| (fld_skip 4 b_a (by decide)).trans <| fld_take b_d))
  have o_a : fbv w 17 4 = xa := fbv_eq (hE.symm ▸ ((fld_skip 7 (by decide) (by decide)).trans <| (fld_skip 1 b_s (by decide)).trans <| (fld_skip 2 b_t (by decide)).trans <| (fld_skip 1 (by decide) (by decide)).trans <| (fld_skip 2 b_k (by decide)).trans <| (fld_skip 4 b_b (by decide)).trans <| fld_take b_a))
  have o_b : fbv w 13 4 = xb := fbv_eq (hE.symm ▸ ((fld_skip 7 (by decide) (by decide)).trans <| (fld_skip 1 b_s (by decide)).trans <| (fld_skip 2 b_t (by decide)).trans <| (fld_skip 1 (by decide) (by decide)).trans <| (fld_skip 2 b_k (by decide)).trans <| fld_take b_b))
  have o_k : fbv w 11 2 = xk := fbv_eq (hE.symm ▸ ((fld_skip 7 (by decide) (by decide)).trans <| (fld_skip 1 b_s (by decide)).trans <| (fld_skip 2 b_t (by decide)).trans <| (fld_skip 1 (by decide) (by decide)).trans <| fld_take b_k))
  have o_t : fld w 8 2 = xt.code := hE.symm ▸ ((fld_skip 7 (by decide) (by decide)).trans <| (fld_skip 1 b_s (by decide)).trans <| fld_take b_t)
  have o_s : fbit w 7 = xs := fbit_eq (hE.symm ▸ ((fld_skip 7 (by decide) (by decide)).trans <| fld_take b_s))
  refine decodeNat_of_raw ((decodeRaw_30 hm).trans ?_) hw
  unfold decodeMajor30
  refine (if_neg fun h => absurd (f_0_7.symm.trans h.1) (by decide)).trans ?_
  refine (if_neg fun h => absurd (f_0_7.symm.trans h.1) (by decide)).trans ?_
  refine (if_neg fun h => absurd (f_0_7.symm.trans h.1) (by decide)).trans ?_
  refine (if_neg fun h => absurd (f_0_7.symm.trans h.1) (by decide)).trans ?_
  refine (if_neg fun h => absurd (f_0_7.symm.trans h.1) (by decide)).trans ?_
  refine (if_neg fun h => absurd (f_0_7.symm.trans h.1) (by decide)).trans ?_
  refine (if_neg fun h => absurd (f_0_7.symm.trans h.1) (by decide)).trans ?_
  refine (if_neg fun h => absurd (f_0_7.symm.trans h.1) (by decide)).trans ?_
  refine (if_neg fun h => absurd (f_0_7.symm.trans h.1) (by decide)).trans ?_
  refine (if_pos ⟨f_0_7, f_10_1⟩).trans ?_
  simp only [o_d, o_a, o_b, o_k, o_t, o_s, IntTy.ofCode_code, Option.bind_some]

theorem RoundTrip.vsll (xd : BitVec 4) (xa : BitVec 4) (xb : BitVec 4) (xk : BitVec 2) (xt : IntTy) (xs : Bool) : RoundTrip.Statement (.vsll xd xa xb xk xt xs) := by
  intro hw w h
  have hE : w = 10 + 2 ^ 7 * (bit xs + 2 ^ 1 * (xt.code + 2 ^ 2 * (0 + 2 ^ 1 * (xk.toNat + 2 ^ 2 * (xb.toNat + 2 ^ 4 * (xa.toNat + 2 ^ 4 * (xd.toNat + 2 ^ 4 * (48)))))))) := by have := Option.some.inj h; omega
  have b_d := xd.isLt
  have b_a := xa.isLt
  have b_b := xb.isLt
  have b_k := xk.isLt
  have b_t := IntTy.code_lt xt
  have b_s := bit_lt xs
  have hm : fld w 25 6 = 0x30 := hE.symm ▸ ((fld_skip 7 (by decide) (by decide)).trans <| (fld_skip 1 b_s (by decide)).trans <| (fld_skip 2 b_t (by decide)).trans <| (fld_skip 1 (by decide) (by decide)).trans <| (fld_skip 2 b_k (by decide)).trans <| (fld_skip 4 b_b (by decide)).trans <| (fld_skip 4 b_a (by decide)).trans <| (fld_skip 4 b_d (by decide)).trans <| fld_whole (by decide))
  have f_0_7 : fld w 0 7 = 0xA := hE.symm ▸ (fld_take (by decide))
  have f_10_1 : fld w 10 1 = 0x0 := hE.symm ▸ ((fld_skip 7 (by decide) (by decide)).trans <| (fld_skip 1 b_s (by decide)).trans <| (fld_skip 2 b_t (by decide)).trans <| fld_take (by decide))
  have o_d : fbv w 21 4 = xd := fbv_eq (hE.symm ▸ ((fld_skip 7 (by decide) (by decide)).trans <| (fld_skip 1 b_s (by decide)).trans <| (fld_skip 2 b_t (by decide)).trans <| (fld_skip 1 (by decide) (by decide)).trans <| (fld_skip 2 b_k (by decide)).trans <| (fld_skip 4 b_b (by decide)).trans <| (fld_skip 4 b_a (by decide)).trans <| fld_take b_d))
  have o_a : fbv w 17 4 = xa := fbv_eq (hE.symm ▸ ((fld_skip 7 (by decide) (by decide)).trans <| (fld_skip 1 b_s (by decide)).trans <| (fld_skip 2 b_t (by decide)).trans <| (fld_skip 1 (by decide) (by decide)).trans <| (fld_skip 2 b_k (by decide)).trans <| (fld_skip 4 b_b (by decide)).trans <| fld_take b_a))
  have o_b : fbv w 13 4 = xb := fbv_eq (hE.symm ▸ ((fld_skip 7 (by decide) (by decide)).trans <| (fld_skip 1 b_s (by decide)).trans <| (fld_skip 2 b_t (by decide)).trans <| (fld_skip 1 (by decide) (by decide)).trans <| (fld_skip 2 b_k (by decide)).trans <| fld_take b_b))
  have o_k : fbv w 11 2 = xk := fbv_eq (hE.symm ▸ ((fld_skip 7 (by decide) (by decide)).trans <| (fld_skip 1 b_s (by decide)).trans <| (fld_skip 2 b_t (by decide)).trans <| (fld_skip 1 (by decide) (by decide)).trans <| fld_take b_k))
  have o_t : fld w 8 2 = xt.code := hE.symm ▸ ((fld_skip 7 (by decide) (by decide)).trans <| (fld_skip 1 b_s (by decide)).trans <| fld_take b_t)
  have o_s : fbit w 7 = xs := fbit_eq (hE.symm ▸ ((fld_skip 7 (by decide) (by decide)).trans <| fld_take b_s))
  refine decodeNat_of_raw ((decodeRaw_30 hm).trans ?_) hw
  unfold decodeMajor30
  refine (if_neg fun h => absurd (f_0_7.symm.trans h.1) (by decide)).trans ?_
  refine (if_neg fun h => absurd (f_0_7.symm.trans h.1) (by decide)).trans ?_
  refine (if_neg fun h => absurd (f_0_7.symm.trans h.1) (by decide)).trans ?_
  refine (if_neg fun h => absurd (f_0_7.symm.trans h.1) (by decide)).trans ?_
  refine (if_neg fun h => absurd (f_0_7.symm.trans h.1) (by decide)).trans ?_
  refine (if_neg fun h => absurd (f_0_7.symm.trans h.1) (by decide)).trans ?_
  refine (if_neg fun h => absurd (f_0_7.symm.trans h.1) (by decide)).trans ?_
  refine (if_neg fun h => absurd (f_0_7.symm.trans h.1) (by decide)).trans ?_
  refine (if_neg fun h => absurd (f_0_7.symm.trans h.1) (by decide)).trans ?_
  refine (if_neg fun h => absurd (f_0_7.symm.trans h.1) (by decide)).trans ?_
  refine (if_pos ⟨f_0_7, f_10_1⟩).trans ?_
  simp only [o_d, o_a, o_b, o_k, o_t, o_s, IntTy.ofCode_code, Option.bind_some]

theorem RoundTrip.vsrl (xd : BitVec 4) (xa : BitVec 4) (xb : BitVec 4) (xk : BitVec 2) (xt : IntTy) (xs : Bool) : RoundTrip.Statement (.vsrl xd xa xb xk xt xs) := by
  intro hw w h
  have hE : w = 11 + 2 ^ 7 * (bit xs + 2 ^ 1 * (xt.code + 2 ^ 2 * (0 + 2 ^ 1 * (xk.toNat + 2 ^ 2 * (xb.toNat + 2 ^ 4 * (xa.toNat + 2 ^ 4 * (xd.toNat + 2 ^ 4 * (48)))))))) := by have := Option.some.inj h; omega
  have b_d := xd.isLt
  have b_a := xa.isLt
  have b_b := xb.isLt
  have b_k := xk.isLt
  have b_t := IntTy.code_lt xt
  have b_s := bit_lt xs
  have hm : fld w 25 6 = 0x30 := hE.symm ▸ ((fld_skip 7 (by decide) (by decide)).trans <| (fld_skip 1 b_s (by decide)).trans <| (fld_skip 2 b_t (by decide)).trans <| (fld_skip 1 (by decide) (by decide)).trans <| (fld_skip 2 b_k (by decide)).trans <| (fld_skip 4 b_b (by decide)).trans <| (fld_skip 4 b_a (by decide)).trans <| (fld_skip 4 b_d (by decide)).trans <| fld_whole (by decide))
  have f_0_7 : fld w 0 7 = 0xB := hE.symm ▸ (fld_take (by decide))
  have f_10_1 : fld w 10 1 = 0x0 := hE.symm ▸ ((fld_skip 7 (by decide) (by decide)).trans <| (fld_skip 1 b_s (by decide)).trans <| (fld_skip 2 b_t (by decide)).trans <| fld_take (by decide))
  have o_d : fbv w 21 4 = xd := fbv_eq (hE.symm ▸ ((fld_skip 7 (by decide) (by decide)).trans <| (fld_skip 1 b_s (by decide)).trans <| (fld_skip 2 b_t (by decide)).trans <| (fld_skip 1 (by decide) (by decide)).trans <| (fld_skip 2 b_k (by decide)).trans <| (fld_skip 4 b_b (by decide)).trans <| (fld_skip 4 b_a (by decide)).trans <| fld_take b_d))
  have o_a : fbv w 17 4 = xa := fbv_eq (hE.symm ▸ ((fld_skip 7 (by decide) (by decide)).trans <| (fld_skip 1 b_s (by decide)).trans <| (fld_skip 2 b_t (by decide)).trans <| (fld_skip 1 (by decide) (by decide)).trans <| (fld_skip 2 b_k (by decide)).trans <| (fld_skip 4 b_b (by decide)).trans <| fld_take b_a))
  have o_b : fbv w 13 4 = xb := fbv_eq (hE.symm ▸ ((fld_skip 7 (by decide) (by decide)).trans <| (fld_skip 1 b_s (by decide)).trans <| (fld_skip 2 b_t (by decide)).trans <| (fld_skip 1 (by decide) (by decide)).trans <| (fld_skip 2 b_k (by decide)).trans <| fld_take b_b))
  have o_k : fbv w 11 2 = xk := fbv_eq (hE.symm ▸ ((fld_skip 7 (by decide) (by decide)).trans <| (fld_skip 1 b_s (by decide)).trans <| (fld_skip 2 b_t (by decide)).trans <| (fld_skip 1 (by decide) (by decide)).trans <| fld_take b_k))
  have o_t : fld w 8 2 = xt.code := hE.symm ▸ ((fld_skip 7 (by decide) (by decide)).trans <| (fld_skip 1 b_s (by decide)).trans <| fld_take b_t)
  have o_s : fbit w 7 = xs := fbit_eq (hE.symm ▸ ((fld_skip 7 (by decide) (by decide)).trans <| fld_take b_s))
  refine decodeNat_of_raw ((decodeRaw_30 hm).trans ?_) hw
  unfold decodeMajor30
  refine (if_neg fun h => absurd (f_0_7.symm.trans h.1) (by decide)).trans ?_
  refine (if_neg fun h => absurd (f_0_7.symm.trans h.1) (by decide)).trans ?_
  refine (if_neg fun h => absurd (f_0_7.symm.trans h.1) (by decide)).trans ?_
  refine (if_neg fun h => absurd (f_0_7.symm.trans h.1) (by decide)).trans ?_
  refine (if_neg fun h => absurd (f_0_7.symm.trans h.1) (by decide)).trans ?_
  refine (if_neg fun h => absurd (f_0_7.symm.trans h.1) (by decide)).trans ?_
  refine (if_neg fun h => absurd (f_0_7.symm.trans h.1) (by decide)).trans ?_
  refine (if_neg fun h => absurd (f_0_7.symm.trans h.1) (by decide)).trans ?_
  refine (if_neg fun h => absurd (f_0_7.symm.trans h.1) (by decide)).trans ?_
  refine (if_neg fun h => absurd (f_0_7.symm.trans h.1) (by decide)).trans ?_
  refine (if_neg fun h => absurd (f_0_7.symm.trans h.1) (by decide)).trans ?_
  refine (if_pos ⟨f_0_7, f_10_1⟩).trans ?_
  simp only [o_d, o_a, o_b, o_k, o_t, o_s, IntTy.ofCode_code, Option.bind_some]

theorem RoundTrip.vsra (xd : BitVec 4) (xa : BitVec 4) (xb : BitVec 4) (xk : BitVec 2) (xt : IntTy) (xs : Bool) : RoundTrip.Statement (.vsra xd xa xb xk xt xs) := by
  intro hw w h
  have hE : w = 12 + 2 ^ 7 * (bit xs + 2 ^ 1 * (xt.code + 2 ^ 2 * (0 + 2 ^ 1 * (xk.toNat + 2 ^ 2 * (xb.toNat + 2 ^ 4 * (xa.toNat + 2 ^ 4 * (xd.toNat + 2 ^ 4 * (48)))))))) := by have := Option.some.inj h; omega
  have b_d := xd.isLt
  have b_a := xa.isLt
  have b_b := xb.isLt
  have b_k := xk.isLt
  have b_t := IntTy.code_lt xt
  have b_s := bit_lt xs
  have hm : fld w 25 6 = 0x30 := hE.symm ▸ ((fld_skip 7 (by decide) (by decide)).trans <| (fld_skip 1 b_s (by decide)).trans <| (fld_skip 2 b_t (by decide)).trans <| (fld_skip 1 (by decide) (by decide)).trans <| (fld_skip 2 b_k (by decide)).trans <| (fld_skip 4 b_b (by decide)).trans <| (fld_skip 4 b_a (by decide)).trans <| (fld_skip 4 b_d (by decide)).trans <| fld_whole (by decide))
  have f_0_7 : fld w 0 7 = 0xC := hE.symm ▸ (fld_take (by decide))
  have f_10_1 : fld w 10 1 = 0x0 := hE.symm ▸ ((fld_skip 7 (by decide) (by decide)).trans <| (fld_skip 1 b_s (by decide)).trans <| (fld_skip 2 b_t (by decide)).trans <| fld_take (by decide))
  have o_d : fbv w 21 4 = xd := fbv_eq (hE.symm ▸ ((fld_skip 7 (by decide) (by decide)).trans <| (fld_skip 1 b_s (by decide)).trans <| (fld_skip 2 b_t (by decide)).trans <| (fld_skip 1 (by decide) (by decide)).trans <| (fld_skip 2 b_k (by decide)).trans <| (fld_skip 4 b_b (by decide)).trans <| (fld_skip 4 b_a (by decide)).trans <| fld_take b_d))
  have o_a : fbv w 17 4 = xa := fbv_eq (hE.symm ▸ ((fld_skip 7 (by decide) (by decide)).trans <| (fld_skip 1 b_s (by decide)).trans <| (fld_skip 2 b_t (by decide)).trans <| (fld_skip 1 (by decide) (by decide)).trans <| (fld_skip 2 b_k (by decide)).trans <| (fld_skip 4 b_b (by decide)).trans <| fld_take b_a))
  have o_b : fbv w 13 4 = xb := fbv_eq (hE.symm ▸ ((fld_skip 7 (by decide) (by decide)).trans <| (fld_skip 1 b_s (by decide)).trans <| (fld_skip 2 b_t (by decide)).trans <| (fld_skip 1 (by decide) (by decide)).trans <| (fld_skip 2 b_k (by decide)).trans <| fld_take b_b))
  have o_k : fbv w 11 2 = xk := fbv_eq (hE.symm ▸ ((fld_skip 7 (by decide) (by decide)).trans <| (fld_skip 1 b_s (by decide)).trans <| (fld_skip 2 b_t (by decide)).trans <| (fld_skip 1 (by decide) (by decide)).trans <| fld_take b_k))
  have o_t : fld w 8 2 = xt.code := hE.symm ▸ ((fld_skip 7 (by decide) (by decide)).trans <| (fld_skip 1 b_s (by decide)).trans <| fld_take b_t)
  have o_s : fbit w 7 = xs := fbit_eq (hE.symm ▸ ((fld_skip 7 (by decide) (by decide)).trans <| fld_take b_s))
  refine decodeNat_of_raw ((decodeRaw_30 hm).trans ?_) hw
  unfold decodeMajor30
  refine (if_neg fun h => absurd (f_0_7.symm.trans h.1) (by decide)).trans ?_
  refine (if_neg fun h => absurd (f_0_7.symm.trans h.1) (by decide)).trans ?_
  refine (if_neg fun h => absurd (f_0_7.symm.trans h.1) (by decide)).trans ?_
  refine (if_neg fun h => absurd (f_0_7.symm.trans h.1) (by decide)).trans ?_
  refine (if_neg fun h => absurd (f_0_7.symm.trans h.1) (by decide)).trans ?_
  refine (if_neg fun h => absurd (f_0_7.symm.trans h.1) (by decide)).trans ?_
  refine (if_neg fun h => absurd (f_0_7.symm.trans h.1) (by decide)).trans ?_
  refine (if_neg fun h => absurd (f_0_7.symm.trans h.1) (by decide)).trans ?_
  refine (if_neg fun h => absurd (f_0_7.symm.trans h.1) (by decide)).trans ?_
  refine (if_neg fun h => absurd (f_0_7.symm.trans h.1) (by decide)).trans ?_
  refine (if_neg fun h => absurd (f_0_7.symm.trans h.1) (by decide)).trans ?_
  refine (if_neg fun h => absurd (f_0_7.symm.trans h.1) (by decide)).trans ?_
  refine (if_pos ⟨f_0_7, f_10_1⟩).trans ?_
  simp only [o_d, o_a, o_b, o_k, o_t, o_s, IntTy.ofCode_code, Option.bind_some]

theorem RoundTrip.vadds (xd : BitVec 4) (xa : BitVec 4) (xb : BitVec 4) (xk : BitVec 2) (xt : IntTy) (xs : Bool) : RoundTrip.Statement (.vadds xd xa xb xk xt xs) := by
  intro hw w h
  have hE : w = 13 + 2 ^ 7 * (bit xs + 2 ^ 1 * (xt.code + 2 ^ 2 * (0 + 2 ^ 1 * (xk.toNat + 2 ^ 2 * (xb.toNat + 2 ^ 4 * (xa.toNat + 2 ^ 4 * (xd.toNat + 2 ^ 4 * (48)))))))) := by have := Option.some.inj h; omega
  have b_d := xd.isLt
  have b_a := xa.isLt
  have b_b := xb.isLt
  have b_k := xk.isLt
  have b_t := IntTy.code_lt xt
  have b_s := bit_lt xs
  have hm : fld w 25 6 = 0x30 := hE.symm ▸ ((fld_skip 7 (by decide) (by decide)).trans <| (fld_skip 1 b_s (by decide)).trans <| (fld_skip 2 b_t (by decide)).trans <| (fld_skip 1 (by decide) (by decide)).trans <| (fld_skip 2 b_k (by decide)).trans <| (fld_skip 4 b_b (by decide)).trans <| (fld_skip 4 b_a (by decide)).trans <| (fld_skip 4 b_d (by decide)).trans <| fld_whole (by decide))
  have f_0_7 : fld w 0 7 = 0xD := hE.symm ▸ (fld_take (by decide))
  have f_10_1 : fld w 10 1 = 0x0 := hE.symm ▸ ((fld_skip 7 (by decide) (by decide)).trans <| (fld_skip 1 b_s (by decide)).trans <| (fld_skip 2 b_t (by decide)).trans <| fld_take (by decide))
  have o_d : fbv w 21 4 = xd := fbv_eq (hE.symm ▸ ((fld_skip 7 (by decide) (by decide)).trans <| (fld_skip 1 b_s (by decide)).trans <| (fld_skip 2 b_t (by decide)).trans <| (fld_skip 1 (by decide) (by decide)).trans <| (fld_skip 2 b_k (by decide)).trans <| (fld_skip 4 b_b (by decide)).trans <| (fld_skip 4 b_a (by decide)).trans <| fld_take b_d))
  have o_a : fbv w 17 4 = xa := fbv_eq (hE.symm ▸ ((fld_skip 7 (by decide) (by decide)).trans <| (fld_skip 1 b_s (by decide)).trans <| (fld_skip 2 b_t (by decide)).trans <| (fld_skip 1 (by decide) (by decide)).trans <| (fld_skip 2 b_k (by decide)).trans <| (fld_skip 4 b_b (by decide)).trans <| fld_take b_a))
  have o_b : fbv w 13 4 = xb := fbv_eq (hE.symm ▸ ((fld_skip 7 (by decide) (by decide)).trans <| (fld_skip 1 b_s (by decide)).trans <| (fld_skip 2 b_t (by decide)).trans <| (fld_skip 1 (by decide) (by decide)).trans <| (fld_skip 2 b_k (by decide)).trans <| fld_take b_b))
  have o_k : fbv w 11 2 = xk := fbv_eq (hE.symm ▸ ((fld_skip 7 (by decide) (by decide)).trans <| (fld_skip 1 b_s (by decide)).trans <| (fld_skip 2 b_t (by decide)).trans <| (fld_skip 1 (by decide) (by decide)).trans <| fld_take b_k))
  have o_t : fld w 8 2 = xt.code := hE.symm ▸ ((fld_skip 7 (by decide) (by decide)).trans <| (fld_skip 1 b_s (by decide)).trans <| fld_take b_t)
  have o_s : fbit w 7 = xs := fbit_eq (hE.symm ▸ ((fld_skip 7 (by decide) (by decide)).trans <| fld_take b_s))
  refine decodeNat_of_raw ((decodeRaw_30 hm).trans ?_) hw
  unfold decodeMajor30
  refine (if_neg fun h => absurd (f_0_7.symm.trans h.1) (by decide)).trans ?_
  refine (if_neg fun h => absurd (f_0_7.symm.trans h.1) (by decide)).trans ?_
  refine (if_neg fun h => absurd (f_0_7.symm.trans h.1) (by decide)).trans ?_
  refine (if_neg fun h => absurd (f_0_7.symm.trans h.1) (by decide)).trans ?_
  refine (if_neg fun h => absurd (f_0_7.symm.trans h.1) (by decide)).trans ?_
  refine (if_neg fun h => absurd (f_0_7.symm.trans h.1) (by decide)).trans ?_
  refine (if_neg fun h => absurd (f_0_7.symm.trans h.1) (by decide)).trans ?_
  refine (if_neg fun h => absurd (f_0_7.symm.trans h.1) (by decide)).trans ?_
  refine (if_neg fun h => absurd (f_0_7.symm.trans h.1) (by decide)).trans ?_
  refine (if_neg fun h => absurd (f_0_7.symm.trans h.1) (by decide)).trans ?_
  refine (if_neg fun h => absurd (f_0_7.symm.trans h.1) (by decide)).trans ?_
  refine (if_neg fun h => absurd (f_0_7.symm.trans h.1) (by decide)).trans ?_
  refine (if_neg fun h => absurd (f_0_7.symm.trans h.1) (by decide)).trans ?_
  refine (if_pos ⟨f_0_7, f_10_1⟩).trans ?_
  simp only [o_d, o_a, o_b, o_k, o_t, o_s, IntTy.ofCode_code, Option.bind_some]

theorem RoundTrip.vsubs (xd : BitVec 4) (xa : BitVec 4) (xb : BitVec 4) (xk : BitVec 2) (xt : IntTy) (xs : Bool) : RoundTrip.Statement (.vsubs xd xa xb xk xt xs) := by
  intro hw w h
  have hE : w = 14 + 2 ^ 7 * (bit xs + 2 ^ 1 * (xt.code + 2 ^ 2 * (0 + 2 ^ 1 * (xk.toNat + 2 ^ 2 * (xb.toNat + 2 ^ 4 * (xa.toNat + 2 ^ 4 * (xd.toNat + 2 ^ 4 * (48)))))))) := by have := Option.some.inj h; omega
  have b_d := xd.isLt
  have b_a := xa.isLt
  have b_b := xb.isLt
  have b_k := xk.isLt
  have b_t := IntTy.code_lt xt
  have b_s := bit_lt xs
  have hm : fld w 25 6 = 0x30 := hE.symm ▸ ((fld_skip 7 (by decide) (by decide)).trans <| (fld_skip 1 b_s (by decide)).trans <| (fld_skip 2 b_t (by decide)).trans <| (fld_skip 1 (by decide) (by decide)).trans <| (fld_skip 2 b_k (by decide)).trans <| (fld_skip 4 b_b (by decide)).trans <| (fld_skip 4 b_a (by decide)).trans <| (fld_skip 4 b_d (by decide)).trans <| fld_whole (by decide))
  have f_0_7 : fld w 0 7 = 0xE := hE.symm ▸ (fld_take (by decide))
  have f_10_1 : fld w 10 1 = 0x0 := hE.symm ▸ ((fld_skip 7 (by decide) (by decide)).trans <| (fld_skip 1 b_s (by decide)).trans <| (fld_skip 2 b_t (by decide)).trans <| fld_take (by decide))
  have o_d : fbv w 21 4 = xd := fbv_eq (hE.symm ▸ ((fld_skip 7 (by decide) (by decide)).trans <| (fld_skip 1 b_s (by decide)).trans <| (fld_skip 2 b_t (by decide)).trans <| (fld_skip 1 (by decide) (by decide)).trans <| (fld_skip 2 b_k (by decide)).trans <| (fld_skip 4 b_b (by decide)).trans <| (fld_skip 4 b_a (by decide)).trans <| fld_take b_d))
  have o_a : fbv w 17 4 = xa := fbv_eq (hE.symm ▸ ((fld_skip 7 (by decide) (by decide)).trans <| (fld_skip 1 b_s (by decide)).trans <| (fld_skip 2 b_t (by decide)).trans <| (fld_skip 1 (by decide) (by decide)).trans <| (fld_skip 2 b_k (by decide)).trans <| (fld_skip 4 b_b (by decide)).trans <| fld_take b_a))
  have o_b : fbv w 13 4 = xb := fbv_eq (hE.symm ▸ ((fld_skip 7 (by decide) (by decide)).trans <| (fld_skip 1 b_s (by decide)).trans <| (fld_skip 2 b_t (by decide)).trans <| (fld_skip 1 (by decide) (by decide)).trans <| (fld_skip 2 b_k (by decide)).trans <| fld_take b_b))
  have o_k : fbv w 11 2 = xk := fbv_eq (hE.symm ▸ ((fld_skip 7 (by decide) (by decide)).trans <| (fld_skip 1 b_s (by decide)).trans <| (fld_skip 2 b_t (by decide)).trans <| (fld_skip 1 (by decide) (by decide)).trans <| fld_take b_k))
  have o_t : fld w 8 2 = xt.code := hE.symm ▸ ((fld_skip 7 (by decide) (by decide)).trans <| (fld_skip 1 b_s (by decide)).trans <| fld_take b_t)
  have o_s : fbit w 7 = xs := fbit_eq (hE.symm ▸ ((fld_skip 7 (by decide) (by decide)).trans <| fld_take b_s))
  refine decodeNat_of_raw ((decodeRaw_30 hm).trans ?_) hw
  unfold decodeMajor30
  refine (if_neg fun h => absurd (f_0_7.symm.trans h.1) (by decide)).trans ?_
  refine (if_neg fun h => absurd (f_0_7.symm.trans h.1) (by decide)).trans ?_
  refine (if_neg fun h => absurd (f_0_7.symm.trans h.1) (by decide)).trans ?_
  refine (if_neg fun h => absurd (f_0_7.symm.trans h.1) (by decide)).trans ?_
  refine (if_neg fun h => absurd (f_0_7.symm.trans h.1) (by decide)).trans ?_
  refine (if_neg fun h => absurd (f_0_7.symm.trans h.1) (by decide)).trans ?_
  refine (if_neg fun h => absurd (f_0_7.symm.trans h.1) (by decide)).trans ?_
  refine (if_neg fun h => absurd (f_0_7.symm.trans h.1) (by decide)).trans ?_
  refine (if_neg fun h => absurd (f_0_7.symm.trans h.1) (by decide)).trans ?_
  refine (if_neg fun h => absurd (f_0_7.symm.trans h.1) (by decide)).trans ?_
  refine (if_neg fun h => absurd (f_0_7.symm.trans h.1) (by decide)).trans ?_
  refine (if_neg fun h => absurd (f_0_7.symm.trans h.1) (by decide)).trans ?_
  refine (if_neg fun h => absurd (f_0_7.symm.trans h.1) (by decide)).trans ?_
  refine (if_neg fun h => absurd (f_0_7.symm.trans h.1) (by decide)).trans ?_
  refine (if_pos ⟨f_0_7, f_10_1⟩).trans ?_
  simp only [o_d, o_a, o_b, o_k, o_t, o_s, IntTy.ofCode_code, Option.bind_some]

theorem RoundTrip.vabsInt (xd : BitVec 4) (xa : BitVec 4) (xk : BitVec 2) (xt : IntTy) : RoundTrip.Statement (.vabsInt xd xa xk xt) := by
  intro hw w h
  have hE : w = 15 + 2 ^ 8 * (xt.code + 2 ^ 2 * (0 + 2 ^ 1 * (xk.toNat + 2 ^ 2 * (0 + 2 ^ 4 * (xa.toNat + 2 ^ 4 * (xd.toNat + 2 ^ 4 * (48))))))) := by have := Option.some.inj h; omega
  have b_d := xd.isLt
  have b_a := xa.isLt
  have b_k := xk.isLt
  have b_t := IntTy.code_lt xt
  have hm : fld w 25 6 = 0x30 := hE.symm ▸ ((fld_skip 8 (by decide) (by decide)).trans <| (fld_skip 2 b_t (by decide)).trans <| (fld_skip 1 (by decide) (by decide)).trans <| (fld_skip 2 b_k (by decide)).trans <| (fld_skip 4 (by decide) (by decide)).trans <| (fld_skip 4 b_a (by decide)).trans <| (fld_skip 4 b_d (by decide)).trans <| fld_whole (by decide))
  have f_0_7 : fld w 0 7 = 0xF := hE.symm ▸ ((fld_low (by decide)).trans (by decide))
  have f_10_1 : fld w 10 1 = 0x0 := hE.symm ▸ ((fld_skip 8 (by decide) (by decide)).trans <| (fld_skip 2 b_t (by decide)).trans <| fld_take (by decide))
  have f_0_8 : fld w 0 8 = 0xF := hE.symm ▸ (fld_take (by decide))
  have f_13_4 : fld w 13 4 = 0x0 := hE.symm ▸ ((fld_skip 8 (by decide) (by decide)).trans <| (fld_skip 2 b_t (by decide)).trans <| (fld_skip 1 (by decide) (by decide)).trans <| (fld_skip 2 b_k (by decide)).trans <| fld_take (by decide))
  have o_d : fbv w 21 4 = xd := fbv_eq (hE.symm ▸ ((fld_skip 8 (by decide) (by decide)).trans <| (fld_skip 2 b_t (by decide)).trans <| (fld_skip 1 (by decide) (by decide)).trans <| (fld_skip 2 b_k (by decide)).trans <| (fld_skip 4 (by decide) (by decide)).trans <| (fld_skip 4 b_a (by decide)).trans <| fld_take b_d))
  have o_a : fbv w 17 4 = xa := fbv_eq (hE.symm ▸ ((fld_skip 8 (by decide) (by decide)).trans <| (fld_skip 2 b_t (by decide)).trans <| (fld_skip 1 (by decide) (by decide)).trans <| (fld_skip 2 b_k (by decide)).trans <| (fld_skip 4 (by decide) (by decide)).trans <| fld_take b_a))
  have o_k : fbv w 11 2 = xk := fbv_eq (hE.symm ▸ ((fld_skip 8 (by decide) (by decide)).trans <| (fld_skip 2 b_t (by decide)).trans <| (fld_skip 1 (by decide) (by decide)).trans <| fld_take b_k))
  have o_t : fld w 8 2 = xt.code := hE.symm ▸ ((fld_skip 8 (by decide) (by decide)).trans <| fld_take b_t)
  refine decodeNat_of_raw ((decodeRaw_30 hm).trans ?_) hw
  unfold decodeMajor30
  refine (if_neg fun h => absurd (f_0_7.symm.trans h.1) (by decide)).trans ?_
  refine (if_neg fun h => absurd (f_0_7.symm.trans h.1) (by decide)).trans ?_
  refine (if_neg fun h => absurd (f_0_7.symm.trans h.1) (by decide)).trans ?_
  refine (if_neg fun h => absurd (f_0_7.symm.trans h.1) (by decide)).trans ?_
  refine (if_neg fun h => absurd (f_0_7.symm.trans h.1) (by decide)).trans ?_
  refine (if_neg fun h => absurd (f_0_7.symm.trans h.1) (by decide)).trans ?_
  refine (if_neg fun h => absurd (f_0_7.symm.trans h.1) (by decide)).trans ?_
  refine (if_neg fun h => absurd (f_0_7.symm.trans h.1) (by decide)).trans ?_
  refine (if_neg fun h => absurd (f_0_7.symm.trans h.1) (by decide)).trans ?_
  refine (if_neg fun h => absurd (f_0_7.symm.trans h.1) (by decide)).trans ?_
  refine (if_neg fun h => absurd (f_0_7.symm.trans h.1) (by decide)).trans ?_
  refine (if_neg fun h => absurd (f_0_7.symm.trans h.1) (by decide)).trans ?_
  refine (if_neg fun h => absurd (f_0_7.symm.trans h.1) (by decide)).trans ?_
  refine (if_neg fun h => absurd (f_0_7.symm.trans h.1) (by decide)).trans ?_
  refine (if_neg fun h => absurd (f_0_7.symm.trans h.1) (by decide)).trans ?_
  refine (if_pos ⟨f_0_8, f_10_1, f_13_4⟩).trans ?_
  simp only [o_d, o_a, o_k, o_t, IntTy.ofCode_code, Option.bind_some]

theorem RoundTrip.vdiv (xd : BitVec 4) (xa : BitVec 4) (xb : BitVec 4) (xk : BitVec 2) (xt : IntTy) (xs : Bool) : RoundTrip.Statement (.vdiv xd xa xb xk xt xs) := by
  intro hw w h
  have hE : w = 16 + 2 ^ 7 * (bit xs + 2 ^ 1 * (xt.code + 2 ^ 2 * (0 + 2 ^ 1 * (xk.toNat + 2 ^ 2 * (xb.toNat + 2 ^ 4 * (xa.toNat + 2 ^ 4 * (xd.toNat + 2 ^ 4 * (48)))))))) := by have := Option.some.inj h; omega
  have b_d := xd.isLt
  have b_a := xa.isLt
  have b_b := xb.isLt
  have b_k := xk.isLt
  have b_t := IntTy.code_lt xt
  have b_s := bit_lt xs
  have hm : fld w 25 6 = 0x30 := hE.symm ▸ ((fld_skip 7 (by decide) (by decide)).trans <| (fld_skip 1 b_s (by decide)).trans <| (fld_skip 2 b_t (by decide)).trans <| (fld_skip 1 (by decide) (by decide)).trans <| (fld_skip 2 b_k (by decide)).trans <| (fld_skip 4 b_b (by decide)).trans <| (fld_skip 4 b_a (by decide)).trans <| (fld_skip 4 b_d (by decide)).trans <| fld_whole (by decide))
  have f_0_7 : fld w 0 7 = 0x10 := hE.symm ▸ (fld_take (by decide))
  have f_10_1 : fld w 10 1 = 0x0 := hE.symm ▸ ((fld_skip 7 (by decide) (by decide)).trans <| (fld_skip 1 b_s (by decide)).trans <| (fld_skip 2 b_t (by decide)).trans <| fld_take (by decide))
  have t_0 : fld w 0 1 = 0 := hE.symm ▸ ((fld_low (by decide)).trans (by decide))
  have o_d : fbv w 21 4 = xd := fbv_eq (hE.symm ▸ ((fld_skip 7 (by decide) (by decide)).trans <| (fld_skip 1 b_s (by decide)).trans <| (fld_skip 2 b_t (by decide)).trans <| (fld_skip 1 (by decide) (by decide)).trans <| (fld_skip 2 b_k (by decide)).trans <| (fld_skip 4 b_b (by decide)).trans <| (fld_skip 4 b_a (by decide)).trans <| fld_take b_d))
  have o_a : fbv w 17 4 = xa := fbv_eq (hE.symm ▸ ((fld_skip 7 (by decide) (by decide)).trans <| (fld_skip 1 b_s (by decide)).trans <| (fld_skip 2 b_t (by decide)).trans <| (fld_skip 1 (by decide) (by decide)).trans <| (fld_skip 2 b_k (by decide)).trans <| (fld_skip 4 b_b (by decide)).trans <| fld_take b_a))
  have o_b : fbv w 13 4 = xb := fbv_eq (hE.symm ▸ ((fld_skip 7 (by decide) (by decide)).trans <| (fld_skip 1 b_s (by decide)).trans <| (fld_skip 2 b_t (by decide)).trans <| (fld_skip 1 (by decide) (by decide)).trans <| (fld_skip 2 b_k (by decide)).trans <| fld_take b_b))
  have o_k : fbv w 11 2 = xk := fbv_eq (hE.symm ▸ ((fld_skip 7 (by decide) (by decide)).trans <| (fld_skip 1 b_s (by decide)).trans <| (fld_skip 2 b_t (by decide)).trans <| (fld_skip 1 (by decide) (by decide)).trans <| fld_take b_k))
  have o_t : fld w 8 2 = xt.code := hE.symm ▸ ((fld_skip 7 (by decide) (by decide)).trans <| (fld_skip 1 b_s (by decide)).trans <| fld_take b_t)
  have o_s : fbit w 7 = xs := fbit_eq (hE.symm ▸ ((fld_skip 7 (by decide) (by decide)).trans <| fld_take b_s))
  refine decodeNat_of_raw ((decodeRaw_30 hm).trans ?_) hw
  unfold decodeMajor30
  refine (if_neg fun h => absurd (f_0_7.symm.trans h.1) (by decide)).trans ?_
  refine (if_neg fun h => absurd (f_0_7.symm.trans h.1) (by decide)).trans ?_
  refine (if_neg fun h => absurd (f_0_7.symm.trans h.1) (by decide)).trans ?_
  refine (if_neg fun h => absurd (f_0_7.symm.trans h.1) (by decide)).trans ?_
  refine (if_neg fun h => absurd (f_0_7.symm.trans h.1) (by decide)).trans ?_
  refine (if_neg fun h => absurd (f_0_7.symm.trans h.1) (by decide)).trans ?_
  refine (if_neg fun h => absurd (f_0_7.symm.trans h.1) (by decide)).trans ?_
  refine (if_neg fun h => absurd (f_0_7.symm.trans h.1) (by decide)).trans ?_
  refine (if_neg fun h => absurd (f_0_7.symm.trans h.1) (by decide)).trans ?_
  refine (if_neg fun h => absurd (f_0_7.symm.trans h.1) (by decide)).trans ?_
  refine (if_neg fun h => absurd (f_0_7.symm.trans h.1) (by decide)).trans ?_
  refine (if_neg fun h => absurd (f_0_7.symm.trans h.1) (by decide)).trans ?_
  refine (if_neg fun h => absurd (f_0_7.symm.trans h.1) (by decide)).trans ?_
  refine (if_neg fun h => absurd (f_0_7.symm.trans h.1) (by decide)).trans ?_
  refine (if_neg fun h => absurd (f_0_7.symm.trans h.1) (by decide)).trans ?_
  refine (if_neg fun h => fld_ne t_0 (by decide) (by decide) (by decide) h.1).trans ?_
  refine (if_pos ⟨f_0_7, f_10_1⟩).trans ?_
  simp only [o_d, o_a, o_b, o_k, o_t, o_s, IntTy.ofCode_code, Option.bind_some]

theorem RoundTrip.vrem (xd : BitVec 4) (xa : BitVec 4) (xb : BitVec 4) (xk : BitVec 2) (xt : IntTy) (xs : Bool) : RoundTrip.Statement (.vrem xd xa xb xk xt xs) := by
  intro hw w h
  have hE : w = 17 + 2 ^ 7 * (bit xs + 2 ^ 1 * (xt.code + 2 ^ 2 * (0 + 2 ^ 1 * (xk.toNat + 2 ^ 2 * (xb.toNat + 2 ^ 4 * (xa.toNat + 2 ^ 4 * (xd.toNat + 2 ^ 4 * (48)))))))) := by have := Option.some.inj h; omega
  have b_d := xd.isLt
  have b_a := xa.isLt
  have b_b := xb.isLt
  have b_k := xk.isLt
  have b_t := IntTy.code_lt xt
  have b_s := bit_lt xs
  have hm : fld w 25 6 = 0x30 := hE.symm ▸ ((fld_skip 7 (by decide) (by decide)).trans <| (fld_skip 1 b_s (by decide)).trans <| (fld_skip 2 b_t (by decide)).trans <| (fld_skip 1 (by decide) (by decide)).trans <| (fld_skip 2 b_k (by decide)).trans <| (fld_skip 4 b_b (by decide)).trans <| (fld_skip 4 b_a (by decide)).trans <| (fld_skip 4 b_d (by decide)).trans <| fld_whole (by decide))
  have f_0_7 : fld w 0 7 = 0x11 := hE.symm ▸ (fld_take (by decide))
  have f_10_1 : fld w 10 1 = 0x0 := hE.symm ▸ ((fld_skip 7 (by decide) (by decide)).trans <| (fld_skip 1 b_s (by decide)).trans <| (fld_skip 2 b_t (by decide)).trans <| fld_take (by decide))
  have t_1 : fld w 1 1 = 0 := hE.symm ▸ ((fld_low (by decide)).trans (by decide))
  have o_d : fbv w 21 4 = xd := fbv_eq (hE.symm ▸ ((fld_skip 7 (by decide) (by decide)).trans <| (fld_skip 1 b_s (by decide)).trans <| (fld_skip 2 b_t (by decide)).trans <| (fld_skip 1 (by decide) (by decide)).trans <| (fld_skip 2 b_k (by decide)).trans <| (fld_skip 4 b_b (by decide)).trans <| (fld_skip 4 b_a (by decide)).trans <| fld_take b_d))
  have o_a : fbv w 17 4 = xa := fbv_eq (hE.symm ▸ ((fld_skip 7 (by decide) (by decide)).trans <| (fld_skip 1 b_s (by decide)).trans <| (fld_skip 2 b_t (by decide)).trans <| (fld_skip 1 (by decide) (by decide)).trans <| (fld_skip 2 b_k (by decide)).trans <| (fld_skip 4 b_b (by decide)).trans <| fld_take b_a))
  have o_b : fbv w 13 4 = xb := fbv_eq (hE.symm ▸ ((fld_skip 7 (by decide) (by decide)).trans <| (fld_skip 1 b_s (by decide)).trans <| (fld_skip 2 b_t (by decide)).trans <| (fld_skip 1 (by decide) (by decide)).trans <| (fld_skip 2 b_k (by decide)).trans <| fld_take b_b))
  have o_k : fbv w 11 2 = xk := fbv_eq (hE.symm ▸ ((fld_skip 7 (by decide) (by decide)).trans <| (fld_skip 1 b_s (by decide)).trans <| (fld_skip 2 b_t (by decide)).trans <| (fld_skip 1 (by decide) (by decide)).trans <| fld_take b_k))
  have o_t : fld w 8 2 = xt.code := hE.symm ▸ ((fld_skip 7 (by decide) (by decide)).trans <| (fld_skip 1 b_s (by decide)).trans <| fld_take b_t)
  have o_s : fbit w 7 = xs := fbit_eq (hE.symm ▸ ((fld_skip 7 (by decide) (by decide)).trans <| fld_take b_s))
  refine decodeNat_of_raw ((decodeRaw_30 hm).trans ?_) hw
  unfold decodeMajor30
  refine (if_neg fun h => absurd (f_0_7.symm.trans h.1) (by decide)).trans ?_
  refine (if_neg fun h => absurd (f_0_7.symm.trans h.1) (by decide)).trans ?_
  refine (if_neg fun h => absurd (f_0_7.symm.trans h.1) (by decide)).trans ?_
  refine (if_neg fun h => absurd (f_0_7.symm.trans h.1) (by decide)).trans ?_
  refine (if_neg fun h => absurd (f_0_7.symm.trans h.1) (by decide)).trans ?_
  refine (if_neg fun h => absurd (f_0_7.symm.trans h.1) (by decide)).trans ?_
  refine (if_neg fun h => absurd (f_0_7.symm.trans h.1) (by decide)).trans ?_
  refine (if_neg fun h => absurd (f_0_7.symm.trans h.1) (by decide)).trans ?_
  refine (if_neg fun h => absurd (f_0_7.symm.trans h.1) (by decide)).trans ?_
  refine (if_neg fun h => absurd (f_0_7.symm.trans h.1) (by decide)).trans ?_
  refine (if_neg fun h => absurd (f_0_7.symm.trans h.1) (by decide)).trans ?_
  refine (if_neg fun h => absurd (f_0_7.symm.trans h.1) (by decide)).trans ?_
  refine (if_neg fun h => absurd (f_0_7.symm.trans h.1) (by decide)).trans ?_
  refine (if_neg fun h => absurd (f_0_7.symm.trans h.1) (by decide)).trans ?_
  refine (if_neg fun h => absurd (f_0_7.symm.trans h.1) (by decide)).trans ?_
  refine (if_neg fun h => fld_ne t_1 (by decide) (by decide) (by decide) h.1).trans ?_
  refine (if_neg fun h => absurd (f_0_7.symm.trans h.1) (by decide)).trans ?_
  refine (if_pos ⟨f_0_7, f_10_1⟩).trans ?_
  simp only [o_d, o_a, o_b, o_k, o_t, o_s, IntTy.ofCode_code, Option.bind_some]

theorem RoundTrip.vmerge (xd : BitVec 4) (xa : BitVec 4) (xb : BitVec 4) (xk : BitVec 2) (xt : IntTy) (xs : Bool) : RoundTrip.Statement (.vmerge xd xa xb xk xt xs) := by
  intro hw w h
  have hE : w = 18 + 2 ^ 7 * (bit xs + 2 ^ 1 * (xt.code + 2 ^ 2 * (0 + 2 ^ 1 * (xk.toNat + 2 ^ 2 * (xb.toNat + 2 ^ 4 * (xa.toNat + 2 ^ 4 * (xd.toNat + 2 ^ 4 * (48)))))))) := by have := Option.some.inj h; omega
  have b_d := xd.isLt
  have b_a := xa.isLt
  have b_b := xb.isLt
  have b_k := xk.isLt
  have b_t := IntTy.code_lt xt
  have b_s := bit_lt xs
  have hm : fld w 25 6 = 0x30 := hE.symm ▸ ((fld_skip 7 (by decide) (by decide)).trans <| (fld_skip 1 b_s (by decide)).trans <| (fld_skip 2 b_t (by decide)).trans <| (fld_skip 1 (by decide) (by decide)).trans <| (fld_skip 2 b_k (by decide)).trans <| (fld_skip 4 b_b (by decide)).trans <| (fld_skip 4 b_a (by decide)).trans <| (fld_skip 4 b_d (by decide)).trans <| fld_whole (by decide))
  have f_0_7 : fld w 0 7 = 0x12 := hE.symm ▸ (fld_take (by decide))
  have f_10_1 : fld w 10 1 = 0x0 := hE.symm ▸ ((fld_skip 7 (by decide) (by decide)).trans <| (fld_skip 1 b_s (by decide)).trans <| (fld_skip 2 b_t (by decide)).trans <| fld_take (by decide))
  have t_0 : fld w 0 1 = 0 := hE.symm ▸ ((fld_low (by decide)).trans (by decide))
  have o_d : fbv w 21 4 = xd := fbv_eq (hE.symm ▸ ((fld_skip 7 (by decide) (by decide)).trans <| (fld_skip 1 b_s (by decide)).trans <| (fld_skip 2 b_t (by decide)).trans <| (fld_skip 1 (by decide) (by decide)).trans <| (fld_skip 2 b_k (by decide)).trans <| (fld_skip 4 b_b (by decide)).trans <| (fld_skip 4 b_a (by decide)).trans <| fld_take b_d))
  have o_a : fbv w 17 4 = xa := fbv_eq (hE.symm ▸ ((fld_skip 7 (by decide) (by decide)).trans <| (fld_skip 1 b_s (by decide)).trans <| (fld_skip 2 b_t (by decide)).trans <| (fld_skip 1 (by decide) (by decide)).trans <| (fld_skip 2 b_k (by decide)).trans <| (fld_skip 4 b_b (by decide)).trans <| fld_take b_a))
  have o_b : fbv w 13 4 = xb := fbv_eq (hE.symm ▸ ((fld_skip 7 (by decide) (by decide)).trans <| (fld_skip 1 b_s (by decide)).trans <| (fld_skip 2 b_t (by decide)).trans <| (fld_skip 1 (by decide) (by decide)).trans <| (fld_skip 2 b_k (by decide)).trans <| fld_take b_b))
  have o_k : fbv w 11 2 = xk := fbv_eq (hE.symm ▸ ((fld_skip 7 (by decide) (by decide)).trans <| (fld_skip 1 b_s (by decide)).trans <| (fld_skip 2 b_t (by decide)).trans <| (fld_skip 1 (by decide) (by decide)).trans <| fld_take b_k))
  have o_t : fld w 8 2 = xt.code := hE.symm ▸ ((fld_skip 7 (by decide) (by decide)).trans <| (fld_skip 1 b_s (by decide)).trans <| fld_take b_t)
  have o_s : fbit w 7 = xs := fbit_eq (hE.symm ▸ ((fld_skip 7 (by decide) (by decide)).trans <| fld_take b_s))
  refine decodeNat_of_raw ((decodeRaw_30 hm).trans ?_) hw
  unfold decodeMajor30
  refine (if_neg fun h => absurd (f_0_7.symm.trans h.1) (by decide)).trans ?_
  refine (if_neg fun h => absurd (f_0_7.symm.trans h.1) (by decide)).trans ?_
  refine (if_neg fun h => absurd (f_0_7.symm.trans h.1) (by decide)).trans ?_
  refine (if_neg fun h => absurd (f_0_7.symm.trans h.1) (by decide)).trans ?_
  refine (if_neg fun h => absurd (f_0_7.symm.trans h.1) (by decide)).trans ?_
  refine (if_neg fun h => absurd (f_0_7.symm.trans h.1) (by decide)).trans ?_
  refine (if_neg fun h => absurd (f_0_7.symm.trans h.1) (by decide)).trans ?_
  refine (if_neg fun h => absurd (f_0_7.symm.trans h.1) (by decide)).trans ?_
  refine (if_neg fun h => absurd (f_0_7.symm.trans h.1) (by decide)).trans ?_
  refine (if_neg fun h => absurd (f_0_7.symm.trans h.1) (by decide)).trans ?_
  refine (if_neg fun h => absurd (f_0_7.symm.trans h.1) (by decide)).trans ?_
  refine (if_neg fun h => absurd (f_0_7.symm.trans h.1) (by decide)).trans ?_
  refine (if_neg fun h => absurd (f_0_7.symm.trans h.1) (by decide)).trans ?_
  refine (if_neg fun h => absurd (f_0_7.symm.trans h.1) (by decide)).trans ?_
  refine (if_neg fun h => absurd (f_0_7.symm.trans h.1) (by decide)).trans ?_
  refine (if_neg fun h => fld_ne t_0 (by decide) (by decide) (by decide) h.1).trans ?_
  refine (if_neg fun h => absurd (f_0_7.symm.trans h.1) (by decide)).trans ?_
  refine (if_neg fun h => absurd (f_0_7.symm.trans h.1) (by decide)).trans ?_
  refine (if_pos ⟨f_0_7, f_10_1⟩).trans ?_
  simp only [o_d, o_a, o_b, o_k, o_t, o_s, IntTy.ofCode_code, Option.bind_some]

theorem RoundTrip.vaddFp (xd : BitVec 4) (xa : BitVec 4) (xb : BitVec 4) (xk : BitVec 2) (xt : FpTy) (xs : Bool) : RoundTrip.Statement (.vaddFp xd xa xb xk xt xs) := by
  intro hw w h
  have hE : w = 0 + 2 ^ 7 * (bit xs + 2 ^ 1 * (xt.code + 2 ^ 2 * (1 + 2 ^ 1 * (xk.toNat + 2 ^ 2 * (xb.toNat + 2 ^ 4 * (xa.toNat + 2 ^ 4 * (xd.toNat + 2 ^ 4 * (49)))))))) := by have := Option.some.inj h; omega
  have b_d := xd.isLt
  have b_a := xa.isLt
  have b_b := xb.isLt
  have b_k := xk.isLt
  have b_t := FpTy.code_lt xt
  have b_s := bit_lt xs
  have hm : fld w 25 6 = 0x31 := hE.symm ▸ ((fld_skip 7 (by decide) (by decide)).trans <| (fld_skip 1 b_s (by decide)).trans <| (fld_skip 2 b_t (by decide)).trans <| (fld_skip 1 (by decide) (by decide)).trans <| (fld_skip 2 b_k (by decide)).trans <| (fld_skip 4 b_b (by decide)).trans <| (fld_skip 4 b_a (by decide)).trans <| (fld_skip 4 b_d (by decide)).trans <| fld_whole (by decide))
  have f_0_7 : fld w 0 7 = 0x0 := hE.symm ▸ (fld_take (by decide))
  have f_10_1 : fld w 10 1 = 0x1 := hE.symm ▸ ((fld_skip 7 (by decide) (by decide)).trans <| (fld_skip 1 b_s (by decide)).trans <| (fld_skip 2 b_t (by decide)).trans <| fld_take (by decide))
  have o_d : fbv w 21 4 = xd := fbv_eq (hE.symm ▸ ((fld_skip 7 (by decide) (by decide)).trans <| (fld_skip 1 b_s (by decide)).trans <| (fld_skip 2 b_t (by decide)).trans <| (fld_skip 1 (by decide) (by decide)).trans <| (fld_skip 2 b_k (by decide)).trans <| (fld_skip 4 b_b (by decide)).trans <| (fld_skip 4 b_a (by decide)).trans <| fld_take b_d))
  have o_a : fbv w 17 4 = xa := fbv_eq (hE.symm ▸ ((fld_skip 7 (by decide) (by decide)).trans <| (fld_skip 1 b_s (by decide)).trans <| (fld_skip 2 b_t (by decide)).trans <| (fld_skip 1 (by decide) (by decide)).trans <| (fld_skip 2 b_k (by decide)).trans <| (fld_skip 4 b_b (by decide)).trans <| fld_take b_a))
  have o_b : fbv w 13 4 = xb := fbv_eq (hE.symm ▸ ((fld_skip 7 (by decide) (by decide)).trans <| (fld_skip 1 b_s (by decide)).trans <| (fld_skip 2 b_t (by decide)).trans <| (fld_skip 1 (by decide) (by decide)).trans <| (fld_skip 2 b_k (by decide)).trans <| fld_take b_b))
  have o_k : fbv w 11 2 = xk := fbv_eq (hE.symm ▸ ((fld_skip 7 (by decide) (by decide)).trans <| (fld_skip 1 b_s (by decide)).trans <| (fld_skip 2 b_t (by decide)).trans <| (fld_skip 1 (by decide) (by decide)).trans <| fld_take b_k))
  have o_t : fld w 8 2 = xt.code := hE.symm ▸ ((fld_skip 7 (by decide) (by decide)).trans <| (fld_skip 1 b_s (by decide)).trans <| fld_take b_t)
  have o_s : fbit w 7 = xs := fbit_eq (hE.symm ▸ ((fld_skip 7 (by decide) (by decide)).trans <| fld_take b_s))
  refine decodeNat_of_raw ((decodeRaw_31 hm).trans ?_) hw
  unfold decodeMajor31
  refine (if_pos ⟨f_0_7, f_10_1⟩).trans ?_
  simp only [o_d, o_a, o_b, o_k, o_t, o_s, FpTy.ofCode_code, Option.bind_some]

theorem RoundTrip.vsubFp (xd : BitVec 4) (xa : BitVec 4) (xb : BitVec 4) (xk : BitVec 2) (xt : FpTy) (xs : Bool) : RoundTrip.Statement (.vsubFp xd xa xb xk xt xs) := by
  intro hw w h
  have hE : w = 1 + 2 ^ 7 * (bit xs + 2 ^ 1 * (xt.code + 2 ^ 2 * (1 + 2 ^ 1 * (xk.toNat + 2 ^ 2 * (xb.toNat + 2 ^ 4 * (xa.toNat + 2 ^ 4 * (xd.toNat + 2 ^ 4 * (49)))))))) := by have := Option.some.inj h; omega
  have b_d := xd.isLt
  have b_a := xa.isLt
  have b_b := xb.isLt
  have b_k := xk.isLt
  have b_t := FpTy.code_lt xt
  have b_s := bit_lt xs
  have hm : fld w 25 6 = 0x31 := hE.symm ▸ ((fld_skip 7 (by decide) (by decide)).trans <| (fld_skip 1 b_s (by decide)).trans <| (fld_skip 2 b_t (by decide)).trans <| (fld_skip 1 (by decide) (by decide)).trans <| (fld_skip 2 b_k (by decide)).trans <| (fld_skip 4 b_b (by decide)).trans <| (fld_skip 4 b_a (by decide)).trans <| (fld_skip 4 b_d (by decide)).trans <| fld_whole (by decide))
  have f_0_7 : fld w 0 7 = 0x1 := hE.symm ▸ (fld_take (by decide))
  have f_10_1 : fld w 10 1 = 0x1 := hE.symm ▸ ((fld_skip 7 (by decide) (by decide)).trans <| (fld_skip 1 b_s (by decide)).trans <| (fld_skip 2 b_t (by decide)).trans <| fld_take (by decide))
  have o_d : fbv w 21 4 = xd := fbv_eq (hE.symm ▸ ((fld_skip 7 (by decide) (by decide)).trans <| (fld_skip 1 b_s (by decide)).trans <| (fld_skip 2 b_t (by decide)).trans <| (fld_skip 1 (by decide) (by decide)).trans <| (fld_skip 2 b_k (by decide)).trans <| (fld_skip 4 b_b (by decide)).trans <| (fld_skip 4 b_a (by decide)).trans <| fld_take b_d))
  have o_a : fbv w 17 4 = xa := fbv_eq (hE.symm ▸ ((fld_skip 7 (by decide) (by decide)).trans <| (fld_skip 1 b_s (by decide)).trans <| (fld_skip 2 b_t (by decide)).trans <| (fld_skip 1 (by decide) (by decide)).trans <| (fld_skip 2 b_k (by decide)).trans <| (fld_skip 4 b_b (by decide)).trans <| fld_take b_a))
  have o_b : fbv w 13 4 = xb := fbv_eq (hE.symm ▸ ((fld_skip 7 (by decide) (by decide)).trans <| (fld_skip 1 b_s (by decide)).trans <| (fld_skip 2 b_t (by decide)).trans <| (fld_skip 1 (by decide) (by decide)).trans <| (fld_skip 2 b_k (by decide)).trans <| fld_take b_b))
  have o_k : fbv w 11 2 = xk := fbv_eq (hE.symm ▸ ((fld_skip 7 (by decide) (by decide)).trans <| (fld_skip 1 b_s (by decide)).trans <| (fld_skip 2 b_t (by decide)).trans <| (fld_skip 1 (by decide) (by decide)).trans <| fld_take b_k))
  have o_t : fld w 8 2 = xt.code := hE.symm ▸ ((fld_skip 7 (by decide) (by decide)).trans <| (fld_skip 1 b_s (by decide)).trans <| fld_take b_t)
  have o_s : fbit w 7 = xs := fbit_eq (hE.symm ▸ ((fld_skip 7 (by decide) (by decide)).trans <| fld_take b_s))
  refine decodeNat_of_raw ((decodeRaw_31 hm).trans ?_) hw
  unfold decodeMajor31
  refine (if_neg fun h => absurd (f_0_7.symm.trans h.1) (by decide)).trans ?_
  refine (if_pos ⟨f_0_7, f_10_1⟩).trans ?_
  simp only [o_d, o_a, o_b, o_k, o_t, o_s, FpTy.ofCode_code, Option.bind_some]

theorem RoundTrip.vmulFp (xd : BitVec 4) (xa : BitVec 4) (xb : BitVec 4) (xk : BitVec 2) (xt : FpTy) (xs : Bool) : RoundTrip.Statement (.vmulFp xd xa xb xk xt xs) := by
  intro hw w h
  have hE : w = 2 + 2 ^ 7 * (bit xs + 2 ^ 1 * (xt.code + 2 ^ 2 * (1 + 2 ^ 1 * (xk.toNat + 2 ^ 2 * (xb.toNat + 2 ^ 4 * (xa.toNat + 2 ^ 4 * (xd.toNat + 2 ^ 4 * (49)))))))) := by have := Option.some.inj h; omega
  have b_d := xd.isLt
  have b_a := xa.isLt
  have b_b := xb.isLt
  have b_k := xk.isLt
  have b_t := FpTy.code_lt xt
  have b_s := bit_lt xs
  have hm : fld w 25 6 = 0x31 := hE.symm ▸ ((fld_skip 7 (by decide) (by decide)).trans <| (fld_skip 1 b_s (by decide)).trans <| (fld_skip 2 b_t (by decide)).trans <| (fld_skip 1 (by decide) (by decide)).trans <| (fld_skip 2 b_k (by decide)).trans <| (fld_skip 4 b_b (by decide)).trans <| (fld_skip 4 b_a (by decide)).trans <| (fld_skip 4 b_d (by decide)).trans <| fld_whole (by decide))
  have f_0_7 : fld w 0 7 = 0x2 := hE.symm ▸ (fld_take (by decide))
  have f_10_1 : fld w 10 1 = 0x1 := hE.symm ▸ ((fld_skip 7 (by decide) (by decide)).trans <| (fld_skip 1 b_s (by decide)).trans <| (fld_skip 2 b_t (by decide)).trans <| fld_take (by decide))
  have o_d : fbv w 21 4 = xd := fbv_eq (hE.symm ▸ ((fld_skip 7 (by decide) (by decide)).trans <| (fld_skip 1 b_s (by decide)).trans <| (fld_skip 2 b_t (by decide)).trans <| (fld_skip 1 (by decide) (by decide)).trans <| (fld_skip 2 b_k (by decide)).trans <| (fld_skip 4 b_b (by decide)).trans <| (fld_skip 4 b_a (by decide)).trans <| fld_take b_d))
  have o_a : fbv w 17 4 = xa := fbv_eq (hE.symm ▸ ((fld_skip 7 (by decide) (by decide)).trans <| (fld_skip 1 b_s (by decide)).trans <| (fld_skip 2 b_t (by decide)).trans <| (fld_skip 1 (by decide) (by decide)).trans <| (fld_skip 2 b_k (by decide)).trans <| (fld_skip 4 b_b (by decide)).trans <| fld_take b_a))
  have o_b : fbv w 13 4 = xb := fbv_eq (hE.symm ▸ ((fld_skip 7 (by decide) (by decide)).trans <| (fld_skip 1 b_s (by decide)).trans <| (fld_skip 2 b_t (by decide)).trans <| (fld_skip 1 (by decide) (by decide)).trans <| (fld_skip 2 b_k (by decide)).trans <| fld_take b_b))
  have o_k : fbv w 11 2 = xk := fbv_eq (hE.symm ▸ ((fld_skip 7 (by decide) (by decide)).trans <| (fld_skip 1 b_s (by decide)).trans <| (fld_skip 2 b_t (by decide)).trans <| (fld_skip 1 (by decide) (by decide)).trans <| fld_take b_k))
  have o_t : fld w 8 2 = xt.code := hE.symm ▸ ((fld_skip 7 (by decide) (by decide)).trans <| (fld_skip 1 b_s (by decide)).trans <| fld_take b_t)
  have o_s : fbit w 7 = xs := fbit_eq (hE.symm ▸ ((fld_skip 7 (by decide) (by decide)).trans <| fld_take b_s))
  refine decodeNat_of_raw ((decodeRaw_31 hm).trans ?_) hw
  unfold decodeMajor31
  refine (if_neg fun h => absurd (f_0_7.symm.trans h.1) (by decide)).trans ?_
  refine (if_neg fun h => absurd (f_0_7.symm.trans h.1) (by decide)).trans ?_
  refine (if_pos ⟨f_0_7, f_10_1⟩).trans ?_
  simp only [o_d, o_a, o_b, o_k, o_t, o_s, FpTy.ofCode_code, Option.bind_some]

theorem RoundTrip.vfma (xd : BitVec 4) (xa : BitVec 4) (xb : BitVec 4) (xk : BitVec 2) (xt : FpTy) (xs : Bool) : RoundTrip.Statement (.vfma xd xa xb xk xt xs) := by
  intro hw w h
  have hE : w = 3 + 2 ^ 7 * (bit xs + 2 ^ 1 * (xt.code + 2 ^ 2 * (1 + 2 ^ 1 * (xk.toNat + 2 ^ 2 * (xb.toNat + 2 ^ 4 * (xa.toNat + 2 ^ 4 * (xd.toNat + 2 ^ 4 * (49)))))))) := by have := Option.some.inj h; omega
  have b_d := xd.isLt
  have b_a := xa.isLt
  have b_b := xb.isLt
  have b_k := xk.isLt
  have b_t := FpTy.code_lt xt
  have b_s := bit_lt xs
  have hm : fld w 25 6 = 0x31 := hE.symm ▸ ((fld_skip 7 (by decide) (by decide)).trans <| (fld_skip 1 b_s (by decide)).trans <| (fld_skip 2 b_t (by decide)).trans <| (fld_skip 1 (by decide) (by decide)).trans <| (fld_skip 2 b_k (by decide)).trans <| (fld_skip 4 b_b (by decide)).trans <| (fld_skip 4 b_a (by decide)).trans <| (fld_skip 4 b_d (by decide)).trans <| fld_whole (by decide))
  have f_0_7 : fld w 0 7 = 0x3 := hE.symm ▸ (fld_take (by decide))
  have f_10_1 : fld w 10 1 = 0x1 := hE.symm ▸ ((fld_skip 7 (by decide) (by decide)).trans <| (fld_skip 1 b_s (by decide)).trans <| (fld_skip 2 b_t (by decide)).trans <| fld_take (by decide))
  have o_d : fbv w 21 4 = xd := fbv_eq (hE.symm ▸ ((fld_skip 7 (by decide) (by decide)).trans <| (fld_skip 1 b_s (by decide)).trans <| (fld_skip 2 b_t (by decide)).trans <| (fld_skip 1 (by decide) (by decide)).trans <| (fld_skip 2 b_k (by decide)).trans <| (fld_skip 4 b_b (by decide)).trans <| (fld_skip 4 b_a (by decide)).trans <| fld_take b_d))
  have o_a : fbv w 17 4 = xa := fbv_eq (hE.symm ▸ ((fld_skip 7 (by decide) (by decide)).trans <| (fld_skip 1 b_s (by decide)).trans <| (fld_skip 2 b_t (by decide)).trans <| (fld_skip 1 (by decide) (by decide)).trans <| (fld_skip 2 b_k (by decide)).trans <| (fld_skip 4 b_b (by decide)).trans <| fld_take b_a))
  have o_b : fbv w 13 4 = xb := fbv_eq (hE.symm ▸ ((fld_skip 7 (by decide) (by decide)).trans <| (fld_skip 1 b_s (by decide)).trans <| (fld_skip 2 b_t (by decide)).trans <| (fld_skip 1 (by decide) (by decide)).trans <| (fld_skip 2 b_k (by decide)).trans <| fld_take b_b))
  have o_k : fbv w 11 2 = xk := fbv_eq (hE.symm ▸ ((fld_skip 7 (by decide) (by decide)).trans <| (fld_skip 1 b_s (by decide)).trans <| (fld_skip 2 b_t (by decide)).trans <| (fld_skip 1 (by decide) (by decide)).trans <| fld_take b_k))
  have o_t : fld w 8 2 = xt.code := hE.symm ▸ ((fld_skip 7 (by decide) (by decide)).trans <| (fld_skip 1 b_s (by decide)).trans <| fld_take b_t)
  have o_s : fbit w 7 = xs := fbit_eq (hE.symm ▸ ((fld_skip 7 (by decide) (by decide)).trans <| fld_take b_s))
  refine decodeNat_of_raw ((decodeRaw_31 hm).trans ?_) hw
  unfold decodeMajor31
  refine (if_neg fun h => absurd (f_0_7.symm.trans h.1) (by decide)).trans ?_
  refine (if_neg fun h => absurd (f_0_7.symm.trans h.1) (by decide)).trans ?_
  refine (if_neg fun h => absurd (f_0_7.symm.trans h.1) (by decide)).trans ?_
  refine (if_pos ⟨f_0_7, f_10_1⟩).trans ?_
  simp only [o_d, o_a, o_b, o_k, o_t, o_s, FpTy.ofCode_code, Option.bind_some]

theorem RoundTrip.vfms (xd : BitVec 4) (xa : BitVec 4) (xb : BitVec 4) (xk : BitVec 2) (xt : FpTy) (xs : Bool) : RoundTrip.Statement (.vfms xd xa xb xk xt xs) := by
  intro hw w h
  have hE : w = 4 + 2 ^ 7 * (bit xs + 2 ^ 1 * (xt.code + 2 ^ 2 * (1 + 2 ^ 1 * (xk.toNat + 2 ^ 2 * (xb.toNat + 2 ^ 4 * (xa.toNat + 2 ^ 4 * (xd.toNat + 2 ^ 4 * (49)))))))) := by have := Option.some.inj h; omega
  have b_d := xd.isLt
  have b_a := xa.isLt
  have b_b := xb.isLt
  have b_k := xk.isLt
  have b_t := FpTy.code_lt xt
  have b_s := bit_lt xs
  have hm : fld w 25 6 = 0x31 := hE.symm ▸ ((fld_skip 7 (by decide) (by decide)).trans <| (fld_skip 1 b_s (by decide)).trans <| (fld_skip 2 b_t (by decide)).trans <| (fld_skip 1 (by decide) (by decide)).trans <| (fld_skip 2 b_k (by decide)).trans <| (fld_skip 4 b_b (by decide)).trans <| (fld_skip 4 b_a (by decide)).trans <| (fld_skip 4 b_d (by decide)).trans <| fld_whole (by decide))
  have f_0_7 : fld w 0 7 = 0x4 := hE.symm ▸ (fld_take (by decide))
  have f_10_1 : fld w 10 1 = 0x1 := hE.symm ▸ ((fld_skip 7 (by decide) (by decide)).trans <| (fld_skip 1 b_s (by decide)).trans <| (fld_skip 2 b_t (by decide)).trans <| fld_take (by decide))
  have o_d : fbv w 21 4 = xd := fbv_eq (hE.symm ▸ ((fld_skip 7 (by decide) (by decide)).trans <| (fld_skip 1 b_s (by decide)).trans <| (fld_skip 2 b_t (by decide)).trans <| (fld_skip 1 (by decide) (by decide)).trans <| (fld_skip 2 b_k (by decide)).trans <| (fld_skip 4 b_b (by decide)).trans <| (fld_skip 4 b_a (by decide)).trans <| fld_take b_d))
  have o_a : fbv w 17 4 = xa := fbv_eq (hE.symm ▸ ((fld_skip 7 (by decide) (by decide)).trans <| (fld_skip 1 b_s (by decide)).trans <| (fld_skip 2 b_t (by decide)).trans <| (fld_skip 1 (by decide) (by decide)).trans <| (fld_skip 2 b_k (by decide)).trans <| (fld_skip 4 b_b (by decide)).trans <| fld_take b_a))
  have o_b : fbv w 13 4 = xb := fbv_eq (hE.symm ▸ ((fld_skip 7 (by decide) (by decide)).trans <| (fld_skip 1 b_s (by decide)).trans <| (fld_skip 2 b_t (by decide)).trans <| (fld_skip 1 (by decide) (by decide)).trans <| (fld_skip 2 b_k (by decide)).trans <| fld_take b_b))
  have o_k : fbv w 11 2 = xk := fbv_eq (hE.symm ▸ ((fld_skip 7 (by decide) (by decide)).trans <| (fld_skip 1 b_s (by decide)).trans <| (fld_skip 2 b_t (by decide)).trans <| (fld_skip 1 (by decide) (by decide)).trans <| fld_take b_k))
  have o_t : fld w 8 2 = xt.code := hE.symm ▸ ((fld_skip 7 (by decide) (by decide)).trans <| (fld_skip 1 b_s (by decide)).trans <| fld_take b_t)
  have o_s : fbit w 7 = xs := fbit_eq (hE.symm ▸ ((fld_skip 7 (by decide) (by decide)).trans <| fld_take b_s))
  refine decodeNat_of_raw ((decodeRaw_31 hm).trans ?_) hw
  unfold decodeMajor31
  refine (if_neg fun h => absurd (f_0_7.symm.trans h.1) (by decide)).trans ?_
  refine (if_neg fun h => absurd (f_0_7.symm.trans h.1) (by decide)).trans ?_
  refine (if_neg fun h => absurd (f_0_7.symm.trans h.1) (by decide)).trans ?_
  refine (if_neg fun h => absurd (f_0_7.symm.trans h.1) (by decide)).trans ?_
  refine (if_pos ⟨f_0_7, f_10_1⟩).trans ?_
  simp only [o_d, o_a, o_b, o_k, o_t, o_s, FpTy.ofCode_code, Option.bind_some]

theorem RoundTrip.vminFp (xd : BitVec 4) (xa : BitVec 4) (xb : BitVec 4) (xk : BitVec 2) (xt : FpTy) (xs : Bool) : RoundTrip.Statement (.vminFp xd xa xb xk xt xs) := by
  intro hw w h
  have hE : w = 5 + 2 ^ 7 * (bit xs + 2 ^ 1 * (xt.code + 2 ^ 2 * (1 + 2 ^ 1 * (xk.toNat + 2 ^ 2 * (xb.toNat + 2 ^ 4 * (xa.toNat + 2 ^ 4 * (xd.toNat + 2 ^ 4 * (49)))))))) := by have := Option.some.inj h; omega
  have b_d := xd.isLt
  have b_a := xa.isLt
  have b_b := xb.isLt
  have b_k := xk.isLt
  have b_t := FpTy.code_lt xt
  have b_s := bit_lt xs
  have hm : fld w 25 6 = 0x31 := hE.symm ▸ ((fld_skip 7 (by decide) (by decide)).trans <| (fld_skip 1 b_s (by decide)).trans <| (fld_skip 2 b_t (by decide)).trans <| (fld_skip 1 (by decide) (by decide)).trans <| (fld_skip 2 b_k (by decide)).trans <| (fld_skip 4 b_b (by decide)).trans <| (fld_skip 4 b_a (by decide)).trans <| (fld_skip 4 b_d (by decide)).trans <| fld_whole (by decide))
  have f_0_7 : fld w 0 7 = 0x5 := hE.symm ▸ (fld_take (by decide))
  have f_10_1 : fld w 10 1 = 0x1 := hE.symm ▸ ((fld_skip 7 (by decide) (by decide)).trans <| (fld_skip 1 b_s (by decide)).trans <| (fld_skip 2 b_t (by decide)).trans <| fld_take (by decide))
  have o_d : fbv w 21 4 = xd := fbv_eq (hE.symm ▸ ((fld_skip 7 (by decide) (by decide)).trans <| (fld_skip 1 b_s (by decide)).trans <| (fld_skip 2 b_t (by decide)).trans <| (fld_skip 1 (by decide) (by decide)).trans <| (fld_skip 2 b_k (by decide)).trans <| (fld_skip 4 b_b (by decide)).trans <| (fld_skip 4 b_a (by decide)).trans <| fld_take b_d))
  have o_a : fbv w 17 4 = xa := fbv_eq (hE.symm ▸ ((fld_skip 7 (by decide) (by decide)).trans <| (fld_skip 1 b_s (by decide)).trans <| (fld_skip 2 b_t (by decide)).trans <| (fld_skip 1 (by decide) (by decide)).trans <| (fld_skip 2 b_k (by decide)).trans <| (fld_skip 4 b_b (by decide)).trans <| fld_take b_a))
  have o_b : fbv w 13 4 = xb := fbv_eq (hE.symm ▸ ((fld_skip 7 (by decide) (by decide)).trans <| (fld_skip 1 b_s (by decide)).trans <| (fld_skip 2 b_t (by decide)).trans <| (fld_skip 1 (by decide) (by decide)).trans <| (fld_skip 2 b_k (by decide)).trans <| fld_take b_b))
  have o_k : fbv w 11 2 = xk := fbv_eq (hE.symm ▸ ((fld_skip 7 (by decide) (by decide)).trans <| (fld_skip 1 b_s (by decide)).trans <| (fld_skip 2 b_t (by decide)).trans <| (fld_skip 1 (by decide) (by decide)).trans <| fld_take b_k))
  have o_t : fld w 8 2 = xt.code := hE.symm ▸ ((fld_skip 7 (by decide) (by decide)).trans <| (fld_skip 1 b_s (by decide)).trans <| fld_take b_t)
  have o_s : fbit w 7 = xs := fbit_eq (hE.symm ▸ ((fld_skip 7 (by decide) (by decide)).trans <| fld_take b_s))
  refine decodeNat_of_raw ((decodeRaw_31 hm).trans ?_) hw
  unfold decodeMajor31
  refine (if_neg fun h => absurd (f_0_7.symm.trans h.1) (by decide)).trans ?_
  refine (if_neg fun h => absurd (f_0_7.symm.trans h.1) (by decide)).trans ?_
  refine (if_neg fun h => absurd (f_0_7.symm.trans h.1) (by decide)).trans ?_
  refine (if_neg fun h => absurd (f_0_7.symm.trans h.1) (by decide)).trans ?_
  refine (if_neg fun h => absurd (f_0_7.symm.trans h.1) (by decide)).trans ?_
  refine (if_pos ⟨f_0_7, f_10_1⟩).trans ?_
  simp only [o_d, o_a, o_b, o_k, o_t, o_s, FpTy.ofCode_code, Option.bind_some]

theorem RoundTrip.vmaxFp (xd : BitVec 4) (xa : BitVec 4) (xb : BitVec 4) (xk : BitVec 2) (xt : FpTy) (xs : Bool) : RoundTrip.Statement (.vmaxFp xd xa xb xk xt xs) := by
  intro hw w h
  have hE : w = 6 + 2 ^ 7 * (bit xs + 2 ^ 1 * (xt.code + 2 ^ 2 * (1 + 2 ^ 1 * (xk.toNat + 2 ^ 2 * (xb.toNat + 2 ^ 4 * (xa.toNat + 2 ^ 4 * (xd.toNat + 2 ^ 4 * (49)))))))) := by have := Option.some.inj h; omega
  have b_d := xd.isLt
  have b_a := xa.isLt
  have b_b := xb.isLt
  have b_k := xk.isLt
  have b_t := FpTy.code_lt xt
  have b_s := bit_lt xs
  have hm : fld w 25 6 = 0x31 := hE.symm ▸ ((fld_skip 7 (by decide) (by decide)).trans <| (fld_skip 1 b_s (by decide)).trans <| (fld_skip 2 b_t (by decide)).trans <| (fld_skip 1 (by decide) (by decide)).trans <| (fld_skip 2 b_k (by decide)).trans <| (fld_skip 4 b_b (by decide)).trans <| (fld_skip 4 b_a (by decide)).trans <| (fld_skip 4 b_d (by decide)).trans <| fld_whole (by decide))
  have f_0_7 : fld w 0 7 = 0x6 := hE.symm ▸ (fld_take (by decide))
  have f_10_1 : fld w 10 1 = 0x1 := hE.symm ▸ ((fld_skip 7 (by decide) (by decide)).trans <| (fld_skip 1 b_s (by decide)).trans <| (fld_skip 2 b_t (by decide)).trans <| fld_take (by decide))
  have o_d : fbv w 21 4 = xd := fbv_eq (hE.symm ▸ ((fld_skip 7 (by decide) (by decide)).trans <| (fld_skip 1 b_s (by decide)).trans <| (fld_skip 2 b_t (by decide)).trans <| (fld_skip 1 (by decide) (by decide)).trans <| (fld_skip 2 b_k (by decide)).trans <| (fld_skip 4 b_b (by decide)).trans <| (fld_skip 4 b_a (by decide)).trans <| fld_take b_d))
  have o_a : fbv w 17 4 = xa := fbv_eq (hE.symm ▸ ((fld_skip 7 (by decide) (by decide)).trans <| (fld_skip 1 b_s (by decide)).trans <| (fld_skip 2 b_t (by decide)).trans <| (fld_skip 1 (by decide) (by decide)).trans <| (fld_skip 2 b_k (by decide)).trans <| (fld_skip 4 b_b (by decide)).trans <| fld_take b_a))
  have o_b : fbv w 13 4 = xb := fbv_eq (hE.symm ▸ ((fld_skip 7 (by decide) (by decide)).trans <| (fld_skip 1 b_s (by decide)).trans <| (fld_skip 2 b_t (by decide)).trans <| (fld_skip 1 (by decide) (by decide)).trans <| (fld_skip 2 b_k (by decide)).trans <| fld_take b_b))
  have o_k : fbv w 11 2 = xk := fbv_eq (hE.symm ▸ ((fld_skip 7 (by decide) (by decide)).trans <| (fld_skip 1 b_s (by decide)).trans <| (fld_skip 2 b_t (by decide)).trans <| (fld_skip 1 (by decide) (by decide)).trans <| fld_take b_k))
  have o_t : fld w 8 2 = xt.code := hE.symm ▸ ((fld_skip 7 (by decide) (by decide)).trans <| (fld_skip 1 b_s (by decide)).trans <| fld_take b_t)
  have o_s : fbit w 7 = xs := fbit_eq (hE.symm ▸ ((fld_skip 7 (by decide) (by decide)).trans <| fld_take b_s))
  refine decodeNat_of_raw ((decodeRaw_31 hm).trans ?_) hw
  unfold decodeMajor31
  refine (if_neg fun h => absurd (f_0_7.symm.trans h.1) (by decide)).trans ?_
  refine (if_neg fun h => absurd (f_0_7.symm.trans h.1) (by decide)).trans ?_
  refine (if_neg fun h => absurd (f_0_7.symm.trans h.1) (by decide)).trans ?_
  refine (if_neg fun h => absurd (f_0_7.symm.trans h.1) (by decide)).trans ?_
  refine (if_neg fun h => absurd (f_0_7.symm.trans h.1) (by decide)).trans ?_
  refine (if_neg fun h => absurd (f_0_7.symm.trans h.1) (by decide)).trans ?_
  refine (if_pos ⟨f_0_7, f_10_1⟩).trans ?_
  simp only [o_d, o_a, o_b, o_k, o_t, o_s, FpTy.ofCode_code, Option.bind_some]

theorem RoundTrip.vabsFp (xd : BitVec 4) (xa : BitVec 4) (xk : BitVec 2) (xt : FpTy) : RoundTrip.Statement (.vabsFp xd xa xk xt) := by
  intro hw w h
  have hE : w = 7 + 2 ^ 8 * (xt.code + 2 ^ 2 * (1 + 2 ^ 1 * (xk.toNat + 2 ^ 2 * (0 + 2 ^ 4 * (xa.toNat + 2 ^ 4 * (xd.toNat + 2 ^ 4 * (49))))))) := by have := Option.some.inj h; omega
  have b_d := xd.isLt
  have b_a := xa.isLt
  have b_k := xk.isLt
  have b_t := FpTy.code_lt xt
  have hm : fld w 25 6 = 0x31 := hE.symm ▸ ((fld_skip 8 (by decide) (by decide)).trans <| (fld_skip 2 b_t (by decide)).trans <| (fld_skip 1 (by decide) (by decide)).trans <| (fld_skip 2 b_k (by decide)).trans <| (fld_skip 4 (by decide) (by decide)).trans <| (fld_skip 4 b_a (by decide)).trans <| (fld_skip 4 b_d (by decide)).trans <| fld_whole (by decide))
  have f_0_7 : fld w 0 7 = 0x7 := hE.symm ▸ ((fld_low (by decide)).trans (by decide))
  have f_10_1 : fld w 10 1 = 0x1 := hE.symm ▸ ((fld_skip 8 (by decide) (by decide)).trans <| (fld_skip 2 b_t (by decide)).trans <| fld_take (by decide))
  have f_0_8 : fld w 0 8 = 0x7 := hE.symm ▸ (fld_take (by decide))
  have f_13_4 : fld w 13 4 = 0x0 := hE.symm ▸ ((fld_skip 8 (by decide) (by decide)).trans <| (fld_skip 2 b_t (by decide)).trans <| (fld_skip 1 (by decide) (by decide)).trans <| (fld_skip 2 b_k (by decide)).trans <| fld_take (by decide))
  have o_d : fbv w 21 4 = xd := fbv_eq (hE.symm ▸ ((fld_skip 8 (by decide) (by decide)).trans <| (fld_skip 2 b_t (by decide)).trans <| (fld_skip 1 (by decide) (by decide)).trans <| (fld_skip 2 b_k (by decide)).trans <| (fld_skip 4 (by decide) (by decide)).trans <| (fld_skip 4 b_a (by decide)).trans <| fld_take b_d))
  have o_a : fbv w 17 4 = xa := fbv_eq (hE.symm ▸ ((fld_skip 8 (by decide) (by decide)).trans <| (fld_skip 2 b_t (by decide)).trans <| (fld_skip 1 (by decide) (by decide)).trans <| (fld_skip 2 b_k (by decide)).trans <| (fld_skip 4 (by decide) (by decide)).trans <| fld_take b_a))
  have o_k : fbv w 11 2 = xk := fbv_eq (hE.symm ▸ ((fld_skip 8 (by decide) (by decide)).trans <| (fld_skip 2 b_t (by decide)).trans <| (fld_skip 1 (by decide) (by decide)).trans <| fld_take b_k))
  have o_t : fld w 8 2 = xt.code := hE.symm ▸ ((fld_skip 8 (by decide) (by decide)).trans <| fld_take b_t)
  refine decodeNat_of_raw ((decodeRaw_31 hm).trans ?_) hw
  unfold decodeMajor31
  refine (if_neg fun h => absurd (f_0_7.symm.trans h.1) (by decide)).trans ?_
  refine (if_neg fun h => absurd (f_0_7.symm.trans h.1) (by decide)).trans ?_
  refine (if_neg fun h => absurd (f_0_7.symm.trans h.1) (by decide)).trans ?_
  refine (if_neg fun h => absurd (f_0_7.symm.trans h.1) (by decide)).trans ?_
  refine (if_neg fun h => absurd (f_0_7.symm.trans h.1) (by decide)).trans ?_
  refine (if_neg fun h => absurd (f_0_7.symm.trans h.1) (by decide)).trans ?_
  refine (if_neg fun h => absurd (f_0_7.symm.trans h.1) (by decide)).trans ?_
  refine (if_pos ⟨f_0_8, f_10_1, f_13_4⟩).trans ?_
  simp only [o_d, o_a, o_k, o_t, FpTy.ofCode_code, Option.bind_some]

theorem RoundTrip.vneg (xd : BitVec 4) (xa : BitVec 4) (xk : BitVec 2) (xt : FpTy) : RoundTrip.Statement (.vneg xd xa xk xt) := by
  intro hw w h
  have hE : w = 8 + 2 ^ 8 * (xt.code + 2 ^ 2 * (1 + 2 ^ 1 * (xk.toNat + 2 ^ 2 * (0 + 2 ^ 4 * (xa.toNat + 2 ^ 4 * (xd.toNat + 2 ^ 4 * (49))))))) := by have := Option.some.inj h; omega
  have b_d := xd.isLt
  have b_a := xa.isLt
  have b_k := xk.isLt
  have b_t := FpTy.code_lt xt
  have hm : fld w 25 6 = 0x31 := hE.symm ▸ ((fld_skip 8 (by decide) (by decide)).trans <| (fld_skip 2 b_t (by decide)).trans <| (fld_skip 1 (by decide) (by decide)).trans <| (fld_skip 2 b_k (by decide)).trans <| (fld_skip 4 (by decide) (by decide)).trans <| (fld_skip 4 b_a (by decide)).trans <| (fld_skip 4 b_d (by decide)).trans <| fld_whole (by decide))
  have f_0_7 : fld w 0 7 = 0x8 := hE.symm ▸ ((fld_low (by decide)).trans (by decide))
  have f_10_1 : fld w 10 1 = 0x1 := hE.symm ▸ ((fld_skip 8 (by decide) (by decide)).trans <| (fld_skip 2 b_t (by decide)).trans <| fld_take (by decide))
  have f_0_8 : fld w 0 8 = 0x8 := hE.symm ▸ (fld_take (by decide))
  have f_13_4 : fld w 13 4 = 0x0 := hE.symm ▸ ((fld_skip 8 (by decide) (by decide)).trans <| (fld_skip 2 b_t (by decide)).trans <| (fld_skip 1 (by decide) (by decide)).trans <| (fld_skip 2 b_k (by decide)).trans <| fld_take (by decide))
  have o_d : fbv w 21 4 = xd := fbv_eq (hE.symm ▸ ((fld_skip 8 (by decide) (by decide)).trans <| (fld_skip 2 b_t (by decide)).trans <| (fld_skip 1 (by decide) (by decide)).trans <| (fld_skip 2 b_k (by decide)).trans <| (fld_skip 4 (by decide) (by decide)).trans <| (fld_skip 4 b_a (by decide)).trans <| fld_take b_d))
  have o_a : fbv w 17 4 = xa := fbv_eq (hE.symm ▸ ((fld_skip 8 (by decide) (by decide)).trans <| (fld_skip 2 b_t (by decide)).trans <| (fld_skip 1 (by decide) (by decide)).trans <| (fld_skip 2 b_k (by decide)).trans <| (fld_skip 4 (by decide) (by decide)).trans <| fld_take b_a))
  have o_k : fbv w 11 2 = xk := fbv_eq (hE.symm ▸ ((fld_skip 8 (by decide) (by decide)).trans <| (fld_skip 2 b_t (by decide)).trans <| (fld_skip 1 (by decide) (by decide)).trans <| fld_take b_k))
  have o_t : fld w 8 2 = xt.code := hE.symm ▸ ((fld_skip 8 (by decide) (by decide)).trans <| fld_take b_t)
  refine decodeNat_of_raw ((decodeRaw_31 hm).trans ?_) hw
  unfold decodeMajor31
  refine (if_neg fun h => absurd (f_0_7.symm.trans h.1) (by decide)).trans ?_
  refine (if_neg fun h => absurd (f_0_7.symm.trans h.1) (by decide)).trans ?_
  refine (if_neg fun h => absurd (f_0_7.symm.trans h.1) (by decide)).trans ?_
  refine (if_neg fun h => absurd (f_0_7.symm.trans h.1) (by decide)).trans ?_
  refine (if_neg fun h => absurd (f_0_7.symm.trans h.1) (by decide)).trans ?_
  refine (if_neg fun h => absurd (f_0_7.symm.trans h.1) (by decide)).trans ?_
  refine (if_neg fun h => absurd (f_0_7.symm.trans h.1) (by decide)).trans ?_
  refine (if_neg fun h => absurd (f_0_8.symm.trans h.1) (by decide)).trans ?_
  refine (if_pos ⟨f_0_8, f_10_1, f_13_4⟩).trans ?_
  simp only [o_d, o_a, o_k, o_t, FpTy.ofCode_code, Option.bind_some]

theorem RoundTrip.vrndi (xd : BitVec 4) (xa : BitVec 4) (xk : BitVec 2) (xt : FpTy) : RoundTrip.Statement (.vrndi xd xa xk xt) := by
  intro hw w h
  have hE : w = 9 + 2 ^ 8 * (xt.code + 2 ^ 2 * (1 + 2 ^ 1 * (xk.toNat + 2 ^ 2 * (0 + 2 ^ 4 * (xa.toNat + 2 ^ 4 * (xd.toNat + 2 ^ 4 * (49))))))) := by have := Option.some.inj h; omega
  have b_d := xd.isLt
  have b_a := xa.isLt
  have b_k := xk.isLt
  have b_t := FpTy.code_lt xt
  have hm : fld w 25 6 = 0x31 := hE.symm ▸ ((fld_skip 8 (by decide) (by decide)).trans <| (fld_skip 2 b_t (by decide)).trans <| (fld_skip 1 (by decide) (by decide)).trans <| (fld_skip 2 b_k (by decide)).trans <| (fld_skip 4 (by decide) (by decide)).trans <| (fld_skip 4 b_a (by decide)).trans <| (fld_skip 4 b_d (by decide)).trans <| fld_whole (by decide))
  have f_0_7 : fld w 0 7 = 0x9 := hE.symm ▸ ((fld_low (by decide)).trans (by decide))
  have f_10_1 : fld w 10 1 = 0x1 := hE.symm ▸ ((fld_skip 8 (by decide) (by decide)).trans <| (fld_skip 2 b_t (by decide)).trans <| fld_take (by decide))
  have f_0_8 : fld w 0 8 = 0x9 := hE.symm ▸ (fld_take (by decide))
  have f_13_4 : fld w 13 4 = 0x0 := hE.symm ▸ ((fld_skip 8 (by decide) (by decide)).trans <| (fld_skip 2 b_t (by decide)).trans <| (fld_skip 1 (by decide) (by decide)).trans <| (fld_skip 2 b_k (by decide)).trans <| fld_take (by decide))
  have o_d : fbv w 21 4 = xd := fbv_eq (hE.symm ▸ ((fld_skip 8 (by decide) (by decide)).trans <| (fld_skip 2 b_t (by decide)).trans <| (fld_skip 1 (by decide) (by decide)).trans <| (fld_skip 2 b_k (by decide)).trans <| (fld_skip 4 (by decide) (by decide)).trans <| (fld_skip 4 b_a (by decide)).trans <| fld_take b_d))
  have o_a : fbv w 17 4 = xa := fbv_eq (hE.symm ▸ ((fld_skip 8 (by decide) (by decide)).trans <| (fld_skip 2 b_t (by decide)).trans <| (fld_skip 1 (by decide) (by decide)).trans <| (fld_skip 2 b_k (by decide)).trans <| (fld_skip 4 (by decide) (by decide)).trans <| fld_take b_a))
  have o_k : fbv w 11 2 = xk := fbv_eq (hE.symm ▸ ((fld_skip 8 (by decide) (by decide)).trans <| (fld_skip 2 b_t (by decide)).trans <| (fld_skip 1 (by decide) (by decide)).trans <| fld_take b_k))
  have o_t : fld w 8 2 = xt.code := hE.symm ▸ ((fld_skip 8 (by decide) (by decide)).trans <| fld_take b_t)
  refine decodeNat_of_raw ((decodeRaw_31 hm).trans ?_) hw
  unfold decodeMajor31
  refine (if_neg fun h => absurd (f_0_7.symm.trans h.1) (by decide)).trans ?_
  refine (if_neg fun h => absurd (f_0_7.symm.trans h.1) (by decide)).trans ?_
  refine (if_neg fun h => absurd (f_0_7.symm.trans h.1) (by decide)).trans ?_
  refine (if_neg fun h => absurd (f_0_7.symm.trans h.1) (by decide)).trans ?_
  refine (if_neg fun h => absurd (f_0_7.symm.trans h.1) (by decide)).trans ?_
  refine (if_neg fun h => absurd (f_0_7.symm.trans h.1) (by decide)).trans ?_
  refine (if_neg fun h => absurd (f_0_7.symm.trans h.1) (by decide)).trans ?_
  refine (if_neg fun h => absurd (f_0_8.symm.trans h.1) (by decide)).trans ?_
  refine (if_neg fun h => absurd (f_0_8.symm.trans h.1) (by decide)).trans ?_
  refine (if_pos ⟨f_0_8, f_10_1, f_13_4⟩).trans ?_
  simp only [o_d, o_a, o_k, o_t, FpTy.ofCode_code, Option.bind_some]

theorem RoundTrip.vcvt (xd : BitVec 4) (xa : BitVec 4) (xb : BitVec 4) (xk : BitVec 2) (xc : CvtKind) (xh : Bool) : RoundTrip.Statement (.vcvt xd xa xb xk xc xh) := by
  intro hw w h
  have hE : w = 0 + 2 ^ 4 * (bit xh + 2 ^ 1 * (xc.code + 2 ^ 5 * (0 + 2 ^ 1 * (xk.toNat + 2 ^ 2 * (xb.toNat + 2 ^ 4 * (xa.toNat + 2 ^ 4 * (xd.toNat + 2 ^ 4 * (50)))))))) := by have := Option.some.inj h; omega
  have b_d := xd.isLt
  have b_a := xa.isLt
  have b_b := xb.isLt
  have b_k := xk.isLt
  have b_c := CvtKind.code_lt xc
  have b_h := bit_lt xh
  have hm : fld w 25 6 = 0x32 := hE.symm ▸ ((fld_skip 4 (by decide) (by decide)).trans <| (fld_skip 1 b_h (by decide)).trans <| (fld_skip 5 b_c (by decide)).trans <| (fld_skip 1 (by decide) (by decide)).trans <| (fld_skip 2 b_k (by decide)).trans <| (fld_skip 4 b_b (by decide)).trans <| (fld_skip 4 b_a (by decide)).trans <| (fld_skip 4 b_d (by decide)).trans <| fld_whole (by decide))
  have f_0_4 : fld w 0 4 = 0x0 := hE.symm ▸ (fld_take (by decide))
  have n_0 : ¬ (fld w 0 11 = 0x1c0 ∧ fld w 13 4 = 0) := by
    have hc : xc.code ≠ 14 := by cases xc <;> decide
    unfold fld; omega
  have o_d : fbv w 21 4 = xd := fbv_eq (hE.symm ▸ ((fld_skip 4 (by decide) (by decide)).trans <| (fld_skip 1 b_h (by decide)).trans <| (fld_skip 5 b_c (by decide)).trans <| (fld_skip 1 (by decide) (by decide)).trans <| (fld_skip 2 b_k (by decide)).trans <| (fld_skip 4 b_b (by decide)).trans <| (fld_skip 4 b_a (by decide)).trans <| fld_take b_d))
  have o_a : fbv w 17 4 = xa := fbv_eq (hE.symm ▸ ((fld_skip 4 (by decide) (by decide)).trans <| (fld_skip 1 b_h (by decide)).trans <| (fld_skip 5 b_c (by decide)).trans <| (fld_skip 1 (by decide) (by decide)).trans <| (fld_skip 2 b_k (by decide)).trans <| (fld_skip 4 b_b (by decide)).trans <| fld_take b_a))
  have o_b : fbv w 13 4 = xb := fbv_eq (hE.symm ▸ ((fld_skip 4 (by decide) (by decide)).trans <| (fld_skip 1 b_h (by decide)).trans <| (fld_skip 5 b_c (by decide)).trans <| (fld_skip 1 (by decide) (by decide)).trans <| (fld_skip 2 b_k (by decide)).trans <| fld_take b_b))
  have o_k : fbv w 11 2 = xk := fbv_eq (hE.symm ▸ ((fld_skip 4 (by decide) (by decide)).trans <| (fld_skip 1 b_h (by decide)).trans <| (fld_skip 5 b_c (by decide)).trans <| (fld_skip 1 (by decide) (by decide)).trans <| fld_take b_k))
  have o_c : fld w 5 6 = xc.code := fld_mid (819200 + xd.toNat * 1024 + xa.toNat * 64 + xb.toNat * 4 + xk.toNat * 1) (0 + bit xh * 16) (by omega) (by omega) (by omega)
  have o_h : fbit w 4 = xh := fbit_eq (hE.symm ▸ ((fld_skip 4 (by decide) (by decide)).trans <| fld_take b_h))
  refine decodeNat_of_raw ((decodeRaw_32 hm).trans ?_) hw
  unfold decodeMajor32
  refine (if_neg n_0).trans ?_
  refine (if_pos f_0_4).trans ?_
  simp only [o_d, o_a, o_b, o_k, o_c, o_h, CvtKind.ofCode_code, Option.bind_some]

theorem RoundTrip.xtof (xd : BitVec 4) (xa : BitVec 4) (xk : BitVec 2) : RoundTrip.Statement (.xtof xd xa xk) := by
  intro hw w h
  have hE : w = 448 + 2 ^ 11 * (xk.toNat + 2 ^ 2 * (0 + 2 ^ 4 * (xa.toNat + 2 ^ 4 * (xd.toNat + 2 ^ 4 * (50))))) := by have := Option.some.inj h; omega
  have b_d := xd.isLt
  have b_a := xa.isLt
  have b_k := xk.isLt
  have hm : fld w 25 6 = 0x32 := hE.symm ▸ ((fld_skip 11 (by decide) (by decide)).trans <| (fld_skip 2 b_k (by decide)).trans <| (fld_skip 4 (by decide) (by decide)).trans <| (fld_skip 4 b_a (by decide)).trans <| (fld_skip 4 b_d (by decide)).trans <| fld_whole (by decide))
  have f_0_11 : fld w 0 11 = 0x1C0 := hE.symm ▸ (fld_take (by decide))
  have f_13_4 : fld w 13 4 = 0x0 := hE.symm ▸ ((fld_skip 11 (by decide) (by decide)).trans <| (fld_skip 2 b_k (by decide)).trans <| fld_take (by decide))
  have o_d : fbv w 21 4 = xd := fbv_eq (hE.symm ▸ ((fld_skip 11 (by decide) (by decide)).trans <| (fld_skip 2 b_k (by decide)).trans <| (fld_skip 4 (by decide) (by decide)).trans <| (fld_skip 4 b_a (by decide)).trans <| fld_take b_d))
  have o_a : fbv w 17 4 = xa := fbv_eq (hE.symm ▸ ((fld_skip 11 (by decide) (by decide)).trans <| (fld_skip 2 b_k (by decide)).trans <| (fld_skip 4 (by decide) (by decide)).trans <| fld_take b_a))
  have o_k : fbv w 11 2 = xk := fbv_eq (hE.symm ▸ ((fld_skip 11 (by decide) (by decide)).trans <| fld_take b_k))
  refine decodeNat_of_raw ((decodeRaw_32 hm).trans ?_) hw
  unfold decodeMajor32
  refine (if_pos ⟨f_0_11, f_13_4⟩).trans ?_
  simp only [o_d, o_a, o_k]

theorem RoundTrip.vrcp (xd : BitVec 4) (xa : BitVec 4) (xk : BitVec 2) (xt : FpTy) : RoundTrip.Statement (.vrcp xd xa xk xt) := by
  intro hw w h
  have hE : w = 0 + 2 ^ 8 * (xt.code + 2 ^ 2 * (1 + 2 ^ 1 * (xk.toNat + 2 ^ 2 * (0 + 2 ^ 4 * (xa.toNat + 2 ^ 4 * (xd.toNat + 2 ^ 4 * (51))))))) := by have := Option.some.inj h; omega
  have b_d := xd.isLt
  have b_a := xa.isLt
  have b_k := xk.isLt
  have b_t := FpTy.code_lt xt
  have hm : fld w 25 6 = 0x33 := hE.symm ▸ ((fld_skip 8 (by decide) (by decide)).trans <| (fld_skip 2 b_t (by decide)).trans <| (fld_skip 1 (by decide) (by decide)).trans <| (fld_skip 2 b_k (by decide)).trans <| (fld_skip 4 (by decide) (by decide)).trans <| (fld_skip 4 b_a (by decide)).trans <| (fld_skip 4 b_d (by decide)).trans <| fld_whole (by decide))
  have f_0_8 : fld w 0 8 = 0x0 := hE.symm ▸ (fld_take (by decide))
  have f_10_1 : fld w 10 1 = 0x1 := hE.symm ▸ ((fld_skip 8 (by decide) (by decide)).trans <| (fld_skip 2 b_t (by decide)).trans <| fld_take (by decide))
  have f_13_4 : fld w 13 4 = 0x0 := hE.symm ▸ ((fld_skip 8 (by decide) (by decide)).trans <| (fld_skip 2 b_t (by decide)).trans <| (fld_skip 1 (by decide) (by decide)).trans <| (fld_skip 2 b_k (by decide)).trans <| fld_take (by decide))
  have o_d : fbv w 21 4 = xd := fbv_eq (hE.symm ▸ ((fld_skip 8 (by decide) (by decide)).trans <| (fld_skip 2 b_t (by decide)).trans <| (fld_skip 1 (by decide) (by decide)).trans <| (fld_skip 2 b_k (by decide)).trans <| (fld_skip 4 (by decide) (by decide)).trans <| (fld_skip 4 b_a (by decide)).trans <| fld_take b_d))
  have o_a : fbv w 17 4 = xa := fbv_eq (hE.symm ▸ ((fld_skip 8 (by decide) (by decide)).trans <| (fld_skip 2 b_t (by decide)).trans <| (fld_skip 1 (by decide) (by decide)).trans <| (fld_skip 2 b_k (by decide)).trans <| (fld_skip 4 (by decide) (by decide)).trans <| fld_take b_a))
  have o_k : fbv w 11 2 = xk := fbv_eq (hE.symm ▸ ((fld_skip 8 (by decide) (by decide)).trans <| (fld_skip 2 b_t (by decide)).trans <| (fld_skip 1 (by decide) (by decide)).trans <| fld_take b_k))
  have o_t : fld w 8 2 = xt.code := hE.symm ▸ ((fld_skip 8 (by decide) (by decide)).trans <| fld_take b_t)
  refine decodeNat_of_raw ((decodeRaw_33 hm).trans ?_) hw
  unfold decodeMajor33
  refine (if_pos ⟨f_0_8, f_10_1, f_13_4⟩).trans ?_
  simp only [o_d, o_a, o_k, o_t, FpTy.ofCode_code, Option.bind_some]

theorem RoundTrip.vrsq (xd : BitVec 4) (xa : BitVec 4) (xk : BitVec 2) (xt : FpTy) : RoundTrip.Statement (.vrsq xd xa xk xt) := by
  intro hw w h
  have hE : w = 1 + 2 ^ 8 * (xt.code + 2 ^ 2 * (1 + 2 ^ 1 * (xk.toNat + 2 ^ 2 * (0 + 2 ^ 4 * (xa.toNat + 2 ^ 4 * (xd.toNat + 2 ^ 4 * (51))))))) := by have := Option.some.inj h; omega
  have b_d := xd.isLt
  have b_a := xa.isLt
  have b_k := xk.isLt
  have b_t := FpTy.code_lt xt
  have hm : fld w 25 6 = 0x33 := hE.symm ▸ ((fld_skip 8 (by decide) (by decide)).trans <| (fld_skip 2 b_t (by decide)).trans <| (fld_skip 1 (by decide) (by decide)).trans <| (fld_skip 2 b_k (by decide)).trans <| (fld_skip 4 (by decide) (by decide)).trans <| (fld_skip 4 b_a (by decide)).trans <| (fld_skip 4 b_d (by decide)).trans <| fld_whole (by decide))
  have f_0_8 : fld w 0 8 = 0x1 := hE.symm ▸ (fld_take (by decide))
  have f_10_1 : fld w 10 1 = 0x1 := hE.symm ▸ ((fld_skip 8 (by decide) (by decide)).trans <| (fld_skip 2 b_t (by decide)).trans <| fld_take (by decide))
  have f_13_4 : fld w 13 4 = 0x0 := hE.symm ▸ ((fld_skip 8 (by decide) (by decide)).trans <| (fld_skip 2 b_t (by decide)).trans <| (fld_skip 1 (by decide) (by decide)).trans <| (fld_skip 2 b_k (by decide)).trans <| fld_take (by decide))
  have o_d : fbv w 21 4 = xd := fbv_eq (hE.symm ▸ ((fld_skip 8 (by decide) (by decide)).trans <| (fld_skip 2 b_t (by decide)).trans <| (fld_skip 1 (by decide) (by decide)).trans <| (fld_skip 2 b_k (by decide)).trans <| (fld_skip 4 (by decide) (by decide)).trans <| (fld_skip 4 b_a (by decide)).trans <| fld_take b_d))
  have o_a : fbv w 17 4 = xa := fbv_eq (hE.symm ▸ ((fld_skip 8 (by decide) (by decide)).trans <| (fld_skip 2 b_t (by decide)).trans <| (fld_skip 1 (by decide) (by decide)).trans <| (fld_skip 2 b_k (by decide)).trans <| (fld_skip 4 (by decide) (by decide)).trans <| fld_take b_a))
  have o_k : fbv w 11 2 = xk := fbv_eq (hE.symm ▸ ((fld_skip 8 (by decide) (by decide)).trans <| (fld_skip 2 b_t (by decide)).trans <| (fld_skip 1 (by decide) (by decide)).trans <| fld_take b_k))
  have o_t : fld w 8 2 = xt.code := hE.symm ▸ ((fld_skip 8 (by decide) (by decide)).trans <| fld_take b_t)
  refine decodeNat_of_raw ((decodeRaw_33 hm).trans ?_) hw
  unfold decodeMajor33
  refine (if_neg fun h => absurd (f_0_8.symm.trans h.1) (by decide)).trans ?_
  refine (if_pos ⟨f_0_8, f_10_1, f_13_4⟩).trans ?_
  simp only [o_d, o_a, o_k, o_t, FpTy.ofCode_code, Option.bind_some]

theorem RoundTrip.vexp2 (xd : BitVec 4) (xa : BitVec 4) (xk : BitVec 2) (xt : FpTy) : RoundTrip.Statement (.vexp2 xd xa xk xt) := by
  intro hw w h
  have hE : w = 2 + 2 ^ 8 * (xt.code + 2 ^ 2 * (1 + 2 ^ 1 * (xk.toNat + 2 ^ 2 * (0 + 2 ^ 4 * (xa.toNat + 2 ^ 4 * (xd.toNat + 2 ^ 4 * (51))))))) := by have := Option.some.inj h; omega
  have b_d := xd.isLt
  have b_a := xa.isLt
  have b_k := xk.isLt
  have b_t := FpTy.code_lt xt
  have hm : fld w 25 6 = 0x33 := hE.symm ▸ ((fld_skip 8 (by decide) (by decide)).trans <| (fld_skip 2 b_t (by decide)).trans <| (fld_skip 1 (by decide) (by decide)).trans <| (fld_skip 2 b_k (by decide)).trans <| (fld_skip 4 (by decide) (by decide)).trans <| (fld_skip 4 b_a (by decide)).trans <| (fld_skip 4 b_d (by decide)).trans <| fld_whole (by decide))
  have f_0_8 : fld w 0 8 = 0x2 := hE.symm ▸ (fld_take (by decide))
  have f_10_1 : fld w 10 1 = 0x1 := hE.symm ▸ ((fld_skip 8 (by decide) (by decide)).trans <| (fld_skip 2 b_t (by decide)).trans <| fld_take (by decide))
  have f_13_4 : fld w 13 4 = 0x0 := hE.symm ▸ ((fld_skip 8 (by decide) (by decide)).trans <| (fld_skip 2 b_t (by decide)).trans <| (fld_skip 1 (by decide) (by decide)).trans <| (fld_skip 2 b_k (by decide)).trans <| fld_take (by decide))
  have o_d : fbv w 21 4 = xd := fbv_eq (hE.symm ▸ ((fld_skip 8 (by decide) (by decide)).trans <| (fld_skip 2 b_t (by decide)).trans <| (fld_skip 1 (by decide) (by decide)).trans <| (fld_skip 2 b_k (by decide)).trans <| (fld_skip 4 (by decide) (by decide)).trans <| (fld_skip 4 b_a (by decide)).trans <| fld_take b_d))
  have o_a : fbv w 17 4 = xa := fbv_eq (hE.symm ▸ ((fld_skip 8 (by decide) (by decide)).trans <| (fld_skip 2 b_t (by decide)).trans <| (fld_skip 1 (by decide) (by decide)).trans <| (fld_skip 2 b_k (by decide)).trans <| (fld_skip 4 (by decide) (by decide)).trans <| fld_take b_a))
  have o_k : fbv w 11 2 = xk := fbv_eq (hE.symm ▸ ((fld_skip 8 (by decide) (by decide)).trans <| (fld_skip 2 b_t (by decide)).trans <| (fld_skip 1 (by decide) (by decide)).trans <| fld_take b_k))
  have o_t : fld w 8 2 = xt.code := hE.symm ▸ ((fld_skip 8 (by decide) (by decide)).trans <| fld_take b_t)
  refine decodeNat_of_raw ((decodeRaw_33 hm).trans ?_) hw
  unfold decodeMajor33
  refine (if_neg fun h => absurd (f_0_8.symm.trans h.1) (by decide)).trans ?_
  refine (if_neg fun h => absurd (f_0_8.symm.trans h.1) (by decide)).trans ?_
  refine (if_pos ⟨f_0_8, f_10_1, f_13_4⟩).trans ?_
  simp only [o_d, o_a, o_k, o_t, FpTy.ofCode_code, Option.bind_some]

theorem RoundTrip.vlog2 (xd : BitVec 4) (xa : BitVec 4) (xk : BitVec 2) (xt : FpTy) : RoundTrip.Statement (.vlog2 xd xa xk xt) := by
  intro hw w h
  have hE : w = 3 + 2 ^ 8 * (xt.code + 2 ^ 2 * (1 + 2 ^ 1 * (xk.toNat + 2 ^ 2 * (0 + 2 ^ 4 * (xa.toNat + 2 ^ 4 * (xd.toNat + 2 ^ 4 * (51))))))) := by have := Option.some.inj h; omega
  have b_d := xd.isLt
  have b_a := xa.isLt
  have b_k := xk.isLt
  have b_t := FpTy.code_lt xt
  have hm : fld w 25 6 = 0x33 := hE.symm ▸ ((fld_skip 8 (by decide) (by decide)).trans <| (fld_skip 2 b_t (by decide)).trans <| (fld_skip 1 (by decide) (by decide)).trans <| (fld_skip 2 b_k (by decide)).trans <| (fld_skip 4 (by decide) (by decide)).trans <| (fld_skip 4 b_a (by decide)).trans <| (fld_skip 4 b_d (by decide)).trans <| fld_whole (by decide))
  have f_0_8 : fld w 0 8 = 0x3 := hE.symm ▸ (fld_take (by decide))
  have f_10_1 : fld w 10 1 = 0x1 := hE.symm ▸ ((fld_skip 8 (by decide) (by decide)).trans <| (fld_skip 2 b_t (by decide)).trans <| fld_take (by decide))
  have f_13_4 : fld w 13 4 = 0x0 := hE.symm ▸ ((fld_skip 8 (by decide) (by decide)).trans <| (fld_skip 2 b_t (by decide)).trans <| (fld_skip 1 (by decide) (by decide)).trans <| (fld_skip 2 b_k (by decide)).trans <| fld_take (by decide))
  have o_d : fbv w 21 4 = xd := fbv_eq (hE.symm ▸ ((fld_skip 8 (by decide) (by decide)).trans <| (fld_skip 2 b_t (by decide)).trans <| (fld_skip 1 (by decide) (by decide)).trans <| (fld_skip 2 b_k (by decide)).trans <| (fld_skip 4 (by decide) (by decide)).trans <| (fld_skip 4 b_a (by decide)).trans <| fld_take b_d))
  have o_a : fbv w 17 4 = xa := fbv_eq (hE.symm ▸ ((fld_skip 8 (by decide) (by decide)).trans <| (fld_skip 2 b_t (by decide)).trans <| (fld_skip 1 (by decide) (by decide)).trans <| (fld_skip 2 b_k (by decide)).trans <| (fld_skip 4 (by decide) (by decide)).trans <| fld_take b_a))
  have o_k : fbv w 11 2 = xk := fbv_eq (hE.symm ▸ ((fld_skip 8 (by decide) (by decide)).trans <| (fld_skip 2 b_t (by decide)).trans <| (fld_skip 1 (by decide) (by decide)).trans <| fld_take b_k))
  have o_t : fld w 8 2 = xt.code := hE.symm ▸ ((fld_skip 8 (by decide) (by decide)).trans <| fld_take b_t)
  refine decodeNat_of_raw ((decodeRaw_33 hm).trans ?_) hw
  unfold decodeMajor33
  refine (if_neg fun h => absurd (f_0_8.symm.trans h.1) (by decide)).trans ?_
  refine (if_neg fun h => absurd (f_0_8.symm.trans h.1) (by decide)).trans ?_
  refine (if_neg fun h => absurd (f_0_8.symm.trans h.1) (by decide)).trans ?_
  refine (if_pos ⟨f_0_8, f_10_1, f_13_4⟩).trans ?_
  simp only [o_d, o_a, o_k, o_t, FpTy.ofCode_code, Option.bind_some]

theorem RoundTrip.vsin (xd : BitVec 4) (xa : BitVec 4) (xk : BitVec 2) (xt : FpTy) : RoundTrip.Statement (.vsin xd xa xk xt) := by
  intro hw w h
  have hE : w = 4 + 2 ^ 8 * (xt.code + 2 ^ 2 * (1 + 2 ^ 1 * (xk.toNat + 2 ^ 2 * (0 + 2 ^ 4 * (xa.toNat + 2 ^ 4 * (xd.toNat + 2 ^ 4 * (51))))))) := by have := Option.some.inj h; omega
  have b_d := xd.isLt
  have b_a := xa.isLt
  have b_k := xk.isLt
  have b_t := FpTy.code_lt xt
  have hm : fld w 25 6 = 0x33 := hE.symm ▸ ((fld_skip 8 (by decide) (by decide)).trans <| (fld_skip 2 b_t (by decide)).trans <| (fld_skip 1 (by decide) (by decide)).trans <| (fld_skip 2 b_k (by decide)).trans <| (fld_skip 4 (by decide) (by decide)).trans <| (fld_skip 4 b_a (by decide)).trans <| (fld_skip 4 b_d (by decide)).trans <| fld_whole (by decide))
  have f_0_8 : fld w 0 8 = 0x4 := hE.symm ▸ (fld_take (by decide))
  have f_10_1 : fld w 10 1 = 0x1 := hE.symm ▸ ((fld_skip 8 (by decide) (by decide)).trans <| (fld_skip 2 b_t (by decide)).trans <| fld_take (by decide))
  have f_13_4 : fld w 13 4 = 0x0 := hE.symm ▸ ((fld_skip 8 (by decide) (by decide)).trans <| (fld_skip 2 b_t (by decide)).trans <| (fld_skip 1 (by decide) (by decide)).trans <| (fld_skip 2 b_k (by decide)).trans <| fld_take (by decide))
  have o_d : fbv w 21 4 = xd := fbv_eq (hE.symm ▸ ((fld_skip 8 (by decide) (by decide)).trans <| (fld_skip 2 b_t (by decide)).trans <| (fld_skip 1 (by decide) (by decide)).trans <| (fld_skip 2 b_k (by decide)).trans <| (fld_skip 4 (by decide) (by decide)).trans <| (fld_skip 4 b_a (by decide)).trans <| fld_take b_d))
  have o_a : fbv w 17 4 = xa := fbv_eq (hE.symm ▸ ((fld_skip 8 (by decide) (by decide)).trans <| (fld_skip 2 b_t (by decide)).trans <| (fld_skip 1 (by decide) (by decide)).trans <| (fld_skip 2 b_k (by decide)).trans <| (fld_skip 4 (by decide) (by decide)).trans <| fld_take b_a))
  have o_k : fbv w 11 2 = xk := fbv_eq (hE.symm ▸ ((fld_skip 8 (by decide) (by decide)).trans <| (fld_skip 2 b_t (by decide)).trans <| (fld_skip 1 (by decide) (by decide)).trans <| fld_take b_k))
  have o_t : fld w 8 2 = xt.code := hE.symm ▸ ((fld_skip 8 (by decide) (by decide)).trans <| fld_take b_t)
  refine decodeNat_of_raw ((decodeRaw_33 hm).trans ?_) hw
  unfold decodeMajor33
  refine (if_neg fun h => absurd (f_0_8.symm.trans h.1) (by decide)).trans ?_
  refine (if_neg fun h => absurd (f_0_8.symm.trans h.1) (by decide)).trans ?_
  refine (if_neg fun h => absurd (f_0_8.symm.trans h.1) (by decide)).trans ?_
  refine (if_neg fun h => absurd (f_0_8.symm.trans h.1) (by decide)).trans ?_
  refine (if_pos ⟨f_0_8, f_10_1, f_13_4⟩).trans ?_
  simp only [o_d, o_a, o_k, o_t, FpTy.ofCode_code, Option.bind_some]

theorem RoundTrip.vcos (xd : BitVec 4) (xa : BitVec 4) (xk : BitVec 2) (xt : FpTy) : RoundTrip.Statement (.vcos xd xa xk xt) := by
  intro hw w h
  have hE : w = 5 + 2 ^ 8 * (xt.code + 2 ^ 2 * (1 + 2 ^ 1 * (xk.toNat + 2 ^ 2 * (0 + 2 ^ 4 * (xa.toNat + 2 ^ 4 * (xd.toNat + 2 ^ 4 * (51))))))) := by have := Option.some.inj h; omega
  have b_d := xd.isLt
  have b_a := xa.isLt
  have b_k := xk.isLt
  have b_t := FpTy.code_lt xt
  have hm : fld w 25 6 = 0x33 := hE.symm ▸ ((fld_skip 8 (by decide) (by decide)).trans <| (fld_skip 2 b_t (by decide)).trans <| (fld_skip 1 (by decide) (by decide)).trans <| (fld_skip 2 b_k (by decide)).trans <| (fld_skip 4 (by decide) (by decide)).trans <| (fld_skip 4 b_a (by decide)).trans <| (fld_skip 4 b_d (by decide)).trans <| fld_whole (by decide))
  have f_0_8 : fld w 0 8 = 0x5 := hE.symm ▸ (fld_take (by decide))
  have f_10_1 : fld w 10 1 = 0x1 := hE.symm ▸ ((fld_skip 8 (by decide) (by decide)).trans <| (fld_skip 2 b_t (by decide)).trans <| fld_take (by decide))
  have f_13_4 : fld w 13 4 = 0x0 := hE.symm ▸ ((fld_skip 8 (by decide) (by decide)).trans <| (fld_skip 2 b_t (by decide)).trans <| (fld_skip 1 (by decide) (by decide)).trans <| (fld_skip 2 b_k (by decide)).trans <| fld_take (by decide))
  have o_d : fbv w 21 4 = xd := fbv_eq (hE.symm ▸ ((fld_skip 8 (by decide) (by decide)).trans <| (fld_skip 2 b_t (by decide)).trans <| (fld_skip 1 (by decide) (by decide)).trans <| (fld_skip 2 b_k (by decide)).trans <| (fld_skip 4 (by decide) (by decide)).trans <| (fld_skip 4 b_a (by decide)).trans <| fld_take b_d))
  have o_a : fbv w 17 4 = xa := fbv_eq (hE.symm ▸ ((fld_skip 8 (by decide) (by decide)).trans <| (fld_skip 2 b_t (by decide)).trans <| (fld_skip 1 (by decide) (by decide)).trans <| (fld_skip 2 b_k (by decide)).trans <| (fld_skip 4 (by decide) (by decide)).trans <| fld_take b_a))
  have o_k : fbv w 11 2 = xk := fbv_eq (hE.symm ▸ ((fld_skip 8 (by decide) (by decide)).trans <| (fld_skip 2 b_t (by decide)).trans <| (fld_skip 1 (by decide) (by decide)).trans <| fld_take b_k))
  have o_t : fld w 8 2 = xt.code := hE.symm ▸ ((fld_skip 8 (by decide) (by decide)).trans <| fld_take b_t)
  refine decodeNat_of_raw ((decodeRaw_33 hm).trans ?_) hw
  unfold decodeMajor33
  refine (if_neg fun h => absurd (f_0_8.symm.trans h.1) (by decide)).trans ?_
  refine (if_neg fun h => absurd (f_0_8.symm.trans h.1) (by decide)).trans ?_
  refine (if_neg fun h => absurd (f_0_8.symm.trans h.1) (by decide)).trans ?_
  refine (if_neg fun h => absurd (f_0_8.symm.trans h.1) (by decide)).trans ?_
  refine (if_neg fun h => absurd (f_0_8.symm.trans h.1) (by decide)).trans ?_
  refine (if_pos ⟨f_0_8, f_10_1, f_13_4⟩).trans ?_
  simp only [o_d, o_a, o_k, o_t, FpTy.ofCode_code, Option.bind_some]

theorem RoundTrip.vred (xd : BitVec 4) (xa : BitVec 4) (xk : BitVec 2) (xo : RedKind) (xt : RedTy) : RoundTrip.Statement (.vred xd xa xk xo xt) := by
  intro hw w h
  have hE : w = 0 + 2 ^ 3 * (xt.code + 2 ^ 2 * (xo.code + 2 ^ 3 * (0 + 2 ^ 3 * (xk.toNat + 2 ^ 2 * (0 + 2 ^ 4 * (xa.toNat + 2 ^ 4 * (xd.toNat + 2 ^ 4 * (52)))))))) := by have := Option.some.inj h; omega
  have b_d := xd.isLt
  have b_a := xa.isLt
  have b_k := xk.isLt
  have b_o := RedKind.code_lt xo
  have b_t := RedTy.code_lt xt
  have hm : fld w 25 6 = 0x34 := hE.symm ▸ ((fld_skip 3 (by decide) (by decide)).trans <| (fld_skip 2 b_t (by decide)).trans <| (fld_skip 3 b_o (by decide)).trans <| (fld_skip 3 (by decide) (by decide)).trans <| (fld_skip 2 b_k (by decide)).trans <| (fld_skip 4 (by decide) (by decide)).trans <| (fld_skip 4 b_a (by decide)).trans <| (fld_skip 4 b_d (by decide)).trans <| fld_whole (by decide))
  have f_0_3 : fld w 0 3 = 0x0 := hE.symm ▸ (fld_take (by decide))
  have f_8_3 : fld w 8 3 = 0x0 := hE.symm ▸ ((fld_skip 3 (by decide) (by decide)).trans <| (fld_skip 2 b_t (by decide)).trans <| (fld_skip 3 b_o (by decide)).trans <| fld_take (by decide))
  have f_13_4 : fld w 13 4 = 0x0 := hE.symm ▸ ((fld_skip 3 (by decide) (by decide)).trans <| (fld_skip 2 b_t (by decide)).trans <| (fld_skip 3 b_o (by decide)).trans <| (fld_skip 3 (by decide) (by decide)).trans <| (fld_skip 2 b_k (by decide)).trans <| fld_take (by decide))
  have o_d : fbv w 21 4 = xd := fbv_eq (hE.symm ▸ ((fld_skip 3 (by decide) (by decide)).trans <| (fld_skip 2 b_t (by decide)).trans <| (fld_skip 3 b_o (by decide)).trans <| (fld_skip 3 (by decide) (by decide)).trans <| (fld_skip 2 b_k (by decide)).trans <| (fld_skip 4 (by decide) (by decide)).trans <| (fld_skip 4 b_a (by decide)).trans <| fld_take b_d))
  have o_a : fbv w 17 4 = xa := fbv_eq (hE.symm ▸ ((fld_skip 3 (by decide) (by decide)).trans <| (fld_skip 2 b_t (by decide)).trans <| (fld_skip 3 b_o (by decide)).trans <| (fld_skip 3 (by decide) (by decide)).trans <| (fld_skip 2 b_k (by decide)).trans <| (fld_skip 4 (by decide) (by decide)).trans <| fld_take b_a))
  have o_k : fbv w 11 2 = xk := fbv_eq (hE.symm ▸ ((fld_skip 3 (by decide) (by decide)).trans <| (fld_skip 2 b_t (by decide)).trans <| (fld_skip 3 b_o (by decide)).trans <| (fld_skip 3 (by decide) (by decide)).trans <| fld_take b_k))
  have o_o : fld w 5 3 = xo.code := hE.symm ▸ ((fld_skip 3 (by decide) (by decide)).trans <| (fld_skip 2 b_t (by decide)).trans <| fld_take b_o)
  have o_t : fld w 3 2 = xt.code := hE.symm ▸ ((fld_skip 3 (by decide) (by decide)).trans <| fld_take b_t)
  refine decodeNat_of_raw ((decodeRaw_34 hm).trans ?_) hw
  unfold decodeMajor34
  refine (if_pos ⟨f_0_3, f_8_3, f_13_4⟩).trans ?_
  simp only [o_d, o_a, o_k, o_o, o_t, RedKind.ofCode_code, RedTy.ofCode_code, Option.bind_some]

theorem RoundTrip.vperm (xd : BitVec 4) (xa : BitVec 4) (xb : BitVec 4) (xk : BitVec 2) : RoundTrip.Statement (.vperm xd xa xb xk) := by
  intro hw w h
  have hE : w = 256 + 2 ^ 11 * (xk.toNat + 2 ^ 2 * (xb.toNat + 2 ^ 4 * (xa.toNat + 2 ^ 4 * (xd.toNat + 2 ^ 4 * (52))))) := by have := Option.some.inj h; omega
  have b_d := xd.isLt
  have b_a := xa.isLt
  have b_b := xb.isLt
  have b_k := xk.isLt
  have hm : fld w 25 6 = 0x34 := hE.symm ▸ ((fld_skip 11 (by decide) (by decide)).trans <| (fld_skip 2 b_k (by decide)).trans <| (fld_skip 4 b_b (by decide)).trans <| (fld_skip 4 b_a (by decide)).trans <| (fld_skip 4 b_d (by decide)).trans <| fld_whole (by decide))
  have f_0_3 : fld w 0 3 = 0x0 := hE.symm ▸ ((fld_low (by decide)).trans (by decide))
  have f_8_3 : fld w 8 3 = 0x1 := hE.symm ▸ ((fld_low (by decide)).trans (by decide))
  have f_0_11 : fld w 0 11 = 0x100 := hE.symm ▸ (fld_take (by decide))
  have o_d : fbv w 21 4 = xd := fbv_eq (hE.symm ▸ ((fld_skip 11 (by decide) (by decide)).trans <| (fld_skip 2 b_k (by decide)).trans <| (fld_skip 4 b_b (by decide)).trans <| (fld_skip 4 b_a (by decide)).trans <| fld_take b_d))
  have o_a : fbv w 17 4 = xa := fbv_eq (hE.symm ▸ ((fld_skip 11 (by decide) (by decide)).trans <| (fld_skip 2 b_k (by decide)).trans <| (fld_skip 4 b_b (by decide)).trans <| fld_take b_a))
  have o_b : fbv w 13 4 = xb := fbv_eq (hE.symm ▸ ((fld_skip 11 (by decide) (by decide)).trans <| (fld_skip 2 b_k (by decide)).trans <| fld_take b_b))
  have o_k : fbv w 11 2 = xk := fbv_eq (hE.symm ▸ ((fld_skip 11 (by decide) (by decide)).trans <| fld_take b_k))
  refine decodeNat_of_raw ((decodeRaw_34 hm).trans ?_) hw
  unfold decodeMajor34
  refine (if_neg fun h => absurd (f_8_3.symm.trans h.2.1) (by decide)).trans ?_
  refine (if_pos f_0_11).trans ?_
  simp only [o_d, o_a, o_b, o_k]

theorem RoundTrip.vslide (xd : BitVec 4) (xa : BitVec 4) (xk : BitVec 2) (xr : Bool) (xn : BitVec 6) : RoundTrip.Statement (.vslide xd xa xk xr xn) := by
  intro hw w h
  have hE : w = xn.toNat + 2 ^ 6 * (0 + 2 ^ 1 * (bit xr + 2 ^ 1 * (2 + 2 ^ 3 * (xk.toNat + 2 ^ 2 * (0 + 2 ^ 4 * (xa.toNat + 2 ^ 4 * (xd.toNat + 2 ^ 4 * (52)))))))) := by have := Option.some.inj h; omega
  have b_d := xd.isLt
  have b_a := xa.isLt
  have b_k := xk.isLt
  have b_r := bit_lt xr
  have b_n := xn.isLt
  have hm : fld w 25 6 = 0x34 := hE.symm ▸ ((fld_skip 6 b_n (by decide)).trans <| (fld_skip 1 (by decide) (by decide)).trans <| (fld_skip 1 b_r (by decide)).trans <| (fld_skip 3 (by decide) (by decide)).trans <| (fld_skip 2 b_k (by decide)).trans <| (fld_skip 4 (by decide) (by decide)).trans <| (fld_skip 4 b_a (by decide)).trans <| (fld_skip 4 b_d (by decide)).trans <| fld_whole (by decide))
  have f_8_3 : fld w 8 3 = 0x2 := hE.symm ▸ ((fld_skip 6 b_n (by decide)).trans <| (fld_skip 1 (by decide) (by decide)).trans <| (fld_skip 1 b_r (by decide)).trans <| fld_take (by decide))
  have f_13_4 : fld w 13 4 = 0x0 := hE.symm ▸ ((fld_skip 6 b_n (by decide)).trans <| (fld_skip 1 (by decide) (by decide)).trans <| (fld_skip 1 b_r (by decide)).trans <| (fld_skip 3 (by decide) (by decide)).trans <| (fld_skip 2 b_k (by decide)).trans <| fld_take (by decide))
  have f_6_1 : fld w 6 1 = 0x0 := hE.symm ▸ ((fld_skip 6 b_n (by decide)).trans <| fld_take (by decide))
  have t_8 : fld w 8 1 = 0 := hE.symm ▸ ((fld_skip 6 b_n (by decide)).trans <| (fld_skip 1 (by decide) (by decide)).trans <| (fld_skip 1 b_r (by decide)).trans <| (fld_low (by decide)).trans (by decide))
  have o_d : fbv w 21 4 = xd := fbv_eq (hE.symm ▸ ((fld_skip 6 b_n (by decide)).trans <| (fld_skip 1 (by decide) (by decide)).trans <| (fld_skip 1 b_r (by decide)).trans <| (fld_skip 3 (by decide) (by decide)).trans <| (fld_skip 2 b_k (by decide)).trans <| (fld_skip 4 (by decide) (by decide)).trans <| (fld_skip 4 b_a (by decide)).trans <| fld_take b_d))
  have o_a : fbv w 17 4 = xa := fbv_eq (hE.symm ▸ ((fld_skip 6 b_n (by decide)).trans <| (fld_skip 1 (by decide) (by decide)).trans <| (fld_skip 1 b_r (by decide)).trans <| (fld_skip 3 (by decide) (by decide)).trans <| (fld_skip 2 b_k (by decide)).trans <| (fld_skip 4 (by decide) (by decide)).trans <| fld_take b_a))
  have o_k : fbv w 11 2 = xk := fbv_eq (hE.symm ▸ ((fld_skip 6 b_n (by decide)).trans <| (fld_skip 1 (by decide) (by decide)).trans <| (fld_skip 1 b_r (by decide)).trans <| (fld_skip 3 (by decide) (by decide)).trans <| fld_take b_k))
  have o_r : fbit w 7 = xr := fbit_eq (hE.symm ▸ ((fld_skip 6 b_n (by decide)).trans <| (fld_skip 1 (by decide) (by decide)).trans <| fld_take b_r))
  have o_n : fbv w 0 6 = xn := fbv_eq (hE.symm ▸ (fld_take b_n))
  refine decodeNat_of_raw ((decodeRaw_34 hm).trans ?_) hw
  unfold decodeMajor34
  refine (if_neg fun h => absurd (f_8_3.symm.trans h.2.1) (by decide)).trans ?_
  refine (if_neg fun h => fld_ne t_8 (by decide) (by decide) (by decide) h).trans ?_
  refine (if_pos ⟨f_6_1, f_8_3, f_13_4⟩).trans ?_
  simp only [o_d, o_a, o_k, o_r, o_n]

theorem RoundTrip.vbcast (xd : BitVec 4) (xa : BitVec 4) (xk : BitVec 2) (xn : BitVec 6) : RoundTrip.Statement (.vbcast xd xa xk xn) := by
  intro hw w h
  have hE : w = xn.toNat + 2 ^ 6 * (12 + 2 ^ 5 * (xk.toNat + 2 ^ 2 * (0 + 2 ^ 4 * (xa.toNat + 2 ^ 4 * (xd.toNat + 2 ^ 4 * (52)))))) := by have := Option.some.inj h; omega
  have b_d := xd.isLt
  have b_a := xa.isLt
  have b_k := xk.isLt
  have b_n := xn.isLt
  have hm : fld w 25 6 = 0x34 := hE.symm ▸ ((fld_skip 6 b_n (by decide)).trans <| (fld_skip 5 (by decide) (by decide)).trans <| (fld_skip 2 b_k (by decide)).trans <| (fld_skip 4 (by decide) (by decide)).trans <| (fld_skip 4 b_a (by decide)).trans <| (fld_skip 4 b_d (by decide)).trans <| fld_whole (by decide))
  have f_8_3 : fld w 8 3 = 0x3 := hE.symm ▸ ((fld_skip 6 b_n (by decide)).trans <| (fld_low (by decide)).trans (by decide))
  have f_13_4 : fld w 13 4 = 0x0 := hE.symm ▸ ((fld_skip 6 b_n (by decide)).trans <| (fld_skip 5 (by decide) (by decide)).trans <| (fld_skip 2 b_k (by decide)).trans <| fld_take (by decide))
  have f_6_1 : fld w 6 1 = 0x0 := hE.symm ▸ ((fld_skip 6 b_n (by decide)).trans <| (fld_low (by decide)).trans (by decide))
  have f_6_5 : fld w 6 5 = 0xC := hE.symm ▸ ((fld_skip 6 b_n (by decide)).trans <| fld_take (by decide))
  have t_9 : fld w 9 1 = 1 := hE.symm ▸ ((fld_skip 6 b_n (by decide)).trans <| (fld_low (by decide)).trans (by decide))
  have o_d : fbv w 21 4 = xd := fbv_eq (hE.symm ▸ ((fld_skip 6 b_n (by decide)).trans <| (fld_skip 5 (by decide) (by decide)).trans <| (fld_skip 2 b_k (by decide)).trans <| (fld_skip 4 (by decide) (by decide)).trans <| (fld_skip 4 b_a (by decide)).trans <| fld_take b_d))
  have o_a : fbv w 17 4 = xa := fbv_eq (hE.symm ▸ ((fld_skip 6 b_n (by decide)).trans <| (fld_skip 5 (by decide) (by decide)).trans <| (fld_skip 2 b_k (by decide)).trans <| (fld_skip 4 (by decide) (by decide)).trans <| fld_take b_a))
  have o_k : fbv w 11 2 = xk := fbv_eq (hE.symm ▸ ((fld_skip 6 b_n (by decide)).trans <| (fld_skip 5 (by decide) (by decide)).trans <| fld_take b_k))
  have o_n : fbv w 0 6 = xn := fbv_eq (hE.symm ▸ (fld_take b_n))
  refine decodeNat_of_raw ((decodeRaw_34 hm).trans ?_) hw
  unfold decodeMajor34
  refine (if_neg fun h => absurd (f_8_3.symm.trans h.2.1) (by decide)).trans ?_
  refine (if_neg fun h => fld_ne t_9 (by decide) (by decide) (by decide) h).trans ?_
  refine (if_neg fun h => absurd (f_8_3.symm.trans h.2.1) (by decide)).trans ?_
  refine (if_pos ⟨f_6_5, f_13_4⟩).trans ?_
  simp only [o_d, o_a, o_k, o_n]

theorem RoundTrip.viota (xd : BitVec 4) (xk : BitVec 2) : RoundTrip.Statement (.viota xd xk) := by
  intro hw w h
  have hE : w = 1024 + 2 ^ 11 * (xk.toNat + 2 ^ 2 * (0 + 2 ^ 8 * (xd.toNat + 2 ^ 4 * (52)))) := by have := Option.some.inj h; omega
  have b_d := xd.isLt
  have b_k := xk.isLt
  have hm : fld w 25 6 = 0x34 := hE.symm ▸ ((fld_skip 11 (by decide) (by decide)).trans <| (fld_skip 2 b_k (by decide)).trans <| (fld_skip 8 (by decide) (by decide)).trans <| (fld_skip 4 b_d (by decide)).trans <| fld_whole (by decide))
  have f_0_3 : fld w 0 3 = 0x0 := hE.symm ▸ ((fld_low (by decide)).trans (by decide))
  have f_8_3 : fld w 8 3 = 0x4 := hE.symm ▸ ((fld_low (by decide)).trans (by decide))
  have f_13_4 : fld w 13 4 = 0x0 := hE.symm ▸ ((fld_skip 11 (by decide) (by decide)).trans <| (fld_skip 2 b_k (by decide)).trans <| (fld_low (by decide)).trans (by decide))
  have f_0_11 : fld w 0 11 = 0x400 := hE.symm ▸ (fld_take (by decide))
  have f_6_1 : fld w 6 1 = 0x0 := hE.symm ▸ ((fld_low (by decide)).trans (by decide))
  have f_6_5 : fld w 6 5 = 0x10 := hE.symm ▸ ((fld_low (by decide)).trans (by decide))
  have f_13_8 : fld w 13 8 = 0x0 := hE.symm ▸ ((fld_skip 11 (by decide) (by decide)).trans <| (fld_skip 2 b_k (by decide)).trans <| fld_take (by decide))
  have o_d : fbv w 21 4 = xd := fbv_eq (hE.symm ▸ ((fld_skip 11 (by decide) (by decide)).trans <| (fld_skip 2 b_k (by decide)).trans <| (fld_skip 8 (by decide) (by decide)).trans <| fld_take b_d))
  have o_k : fbv w 11 2 = xk := fbv_eq (hE.symm ▸ ((fld_skip 11 (by decide) (by decide)).trans <| fld_take b_k))
  refine decodeNat_of_raw ((decodeRaw_34 hm).trans ?_) hw
  unfold decodeMajor34
  refine (if_neg fun h => absurd (f_8_3.symm.trans h.2.1) (by decide)).trans ?_
  refine (if_neg fun h => absurd (f_0_11.symm.trans h) (by decide)).trans ?_
  refine (if_neg fun h => absurd (f_8_3.symm.trans h.2.1) (by decide)).trans ?_
  refine (if_neg fun h => absurd (f_6_5.symm.trans h.1) (by decide)).trans ?_
  refine (if_pos ⟨f_0_11, f_13_8⟩).trans ?_
  simp only [o_d, o_k]

theorem RoundTrip.vcmp (xe : BitVec 2) (xa : BitVec 4) (xb : BitVec 4) (xk : BitVec 2) (xt : VcmpTy) (xs : Bool) (xc : VCond) : RoundTrip.Statement (.vcmp xe xa xb xk xt xs xc) := by
  intro hw w h
  have hE : w = xc.code + 2 ^ 3 * (0 + 2 ^ 4 * (bit xs + 2 ^ 1 * (xt.code + 2 ^ 3 * (xk.toNat + 2 ^ 2 * (xb.toNat + 2 ^ 4 * (xa.toNat + 2 ^ 4 * (xe.toNat + 2 ^ 2 * (212)))))))) := by have := Option.some.inj h; omega
  have b_e := xe.isLt
  have b_a := xa.isLt
  have b_b := xb.isLt
  have b_k := xk.isLt
  have b_t := VcmpTy.code_lt xt
  have b_s := bit_lt xs
  have b_c := VCond.code_lt xc
  have hm : fld w 25 6 = 0x35 := hE.symm ▸ ((fld_skip 3 b_c (by decide)).trans <| (fld_skip 4 (by decide) (by decide)).trans <| (fld_skip 1 b_s (by decide)).trans <| (fld_skip 3 b_t (by decide)).trans <| (fld_skip 2 b_k (by decide)).trans <| (fld_skip 4 b_b (by decide)).trans <| (fld_skip 4 b_a (by decide)).trans <| (fld_skip 2 b_e (by decide)).trans <| (by decide))
  have f_3_4 : fld w 3 4 = 0x0 := hE.symm ▸ ((fld_skip 3 b_c (by decide)).trans <| fld_take (by decide))
  have f_23_2 : fld w 23 2 = 0x0 := hE.symm ▸ ((fld_skip 3 b_c (by decide)).trans <| (fld_skip 4 (by decide) (by decide)).trans <| (fld_skip 1 b_s (by decide)).trans <| (fld_skip 3 b_t (by decide)).trans <| (fld_skip 2 b_k (by decide)).trans <| (fld_skip 4 b_b (by decide)).trans <| (fld_skip 4 b_a (by decide)).trans <| (fld_skip 2 b_e (by decide)).trans <| (by decide))
  have o_e : fbv w 21 2 = xe := fbv_eq (hE.symm ▸ ((fld_skip 3 b_c (by decide)).trans <| (fld_skip 4 (by decide) (by decide)).trans <| (fld_skip 1 b_s (by decide)).trans <| (fld_skip 3 b_t (by decide)).trans <| (fld_skip 2 b_k (by decide)).trans <| (fld_skip 4 b_b (by decide)).trans <| (fld_skip 4 b_a (by decide)).trans <| fld_take b_e))
  have o_a : fbv w 17 4 = xa := fbv_eq (hE.symm ▸ ((fld_skip 3 b_c (by decide)).trans <| (fld_skip 4 (by decide) (by decide)).trans <| (fld_skip 1 b_s (by decide)).trans <| (fld_skip 3 b_t (by decide)).trans <| (fld_skip 2 b_k (by decide)).trans <| (fld_skip 4 b_b (by decide)).trans <| fld_take b_a))
  have o_b : fbv w 13 4 = xb := fbv_eq (hE.symm ▸ ((fld_skip 3 b_c (by decide)).trans <| (fld_skip 4 (by decide) (by decide)).trans <| (fld_skip 1 b_s (by decide)).trans <| (fld_skip 3 b_t (by decide)).trans <| (fld_skip 2 b_k (by decide)).trans <| fld_take b_b))
  have o_k : fbv w 11 2 = xk := fbv_eq (hE.symm ▸ ((fld_skip 3 b_c (by decide)).trans <| (fld_skip 4 (by decide) (by decide)).trans <| (fld_skip 1 b_s (by decide)).trans <| (fld_skip 3 b_t (by decide)).trans <| fld_take b_k))
  have o_t : fld w 8 3 = xt.code := hE.symm ▸ ((fld_skip 3 b_c (by decide)).trans <| (fld_skip 4 (by decide) (by decide)).trans <| (fld_skip 1 b_s (by decide)).trans <| fld_take b_t)
  have o_s : fbit w 7 = xs := fbit_eq (hE.symm ▸ ((fld_skip 3 b_c (by decide)).trans <| (fld_skip 4 (by decide) (by decide)).trans <| fld_take b_s))
  have o_c : fld w 0 3 = xc.code := hE.symm ▸ (fld_take b_c)
  refine decodeNat_of_raw ((decodeRaw_35 hm).trans ?_) hw
  unfold decodeMajor35
  refine (if_pos ⟨f_3_4, f_23_2⟩).trans ?_
  simp only [o_e, o_a, o_b, o_k, o_t, o_s, o_c, VcmpTy.ofCode_code, VCond.ofCode_code, Option.bind_some]

theorem RoundTrip.vdot (xd : BitVec 4) (xa : BitVec 4) (xb : BitVec 4) (xk : BitVec 2) (xt : DotTy) (xi : Bool) (xs : Bool) : RoundTrip.Statement (.vdot xd xa xb xk xt xi xs) := by
  intro hw w h
  have hE : w = 0 + 2 ^ 6 * (bit xs + 2 ^ 1 * (bit xi + 2 ^ 1 * (xt.code + 2 ^ 3 * (xk.toNat + 2 ^ 2 * (xb.toNat + 2 ^ 4 * (xa.toNat + 2 ^ 4 * (xd.toNat + 2 ^ 4 * (54)))))))) := by have := Option.some.inj h; omega
  have b_d := xd.isLt
  have b_a := xa.isLt
  have b_b := xb.isLt
  have b_k := xk.isLt
  have b_t := DotTy.code_lt xt
  have b_i := bit_lt xi
  have b_s := bit_lt xs
  have hm : fld w 25 6 = 0x36 := hE.symm ▸ ((fld_skip 6 (by decide) (by decide)).trans <| (fld_skip 1 b_s (by decide)).trans <| (fld_skip 1 b_i (by decide)).trans <| (fld_skip 3 b_t (by decide)).trans <| (fld_skip 2 b_k (by decide)).trans <| (fld_skip 4 b_b (by decide)).trans <| (fld_skip 4 b_a (by decide)).trans <| (fld_skip 4 b_d (by decide)).trans <| fld_whole (by decide))
  have f_0_6 : fld w 0 6 = 0x0 := hE.symm ▸ (fld_take (by decide))
  have o_d : fbv w 21 4 = xd := fbv_eq (hE.symm ▸ ((fld_skip 6 (by decide) (by decide)).trans <| (fld_skip 1 b_s (by decide)).trans <| (fld_skip 1 b_i (by decide)).trans <| (fld_skip 3 b_t (by decide)).trans <| (fld_skip 2 b_k (by decide)).trans <| (fld_skip 4 b_b (by decide)).trans <| (fld_skip 4 b_a (by decide)).trans <| fld_take b_d))
  have o_a : fbv w 17 4 = xa := fbv_eq (hE.symm ▸ ((fld_skip 6 (by decide) (by decide)).trans <| (fld_skip 1 b_s (by decide)).trans <| (fld_skip 1 b_i (by decide)).trans <| (fld_skip 3 b_t (by decide)).trans <| (fld_skip 2 b_k (by decide)).trans <| (fld_skip 4 b_b (by decide)).trans <| fld_take b_a))
  have o_b : fbv w 13 4 = xb := fbv_eq (hE.symm ▸ ((fld_skip 6 (by decide) (by decide)).trans <| (fld_skip 1 b_s (by decide)).trans <| (fld_skip 1 b_i (by decide)).trans <| (fld_skip 3 b_t (by decide)).trans <| (fld_skip 2 b_k (by decide)).trans <| fld_take b_b))
  have o_k : fbv w 11 2 = xk := fbv_eq (hE.symm ▸ ((fld_skip 6 (by decide) (by decide)).trans <| (fld_skip 1 b_s (by decide)).trans <| (fld_skip 1 b_i (by decide)).trans <| (fld_skip 3 b_t (by decide)).trans <| fld_take b_k))
  have o_t : fld w 8 3 = xt.code := hE.symm ▸ ((fld_skip 6 (by decide) (by decide)).trans <| (fld_skip 1 b_s (by decide)).trans <| (fld_skip 1 b_i (by decide)).trans <| fld_take b_t)
  have o_i : fbit w 7 = xi := fbit_eq (hE.symm ▸ ((fld_skip 6 (by decide) (by decide)).trans <| (fld_skip 1 b_s (by decide)).trans <| fld_take b_i))
  have o_s : fbit w 6 = xs := fbit_eq (hE.symm ▸ ((fld_skip 6 (by decide) (by decide)).trans <| fld_take b_s))
  refine decodeNat_of_raw ((decodeRaw_36 hm).trans ?_) hw
  unfold decodeMajor36
  refine (if_pos f_0_6).trans ?_
  simp only [o_d, o_a, o_b, o_k, o_t, o_i, o_s, DotTy.ofCode_code, Option.bind_some]

theorem RoundTrip.vins (xd : BitVec 4) (xs : BitVec 5) (xn : BitVec 6) : RoundTrip.Statement (.vins xd xs xn) := by
  intro hw w h
  have hE : w = xn.toNat + 2 ^ 6 * (xs.toNat + 2 ^ 5 * (0 + 2 ^ 10 * (xd.toNat + 2 ^ 4 * (55)))) := by have := Option.some.inj h; omega
  have b_d := xd.isLt
  have b_s := xs.isLt
  have b_n := xn.isLt
  have hm : fld w 25 6 = 0x37 := hE.symm ▸ ((fld_skip 6 b_n (by decide)).trans <| (fld_skip 5 b_s (by decide)).trans <| (fld_skip 10 (by decide) (by decide)).trans <| (fld_skip 4 b_d (by decide)).trans <| fld_whole (by decide))
  have f_11_10 : fld w 11 10 = 0x0 := hE.symm ▸ ((fld_skip 6 b_n (by decide)).trans <| (fld_skip 5 b_s (by decide)).trans <| fld_take (by decide))
  have o_d : fbv w 21 4 = xd := fbv_eq (hE.symm ▸ ((fld_skip 6 b_n (by decide)).trans <| (fld_skip 5 b_s (by decide)).trans <| (fld_skip 10 (by decide) (by decide)).trans <| fld_take b_d))
  have o_s : fbv w 6 5 = xs := fbv_eq (hE.symm ▸ ((fld_skip 6 b_n (by decide)).trans <| fld_take b_s))
  have o_n : fbv w 0 6 = xn := fbv_eq (hE.symm ▸ (fld_take b_n))
  refine decodeNat_of_raw ((decodeRaw_37 hm).trans ?_) hw
  unfold decodeMajor37
  refine (if_pos f_11_10).trans ?_
  simp only [o_d, o_s, o_n]

theorem RoundTrip.vextS32 (xa : BitVec 4) (xs : BitVec 5) (xn : BitVec 6) : RoundTrip.Statement (.vextS32 xa xs xn) := by
  intro hw w h
  have hE : w = xn.toNat + 2 ^ 6 * (xs.toNat + 2 ^ 5 * (4 + 2 ^ 6 * (xa.toNat + 2 ^ 4 * (880)))) := by have := Option.some.inj h; omega
  have b_a := xa.isLt
  have b_s := xs.isLt
  have b_n := xn.isLt
  have hm : fld w 25 6 = 0x37 := hE.symm ▸ ((fld_skip 6 b_n (by decide)).trans <| (fld_skip 5 b_s (by decide)).trans <| (fld_skip 6 (by decide) (by decide)).trans <| (fld_skip 4 b_a (by decide)).trans <| (by decide))
  have f_11_6 : fld w 11 6 = 0x4 := hE.symm ▸ ((fld_skip 6 b_n (by decide)).trans <| (fld_skip 5 b_s (by decide)).trans <| fld_take (by decide))
  have f_21_4 : fld w 21 4 = 0x0 := hE.symm ▸ ((fld_skip 6 b_n (by decide)).trans <| (fld_skip 5 b_s (by decide)).trans <| (fld_skip 6 (by decide) (by decide)).trans <| (fld_skip 4 b_a (by decide)).trans <| (by decide))
  have t_13 : fld w 13 1 = 1 := hE.symm ▸ ((fld_skip 6 b_n (by decide)).trans <| (fld_skip 5 b_s (by decide)).trans <| (fld_low (by decide)).trans (by decide))
  have o_a : fbv w 17 4 = xa := fbv_eq (hE.symm ▸ ((fld_skip 6 b_n (by decide)).trans <| (fld_skip 5 b_s (by decide)).trans <| (fld_skip 6 (by decide) (by decide)).trans <| fld_take b_a))
  have o_s : fbv w 6 5 = xs := fbv_eq (hE.symm ▸ ((fld_skip 6 b_n (by decide)).trans <| fld_take b_s))
  have o_n : fbv w 0 6 = xn := fbv_eq (hE.symm ▸ (fld_take b_n))
  refine decodeNat_of_raw ((decodeRaw_37 hm).trans ?_) hw
  unfold decodeMajor37
  refine (if_neg fun h => fld_ne t_13 (by decide) (by decide) (by decide) h).trans ?_
  refine (if_pos ⟨f_11_6, f_21_4⟩).trans ?_
  simp only [o_a, o_s, o_n]

theorem RoundTrip.vsplat (xd : BitVec 4) (xk : BitVec 2) (xs : BitVec 5) : RoundTrip.Statement (.vsplat xd xk xs) := by
  intro hw w h
  have hE : w = 0 + 2 ^ 6 * (xs.toNat + 2 ^ 5 * (xk.toNat + 2 ^ 2 * (2 + 2 ^ 8 * (xd.toNat + 2 ^ 4 * (55))))) := by have := Option.some.inj h; omega
  have b_d := xd.isLt
  have b_k := xk.isLt
  have b_s := xs.isLt
  have hm : fld w 25 6 = 0x37 := hE.symm ▸ ((fld_skip 6 (by decide) (by decide)).trans <| (fld_skip 5 b_s (by decide)).trans <| (fld_skip 2 b_k (by decide)).trans <| (fld_skip 8 (by decide) (by decide)).trans <| (fld_skip 4 b_d (by decide)).trans <| fld_whole (by decide))
  have f_0_6 : fld w 0 6 = 0x0 := hE.symm ▸ (fld_take (by decide))
  have f_13_8 : fld w 13 8 = 0x2 := hE.symm ▸ ((fld_skip 6 (by decide) (by decide)).trans <| (fld_skip 5 b_s (by decide)).trans <| (fld_skip 2 b_k (by decide)).trans <| fld_take (by decide))
  have t_14 : fld w 14 1 = 1 := hE.symm ▸ ((fld_skip 6 (by decide) (by decide)).trans <| (fld_skip 5 b_s (by decide)).trans <| (fld_skip 2 b_k (by decide)).trans <| (fld_low (by decide)).trans (by decide))
  have t_13 : fld w 13 1 = 0 := hE.symm ▸ ((fld_skip 6 (by decide) (by decide)).trans <| (fld_skip 5 b_s (by decide)).trans <| (fld_skip 2 b_k (by decide)).trans <| (fld_low (by decide)).trans (by decide))
  have o_d : fbv w 21 4 = xd := fbv_eq (hE.symm ▸ ((fld_skip 6 (by decide) (by decide)).trans <| (fld_skip 5 b_s (by decide)).trans <| (fld_skip 2 b_k (by decide)).trans <| (fld_skip 8 (by decide) (by decide)).trans <| fld_take b_d))
  have o_k : fbv w 11 2 = xk := fbv_eq (hE.symm ▸ ((fld_skip 6 (by decide) (by decide)).trans <| (fld_skip 5 b_s (by decide)).trans <| fld_take b_k))
  have o_s : fbv w 6 5 = xs := fbv_eq (hE.symm ▸ ((fld_skip 6 (by decide) (by decide)).trans <| fld_take b_s))
  refine decodeNat_of_raw ((decodeRaw_37 hm).trans ?_) hw
  unfold decodeMajor37
  refine (if_neg fun h => fld_ne t_14 (by decide) (by decide) (by decide) h).trans ?_
  refine (if_neg fun h => fld_ne t_13 (by decide) (by decide) (by decide) h.1).trans ?_
  refine (if_pos ⟨f_0_6, f_13_8⟩).trans ?_
  simp only [o_d, o_k, o_s]

theorem RoundTrip.vinsK (xe : BitVec 2) (xs : BitVec 5) : RoundTrip.Statement (.vinsK xe xs) := by
  intro hw w h
  have hE : w = 0 + 2 ^ 6 * (xs.toNat + 2 ^ 5 * (12 + 2 ^ 10 * (xe.toNat + 2 ^ 2 * (220)))) := by have := Option.some.inj h; omega
  have b_e := xe.isLt
  have b_s := xs.isLt
  have hm : fld w 25 6 = 0x37 := hE.symm ▸ ((fld_skip 6 (by decide) (by decide)).trans <| (fld_skip 5 b_s (by decide)).trans <| (fld_skip 10 (by decide) (by decide)).trans <| (fld_skip 2 b_e (by decide)).trans <| (by decide))
  have f_11_10 : fld w 11 10 = 0xC := hE.symm ▸ ((fld_skip 6 (by decide) (by decide)).trans <| (fld_skip 5 b_s (by decide)).trans <| fld_take (by decide))
  have f_11_6 : fld w 11 6 = 0xC := hE.symm ▸ ((fld_skip 6 (by decide) (by decide)).trans <| (fld_skip 5 b_s (by decide)).trans <| (fld_low (by decide)).trans (by decide))
  have f_0_6 : fld w 0 6 = 0x0 := hE.symm ▸ (fld_take (by decide))
  have f_13_8 : fld w 13 8 = 0x3 := hE.symm ▸ ((fld_skip 6 (by decide) (by decide)).trans <| (fld_skip 5 b_s (by decide)).trans <| (fld_low (by decide)).trans (by decide))
  have f_23_2 : fld w 23 2 = 0x0 := hE.symm ▸ ((fld_skip 6 (by decide) (by decide)).trans <| (fld_skip 5 b_s (by decide)).trans <| (fld_skip 10 (by decide) (by decide)).trans <| (fld_skip 2 b_e (by decide)).trans <| (by decide))
  have o_e : fbv w 21 2 = xe := fbv_eq (hE.symm ▸ ((fld_skip 6 (by decide) (by decide)).trans <| (fld_skip 5 b_s (by decide)).trans <| (fld_skip 10 (by decide) (by decide)).trans <| fld_take b_e))
  have o_s : fbv w 6 5 = xs := fbv_eq (hE.symm ▸ ((fld_skip 6 (by decide) (by decide)).trans <| fld_take b_s))
  refine decodeNat_of_raw ((decodeRaw_37 hm).trans ?_) hw
  unfold decodeMajor37
  refine (if_neg fun h => absurd (f_11_10.symm.trans h) (by decide)).trans ?_
  refine (if_neg fun h => absurd (f_11_6.symm.trans h.1) (by decide)).trans ?_
  refine (if_neg fun h => absurd (f_13_8.symm.trans h.2) (by decide)).trans ?_
  refine (if_pos ⟨f_0_6, f_11_10, f_23_2⟩).trans ?_
  simp only [o_e, o_s]

theorem RoundTrip.vextK (xe : BitVec 2) (xs : BitVec 5) : RoundTrip.Statement (.vextK xe xs) := by
  intro hw w h
  have hE : w = 0 + 2 ^ 6 * (xs.toNat + 2 ^ 5 * (16 + 2 ^ 6 * (xe.toNat + 2 ^ 2 * (3520)))) := by have := Option.some.inj h; omega
  have b_e := xe.isLt
  have b_s := xs.isLt
  have hm : fld w 25 6 = 0x37 := hE.symm ▸ ((fld_skip 6 (by decide) (by decide)).trans <| (fld_skip 5 b_s (by decide)).trans <| (fld_skip 6 (by decide) (by decide)).trans <| (fld_skip 2 b_e (by decide)).trans <| (by decide))
  have f_11_6 : fld w 11 6 = 0x10 := hE.symm ▸ ((fld_skip 6 (by decide) (by decide)).trans <| (fld_skip 5 b_s (by decide)).trans <| fld_take (by decide))
  have f_21_4 : fld w 21 4 = 0x0 := hE.symm ▸ ((fld_skip 6 (by decide) (by decide)).trans <| (fld_skip 5 b_s (by decide)).trans <| (fld_skip 6 (by decide) (by decide)).trans <| (fld_skip 2 b_e (by decide)).trans <| (by decide))
  have f_0_6 : fld w 0 6 = 0x0 := hE.symm ▸ (fld_take (by decide))
  have f_23_2 : fld w 23 2 = 0x0 := hE.symm ▸ ((fld_skip 6 (by decide) (by decide)).trans <| (fld_skip 5 b_s (by decide)).trans <| (fld_skip 6 (by decide) (by decide)).trans <| (fld_skip 2 b_e (by decide)).trans <| (by decide))
  have f_19_6 : fld w 19 6 = 0x0 := hE.symm ▸ ((fld_skip 6 (by decide) (by decide)).trans <| (fld_skip 5 b_s (by decide)).trans <| (fld_skip 6 (by decide) (by decide)).trans <| (fld_skip 2 b_e (by decide)).trans <| (by decide))
  have t_15 : fld w 15 1 = 1 := hE.symm ▸ ((fld_skip 6 (by decide) (by decide)).trans <| (fld_skip 5 b_s (by decide)).trans <| (fld_low (by decide)).trans (by decide))
  have t_14 : fld w 14 1 = 0 := hE.symm ▸ ((fld_skip 6 (by decide) (by decide)).trans <| (fld_skip 5 b_s (by decide)).trans <| (fld_low (by decide)).trans (by decide))
  have t_13 : fld w 13 1 = 0 := hE.symm ▸ ((fld_skip 6 (by decide) (by decide)).trans <| (fld_skip 5 b_s (by decide)).trans <| (fld_low (by decide)).trans (by decide))
  have o_e : fbv w 17 2 = xe := fbv_eq (hE.symm ▸ ((fld_skip 6 (by decide) (by decide)).trans <| (fld_skip 5 b_s (by decide)).trans <| (fld_skip 6 (by decide) (by decide)).trans <| fld_take b_e))
  have o_s : fbv w 6 5 = xs := fbv_eq (hE.symm ▸ ((fld_skip 6 (by decide) (by decide)).trans <| fld_take b_s))
  refine decodeNat_of_raw ((decodeRaw_37 hm).trans ?_) hw
  unfold decodeMajor37
  refine (if_neg fun h => fld_ne t_15 (by decide) (by decide) (by decide) h).trans ?_
  refine (if_neg fun h => absurd (f_11_6.symm.trans h.1) (by decide)).trans ?_
  refine (if_neg fun h => fld_ne t_14 (by decide) (by decide) (by decide) h.2).trans ?_
  refine (if_neg fun h => fld_ne t_13 (by decide) (by decide) (by decide) h.2.1).trans ?_
  refine (if_pos ⟨f_0_6, f_11_6, f_19_6⟩).trans ?_
  simp only [o_e, o_s]

theorem RoundTrip.vextZ32 (xa : BitVec 4) (xs : BitVec 5) (xn : BitVec 6) : RoundTrip.Statement (.vextZ32 xa xs xn) := by
  intro hw w h
  have hE : w = xn.toNat + 2 ^ 6 * (xs.toNat + 2 ^ 5 * (20 + 2 ^ 6 * (xa.toNat + 2 ^ 4 * (880)))) := by have := Option.some.inj h; omega
  have b_a := xa.isLt
  have b_s := xs.isLt
  have b_n := xn.isLt
  have hm : fld w 25 6 = 0x37 := hE.symm ▸ ((fld_skip 6 b_n (by decide)).trans <| (fld_skip 5 b_s (by decide)).trans <| (fld_skip 6 (by decide) (by decide)).trans <| (fld_skip 4 b_a (by decide)).trans <| (by decide))
  have f_11_6 : fld w 11 6 = 0x14 := hE.symm ▸ ((fld_skip 6 b_n (by decide)).trans <| (fld_skip 5 b_s (by decide)).trans <| fld_take (by decide))
  have f_21_4 : fld w 21 4 = 0x0 := hE.symm ▸ ((fld_skip 6 b_n (by decide)).trans <| (fld_skip 5 b_s (by decide)).trans <| (fld_skip 6 (by decide) (by decide)).trans <| (fld_skip 4 b_a (by decide)).trans <| (by decide))
  have f_23_2 : fld w 23 2 = 0x0 := hE.symm ▸ ((fld_skip 6 b_n (by decide)).trans <| (fld_skip 5 b_s (by decide)).trans <| (fld_skip 6 (by decide) (by decide)).trans <| (fld_skip 4 b_a (by decide)).trans <| (by decide))
  have t_13 : fld w 13 1 = 1 := hE.symm ▸ ((fld_skip 6 b_n (by decide)).trans <| (fld_skip 5 b_s (by decide)).trans <| (fld_low (by decide)).trans (by decide))
  have t_14 : fld w 14 1 = 0 := hE.symm ▸ ((fld_skip 6 b_n (by decide)).trans <| (fld_skip 5 b_s (by decide)).trans <| (fld_low (by decide)).trans (by decide))
  have o_a : fbv w 17 4 = xa := fbv_eq (hE.symm ▸ ((fld_skip 6 b_n (by decide)).trans <| (fld_skip 5 b_s (by decide)).trans <| (fld_skip 6 (by decide) (by decide)).trans <| fld_take b_a))
  have o_s : fbv w 6 5 = xs := fbv_eq (hE.symm ▸ ((fld_skip 6 b_n (by decide)).trans <| fld_take b_s))
  have o_n : fbv w 0 6 = xn := fbv_eq (hE.symm ▸ (fld_take b_n))
  refine decodeNat_of_raw ((decodeRaw_37 hm).trans ?_) hw
  unfold decodeMajor37
  refine (if_neg fun h => fld_ne t_13 (by decide) (by decide) (by decide) h).trans ?_
  refine (if_neg fun h => absurd (f_11_6.symm.trans h.1) (by decide)).trans ?_
  refine (if_neg fun h => fld_ne t_13 (by decide) (by decide) (by decide) h.2).trans ?_
  refine (if_neg fun h => fld_ne t_14 (by decide) (by decide) (by decide) h.2.1).trans ?_
  refine (if_neg fun h => absurd (f_11_6.symm.trans h.2.1) (by decide)).trans ?_
  refine (if_pos ⟨f_11_6, f_21_4⟩).trans ?_
  simp only [o_a, o_s, o_n]

theorem RoundTrip.systemRegisterWrite (t : ThreadRef) (r : BitVec 12) (v : Word) : RoundTrip.Statement (.systemRegisterWrite t r v) := fun _ _ h => nomatch h

theorem RoundTrip.loftwaysWrite (t : ThreadRef) (v : Word) : RoundTrip.Statement (.loftwaysWrite t v) := fun _ _ h => nomatch h

theorem RoundTrip.loftwaysSwitch (ca : Nat) : RoundTrip.Statement (.loftwaysSwitch ca) := fun _ _ h => nomatch h

theorem RoundTrip.loftwaysTimeout (ca : Nat) : RoundTrip.Statement (.loftwaysTimeout ca) := fun _ _ h => nomatch h

theorem RoundTrip.grbaseWrite (t : ThreadRef) (v : Word) : RoundTrip.Statement (.grbaseWrite t v) := fun _ _ h => nomatch h

theorem RoundTrip.grtailWrite (t : ThreadRef) (v : Word) : RoundTrip.Statement (.grtailWrite t v) := fun _ _ h => nomatch h

theorem RoundTrip.upgateWrite (t : ThreadRef) (v : Word) : RoundTrip.Statement (.upgateWrite t v) := fun _ _ h => nomatch h

theorem RoundTrip.driveGate (ca : Nat) : RoundTrip.Statement (.driveGate ca) := fun _ _ h => nomatch h

theorem RoundTrip.launchDoorbell (fn : Nat) (tail : Nat) : RoundTrip.Statement (.launchDoorbell fn tail) := fun _ _ h => nomatch h

theorem RoundTrip.hostRegisterWrite (fn : Nat) (off : Nat) (v : Word) : RoundTrip.Statement (.hostRegisterWrite fn off v) := fun _ _ h => nomatch h

theorem RoundTrip.launchRecord (fn : Nat) (frames : List Nat) : RoundTrip.Statement (.launchRecord fn frames) := fun _ _ h => nomatch h

theorem RoundTrip.launchComplete (part : Nat) : RoundTrip.Statement (.launchComplete part) := fun _ _ h => nomatch h

theorem RoundTrip.completionRecord (part : Nat) : RoundTrip.Statement (.completionRecord part) := fun _ _ h => nomatch h

theorem RoundTrip.launchTimeout (part : Nat) : RoundTrip.Statement (.launchTimeout part) := fun _ _ h => nomatch h

theorem RoundTrip.taskPop (t : ThreadRef) : RoundTrip.Statement (.taskPop t) := fun _ _ h => nomatch h

theorem RoundTrip.recordAging (ca : Nat) (prio : Nat) : RoundTrip.Statement (.recordAging ca prio) := fun _ _ h => nomatch h

theorem RoundTrip.orderedCommit (t : ThreadRef) : RoundTrip.Statement (.orderedCommit t) := fun _ _ h => nomatch h

theorem RoundTrip.stallResume (t : ThreadRef) : RoundTrip.Statement (.stallResume t) := fun _ _ h => nomatch h

theorem RoundTrip.leaseGrant (ca : Nat) : RoundTrip.Statement (.leaseGrant ca) := fun _ _ h => nomatch h

theorem RoundTrip.spawnStallLimit (t : ThreadRef) : RoundTrip.Statement (.spawnStallLimit t) := fun _ _ h => nomatch h

theorem RoundTrip.contextStallLimit (t : ThreadRef) : RoundTrip.Statement (.contextStallLimit t) := fun _ _ h => nomatch h

theorem RoundTrip.barrierRelease (part : Nat) (level : Nat) (id : Nat) : RoundTrip.Statement (.barrierRelease part level id) := fun _ _ h => nomatch h

theorem RoundTrip.barrierWatchdog (part : Nat) (level : Nat) (id : Nat) : RoundTrip.Statement (.barrierWatchdog part level id) := fun _ _ h => nomatch h

theorem RoundTrip.exchangeLaunch (x : Nat) : RoundTrip.Statement (.exchangeLaunch x) := fun _ _ h => nomatch h

theorem RoundTrip.transferLanding (x : Nat) (ca : Nat) : RoundTrip.Statement (.transferLanding x ca) := fun _ _ h => nomatch h

theorem RoundTrip.xrecvDeadline (t : ThreadRef) : RoundTrip.Statement (.xrecvDeadline t) := fun _ _ h => nomatch h

theorem RoundTrip.messageDelivery (m : Nat) : RoundTrip.Statement (.messageDelivery m) := fun _ _ h => nomatch h

theorem RoundTrip.spillWake (ca : Nat) (drv : Bool) : RoundTrip.Statement (.spillWake ca drv) := fun _ _ h => nomatch h

theorem RoundTrip.fifoEntry (ca : Nat) : RoundTrip.Statement (.fifoEntry ca) := fun _ _ h => nomatch h

theorem RoundTrip.loadReturn (t : ThreadRef) (a : Nat) : RoundTrip.Statement (.loadReturn t a) := fun _ _ h => nomatch h

theorem RoundTrip.storePerformed (t : ThreadRef) (a : Nat) : RoundTrip.Statement (.storePerformed t a) := fun _ _ h => nomatch h

theorem RoundTrip.engineRegistration (c : Nat) : RoundTrip.Statement (.engineRegistration c) := fun _ _ h => nomatch h

theorem RoundTrip.copyComplete (c : Nat) : RoundTrip.Statement (.copyComplete c) := fun _ _ h => nomatch h

theorem RoundTrip.matrixCommandComplete (c : Nat) : RoundTrip.Statement (.matrixCommandComplete c) := fun _ _ h => nomatch h

theorem RoundTrip.mrotLanding (c : Nat) : RoundTrip.Statement (.mrotLanding c) := fun _ _ h => nomatch h

theorem RoundTrip.preemptRequest (part : Nat) : RoundTrip.Statement (.preemptRequest part) := fun _ _ h => nomatch h

theorem RoundTrip.preemptDistanceExpiry (t : ThreadRef) : RoundTrip.Statement (.preemptDistanceExpiry t) := fun _ _ h => nomatch h

theorem RoundTrip.trapDelivery (t : ThreadRef) : RoundTrip.Statement (.trapDelivery t) := fun _ _ h => nomatch h

theorem RoundTrip.emissionCopy (ca : Nat) (e : Nat) : RoundTrip.Statement (.emissionCopy ca e) := fun _ _ h => nomatch h

theorem RoundTrip.emissionEnd (ca : Nat) (e : Nat) : RoundTrip.Statement (.emissionEnd ca e) := fun _ _ h => nomatch h

theorem RoundTrip.cellarRefresh (ch : Nat) : RoundTrip.Statement (.cellarRefresh ch) := fun _ _ h => nomatch h

theorem RoundTrip.cellarSensorChange (ch : Nat) (temp : Nat) : RoundTrip.Statement (.cellarSensorChange ch temp) := fun _ _ h => nomatch h

theorem RoundTrip.thsenseRefresh (ca : Nat) (temp : BitVec 16) (droop : BitVec 16) : RoundTrip.Statement (.thsenseRefresh ca temp droop) := fun _ _ h => nomatch h

theorem RoundTrip.thallowWindow (ca : Nat) (hold : BitVec 16) : RoundTrip.Statement (.thallowWindow ca hold) := fun _ _ h => nomatch h

theorem RoundTrip.filterEntryExpiry (ca : Nat) : RoundTrip.Statement (.filterEntryExpiry ca) := fun _ _ h => nomatch h

theorem RoundTrip.hostBar2Read (fn : Nat) (off : Nat) (len : Nat) : RoundTrip.Statement (.hostBar2Read fn off len) := fun _ _ h => nomatch h

theorem RoundTrip.hostBar2Write (fn : Nat) (off : Nat) (bytes : List Byte) : RoundTrip.Statement (.hostBar2Write fn off bytes) := fun _ _ h => nomatch h

theorem RoundTrip.sceneMessage (fn : Nat) : RoundTrip.Statement (.sceneMessage fn) := fun _ _ h => nomatch h

theorem RoundTrip.pcreate (slot : Nat) : RoundTrip.Statement (.pcreate slot) := fun _ _ h => nomatch h

theorem RoundTrip.pdestroy (part : Nat) : RoundTrip.Statement (.pdestroy part) := fun _ _ h => nomatch h

theorem RoundTrip.pbind (vf : Nat) (part : Nat) : RoundTrip.Statement (.pbind vf part) := fun _ _ h => nomatch h

theorem RoundTrip.punbind (vf : Nat) : RoundTrip.Statement (.punbind vf) := fun _ _ h => nomatch h

theorem RoundTrip.pevict (part : Nat) : RoundTrip.Statement (.pevict part) := fun _ _ h => nomatch h

theorem RoundTrip.quantumExpiry (part : Nat) : RoundTrip.Statement (.quantumExpiry part) := fun _ _ h => nomatch h

theorem RoundTrip.preemption (part : Nat) : RoundTrip.Statement (.preemption part) := fun _ _ h => nomatch h

theorem RoundTrip.columnContextExchange (ca : Nat) (part : Nat) : RoundTrip.Statement (.columnContextExchange ca part) := fun _ _ h => nomatch h

theorem RoundTrip.firmwareCommand (link : Nat) : RoundTrip.Statement (.firmwareCommand link) := fun _ _ h => nomatch h

theorem RoundTrip.referencePulse (sec : Nat) : RoundTrip.Statement (.referencePulse sec) := fun _ _ h => nomatch h

theorem RoundTrip.slewEnd : RoundTrip.Statement (.slewEnd) := fun _ _ h => nomatch h

theorem RoundTrip.referenceLoss : RoundTrip.Statement (.referenceLoss) := fun _ _ h => nomatch h

theorem RoundTrip.setroot (part : Nat) (root : Word) : RoundTrip.Statement (.setroot part root) := fun _ _ h => nomatch h

theorem RoundTrip.inval (part : Nat) (va : Word) (size : Nat) : RoundTrip.Statement (.inval part va size) := fun _ _ h => nomatch h

theorem RoundTrip.resolve (part : Nat) (va : Word) (outcome : Nat) : RoundTrip.Statement (.resolve part va outcome) := fun _ _ h => nomatch h

theorem RoundTrip.faultCombine (f : Nat) : RoundTrip.Statement (.faultCombine f) := fun _ _ h => nomatch h

theorem RoundTrip.faultBatchDelivery (ca : Nat) : RoundTrip.Statement (.faultBatchDelivery ca) := fun _ _ h => nomatch h

theorem RoundTrip.pageFaultService (part : Nat) (page : Nat) (frame : Nat) : RoundTrip.Statement (.pageFaultService part page frame) := fun _ _ h => nomatch h

theorem RoundTrip.partitionKill (part : Nat) (unit : Checker) (line : Nat) : RoundTrip.Statement (.partitionKill part unit line) := fun _ _ h => nomatch h

theorem RoundTrip.thermalTrip (sensor : Sensor) : RoundTrip.Statement (.thermalTrip sensor) := fun _ _ h => nomatch h

theorem RoundTrip.stage (addr : Nat) (len : Nat) : RoundTrip.Statement (.stage addr len) := fun _ _ h => nomatch h

theorem RoundTrip.activate : RoundTrip.Statement (.activate) := fun _ _ h => nomatch h

theorem RoundTrip.confirm : RoundTrip.Statement (.confirm) := fun _ _ h => nomatch h

theorem RoundTrip.rollback (addr : Nat) : RoundTrip.Statement (.rollback addr) := fun _ _ h => nomatch h

theorem RoundTrip.floor (addr : Nat) : RoundTrip.Statement (.floor addr) := fun _ _ h => nomatch h

theorem RoundTrip.quote (part : Nat) (nonce : List Byte) (out : Nat) : RoundTrip.Statement (.quote part nonce out) := fun _ _ h => nomatch h

theorem RoundTrip.telsnap (out : Nat) : RoundTrip.Statement (.telsnap out) := fun _ _ h => nomatch h

theorem RoundTrip.trialTimeout : RoundTrip.Statement (.trialTimeout) := fun _ _ h => nomatch h

theorem RoundTrip.deviceReset : RoundTrip.Statement (.deviceReset) := fun _ _ h => nomatch h

theorem RoundTrip.emitterLayerSensorChange (temp : Nat) : RoundTrip.Statement (.emitterLayerSensorChange temp) := fun _ _ h => nomatch h

end Sys2Proof.Laws
end

