-- ==== Sys2Proof/Safety.lean ====
section
/-! DEFINITION. The terms in which statements speak of a run: every byte of memory as programs see it, the registers that an
instruction may write and everything it leaves, and the canonical form of every memory of the device. -/

namespace Sys2Proof.Machine

/-! ### Memory as programs see it -/

/-- The byte that context `tag` of partition p sees at an address (R103); none where the address does not translate. -/
def State.byteAt (s : State) (p : Nat) (tag : BitVec 12) (va : Nat) : Option Byte :=
  match s.translate p va with
  | .ok x => (s.readXlat p x tag va 1).head?
  | .error _ => none

/-- The byte at an offset of a column's home or loft scratch (R78), and of its drive scratch. -/
def State.scratchByte (s : State) (ca off : Nat) : Option Byte := ((s.col ca).scratchRead off 1).head?
def State.driveByte (s : State) (ca off : Nat) : Byte := mget (s.col ca).drive off

/-- Every byte of cellar, of host memory, of scratch, and of memory in every context of every partition reads as before. -/
structure SameMemory (s t : State) : Prop where
  cellar : ∀ a, mget t.cellar a = mget s.cellar a
  host : ∀ a, mget t.hostMem a = mget s.hostMem a
  scratch : ∀ ca off, t.scratchByte ca off = s.scratchByte ca off
  drive : ∀ ca off, t.driveByte ca off = s.driveByte ca off
  contexts : ∀ p tag va, t.byteAt p tag va = s.byteAt p tag va

/-! ### What register instructions do -/

/-- The instruction of the issuing thread has written v into scalar register d and nothing else: s0 stays zero (R197), and an
outstanding access that named d no longer writes it (R304). -/
structure ScalarWrite (s t : State) (d : BitVec 5) (v : Word) : Prop where
  result : t.rs d = if d = 0 then 0 else v
  registers : ∀ r, r ≠ d → t.rs r = s.rs r
  accesses : t.th.out = if d = 0 then s.th.out else dropDest (.s d) s.th.out
  else_ : t = s.setThread s.cur { s.th with s := t.th.s, out := t.th.out }
  memory : SameMemory s t

/-- As `ScalarWrite`, of predicate register q: p0 stays true (R197). -/
structure PredWrite (s t : State) (q : BitVec 3) (b : Bool) : Prop where
  result : t.rp q = (q == 0 || b)
  registers : ∀ r, r ≠ q → t.rp r = s.rp r
  else_ : t = s.setThread s.cur { s.th with p := t.th.p }
  memory : SameMemory s t

/-- As `ScalarWrite`, of elements `els` of vector register d. -/
structure VectorWrite (s t : State) (d : BitVec 4) (els : List Nat) (f : Nat → Elem) : Prop where
  result : ∀ i, i < 64 → t.rv d i = if i ∈ els then f i else s.rv d i
  registers : ∀ r, r ≠ d → ∀ i, t.rv r i = s.rv r i
  accesses : t.th.out = els.foldl (fun out i => dropDest (.v d i) out) s.th.out
  else_ : t = s.setThread s.cur { s.th with v := t.th.v, out := t.th.out }
  memory : SameMemory s t

/-- As `ScalarWrite`, of mask register e: k0 stays all ones, and a drive core's masks have 16 bits (R196, R197). -/
structure MaskWrite (s t : State) (e : BitVec 2) (m : Word) : Prop where
  result : t.rk e = if e = 0 then s.rk 0 else if isDrive s.cur then m &&& 0xFFFF#64 else m
  registers : ∀ r, r ≠ e → t.rk r = s.rk r
  else_ : t = s.setThread s.cur { s.th with k := t.th.k }
  memory : SameMemory s t

/-- An instruction of the issuing thread executes: its core's kind has it, its level allows it (R194), its guard is true (R193). -/
def Runs (i : Instr) (s : State) : Prop := threadOk s.cur = true ∧ decodeTrap i s = none ∧ s.guardTrue i.guard = true

/-- The instruction completes: exec answers a next state, and that state is as P says. -/
def Completes (i : Instr) (s : State) (P : State → Prop) : Prop := ∃ t, exec i s = .next t ∧ P t

/-- The issuing thread has become th, and nothing else has changed. -/
structure ThreadBecomes (s t : State) (th : Thread) : Prop where
  thread : t.th = th
  else_ : t = s.setThread s.cur th
  memory : SameMemory s t

/-- A taken transfer to a (R221, R227): the pc, and the loops whose bodies do not hold a ended, innermost first. -/
def Transfers (s t : State) (a : Word) : Prop :=
  let inside (l : Loop) : Prop := l.start.toNat ≤ a.toNat ∧ a.toNat < l.last.toNat + 8
  ∃ n, (∀ l ∈ s.th.loops.take n, ¬ inside l) ∧ (∀ l, (s.th.loops.drop n).head? = some l → inside l) ∧
    ThreadBecomes s t { s.th with pc := a, taken := true, loops := s.th.loops.drop n }

/-- The instruction completes by writing elements `els` of vector register d, whose sub-elements of width w are as v says of their
element and place (R281, R286). -/
def CompletesLanes (i : Instr) (s : State) (d : BitVec 4) (els : List Nat) (w : Nat) (v : Nat → Nat → Nat) : Prop :=
  ∃ f, Completes i s (fun t => VectorWrite s t d els f) ∧ ∀ e h, h < 32 / w → (f e).toNat / 2 ^ (w * h) % 2 ^ w = v e h

/-- An access that the issuing thread issued and that is to be performed: it stands last among the thread's accesses, its counter
has risen, and nothing else has changed (R92, R199). -/
def Issued (s t : State) (op : AccOp) (pieces : List Piece) (tag : BitVec 12) (dests : List Dest) : Prop :=
  t = { s.setThread s.cur { s.th with out := s.th.out ++ [⟨s.nextId, op, pieces, tag, dests, .pending, false⟩],
                                      cntLd := if op.isLoad then s.th.cntLd + 1 else s.th.cntLd,
                                      cntSt := if op.isLoad then s.th.cntSt else s.th.cntSt + 1 } with nextId := s.nextId + 1 } ∧
  SameMemory s t

/-- An engine command that the issuing thread issued (R144 rule 1, R199): its counter has risen, it holds what it sampled, and it is to
register exactly these locks, their lines in ascending order; nothing else has changed. -/
def CommandIssued (s t : State) (op : CmdOp) (locks : List (Line × Bool)) (registered : Bool) (rows : Nat) : Prop :=
  (∃ todo, (∀ x, x ∈ todo ↔ x ∈ locks) ∧ todo.Pairwise (fun x y => x.1.key ≤ y.1.key) ∧
    t = { s.setThread s.cur (s.th.bump op.ctr) with
      cmds := s.cmds ++ [⟨s.nextId, s.cur, op, todo, registered, rows, .pending, [], [], false, []⟩], nextId := s.nextId + 1 }) ∧
  SameMemory s t

/-- Emission q of the issuing core covers a pixel of P in a class of cls, and its copy is still to be made (R346). -/
def ToCopy (s : State) (cls : BitVec 3) (P : Nat → Prop) (q : Emission) : Prop :=
  q ∈ s.here.seqr ∧ q.copied = false ∧ q.cls &&& cls ≠ 0 ∧
    ∃ n, P n ∧ q.x0 ≤ n % 128 ∧ n % 128 < q.x0 + q.w ∧ q.y0 ≤ n / 128 ∧ n / 128 < q.y0 + q.h

/-- A pixel of an entry of the issuing core's blend buffer. -/
def Buffered (s : State) (n : Nat) : Prop := ∃ e ∈ s.here.blend, ∃ q ∈ e.pix, q.idx = n

/-- The instruction stalls until those copies are made, where there are some (R346). -/
def AwaitsCopies (i : Instr) (s : State) (cls : BitVec 3) (P : Nat → Prop) : Prop :=
  (∃ q, ToCopy s cls P q) → Completes i s fun t => ∃ ids, (∀ n, n ∈ ids ↔ ∃ q, ToCopy s cls P q ∧ q.id = n) ∧
    ThreadBecomes s t { s.th with run := .stalled, wait := .copies ids, pc := s.th.ipc, held := true, taken := false,
                                  since := if s.th.waited then s.th.since else s.now }

/-- The instruction drains the blend buffer before it acts, and stalls for the copies that the drain awaits (R341, R346). -/
def DrainsFirst (i : Instr) (s : State) : Prop :=
  AwaitsCopies i s 7 (Buffered s) ∧ ((∀ q, ¬ ToCopy s 7 (Buffered s) q) → exec i s = exec i (s.setCol s.cur.ca s.here.drain))

/-- The records of partition p that stand written back with JOIN above 0 (R260, R427); one whose page is absent counts too, by the
model's choice (log 97). -/
def Stranded (s : State) (p : Nat) : Nat :=
  ((s.part p).wb.filter fun w => match s.translate p (w.addr + 36) with
    | .ok x => decide (0 < (BitVec.ofNat 32 (leNat (s.readXlat p x 0 (w.addr + 36) 4))).toInt)
    | .error _ => true).length

/-- The next state is u, and every byte of memory reads as before. -/
def Becomes (s t u : State) : Prop := t = u ∧ SameMemory s t

/-- Firmware has written a completion record to a function's ring and signalled vector 1 (R427): the cookie, the status, PHASE, the CODE where
the status has one, the stranded records, START where a thread started, and END. The rest of CODE and START is free (log 22). -/
def Recorded (s t : State) (fn : Nat) (cookie : Word) (status : Nat) (code : Option Nat) (stranded : Nat) (start : Option Nat)
    (stop : Nat) : Prop :=
  let f := s.fn fn
  ∃ c st : Nat, (∀ n, code = some n → c = n) ∧ (∀ n, start = some n → st = n) ∧
    t = { s with
      freeCtr := t.freeCtr, fns := t.fns
      hostMem := mwrite s.hostMem (f.cqbase.toNat + 32 * (f.cqtail % 2 ^ f.cqsize))
        (leBytes 8 cookie.toNat ++ leBytes 1 status ++ leBytes 1 (if f.cqphase then 0 else 1) ++ leBytes 2 c ++ leBytes 4 stranded ++
          leBytes 8 st ++ leBytes 8 stop) } ∧
    t.fn fn = { f with
      cqtail := (f.cqtail + 1) % 2 ^ 64, msix := f.msix ++ [1]
      cqphase := if f.cqtail % 2 ^ f.cqsize + 1 = 2 ^ f.cqsize then !f.cqphase else f.cqphase } ∧
    ∀ n, n ≠ fn → t.fn n = s.fn n

/-- What the scratch windows ask of w bytes at addr (R14, R78, R81): a remote column of the partition, neither retired nor named
beyond the grid, and bytes that its scratch, or the thread's own, has. -/
def State.scratchOpen (s : State) (addr w : Nat) : Prop :=
  (inRemote addr = true → remoteHigh addr = 0 ∧ remoteRow addr ≤ 35 ∧ isDrive s.cur = false ∧ remoteCa addr ∉ s.retired ∧
    (s.col (remoteCa addr)).scratchHas (remoteOff addr) w = true ∧ s.curPart.pol.has (remoteCa addr) = true) ∧
  (Config.homeBase ≤ addr → if isDrive s.cur then addr - Config.homeBase + w ≤ 0x10000
    else s.here.scratchHas (addr - Config.homeBase) w = true)

/-- The issuing core raises no trap for w bytes at addr (R231): they lie below 2^48, in one line, at a multiple of align, and the
scratch windows admit them. -/
def State.reaches (s : State) (addr w align : Nat) : Prop :=
  addr + w ≤ 2 ^ 48 ∧ addr % 64 + w ≤ 64 ∧ addr % align = 0 ∧ s.scratchOpen addr w

/-- The trap of the issuing core on w bytes at addr, the first of R231 that holds: the address beyond the space or the grid, its
bytes in two lines or off their alignment, scratch that is not there, and a remote column outside the partition. -/
def State.coreTraps (s : State) (addr w align : Nat) (c : Cause) : Prop :=
  let beyond : Prop := 2 ^ 48 < addr + w ∨ inRemote addr = true ∧ (remoteHigh addr ≠ 0 ∨ 35 < remoteRow addr)
  let split : Prop := 64 < addr % 64 + w ∨ addr % align ≠ 0
  let absent : Prop := inScratch addr = true ∧
    if isDrive s.cur then inRemote addr = true ∨ 0x10000 < addr - Config.homeBase + w
    else if inRemote addr then remoteCa addr ∈ s.retired ∨ (s.col (remoteCa addr)).scratchHas (remoteOff addr) w = false
    else s.here.scratchHas (addr - Config.homeBase) w = false
  let refused : Prop := inRemote addr = true ∧ isDrive s.cur = false ∧ s.curPart.pol.has (remoteCa addr) = false
  c = .addrRange ∧ beyond ∨ c = .misaligned ∧ ¬ beyond ∧ split ∨ c = .scratchAbsent ∧ ¬ beyond ∧ ¬ split ∧ absent ∨
    c = .protection ∧ ¬ beyond ∧ ¬ split ∧ ¬ absent ∧ refused

/-! ### Invariants -/

/-- A column's memories are in canonical form. -/
def Column.memOk (c : Column) : Bool := Memory.wf c.home && Memory.wf c.loft && Memory.wf c.drive && Memory.wf c.calib

/-- Every memory of the device is in canonical form. -/
def State.memOk (s : State) : Bool :=
  Memory.wf s.cellar && Memory.wf s.hostMem && s.cols.all (fun c => c.2.memOk) && s.saved.all (fun v => v.col.memOk) &&
  s.parts.all fun p => Memory.wf p.2.argBlock

end Sys2Proof.Machine
end

