-- ==== Sys2Proof/Certificates/Slice0/Obligations.lean ====
section
/-! DEFINITION. The statements of this model for the provers, each with the rules of spec/ that it formalises. -/

open Sys2Proof Sys2Proof.Machine


/-! ### Encoding, reset, one step, and the invariants -/

/-- Words that the spec writes out decode to the instructions that they stand for (07_encoding R190 to R195 and the instructions'
own rules). -/
def Obligations.WordsDecode : Prop :=
  decodeTableWord 32 0x02600020 = some (.time 6) ∧ decodeTableWord 32 0x2400100F = some (.mclr 0 0 3 3) ∧
  decodeTableWord 32 0x24A5C3C7 = some (.mma 10 11 0 0 3 3 7) ∧ decodeTableWord 32 0x0E728810 = some (.ld 7 5 0 2 16) ∧
  decodeTableWord 32 0x0E3213FF = some (.ld 3 4 0 4 0x3FF) ∧ decodeTableWord 32 0x42840001 = some (.addi 8 8 1) ∧
  decodeTableWord 32 0x149AA825 = some (.amoCas 9 21 10 ⟨0, false⟩ .s64) ∧ decodeTableWord 32 0x1660A1A4 = some (.vgath 3 5 0 6 .e32 false) ∧
  decodeTableWord 32 0x1C952C00 = some (.spawnr 9 10 11 ⟨0, false⟩) ∧ decodeTableWord 32 0x1E838812 = some (.barv 8 7 .opMax 2) ∧
  decodeTableWord 32 0x22C6801F = some (.xsend 12 13 31) ∧ decodeTableWord 32 0x2C0601C0 = some (.vfpush 3 7 .w32) ∧
  decodeTableWord 32 0x628ACC03 = some (.vfma 4 5 6 1 .f32 false) ∧ decodeTableWord 32 0x2884C1C8 = some (.pcover 4 2 1 2 0 7) ∧
  decodeTableWord 32 0x02502202 = some (.sysx 5 0x022) ∧ decodeTableWord 32 0x05FF83FF = some (.wait 31 31 0 31 31) ∧
  decodeTableWord 32 0x40321570 = some (.sel 3 4 5 2 true) ∧ decodeTableWord 32 0x067FFFFC = some (.brc 1 true 0x1FFFFC)

/-- R190 to R195: the decoder reads the word of every well-formed instruction, with every operand at every value that its encoding
admits, as that instruction. -/
def Obligations.DecodeOfEncode : Prop := ∀ i : Instr, Sys2Proof.Laws.RoundTrip.Statement i

/-- R19, R196, R198 and the tables of system and function registers: at reset no partition exists, every register of every
thread holds zero but p0 and k0, VL is 16 on drive cores alone, LOFTWAYS is 16, every register of every function but FWSTAT and
NONCE reads zero. Where the spec gives no reset value nothing is stated. -/
def Obligations.ResetValues : Prop :=
  let s := State.reset
  s.parts = [] ∧ (∀ t : ThreadRef, let th := s.thread t
    (∀ r : Fin 32, th.s[r] = 0) ∧ th.p = 1 ∧ (∀ r : Fin 16, ∀ e : Fin 64, th.v[r][e] = 0) ∧ (∀ r : Fin 4, th.k[r] = 0) ∧
    th.vl = (if 32 ≤ t.tid then 16 else 0) ∧ th.vrmode = 0 ∧ th.ctxcur = 0 ∧ th.tscur = 0 ∧ th.tcause = 0 ∧ th.taddr = 0 ∧ th.tpc = 0 ∧
    th.tstat = 0 ∧ th.mfmta = 0 ∧ th.mfmtb = 0 ∧ th.mscla = 0 ∧ th.msclb = 0 ∧ th.mstra = 0 ∧ th.mstrb = 0 ∧ th.cstrs = 0 ∧ th.cstrd = 0 ∧
    th.cntLd = 0 ∧ th.cntSt = 0 ∧ th.cntCp = 0 ∧ th.cntTl = 0 ∧ th.cntFx = 0 ∧ th.loops = [] ∧ th.out = []) ∧
  (∀ ca, (s.col ca).ways = 16 ∧ (s.col ca).domid = 0 ∧ (s.col ca).upReq = false ∧ (s.col ca).late = false ∧ (s.col ca).missed = false ∧
    (s.col ca).thallow = 0xEE) ∧
  ∀ fn off, off ≠ 0x440 → off ≠ 0x448 → s.barRead fn off = 0

/-- The memories of the reset device are in canonical form (the model's representation of 03_memory's address space). The
canonical form is the model's own representation of memory. -/
def Obligations.MemoryCanonicalAtReset : Prop := State.reset.memOk = true

/-- Every step keeps every memory of the device in canonical form, so that equal memories are equal data (the model's
representation of 03_memory's address space). The canonical form is the model's own representation of memory. -/
def Obligations.StepsKeepMemoryCanonical : Prop := ∀ s t : State, s.memOk = true → step s = .next t → t.memOk = true

/-- R459: FLOOR never falls, whatever step the device takes, a reset, an activation or a roll-back among them. -/
def Obligations.FloorNeverFalls : Prop := ∀ s t : State, step s = .next t → s.boot.floor ≤ t.boot.floor

/-- R68, R182 to R189, R194, R226: where a thread is its core's choice and the pair at its pc is fetched, a step notes it, enters
the pair in its buffer, moves the pc past the bundle, runs exec of the instruction decoded there (or of both words, each reading
before either writes), and ends with the innermost loop's count. A word that stands for nothing, a second word of a two-word
bundle as the pc, and a bundle that R187 refuses trap. -/
def Obligations.StepsRunDecoded : Prop :=
  ∀ (s : State) (t : ThreadRef) (rest : List Choice) (pair : Nat), s.sched = .run t :: rest →
    let b : State := { s with sched := rest }
    let u := { b with cur := t }.noteIssue t
    let pc := (s.thread t).pc
    b.mayRun t = true → pc.toNat % 4 = 0 →
    ((s.thread t).buffered pc.toNat = some pair ∨ ((s.thread t).buffered pc.toNat = none ∧ u.readPair t pc.toNat = .ok pair)) →
    let at_ (n : Nat) : State := u.upd fun th => { th.buffer pc.toNat pair with ipc := pc, pc := pc + BitVec.ofNat 64 n, held := false, taken := false }
    let ready (v : State) (rs : List Reg) : Prop := (∀ a ∈ v.th.out, a.writesAny rs = false) ∧ v.readsOut t rs = false
    (∀ i w, pair / 2 ^ 31 % 2 = 0 → w < 2 ^ 31 → (pc.toNat % 8 = 0 → w = pair % 2 ^ 31) → (pc.toNat % 8 ≠ 0 → w = pair / 2 ^ 32) →
      decodeNat w = some i → (decodeTrap i (at_ 4) = none → ready (at_ 4) ((at_ 4).needs i)) →
      ∃ v, exec i (at_ 4) = .next v ∧ step s = .next (v.upd fun th => th.afterIssue false)) ∧
    (∀ i j, pair / 2 ^ 31 % 2 = 1 → pc.toNat % 8 = 0 → pair / 2 ^ 32 < 2 ^ 31 → decodeNat (pair % 2 ^ 31) = some i →
      decodeNat (pair / 2 ^ 32) = some j → (at_ 8).bundleTrap (pair % 2 ^ 31) (pair / 2 ^ 32) i j = none →
      ready (at_ 8) ((at_ 8).needs i ++ (at_ 8).needs j) →
      step s = .next (((at_ 8).run2 i j).upd fun th => th.afterIssue true)) ∧
    (let traps (n : Nat) (c : Cause) (two : Bool) : Prop := step s = .next (((at_ n).trap c).upd fun th => th.afterIssue two)
     (pair / 2 ^ 31 % 2 = 1 → pc.toNat % 8 ≠ 0 →
       step s = .next (((at_ 4).trapAt .ifetch pc.toNat).upd fun th => th.afterIssue false)) ∧
     (∀ w, pair / 2 ^ 31 % 2 = 0 → (pc.toNat % 8 = 0 → w = pair % 2 ^ 31) → (pc.toNat % 8 ≠ 0 → w = pair / 2 ^ 32) →
       2 ^ 31 ≤ w ∨ decodeNat w = none → traps 4 .illegalInstr false) ∧
     (pair / 2 ^ 31 % 2 = 1 → pc.toNat % 8 = 0 →
       (2 ^ 31 ≤ pair / 2 ^ 32 ∨ decodeNat (pair % 2 ^ 31) = none ∨ decodeNat (pair / 2 ^ 32) = none → traps 8 .illegalInstr true) ∧
       ∀ i j c, pair / 2 ^ 32 < 2 ^ 31 → decodeNat (pair % 2 ^ 31) = some i → decodeNat (pair / 2 ^ 32) = some j →
         (at_ 8).bundleTrap (pair % 2 ^ 31) (pair / 2 ^ 32) i j = some c → traps 8 c true))

/-! ### Scalar instructions -/

/-- R210: the arithmetic and logical operations. Every one writes d and nothing else. R212 to R214, R220: immediates, shifts by an
immediate, LDHI, and bit fields, with w = the width field plus 1. -/
def Obligations.ScalarArithmetic : Prop :=
  (∀ (s : State) (d a b : BitVec 5) (g : Guard) (n : BitVec 3) (p : BitVec 3) (inv : Bool),
     threadOk s.cur = true → s.guardTrue g = true →
     let x := s.rs a
     let y := s.rs b
     let gives (i : Instr) (v : Word) : Prop := Completes i s fun t => ScalarWrite s t d v
     gives (.add d a b g) (BitVec.ofNat 64 (x.toNat + y.toNat)) ∧
     gives (.sub d a b g) (BitVec.ofInt 64 ((x.toNat : Int) - y.toNat)) ∧
     gives (.and d a b g) (x &&& y) ∧
     gives (.or d a b g) (x ||| y) ∧
     gives (.xor d a b g) (x ^^^ y) ∧
     gives (.andn d a b g) (x &&& ~~~y) ∧
     gives (.orn d a b g) (x ||| ~~~y) ∧
     gives (.min d a b g) (BitVec.ofInt 64 (min x.toInt y.toInt)) ∧
     gives (.max d a b g) (BitVec.ofInt 64 (max x.toInt y.toInt)) ∧
     gives (.minz d a b g) (BitVec.ofNat 64 (min x.toNat y.toNat)) ∧
     gives (.maxz d a b g) (BitVec.ofNat 64 (max x.toNat y.toNat)) ∧
     gives (.addsh d a b g n) (BitVec.ofNat 64 (x.toNat + y.toNat * 2 ^ n.toNat)) ∧
     gives (.sel d a b p inv) (if s.rp p = !inv then x else y)) ∧
  (∀ (s : State) (d a : BitVec 5) (i : BitVec 15) (h : BitVec 20) (m p w : BitVec 6), threadOk s.cur = true →
     let x := s.rs a
     let gives (i : Instr) (v : Word) : Prop := Completes i s fun t => ScalarWrite s t d v
     gives (.addi d a i) (BitVec.ofInt 64 (x.toInt + i.toInt)) ∧
     gives (.andi d a i) (x &&& i.signExtend 64) ∧
     gives (.ori d a i) (x ||| i.signExtend 64) ∧
     gives (.xori d a i) (x ^^^ i.signExtend 64) ∧
     gives (.slli d a m) (BitVec.ofNat 64 (x.toNat * 2 ^ m.toNat)) ∧
     gives (.srli d a m) (BitVec.ofNat 64 (x.toNat / 2 ^ m.toNat)) ∧
     gives (.srai d a m) (BitVec.ofInt 64 (x.toInt / ((2 ^ m.toNat : Nat) : Int))) ∧
     gives (.roli d a m) (x.rotateLeft m.toNat) ∧
     gives (.rori d a m) (x.rotateRight m.toNat) ∧
     gives (.ldhi d h) (BitVec.ofInt 64 (h.toInt * 2 ^ 15)) ∧
     (p.toNat + w.toNat + 1 ≤ 64 →
       gives (.bfxz d a p w) (BitVec.ofNat 64 (x.toNat / 2 ^ p.toNat % 2 ^ (w.toNat + 1))) ∧
       gives (.bfx d a p w) (BitVec.ofInt 64 (BitVec.ofNat (w.toNat + 1) (x.toNat / 2 ^ p.toNat)).toInt) ∧
       ∃ v : Word, (∀ j, j < 64 → v.getLsbD j = if p.toNat ≤ j ∧ j < p.toNat + (w.toNat + 1) then x.getLsbD (j - p.toNat)
           else (s.rs d).getLsbD j) ∧ gives (.bfi d a p w) v))

/-- R210: shifts and rotations by bits 5:0 of the second operand, extensions, counts and the byte swap. R217, R181: products and
quotients; division by zero and the quotient that leaves the range do not trap. -/
def Obligations.ScalarBitsAndProducts : Prop :=
  (∀ (s : State) (d a b : BitVec 5) (g : Guard) (w : SubWidth), threadOk s.cur = true → s.guardTrue g = true →
     let x := s.rs a
     let n := (s.rs b).toNat % 64
     let gives (i : Instr) (v : Word) : Prop := Completes i s fun t => ScalarWrite s t d v
     gives (.sll d a b g) (BitVec.ofNat 64 (x.toNat * 2 ^ n)) ∧
     gives (.srl d a b g) (BitVec.ofNat 64 (x.toNat / 2 ^ n)) ∧
     gives (.sra d a b g) (BitVec.ofInt 64 (x.toInt / ((2 ^ n : Nat) : Int))) ∧
     gives (.rol d a b g) (x.rotateLeft n) ∧
     gives (.ror d a b g) (x.rotateRight n) ∧
     gives (.sext d a g w) (match w with
       | .w8 => (x.truncate 8).signExtend 64 | .w16 => (x.truncate 16).signExtend 64 | .w32 => (x.truncate 32).signExtend 64) ∧
     gives (.zext d a g w) (match w with
       | .w8 => x &&& 0xFF#64 | .w16 => x &&& 0xFFFF#64 | .w32 => x &&& 0xFFFFFFFF#64) ∧
     (∃ k, k ≤ 64 ∧ (∀ i, i < k → x.getLsbD (63 - i) = false) ∧ (k < 64 → x.getLsbD (63 - k) = true) ∧
       gives (.clz d a g) (BitVec.ofNat 64 k)) ∧
     (∃ k, k ≤ 64 ∧ (∀ i, i < k → x.getLsbD i = false) ∧ (k < 64 → x.getLsbD k = true) ∧
       gives (.ctz d a g) (BitVec.ofNat 64 k)) ∧
     gives (.popc d a g) (BitVec.ofNat 64 ((List.range 64).countP fun i => x.getLsbD i)) ∧
     (∃ v : Word, (∀ i, i < 64 → v.getLsbD i = x.getLsbD (8 * (7 - i / 8) + i % 8)) ∧ gives (.bswap d a g) v)) ∧
  (∀ (s : State) (d a b : BitVec 5) (g : Guard), threadOk s.cur = true → s.guardTrue g = true →
     let x := s.rs a
     let y := s.rs b
     let gives (i : Instr) (v : Word) : Prop := Completes i s fun t => ScalarWrite s t d v
     gives (.mul d a b g) (BitVec.ofInt 64 (x.toInt * y.toInt)) ∧
     gives (.mulh d a b g) (BitVec.ofInt 64 (x.toInt * y.toInt / (2 : Int) ^ 64)) ∧
     gives (.mulhz d a b g) (BitVec.ofNat 64 (x.toNat * y.toNat / 2 ^ 64)) ∧
     (y = 0 → gives (.div d a b g) (BitVec.allOnes 64) ∧ gives (.divz d a b g) (BitVec.allOnes 64) ∧
       gives (.rem d a b g) x ∧ gives (.remz d a b g) x) ∧
     (x = BitVec.intMin 64 → y = BitVec.allOnes 64 → gives (.div d a b g) x ∧ gives (.rem d a b g) 0) ∧
     (y ≠ 0 → gives (.div d a b g) (BitVec.ofInt 64 (x.toInt.tdiv y.toInt)) ∧
       gives (.rem d a b g) (BitVec.ofInt 64 (x.toInt.tmod y.toInt)) ∧
       gives (.divz d a b g) (BitVec.ofNat 64 (x.toNat / y.toNat)) ∧ gives (.remz d a b g) (BitVec.ofNat 64 (x.toNat % y.toNat))))

/-- R215, R216: each condition, on signed or unsigned values or on the bits both operands have set; the predicate and nothing else
is written. R219: the conditions on binary32 values, by the minor function. A NaN makes EQ, LT and LE false and UN true; infinities and signed zeros
compare as their values, -0 equal to +0. A false guard leaves the predicate unchanged. -/
def Obligations.Comparisons : Prop :=
  (∀ (q : BitVec 3) (a b : BitVec 5) (g : Guard) (c : FcmpCond), (Instr.fcmp q a b g c).wf = true →
     (encode (.fcmp q a b g c)).map (fun w => w.toNat % 64) = some (match c with | .eq => 0x08 | .lt => 0x09 | .le => 0x0A | .un => 0x0B)) ∧
  (∀ (s : State) (q : BitVec 3) (a b : BitVec 5) (g : Guard) (c : CmpCond) (k : FcmpCond), threadOk s.cur = true → s.guardTrue g = false →
     exec (.cmp q a b g c) s = .next s ∧ exec (.fcmp q a b g k) s = .next s) ∧
  (∀ (s : State) (q : BitVec 3) (a b : BitVec 5) (g : Guard) (c : CmpCond) (i : BitVec 12), threadOk s.cur = true →
     let holds (x y : Word) : Prop := match c with
       | .eq => x = y | .ne => x ≠ y
       | .lt => x.toInt < y.toInt | .ge => y.toInt ≤ x.toInt
       | .ltz => x.toNat < y.toNat | .gez => y.toNat ≤ x.toNat
       | .tst => ∃ n, x.getLsbD n = true ∧ y.getLsbD n = true
       | .ntst => ∀ n, x.getLsbD n = true → y.getLsbD n = false
     let gives (ins : Instr) (p : Prop) : Prop := ∃ r : Bool, (r = true ↔ p) ∧ Completes ins s fun t => PredWrite s t q r
     (s.guardTrue g = true → gives (.cmp q a b g c) (holds (s.rs a) (s.rs b))) ∧
     gives (.cmpi q a c i) (holds (s.rs a) (i.signExtend 64))) ∧
  (∀ (s : State) (q : BitVec 3) (a b : BitVec 5) (g : Guard) (c : FcmpCond), threadOk s.cur = true → s.guardTrue g = true →
     let x := f32.decode ((s.rs a).toNat % 2 ^ 32)
     let y := f32.decode ((s.rs b).toNat % 2 ^ 32)
     ∃ r : Bool, Completes (.fcmp q a b g c) s (fun t => PredWrite s t q r) ∧
       (x = .nan ∨ y = .nan → r = (match c with | .un => true | _ => false)) ∧
       (x ≠ .nan → y ≠ .nan → c = .un → r = false) ∧
       (∀ n, x = .inf n → y = .inf n → r = match c with | .eq => true | .le => true | _ => false) ∧
       (∀ n k m e, x = .inf n → y = .num k m e → r = match c with | .lt => n | .le => n | _ => false) ∧
       (∀ n k m e, x = .num k m e → y = .inf n → r = match c with | .lt => !n | .le => !n | _ => false) ∧
       (∀ n m e k j h u, x = .num n m e → y = .num k j h → u ≤ e → u ≤ h →
         let v : Int := (if n then -1 else 1) * (m : Int) * 2 ^ (e - u).toNat
         let w : Int := (if k then -1 else 1) * (j : Int) * 2 ^ (h - u).toNat
         (r = true ↔ match c with | .eq => v = w | .lt => v < w | .le => v ≤ w | .un => False)))

/-- R157: the value that a binary32 code stands for, with its infinities and NaNs. R170, R175: m 2^e is rounded to q whole
multiples of 2^u: to the nearest, ties to even; toward zero; down; up. R175, R171, R176, R180: what rounding into binary32 gives:
the canonical NaN, an infinity, and of a finite value a code that stands for that value rounded at 24 significant bits or at the
subnormals' last place, unless that passes the greatest finite number: then an infinity, or the greatest finite number under a
mode that rounds toward it. R176, R179: exact sums: a NaN or two opposed infinities give NaN, an infinity stays, and finite terms
add up exactly; an exact zero has the sign of zeros of one sign, else + or, under RDN, -. R164: exact products. -/
def Obligations.FloatRounding : Prop :=
  (∀ (neg : Bool) (e m : Nat), e < 256 → m < 2 ^ 23 →
     f32.decode ((if neg then 2 ^ 31 else 0) + e * 2 ^ 23 + m) =
       if e = 255 then (if m = 0 then .inf neg else .nan)
       else if e = 0 then .num neg m (-149)
       else .num neg (2 ^ 23 + m) ((e : Int) - 150)) ∧
  (∀ (mode : RMode) (neg : Bool) (m : Nat) (e u : Int),
     let q := roundAt mode neg m e u
     let x := m * 2 ^ (e - u).toNat
     let d := 2 ^ (u - e).toNat
     (q * d ≤ x ∧ x < (q + 1) * d ∨ x < q * d ∧ q * d < x + d) ∧
     (mode = .rtz → q * d ≤ x) ∧
     (mode = .rdn → if neg then x ≤ q * d else q * d ≤ x) ∧
     (mode = .rup → if neg then q * d ≤ x else x ≤ q * d) ∧
     (mode = .rne → 2 * (q * d) ≤ 2 * x + d ∧ 2 * x ≤ 2 * (q * d) + d ∧
       (2 * (q * d) = 2 * x + d ∨ 2 * x = 2 * (q * d) + d → q % 2 = 0))) ∧
  (∀ (mode : RMode) (neg : Bool) (m : Nat) (e : Int), m ≠ 0 →
     f32.round mode false .nan = 0x7FC00000 ∧
     f32.round mode false (.inf neg) = (if neg then 0xFF800000 else 0x7F800000) ∧
     f32.round mode false (.num neg 0 e) = (if neg then 0x80000000 else 0) ∧
     let u := max (e + (Nat.log2 m : Int) - 23) (-149)
     let q := roundAt mode neg m e u
     let c := f32.round mode false (.num neg m e)
     if u ≤ 104 ∧ q < 2 ^ 24 ∨ u < 104 ∧ q = 2 ^ 24 then
       ∃ k g, f32.decode c = .num neg k g ∧ (g = u ∧ k = q ∨ g = u + 1 ∧ 2 * k = q)
     else c = (if (match mode with | .rne => true | .rtz => false | .rdn => neg | .rup => !neg)
         then (if neg then 0xFF800000 else 0x7F800000) else if neg then 0xFF7FFFFF else 0x7F7FFFFF)) ∧
  (∀ (mode : RMode) (n k : Bool) (m j : Nat) (e h : Int) (x : FV),
     sumExact mode [.nan, x] = .nan ∧ sumExact mode [x, .nan] = .nan ∧
     sumExact mode [.inf n, .inf k] = (if n = k then .inf n else .nan) ∧
     sumExact mode [.inf n, .num k j h] = .inf n ∧ sumExact mode [.num k j h, .inf n] = .inf n ∧
     mulExact .nan x = .nan ∧ mulExact x .nan = .nan ∧
     mulExact (.inf n) (.inf k) = .inf (n != k) ∧
     mulExact (.inf n) (.num k j h) = (if j = 0 then .nan else .inf (n != k)) ∧
     mulExact (.num k j h) (.inf n) = (if j = 0 then .nan else .inf (k != n)) ∧
     mulExact (.num n m e) (.num k j h) = .num (n != k) (m * j) (e + h) ∧
     ∃ z q g, sumExact mode [.num n m e, .num k j h] = .num z q g ∧
       (∀ u, u ≤ e → u ≤ h → u ≤ g →
         (if z then -1 else 1) * ((q * 2 ^ (g - u).toNat : Nat) : Int) =
           (if n then -1 else 1) * ((m * 2 ^ (e - u).toNat : Nat) : Int) + (if k then -1 else 1) * ((j * 2 ^ (h - u).toNat : Nat) : Int)) ∧
       (q = 0 → z = if m = 0 ∧ j = 0 ∧ n = k then n else mode == .rdn))

/-- R218, R175 to R178: scalar floating point on bits 31:0; the result's bits 63:32 are 0. Sums, products and the fused form round
their exact value once under VRMODE; FMIN and FMAX take the number where one operand is NaN; FABS and FNEG change the sign alone,
and a NaN becomes the canonical one. R218, R180: FCVT. To a float it rounds once under VRMODE; to an integer it rounds and clamps,
NaN giving 0; between float formats it converts without saturation. -/
def Obligations.ScalarFloats : Prop :=
  (∀ (s : State) (d a b : BitVec 5) (g : Guard), threadOk s.cur = true → s.guardTrue g = true →
     let x := (s.rs a).toNat % 2 ^ 32
     let y := (s.rs b).toNat % 2 ^ 32
     let z := (s.rs d).toNat % 2 ^ 32
     let mode : RMode := if s.th.vrmode = 0 then .rne else if s.th.vrmode = 1 then .rtz else if s.th.vrmode = 2 then .rdn else .rup
     let is (ins : Instr) (c : Nat) : Prop := c < 2 ^ 32 ∧ Completes ins s fun t => ScalarWrite s t d (BitVec.ofNat 64 c)
     let rounds (ins : Instr) (v : FV) : Prop := is ins (f32.round mode false v)
     rounds (.fadd d a b g) (sumExact mode [f32.decode x, f32.decode y]) ∧
     rounds (.fsub d a b g) (sumExact mode [f32.decode x, (f32.decode y).neg]) ∧
     rounds (.fmul d a b g) (mulExact (f32.decode x) (f32.decode y)) ∧
     rounds (.ffma d a b g) (sumExact mode [mulExact (f32.decode x) (f32.decode y), f32.decode z]) ∧
     (f32.decode x = .nan → is (.fabs d a g) 0x7FC00000 ∧ is (.fneg d a g) 0x7FC00000) ∧
     (f32.decode x ≠ .nan → is (.fabs d a g) (x % 2 ^ 31) ∧ is (.fneg d a g) (if x < 2 ^ 31 then x + 2 ^ 31 else x - 2 ^ 31)) ∧
     (f32.decode x = .nan → f32.decode y = .nan → is (.fmin d a b g) 0x7FC00000 ∧ is (.fmax d a b g) 0x7FC00000) ∧
     (f32.decode x = .nan → f32.decode y ≠ .nan → is (.fmin d a b g) y ∧ is (.fmax d a b g) y) ∧
     (f32.decode x ≠ .nan → f32.decode y = .nan → is (.fmin d a b g) x ∧ is (.fmax d a b g) x) ∧
     ((f32.decode x).lt? (f32.decode y) = some true → is (.fmin d a b g) x ∧ is (.fmax d a b g) y) ∧
     ((f32.decode y).lt? (f32.decode x) = some true → is (.fmin d a b g) y ∧ is (.fmax d a b g) x) ∧
     (x = y → f32.decode x ≠ .nan → is (.fmin d a b g) x ∧ is (.fmax d a b g) x) ∧
     (x = 2 ^ 31 → y = 0 → is (.fmin d a b g) x ∧ is (.fmax d a b g) y) ∧
     (x = 0 → y = 2 ^ 31 → is (.fmin d a b g) y ∧ is (.fmax d a b g) x)) ∧
  (∀ (s : State) (d a : BitVec 5) (g : Guard) (c : FcvtKind), threadOk s.cur = true → s.guardTrue g = true →
     let x := s.rs a
     let mode : RMode := if s.th.vrmode = 0 then .rne else if s.th.vrmode = 1 then .rtz else if s.th.vrmode = 2 then .rdn else .rup
     let whole (lo hi : Int) (v : Int) : Prop := match f32.decode (x.toNat % 2 ^ 32) with
       | .nan => v = 0
       | .inf n => v = if n then lo else hi
       | .num n m e => v = max lo (min hi ((if n then -1 else 1) * (roundAt mode n m e 0 : Int)))
     match c with
     | .f32s64 => Completes (.fcvt d a g c) s fun t => ScalarWrite s t d
         (BitVec.ofNat 64 (f32.round mode false (.num (decide (x.toInt < 0)) x.toInt.natAbs 0)))
     | .f32z64 => Completes (.fcvt d a g c) s fun t => ScalarWrite s t d (BitVec.ofNat 64 (f32.round mode false (.num false x.toNat 0)))
     | .s64f32 => ∃ v : Int, whole (-2 ^ 63) (2 ^ 63 - 1) v ∧ Completes (.fcvt d a g c) s fun t => ScalarWrite s t d (BitVec.ofInt 64 v)
     | .z64f32 => ∃ v : Int, whole 0 (2 ^ 64 - 1) v ∧ Completes (.fcvt d a g c) s fun t => ScalarWrite s t d (BitVec.ofInt 64 v)
     | .f16f32 => Completes (.fcvt d a g c) s fun t => ScalarWrite s t d (BitVec.ofNat 64 (f16.round mode false (f32.decode (x.toNat % 2 ^ 32))))
     | .f32f16 => Completes (.fcvt d a g c) s fun t => ScalarWrite s t d (BitVec.ofNat 64 (f32.round mode false (f16.decode (x.toNat % 2 ^ 16))))
     | .bf16f32 => Completes (.fcvt d a g c) s fun t => ScalarWrite s t d (BitVec.ofNat 64 (bf16.round mode false (f32.decode (x.toNat % 2 ^ 32))))
     | .f32bf16 => Completes (.fcvt d a g c) s fun t => ScalarWrite s t d (BitVec.ofNat 64 (f32.round mode false (bf16.decode (x.toNat % 2 ^ 16)))))

/-! ### Vector instructions -/

/-- R281: the active elements: below VL, with their mask bit set; R196, R197: k0 is all ones, and a drive core has 16 elements.
R282: with VL 0 every vector instruction traps with LANE_CLAIM. R289, R290, R286, R288, R181: integer vector operations, on each
sub-element of each active element. -/
def Obligations.VectorIntegers : Prop :=
  (∀ (s : State) (k : BitVec 2) (i : Nat),
     (i ∈ s.actives k ↔ i < (if 32 ≤ s.cur.tid then 16 else 64) ∧ i < s.th.vl ∧ (s.rk k).getLsbD i = true) ∧
     s.rk 0 = if 32 ≤ s.cur.tid then 0xFFFF#64 else 0xFFFFFFFFFFFFFFFF#64) ∧
  (∀ (s : State) (d a b : BitVec 4) (e k : BitVec 2) (r : BitVec 5) (n : BitVec 6) (sb h : Bool) (ty : IntTy) (fy : FpTy)
     (c : CvtKind) (vt : VcmpTy) (vc : VCond) (dt : DotTy) (o : RedKind) (rt : RedTy), threadOk s.cur = true → s.th.vl = 0 →
     ∀ i ∈ [Instr.vaddInt d a b k ty sb, .vsubInt d a b k ty sb, .vmulInt d a b k ty sb, .vmulh d a b k ty sb, .vminInt d a b k ty sb,
         .vmaxInt d a b k ty sb, .vand d a b k ty sb, .vor d a b k ty sb, .vxor d a b k ty sb, .vandn d a b k ty sb,
         .vsll d a b k ty sb, .vsrl d a b k ty sb, .vsra d a b k ty sb, .vadds d a b k ty sb, .vsubs d a b k ty sb, .vabsInt d a k ty,
         .vdiv d a b k ty sb, .vrem d a b k ty sb, .vmerge d a b k ty sb, .vaddFp d a b k fy sb, .vsubFp d a b k fy sb,
         .vmulFp d a b k fy sb, .vfma d a b k fy sb, .vfms d a b k fy sb, .vminFp d a b k fy sb, .vmaxFp d a b k fy sb, .vabsFp d a k fy,
         .vneg d a k fy, .vrndi d a k fy, .vrcp d a k fy, .vrsq d a k fy, .vexp2 d a k fy, .vlog2 d a k fy, .vsin d a k fy, .vcos d a k fy,
         .vcvt d a b k c h, .xtof d a k, .vcmp e a b k vt sb vc, .vdot d a b k dt h sb, .vred d a k o rt, .vperm d a b k, .vslide d a k h n,
         .vbcast d a k n, .viota d k, .vins d r n, .vextS32 a r n, .vsplat d k r, .vinsK e r, .vextK e r, .vextZ32 a r n],
       exec i s = .next (s.trap .laneClaim)) ∧
  (∀ (s : State) (d a b : BitVec 4) (k : BitVec 2) (ty : IntTy) (sb : Bool), threadOk s.cur = true → s.th.vl ≠ 0 →
     let w : Nat := match ty with | .s32 => 32 | .z32 => 32 | .s16 => 16 | .z16 => 16
     let signed : Bool := match ty with | .s32 => true | .s16 => true | .z32 => false | .z16 => false
     let lo : Int := if signed then -2 ^ (w - 1) else 0
     let hi : Int := if signed then 2 ^ (w - 1) - 1 else 2 ^ w - 1
     let other (i : Nat) : Elem := if sb then (if w = 32 then (s.rs (b.zeroExtend 5)).truncate 32
       else (s.rs (b.zeroExtend 5)).truncate 16 ++ (s.rs (b.zeroExtend 5)).truncate 16) else s.rv b i
     let nat (e : Elem) (h : Nat) : Nat := e.toNat / 2 ^ (w * h) % 2 ^ w
     let int (e : Elem) (h : Nat) : Int := if signed ∧ 2 ^ (w - 1) ≤ nat e h then (nat e h : Int) - 2 ^ w else nat e h
     let wraps (ins : Instr) (v : Int → Int → Int) : Prop :=
       CompletesLanes ins s d (s.actives k) w fun i h => (v (int (s.rv a i) h) (int (other i) h) % 2 ^ w).toNat
     let shifts (ins : Instr) (v : Int → Nat → Int) : Prop :=
       CompletesLanes ins s d (s.actives k) w fun i h => (v (nat (s.rv a i) h) (nat (other i) h % w) % 2 ^ w).toNat
     let bitwise (ins : Instr) (v : Elem → Elem → Elem) : Prop :=
       Completes ins s fun t => VectorWrite s t d (s.actives k) fun i => v (s.rv a i) (other i)
     wraps (.vaddInt d a b k ty sb) (fun x y => x + y) ∧
     wraps (.vsubInt d a b k ty sb) (fun x y => x - y) ∧
     wraps (.vmulInt d a b k ty sb) (fun x y => x * y) ∧
     wraps (.vmulh d a b k ty sb) (fun x y => x * y / 2 ^ w) ∧
     wraps (.vminInt d a b k ty sb) (fun x y => min x y) ∧
     wraps (.vmaxInt d a b k ty sb) (fun x y => max x y) ∧
     bitwise (.vand d a b k ty sb) (fun x y => x &&& y) ∧
     bitwise (.vor d a b k ty sb) (fun x y => x ||| y) ∧
     bitwise (.vxor d a b k ty sb) (fun x y => x ^^^ y) ∧
     bitwise (.vandn d a b k ty sb) (fun x y => x &&& ~~~y) ∧
     shifts (.vsll d a b k ty sb) (fun x n => x * 2 ^ n) ∧
     shifts (.vsrl d a b k ty sb) (fun x n => x / 2 ^ n) ∧
     shifts (.vsra d a b k ty sb) (fun x n => (if 2 ^ (w - 1) ≤ x then x - 2 ^ w else x) / 2 ^ n) ∧
     wraps (.vadds d a b k ty sb) (fun x y => max lo (min hi (x + y))) ∧
     wraps (.vsubs d a b k ty sb) (fun x y => max lo (min hi (x - y))) ∧
     wraps (.vabsInt d a k ty) (fun x _ => if x < 0 then -x else x) ∧
     wraps (.vdiv d a b k ty sb) (fun x y => if y = 0 then -1 else x.tdiv y) ∧
     wraps (.vrem d a b k ty sb) (fun x y => if y = 0 then x else x.tmod y) ∧
     Completes (.vmerge d a b k ty sb) s fun t =>
       VectorWrite s t d ((List.range (if isDrive s.cur then 16 else 64)).filter fun i => decide (i < s.th.vl)) fun i =>
         if (s.rk k).getLsbD i then s.rv a i else other i)

/-- R291, R175 to R177: floating-point vector operations; each sub-element's exact result is rounded once under VRMODE. VMIN and VMAX
take the number where one operand is NaN, -0 below +0. R157, R175, R176: the values that binary16 and bfloat16 codes stand for, and
what rounding into them gives, as for binary32: a code of the value rounded at 11 or 8 significant bits or at the subnormals' last
place, unless that passes the greatest finite number. -/
def Obligations.VectorFloats : Prop :=
  (∀ (f : Fmt) (w t bias nan : Nat), (f = f16 ∧ w = 5 ∧ t = 10 ∧ bias = 15 ∧ nan = 0x7E00) ∨ (f = bf16 ∧ w = 8 ∧ t = 7 ∧ bias = 127 ∧ nan = 0x7FC0) →
     let low : Int := 1 - (bias : Int) - (t : Int)
     let inf : Nat := (2 ^ w - 1) * 2 ^ t
     let sign (n : Bool) : Nat := if n then 2 ^ (w + t) else 0
     (∀ (n : Bool) (e m : Nat), e < 2 ^ w → m < 2 ^ t → f.decode (sign n + e * 2 ^ t + m) =
       if e = 2 ^ w - 1 then (if m = 0 then .inf n else .nan)
       else if e = 0 then .num n m low
       else .num n (2 ^ t + m) ((e : Int) - (bias : Int) - (t : Int))) ∧
     ∀ (mode : RMode) (n : Bool) (m : Nat) (e : Int), m ≠ 0 →
       f.round mode false .nan = nan ∧ f.round mode false (.inf n) = sign n + inf ∧ f.round mode false (.num n 0 e) = sign n ∧
       let u := max (e + (Nat.log2 m : Int) - (t : Int)) low
       let q := roundAt mode n m e u
       let top : Int := (bias : Int) - (t : Int)
       let c := f.round mode false (.num n m e)
       if u ≤ top ∧ q < 2 ^ (t + 1) ∨ u < top ∧ q = 2 ^ (t + 1) then
         ∃ k g, f.decode c = .num n k g ∧ (g = u ∧ k = q ∨ g = u + 1 ∧ 2 * k = q)
       else c = sign n + if (match mode with | .rne => true | .rtz => false | .rdn => n | .rup => !n) then inf else inf - 1) ∧
  ∀ (s : State) (d a b : BitVec 4) (k : BitVec 2) (ty : FpTy) (sb : Bool), threadOk s.cur = true → s.th.vl ≠ 0 →
    let w : Nat := match ty with | .f32 => 32 | .f16 => 16 | .bf16 => 16
    let f : Fmt := match ty with | .f32 => f32 | .f16 => f16 | .bf16 => bf16
    let nan : Nat := match ty with | .f32 => 0x7FC00000 | .f16 => 0x7E00 | .bf16 => 0x7FC0
    let mode : RMode := if s.th.vrmode = 0 then .rne else if s.th.vrmode = 1 then .rtz else if s.th.vrmode = 2 then .rdn else .rup
    let other (i : Nat) : Elem := if sb then (if w = 32 then (s.rs (b.zeroExtend 5)).truncate 32
      else (s.rs (b.zeroExtend 5)).truncate 16 ++ (s.rs (b.zeroExtend 5)).truncate 16) else s.rv b i
    let nat (e : Elem) (h : Nat) : Nat := e.toNat / 2 ^ (w * h) % 2 ^ w
    let lanes (ins : Instr) (v : Nat → Nat → Nat → Nat) : Prop :=
      CompletesLanes ins s d (s.actives k) w fun i h => v (nat (s.rv a i) h) (nat (other i) h) (nat (s.rv d i) h)
    let rounds (ins : Instr) (v : FV → FV → FV → FV) : Prop :=
      lanes ins fun x y z => f.round mode false (v (f.decode x) (f.decode y) (f.decode z))
    rounds (.vaddFp d a b k ty sb) (fun x y _ => sumExact mode [x, y]) ∧
    rounds (.vsubFp d a b k ty sb) (fun x y _ => sumExact mode [x, y.neg]) ∧
    rounds (.vmulFp d a b k ty sb) (fun x y _ => mulExact x y) ∧
    rounds (.vfma d a b k ty sb) (fun x y z => sumExact mode [mulExact x y, z]) ∧
    rounds (.vfms d a b k ty sb) (fun x y z => sumExact mode [(mulExact x y).neg, z]) ∧
    lanes (.vminFp d a b k ty sb) (fun x y _ => if f.decode x = .nan then (if f.decode y = .nan then nan else y)
      else if f.decode y = .nan then x
      else if (f.decode x).lt? (f.decode y) = some true then x
      else if (f.decode y).lt? (f.decode x) = some true ∨ x < 2 ^ (w - 1) then y else x) ∧
    lanes (.vmaxFp d a b k ty sb) (fun x y _ => if f.decode x = .nan then (if f.decode y = .nan then nan else y)
      else if f.decode y = .nan then x
      else if (f.decode x).lt? (f.decode y) = some true then y
      else if (f.decode y).lt? (f.decode x) = some true ∨ x < 2 ^ (w - 1) then x else y) ∧
    lanes (.vabsFp d a k ty) (fun x _ _ => if f.decode x = .nan then nan else x % 2 ^ (w - 1)) ∧
    lanes (.vneg d a k ty) (fun x _ _ => if f.decode x = .nan then nan
      else if x < 2 ^ (w - 1) then x + 2 ^ (w - 1) else x - 2 ^ (w - 1)) ∧
    rounds (.vrndi d a k ty) (fun x _ _ => match x with | .num n m e => .num n (roundAt mode n m e 0) 0 | y => y)

/-- R178, R292: special functions round to nearest-even whatever VRMODE holds, each sub-element in its own format. Their special
inputs, and values where the function is exact. The value that VRCP and VRSQ round is exact, or odd with the true one strictly between
its neighbours. The inexact values of the others are the model's fixed-point computation (log 10). -/
def Obligations.SpecialFunctions : Prop :=
  (∀ (s : State) (d a : BitVec 4) (k : BitVec 2) (ty : FpTy), threadOk s.cur = true → s.th.vl ≠ 0 →
    let w : Nat := match ty with | .f32 => 32 | .f16 => 16 | .bf16 => 16
    let f : Fmt := match ty with | .f32 => f32 | .f16 => f16 | .bf16 => bf16
    let gives (ins : Instr) (v : FV → FV) : Prop :=
      let code (i h : Nat) : Nat := f.round .rne false (v (f.decode ((s.rv a i).toNat / 2 ^ (w * h) % 2 ^ w)))
      Completes ins s fun t => VectorWrite s t d (s.actives k) fun i =>
        BitVec.ofNat 32 (if w = 32 then code i 0 else code i 0 + 2 ^ 16 * code i 1)
    gives (.vrcp d a k ty) rcpVal ∧ gives (.vrsq d a k ty) rsqVal ∧ gives (.vexp2 d a k ty) exp2Val ∧
    gives (.vlog2 d a k ty) log2Val ∧ gives (.vsin d a k ty) sinVal ∧ gives (.vcos d a k ty) cosVal) ∧
  ∀ (n : Bool) (m : Nat) (e : Int) (p : Nat),
    (∀ f ∈ [rcpVal, rsqVal, exp2Val, log2Val, sinVal, cosVal], f .nan = .nan) ∧
    rcpVal (.inf n) = .num n 0 0 ∧ rcpVal (.num n 0 e) = .inf n ∧
    (m ≠ 0 → ∃ q, rcpVal (.num n m e) = .num n q (-601 - e) ∧
      (q * m = 2 ^ 601 ∨ q % 2 = 1 ∧ (q - 1) * m < 2 ^ 601 ∧ 2 ^ 601 < (q + 1) * m)) ∧
    (m ≠ 0 → ∃ q, rsqVal (.num false m e) = .num false q (-201 - e / 2) ∧
      let k := if e % 2 = 1 then 2 * m else m
      q * q * k = 2 ^ 402 ∨ q % 2 = 1 ∧ (q - 1) * (q - 1) * k < 2 ^ 402 ∧ 2 ^ 402 < (q + 1) * (q + 1) * k) ∧
    rsqVal (.num n 0 e) = .inf n ∧ rsqVal (.inf true) = .nan ∧ (m ≠ 0 → rsqVal (.num true m e) = .nan) ∧
    rsqVal (.inf false) = .num false 0 0 ∧
    exp2Val (.inf true) = .num false 0 0 ∧ exp2Val (.inf false) = .inf false ∧ exp2Val (.num n 0 e) = .num false 1 0 ∧
    (m ≠ 0 → 0 ≤ e → m * 2 ^ e.toNat < 512 → exp2Val (.num n m e) = .num false 1 ((if n then -1 else 1) * (m * 2 ^ e.toNat : Nat))) ∧
    log2Val (.num n 0 e) = .inf true ∧ (m ≠ 0 → log2Val (.num true m e) = .nan) ∧ log2Val (.inf true) = .nan ∧
    log2Val (.inf false) = .inf false ∧ log2Val (.num false 1 0) = .num false 0 0 ∧
    log2Val (.num false (2 ^ p) e) = .num (decide (e + p < 0)) (e + p).natAbs 0 ∧
    sinVal (.inf n) = .nan ∧ cosVal (.inf n) = .nan ∧ sinVal (.num n 0 e) = .num n 0 0 ∧
    sinVal (.num n 1 (-1)) = .num false 0 0 ∧ sinVal (.num n 1 (-2)) = .num n 1 0 ∧ sinVal (.num n 3 (-2)) = .num (!n) 1 0 ∧
    cosVal (.num n 0 0) = .num false 1 0 ∧ cosVal (.num n 1 (-1)) = .num true 1 0 ∧ cosVal (.num n 1 (-2)) = .num false 0 0

/-- R293, R294, R180: conversions of each active element, the packing and unpacking ones among them, and exact cells read out. -/
def Obligations.VectorConversions : Prop :=
  ∀ (s : State) (d a b : BitVec 4) (k : BitVec 2) (h : Bool), threadOk s.cur = true → s.th.vl ≠ 0 →
    let mode : RMode := if s.th.vrmode = 0 then .rne else if s.th.vrmode = 1 then .rtz else if s.th.vrmode = 2 then .rdn else .rup
    let n := if h then 1 else 0
    let half (e : Elem) (j : Nat) : Nat := e.toNat / 2 ^ (16 * j) % 2 ^ 16
    let byte (e : Elem) (j : Nat) : Nat := e.toNat / 2 ^ (8 * j) % 2 ^ 8
    let s16 (x : Nat) : Int := if 2 ^ 15 ≤ x then (x : Int) - 2 ^ 16 else x
    let s8 (x : Nat) : Int := if 2 ^ 7 ≤ x then (x : Int) - 2 ^ 8 else x
    let one (c : CvtKind) (v : Elem → Nat) : Prop :=
      CompletesLanes (.vcvt d a b k c h) s d (s.actives k) 32 fun i _ => v (s.rv a i)
    let pack (c : CvtKind) (v : Elem → Nat) : Prop :=
      CompletesLanes (.vcvt d a b k c h) s d (s.actives k) 16 fun i j => v (if j = 0 then s.rv a i else s.rv b i)
    let pack8 (c : CvtKind) (v : Nat → Nat) : Prop :=
      CompletesLanes (.vcvt d a b k c h) s d (s.actives k) 8 fun i j => v (if j < 2 then half (s.rv a i) j else half (s.rv b i) (j - 2))
    let unpack8 (c : CvtKind) (v : Nat → Nat) : Prop :=
      CompletesLanes (.vcvt d a b k c h) s d (s.actives k) 16 fun i j => v (byte (s.rv a i) (2 * n + j))
    let clamp (lo hi v : Int) : Int := max lo (min hi v)
    one .f32s32 (fun x => f32.round mode false (.num (decide (x.toInt < 0)) x.toInt.natAbs 0)) ∧
    one .f32z32 (fun x => f32.round mode false (.num false x.toNat 0)) ∧
    one .s32f32 (fun x => (BitVec.ofInt 32 (toIntClamp mode (-2 ^ 31) (2 ^ 31 - 1) (f32.decode x.toNat))).toNat) ∧
    one .z32f32 (fun x => (toIntClamp mode 0 (2 ^ 32 - 1) (f32.decode x.toNat)).toNat) ∧
    pack .f16f32 (fun x => f16.round mode false (f32.decode x.toNat)) ∧
    pack .bf16f32 (fun x => bf16.round mode false (f32.decode x.toNat)) ∧
    one .f32f16 (fun x => f32.round mode false (f16.decode (half x n))) ∧
    one .f32bf16 (fun x => f32.round mode false (bf16.decode (half x n))) ∧
    pack .s16s32 (fun x => (clamp (-32768) 32767 x.toInt % 2 ^ 16).toNat) ∧
    pack .z16z32 (fun x => min 65535 x.toNat) ∧
    one .s32s16 (fun x => (s16 (half x n) % 2 ^ 32).toNat) ∧
    one .z32z16 (fun x => half x n) ∧
    pack8 .s8s16 (fun x => (clamp (-128) 127 (s16 x) % 2 ^ 8).toNat) ∧
    pack8 .z8z16 (fun x => min 255 x) ∧
    pack8 .e4m3f16 (fun x => e4m3.round mode false (f16.decode x)) ∧
    pack8 .e5m2f16 (fun x => e5m2.round mode false (f16.decode x)) ∧
    unpack8 .f16e4m3 (fun x => f16.round mode false (e4m3.decode x)) ∧
    unpack8 .f16e5m2 (fun x => f16.round mode false (e5m2.decode x)) ∧
    unpack8 .s16s8 (fun x => (s8 x % 2 ^ 16).toNat) ∧
    unpack8 .z16z8 (fun x => x) ∧
    CompletesLanes (.xtof d a k) s d ((s.actives k).filter fun c => decide (c < s.th.vl / 8)) 32 fun c _ =>
      exactToF32 mode (((List.range 8).map fun j => (s.rv a (8 * c + j)).toNat * 2 ^ (32 * j)).sum)

/-- R295, R297, R179: each active element compared into its mask bit, and dot products added to the destination. A zero product of
integers has the sign of its factors' signs, by the model's choice (log 88). -/
def Obligations.VectorComparisonsAndDots : Prop :=
  ∀ (s : State) (d a b : BitVec 4) (e k : BitVec 2) (sb : Bool), threadOk s.cur = true → s.th.vl ≠ 0 →
    let mode : RMode := if s.th.vrmode = 0 then .rne else if s.th.vrmode = 1 then .rtz else if s.th.vrmode = 2 then .rdn else .rup
    let other (i : Nat) : Elem := if sb then (s.rs (b.zeroExtend 5)).truncate 32 else s.rv b i
    let byte (x : Elem) (j : Nat) : Nat := x.toNat / 2 ^ (8 * j) % 2 ^ 8
    let s8 (x : Nat) : Int := if 2 ^ 7 ≤ x then (x : Int) - 2 ^ 8 else x
    let mask (t : VcmpTy) (c : VCond) (p : Elem → Elem → Prop) : Prop :=
      ∃ m : Word, Completes (.vcmp e a b k t sb c) s (fun u => MaskWrite s u e m) ∧
        ∀ i, i < 64 → (m.getLsbD i = true ↔ if i ∈ s.actives k then p (s.rv a i) (other i) else (s.rk e).getLsbD i = true)
    let dot (t : DotTy) (f : Fmt) (n w : Nat) : Prop :=
      Completes (.vdot d a b k t false sb) s fun u => VectorWrite s u d (s.actives k) fun i =>
        BitVec.ofNat 32 (f32.round mode false (sumExact mode (f32.decode (s.rv d i).toNat ::
          (List.range n).map fun j => mulExact (f.decode ((s.rv a i).toNat / 2 ^ (w * j) % 2 ^ w)) (f.decode ((other i).toNat / 2 ^ (w * j) % 2 ^ w)))))
    let whole (v : Int) : FV := .num (decide (v < 0)) v.natAbs 0
    let idot (t : DotTy) (v : Nat → Int) : Prop :=
      (Completes (.vdot d a b k t true sb) s fun u => VectorWrite s u d (s.actives k) fun i =>
        BitVec.ofInt 32 ((s.rv d i).toInt + ((List.range 4).map fun j => v (byte (s.rv a i) j) * v (byte (other i) j)).sum)) ∧
      Completes (.vdot d a b k t false sb) s fun u => VectorWrite s u d (s.actives k) fun i =>
        BitVec.ofNat 32 (f32.round mode false (sumExact mode (f32.decode (s.rv d i).toNat ::
          (List.range 4).map fun j => mulExact (whole (v (byte (s.rv a i) j))) (whole (v (byte (other i) j))))))
    (∀ t, t = .s32 ∨ t = .z32 → mask t .eq (fun x y => x = y) ∧ mask t .ne (fun x y => x ≠ y) ∧
      mask t .tst (fun x y => x &&& y ≠ 0)) ∧
    mask .s32 .lt (fun x y => x.toInt < y.toInt) ∧ mask .s32 .le (fun x y => x.toInt ≤ y.toInt) ∧
    mask .s32 .gt (fun x y => y.toInt < x.toInt) ∧ mask .s32 .ge (fun x y => y.toInt ≤ x.toInt) ∧
    mask .z32 .lt (fun x y => x.toNat < y.toNat) ∧ mask .z32 .le (fun x y => x.toNat ≤ y.toNat) ∧
    mask .z32 .gt (fun x y => y.toNat < x.toNat) ∧ mask .z32 .ge (fun x y => y.toNat ≤ x.toNat) ∧
    mask .f32 .eq (fun x y => (f32.decode x.toNat).eq? (f32.decode y.toNat) = some true) ∧
    mask .f32 .ne (fun x y => (f32.decode x.toNat).eq? (f32.decode y.toNat) ≠ some true) ∧
    mask .f32 .lt (fun x y => (f32.decode x.toNat).lt? (f32.decode y.toNat) = some true) ∧
    mask .f32 .le (fun x y => (f32.decode x.toNat).lt? (f32.decode y.toNat) = some true ∨ (f32.decode x.toNat).eq? (f32.decode y.toNat) = some true) ∧
    mask .f32 .gt (fun x y => (f32.decode y.toNat).lt? (f32.decode x.toNat) = some true) ∧
    mask .f32 .ge (fun x y => (f32.decode y.toNat).lt? (f32.decode x.toNat) = some true ∨ (f32.decode x.toNat).eq? (f32.decode y.toNat) = some true) ∧
    mask .f32 .un (fun x y => f32.decode x.toNat = .nan ∨ f32.decode y.toNat = .nan) ∧
    dot .f16 f16 2 16 ∧ dot .bf16 bf16 2 16 ∧ dot .e4m3 e4m3 4 8 ∧ dot .e5m2 e5m2 4 8 ∧
    idot .s8 s8 ∧ idot .z8 (fun x => (x : Int))

/-- R299 to R302: reductions into element 0, whatever its mask bit; permutation, slides, broadcast and index. R303: transfers
between scalar registers, vector elements and masks. -/
def Obligations.CrossLaneAndTransfers : Prop :=
  (∀ (d a b : BitVec 4) (k : BitVec 2), (Instr.vperm d a b k).wf = true →
     (encode (.vperm d a b k)).map (fun w => w.toNat % 256) = some 0) ∧
  (∀ (s : State) (d a b : BitVec 4) (k : BitVec 2) (n : BitVec 6) (o : RedKind), threadOk s.cur = true → s.th.vl ≠ 0 →
     let mode : RMode := if s.th.vrmode = 0 then .rne else if s.th.vrmode = 1 then .rtz else if s.th.vrmode = 2 then .rdn else .rup
     let act := s.actives k
     let xs := act.map (s.rv a)
     let red (o : RedKind) (t : RedTy) (v : Elem) : Prop := Completes (.vred d a k o t) s fun u => VectorWrite s u d [0] fun _ => v
     (∀ t, t = .s32 ∨ t = .z32 →
       red .add t (BitVec.ofNat 32 (xs.map BitVec.toNat).sum) ∧
       (∃ v, red .opAnd t v ∧ ∀ j, j < 32 → (v.getLsbD j = true ↔ ∀ x ∈ xs, x.getLsbD j = true)) ∧
       (∃ v, red .opOr t v ∧ ∀ j, j < 32 → (v.getLsbD j = true ↔ ∃ x ∈ xs, x.getLsbD j = true)) ∧
       (∃ v, red .opXor t v ∧ ∀ j, j < 32 → (v.getLsbD j = true ↔ (xs.countP fun x => x.getLsbD j) % 2 = 1))) ∧
     (xs = [] → red .opMin .s32 0x7FFFFFFF#32 ∧ red .opMax .s32 0x80000000#32 ∧ red .opMin .z32 0xFFFFFFFF#32 ∧
       red .opMax .z32 0 ∧ red .add .f32 0 ∧ red .opMin .f32 0x7F800000#32 ∧ red .opMax .f32 0xFF800000#32) ∧
     (xs ≠ [] → (∃ v ∈ xs, red .opMin .s32 v ∧ ∀ x ∈ xs, v.toInt ≤ x.toInt) ∧ (∃ v ∈ xs, red .opMax .s32 v ∧ ∀ x ∈ xs, x.toInt ≤ v.toInt) ∧
       (∃ v ∈ xs, red .opMin .z32 v ∧ ∀ x ∈ xs, v.toNat ≤ x.toNat) ∧ (∃ v ∈ xs, red .opMax .z32 v ∧ ∀ x ∈ xs, x.toNat ≤ v.toNat) ∧
       red .add .f32 (BitVec.ofNat 32 (f32.round mode false (sumExact mode (xs.map fun x => f32.decode x.toNat))))) ∧
     (o = .opMin ∨ o = .opMax → ∃ v, red o .f32 v ∧
       (xs ≠ [] → (∀ x ∈ xs, f32.decode x.toNat = .nan) → v = 0x7FC00000#32) ∧
       ((∃ x ∈ xs, f32.decode x.toNat ≠ .nan) → v ∈ xs ∧ f32.decode v.toNat ≠ .nan ∧
         ∀ x ∈ xs, if o = .opMin then (f32.decode x.toNat).lt? (f32.decode v.toNat) ≠ some true
           else (f32.decode v.toNat).lt? (f32.decode x.toNat) ≠ some true)) ∧
     (Completes (.vperm d a b k) s fun u => VectorWrite s u d act fun i =>
       if (s.rv b i).toNat < s.th.vl then s.rv a (s.rv b i).toNat else 0) ∧
     (Completes (.vslide d a k false n) s fun u => VectorWrite s u d act fun i => if n.toNat ≤ i then s.rv a (i - n.toNat) else 0) ∧
     (Completes (.vslide d a k true n) s fun u => VectorWrite s u d act fun i =>
       if i + n.toNat < s.th.vl then s.rv a (i + n.toNat) else 0) ∧
     (Completes (.vbcast d a k n) s fun u => VectorWrite s u d act fun _ => if n.toNat < s.th.vl then s.rv a n.toNat else 0) ∧
     Completes (.viota d k) s fun u => VectorWrite s u d act fun i => BitVec.ofNat 32 (act.countP fun j => decide (j < i))) ∧
  (∀ (s : State) (d : BitVec 4) (k : BitVec 2) (r : BitVec 5) (n : BitVec 6), threadOk s.cur = true → s.th.vl ≠ 0 →
     (Completes (.vins d r n) s fun u =>
       if n.toNat < s.th.vl then VectorWrite s u d [n.toNat] (fun _ => (s.rs r).truncate 32) else u = s) ∧
     (Completes (.vextS32 d r n) s fun u => ScalarWrite s u r (if n.toNat < s.th.vl then (s.rv d n.toNat).signExtend 64 else 0)) ∧
     (Completes (.vextZ32 d r n) s fun u => ScalarWrite s u r (if n.toNat < s.th.vl then (s.rv d n.toNat).zeroExtend 64 else 0)) ∧
     (Completes (.vsplat d k r) s fun u => VectorWrite s u d (s.actives k) fun _ => (s.rs r).truncate 32) ∧
     (Completes (.vinsK k r) s fun u => MaskWrite s u k (s.rs r)) ∧
     Completes (.vextK k r) s fun u => ScalarWrite s u r (s.rk k))

/-! ### Control -/

/-- R221 to R224, R227: branches from the instruction's own address, links, and the loops that a transfer ends. Issue has put the
link value of R222 in the pc. -/
def Obligations.ControlTransfers : Prop :=
  ∀ (s : State) (o : BitVec 21) (p : BitVec 3) (inv : Bool) (d a : BitVec 5) (i : BitVec 20) (j : BitVec 15), threadOk s.cur = true →
    let from_ (n : Int) : Word := BitVec.ofInt 64 ((s.th.ipc.toNat : Int) + 4 * n)
    (Completes (.br o) s fun t => Transfers s t (from_ o.toInt)) ∧
    (s.rp p = !inv → Completes (.brc p inv o) s fun t => Transfers s t (from_ o.toInt)) ∧
    (s.rp p = inv → Completes (.brc p inv o) s fun t => t = s) ∧
    (Completes (.jal d i) s fun t => ∃ u, ScalarWrite s u d s.th.pc ∧ Transfers u t (from_ i.toInt)) ∧
    Completes (.jalr d a j) s fun t =>
      ∃ u, ScalarWrite s u d s.th.pc ∧ Transfers u t (BitVec.ofInt 64 ((s.rs a).toNat + j.toInt))

/-- R225: LOOP with S the pair after LOOP's own and E imm15 pairs on; a count of 0 goes past the body; a third loop, or one that
does not end inside the active one, is illegal. R226: at the end of the innermost loop's final pair, with no transfer taken, the
loop repeats or ends; anywhere else, and after a taken transfer or where the instruction did not complete, the loops stay; a barrier
completes at its release, a register write as it takes force (log 57). -/
def Obligations.HardwareLoops : Prop :=
  (∀ (s : State) (a : BitVec 5) (i : BitVec 15), threadOk s.cur = true → isDrive s.cur = false →
     let q : Word := s.th.ipc - BitVec.ofNat 64 (s.th.ipc.toNat % 8)
     let e : Word := BitVec.ofNat 64 (q.toNat + 8 * i.toNat)
     let nests : Prop := s.th.loops = [] ∨ ∃ l, s.th.loops = [l] ∧ e.toNat < l.last.toNat
     (¬ nests → exec (.loop a i) s = .next (s.trap .illegalInstr)) ∧
     (nests → s.rs a = 0 → Completes (.loop a i) s fun t => ThreadBecomes s t { s.th with pc := e + 8, taken := true }) ∧
     (nests → s.rs a ≠ 0 → Completes (.loop a i) s fun t =>
       ThreadBecomes s t { s.th with loops := ⟨q + 8, e, s.rs a⟩ :: s.th.loops })) ∧
  (∀ (th : Thread) (two : Bool),
     let ends (l : Loop) : Prop := l.last = th.ipc - BitVec.ofNat 64 (th.ipc.toNat % 8) ∧ (two = true ∨ th.ipc.toNat % 8 / 4 = 1)
     (∀ l rest, th.loops = l :: rest → th.held = false → th.taken = false → th.run ≠ .waiting → th.run ≠ .stalled → th.park ≠ .preempt .waiting → ends l →
       th.afterIssue two = if 1 < l.count.toNat
         then { th with waited := false, pc := if th.park = .trap then th.pc else l.start,
                        loops := { l with count := l.count - 1 } :: rest }
         else { th with waited := false, loops := rest }) ∧
     (th.taken = true ∨ th.held = true ∨ th.run = .waiting ∨ th.run = .stalled ∨ th.park = .preempt .waiting ∨ th.loops = [] ∨
       (∃ l rest, th.loops = l :: rest ∧ ¬ ends l) →
       (th.afterIssue two).loops = th.loops ∧ (th.afterIssue two).pc = th.pc) ∧
     (∀ l rest, th.loops = l :: rest → two = decide (th.pc = th.ipc + 8) → ends l →
       th.passBarrier = if 1 < l.count.toNat then { th with pc := l.start, loops := { l with count := l.count - 1 } :: rest }
         else { th with loops := rest }))

/-- R202, R244, R136: WAIT and FENCE go on, changing nothing, once the counters are at or below their limits and no fault is to be
delivered; until then they stall at their own address. WAIT delivers the first faulted load while the load counter is above its
limit, else the first faulted store likewise (R92). IFENCE empties the instruction buffer (R229); TIME reads the almanac (R349).
R66, R279, R358: VCLAIM takes what is free up to its request, cut to a fair share while another claimant is short; VL is 8 times
the claim. VREL gives every group back. PPOINT renegotiates: a short claimant takes free groups up to its request. R72, R358: a
PPOINT that finds a pre-emption request parks the thread there, once its counters are 0, unless the thread is in an exchange phase
or holds the lease. That a FENCE waits alike at every scope, until its counters are 0, is the model's choice (log 76). -/
def Obligations.WaitsFencesLanes : Prop :=
  (∀ (s : State) (l st c x t : BitVec 5) (sc : Scope) (d : BitVec 5), threadOk s.cur = true →
     let th := s.th
     let noFault (ld st : Nat) : Prop := ∀ b ∈ th.out, b.status ≠ .pending → ∀ a ∈ s.stuck s.cur (fun a => a.id == b.id),
       if a.op.isLoad then th.cntLd ≤ ld else th.cntSt ≤ st
     let low : Prop := th.cntLd ≤ l.toNat ∧ th.cntSt ≤ st.toNat ∧ th.cntCp ≤ c.toNat ∧ th.cntTl ≤ t.toNat ∧ th.cntFx ≤ x.toNat
     let stalls (ins : Instr) (ld st cp tl fx : Nat) : Prop := Completes ins s fun u =>
       ThreadBecomes s u { th with run := .stalled, wait := .limits ld st cp tl fx, pc := th.ipc, held := true, taken := false,
                                   since := if th.waited then th.since else s.now }
     (noFault l.toNat st.toNat → th.engFaults = [] → low → Completes (.wait l st c t x) s fun u => u = s) ∧
     (noFault l.toNat st.toNat → th.engFaults = [] → ¬ low → stalls (.wait l st c t x) l.toNat st.toNat c.toNat t.toNat x.toNat) ∧
     (noFault 0 0 → th.engFaults = [] → th.cntCp ≤ 31 → th.cntTl ≤ 31 → th.cntFx ≤ 31 →
       (th.cntLd = 0 → th.cntSt = 0 → Completes (.fence sc) s fun u => u = s) ∧
       (th.cntLd ≠ 0 ∨ th.cntSt ≠ 0 → stalls (.fence sc) 0 0 31 31 31)) ∧
     (∀ a pre post, th.out = pre ++ a :: post → a.status ≠ .pending →
       (a.op.isLoad = true → (∀ b ∈ pre, b.status = .pending ∨ b.op.isLoad = false) → l.toNat < th.cntLd →
         exec (.wait l st c t x) s = .next (s.deliver a)) ∧
       (a.op.isLoad = false → (∀ b ∈ th.out, b.op.isLoad = true → b.status = .pending ∨ th.cntLd ≤ l.toNat) →
         (∀ b ∈ pre, b.op.isLoad = false → b.status = .pending) → st.toNat < th.cntSt →
         exec (.wait l st c t x) s = .next (s.deliver a))) ∧
     (Completes .ifence s fun u => ThreadBecomes s u { th with ibuf := [] }) ∧
     Completes (.time d) s fun u => ScalarWrite s u d s.almanac) ∧
  (∀ (s : State) (d a : BitVec 5) (g : Guard), threadOk s.cur = true → isDrive s.cur = false →
     let n := (s.rs a).toNat
     let th := s.th
     let held (i : Nat) : Nat := (s.thread ⟨s.cur.ca, i⟩).laneHeld
     let asked (i : Nat) : Nat := (s.thread ⟨s.cur.ca, i⟩).laneReq
     let free := 8 - ((List.range 32).map held).sum
     let short : Prop := ∃ i < 32, i ≠ s.cur.tid ∧ held i < asked i
     let others := ((List.range 32).filter fun i => decide (i ≠ s.cur.tid ∧ 0 < asked i)).length
     let cut (claimants h k : Nat) : Prop := (¬ short ∨ h ≤ 1 → k = h) ∧ (short → 1 < h → k = min h ((8 + claimants - 1) / claimants))
     (s.guardTrue g = true → 8 < n → exec (.vclaim d a g) s = .next (s.trap .illegalInstr)) ∧
     (s.guardTrue g = true → n ≤ 8 → Completes (.vclaim d a g) s fun t => ∃ u k,
       cut (others + if n = 0 then 0 else 1) (min n (free + th.laneHeld)) k ∧
       ThreadBecomes s u { th with laneReq := n, laneHeld := k, vl := 8 * k } ∧ ScalarWrite u t d (BitVec.ofNat 64 k)) ∧
     (s.guardTrue g = true → Completes (.vrel g) s fun t => ThreadBecomes s t { th with laneReq := 0, laneHeld := 0, vl := 0 }) ∧
     (th.preReq = none ∨ th.phase ≠ none ∨ (∃ c, s.here.lease = some (s.cur.tid, c)) → Completes .ppoint s fun t => ∃ k,
       cut (others + if th.laneReq = 0 then 0 else 1) (max th.laneHeld (min th.laneReq (th.laneHeld + free))) k ∧
       ThreadBecomes s t { th with laneHeld := k, vl := 8 * k })) ∧
  (∀ (s : State), threadOk s.cur = true → s.th.preReq ≠ none → s.th.phase = none → (∀ n, s.here.lease ≠ some (s.cur.tid, n)) →
     s.th.out = [] → s.th.engFaults = [] → s.th.cntLd = 0 → s.th.cntSt = 0 → s.th.cntCp = 0 → s.th.cntTl = 0 → s.th.cntFx = 0 →
     Completes .ppoint s fun t =>
       ThreadBecomes s t { s.th with run := .parked, park := .preempt .ready, preReq := none, ibuf := [], waited := false }) ∧
  (∀ (s : State), threadOk s.cur = true → isDrive s.cur = true → s.th.preReq = none → Completes .ppoint s fun t => t = s)

/-! ### Memory -/

/-- R231, R233, R235 to R240: a load, store, reduction or returning AMO that no trap of the issuing core holds back issues one
access, with its address, width, data and destination, and raises its counter; an AMO once the thread's accesses have performed
(R140). R231: the traps of the issuing core on each of them, in their order; then, an AMO in scratch or in an ordered task is refused
(R239, R240). LDX first asks that its tag is live, and at last that an ordered task's subtree has it (R235). SCRATCH_ABSENT at an
address above R78's table is the model's choice (log 71). -/
def Obligations.ScalarAccesses : Prop :=
  (∀ (s : State) (d a b : BitVec 5) (h t2 : BitVec 2) (t : BitVec 3) (o : BitVec 10) (g : Guard) (op : RedOp) (ty : WidthSign) (ad : Nat),
     threadOk s.cur = true → s.guardTrue g = true →
     let th := s.th
     let cur := th.ctxcur
     let dst : List Dest := if d = 0 then [] else [.s d]
     let w : Nat := 2 ^ (t.toNat % 4)
     let n : Nat := if ty = .s32 ∨ ty = .z32 then 4 else 8
     let tag : BitVec 12 := (s.rs b).truncate 12
     let amo (k : AmoKind) (i : Instr) : Prop := s.reaches (s.rs a).toNat n n → inScratch (s.rs a).toNat = false → th.ordered = false →
       (∀ e ∈ th.engFaults, e.before ≤ 31) → th.cntCp ≤ 31 → th.cntTl ≤ 31 → th.cntFx ≤ 31 →
       (th.cntLd = 0 → th.cntSt = 0 →
         Completes i s fun u => Issued s u (.amo k ty d (s.rs d)) [⟨0, (s.rs a).toNat, n, s.rs b⟩] cur dst) ∧
       ((∀ x ∈ th.out, x.status = .pending) → th.cntLd < 31 → th.cntLd ≠ 0 ∨ th.cntSt ≠ 0 →
         exec i s = .next (s.stall (.limits 0 0 31 31 31)))
     (th.cntLd < 31 → (ad : Int) = (s.rs b).toNat + o.toInt * (w : Int) → s.reaches ad w 1 →
       Completes (.ld d b h t o) s fun u => Issued s u (.ld d (decide (t.toNat < 4))) [⟨0, ad, w, 0⟩] cur dst) ∧
     (th.cntSt < 31 → (ad : Int) = (s.rs b).toNat + o.toInt * (2 ^ t2.toNat : Nat) → s.reaches ad (2 ^ t2.toNat) 1 →
       Completes (.st d b h t2 o) s fun u => Issued s u .st [⟨0, ad, 2 ^ t2.toNat, s.rs d⟩] cur []) ∧
     (th.cntLd < 31 → s.reaches (s.rs a).toNat w 1 → s.curPart.live tag = true → s.outside tag = false →
       Completes (.ldx d a b g t) s fun u => Issued s u (.ld d (decide (t.toNat < 4))) [⟨0, (s.rs a).toNat, w, 0⟩] tag dst) ∧
     (th.cntSt < 31 → s.reaches (s.rs a).toNat n n →
       Completes (.redOp a b g op ty) s fun u => Issued s u (.red op ty) [⟨0, (s.rs a).toNat, n, s.rs b⟩] cur []) ∧
     (th.cntSt < 31 → s.reaches (s.rs a).toNat 32 32 →
       Completes (.redX a b g) s fun u => Issued s u .redx [⟨0, (s.rs a).toNat, 32, s.rs b⟩] cur []) ∧
     amo .swap (.amoSwap d a b g ty) ∧ amo .cas (.amoCas d a b g ty) ∧ amo .add (.amoAdd d a b g ty)) ∧
  (∀ (s : State) (d a b : BitVec 5) (h t2 : BitVec 2) (t : BitVec 3) (o : BitVec 10) (g : Guard) (op : RedOp) (ty : WidthSign) (ad : Nat),
     threadOk s.cur = true → s.guardTrue g = true → s.th.cntLd < 31 → s.th.cntSt < 31 →
     let w : Nat := 2 ^ (t.toNat % 4)
     let n : Nat := if ty = .s32 ∨ ty = .z32 then 4 else 8
     let tag : BitVec 12 := (s.rs b).truncate 12
     let order (i : Instr) (x k align : Nat) : Prop := ∀ c, s.coreTraps x k align c → exec i s = .next (s.trapAt c x)
     let below (i : Instr) (x : Int) : Prop := x < 0 → ∃ y, exec i s = .next (s.trapAt .addrRange y)
     let from_ (k : Nat) : Int := (s.rs b).toNat + o.toInt * (k : Int)
     ((ad : Int) = from_ w → order (.ld d b h t o) ad w 1) ∧ below (.ld d b h t o) (from_ w) ∧
     ((ad : Int) = from_ (2 ^ t2.toNat) → order (.st d b h t2 o) ad (2 ^ t2.toNat) 1) ∧ below (.st d b h t2 o) (from_ (2 ^ t2.toNat)) ∧
     (s.curPart.live tag = false → exec (.ldx d a b g t) s = .next (s.trap .ctxDead)) ∧
     (s.curPart.live tag = true → order (.ldx d a b g t) (s.rs a).toNat w 1 ∧
       (s.reaches (s.rs a).toNat w 1 → s.outside tag = true → exec (.ldx d a b g t) s = .next (s.trapAt .protection (s.rs a).toNat))) ∧
     order (.redOp a b g op ty) (s.rs a).toNat n n ∧ order (.redX a b g) (s.rs a).toNat 32 32 ∧
     ∀ i ∈ [Instr.amoSwap d a b g ty, .amoCas d a b g ty, .amoAdd d a b g ty], order i (s.rs a).toNat n n ∧
       (s.reaches (s.rs a).toNat n n → inScratch (s.rs a).toNat = true ∨ s.th.ordered = true →
         exec i s = .next (s.trapAt .protection (s.rs a).toNat)))

/-- R242: a vector access of the active elements: unit stride, a signed byte stride, or an index vector; a store's data is
captured at issue (R243). R231: with VL 0 it traps with LANE_CLAIM; else the lowest-numbered element that the issuing core refuses
gives the trap, the first of its causes in their order, and its address. SCRATCH_ABSENT at an address above R78's table is the model's
choice (log 71). -/
def Obligations.VectorAccesses : Prop :=
  ∀ (s : State) (d c : BitVec 4) (k : BitVec 2) (b : BitVec 5) (e : ElemWidth) (x : Bool), threadOk s.cur = true →
    let n : Nat := match e with | .e8 => 1 | .e16 => 2 | .e32 => 4
    let els := s.actives k
    let base : Int := (s.rs b).toNat
    let unit (i : Nat) : Int := base + i * n
    let stride (i : Nat) : Int := base + i * (s.rs (c.zeroExtend 5)).toInt
    let index (i : Nat) : Int := base + (s.rv c i).toNat
    let fits (v : Nat → Int) (i : Nat) : Prop := 0 ≤ v i ∧ s.reaches (v i).toNat n 1
    let loads (i : Instr) (v : Nat → Int) : Prop := Completes i s fun u =>
      Issued s u (.vld d x) (els.map fun j => ⟨j, (v j).toNat, n, 0⟩) s.th.ctxcur (els.map fun j => .v d j)
    let stores (i : Instr) (v : Nat → Int) : Prop := Completes i s fun u =>
      Issued s u .st (els.map fun j => ⟨j, (v j).toNat, n, (s.rv d j).zeroExtend 64⟩) s.th.ctxcur []
    let stops (i : Instr) (v : Nat → Int) : Prop :=
      (s.th.vl = 0 → exec i s = .next (s.trap .laneClaim)) ∧
      (s.th.vl ≠ 0 → s.th.cntLd < 31 → s.th.cntSt < 31 → ∀ j ∈ els, (∀ m ∈ els, m < j → fits v m) →
        (v j < 0 → ∃ y, exec i s = .next (s.trapAt .addrRange y)) ∧
        (0 ≤ v j → ∀ cause, s.coreTraps (v j).toNat n 1 cause → exec i s = .next (s.trapAt cause (v j).toNat)))
    (s.th.vl ≠ 0 → s.th.cntLd < 31 → ((∀ i ∈ els, fits unit i) → loads (.vld d k b e x) unit) ∧
      ((∀ i ∈ els, fits stride i) → loads (.vlds d c k b e x) stride) ∧ ((∀ i ∈ els, fits index i) → loads (.vgath d c k b e x) index)) ∧
    (s.th.vl ≠ 0 → s.th.cntSt < 31 → ((∀ i ∈ els, fits unit i) → stores (.vst d k b e) unit) ∧
      ((∀ i ∈ els, fits stride i) → stores (.vsts d c k b e) stride) ∧ ((∀ i ∈ els, fits index i) → stores (.vscat d c k b e) index)) ∧
    stops (.vld d k b e x) unit ∧ stops (.vlds d c k b e x) stride ∧ stops (.vgath d c k b e x) index ∧
    stops (.vst d k b e) unit ∧ stops (.vsts d c k b e) stride ∧ stops (.vscat d c k b e) index

/-- R92, R103, R133, R145, R199, R237 to R239: an access of one piece that may perform reads and writes its bytes at once, a load
or AMO returns the old value to a register that no later instruction has written, and its counter falls; no other byte changes. At a
line of cellar that its context does not extend; in home, loft, remote and drive scratch (R14, R78, R81, R82). R103, R104: under a tag, a load
reads the first cell of its chain and a first store materialises the tag's own. R242: the elements of a vector load and of a vector
store, in ascending order; a fault leaves the access as it was, to be delivered (R92). R111, R240: an ordered task's load enters its line in the
read signature, its reduction is held back; R53: what its write set is. R237 to R239, R169: what a store, a reduction, a RED.x and an
AMO leave of the old bytes. -/
def Obligations.AccessesPerform : Prop :=
  (∀ (s : State) (t : ThreadRef) (id p : Nat) (a : Access) (pc : Piece), s.accessOf t id = some a → s.canPerform t a = true →
     s.partOf t = some p → a.pieces = [pc] → 0 < pc.w → pc.w < 64 → threadOk t = true →
     (∃ d sgn, a.op = .ld d sgn) ∨ a.op = .st ∨ (∃ o ty, a.op = .red o ty) ∨ a.op = .redx ∨ (∃ k ty d c, a.op = .amo k ty d c ∧ pc.w = if ty = .s32 ∨ ty = .z32 then 4 else 8) →
     let th := s.thread t
     let ev : Instr := if a.op.isLoad then .loadReturn t id else .storePerformed t id
     let extended (sgn : Bool) (bs : List Byte) : Word :=
       if sgn then (BitVec.ofNat (8 * bs.length) (leNat bs)).signExtend 64 else BitVec.ofNat 64 (leNat bs)
     let returned (bs : List Byte) (r : BitVec 5) : Word :=
       if a.dests.contains (.s r) then
         match a.op with
         | .ld d sgn => if r = d then extended sgn bs else th.rs r
         | .amo _ ty d _ => if r = d then extended (ty = .s32 ∨ ty = .s64) bs else th.rs r
         | _ => th.rs r
       else th.rs r
     let ended (bs : List Byte) (m : State) : Prop := (∀ r, r ≠ 0 → (m.thread t).rs r = returned bs r) ∧
       m.thread t = { th with s := (m.thread t).s, out := th.out.filter (fun b => b.id != id),
                              cntLd := if a.op.isLoad then th.cntLd - 1 else th.cntLd,
                              cntSt := if a.op.isLoad then th.cntSt else th.cntSt - 1 }
     let judged (x : Xlat) : Prop := inScratch pc.addr = false ∧
       s.judge t a.op.kind (a.op.context a.tag) a.stale th.ordered pc.addr = .ok x ∧ s.taint p x (a.op.context a.tag) = none
     (∀ x pa, th.ordered = false → judged x → x.back = .cellar pa → x.ext = false ∨ a.op.context a.tag = 0 →
       let old := mread s.cellar pa pc.w
       Completes ev s fun u => ∃ m, u = m.settle t ∧ ended old m ∧ m = { s.setThread t (m.thread t) with cellar := m.cellar } ∧
         ∀ y, mget m.cellar y = if a.op.kind.writes ∧ pa ≤ y ∧ y < pa + pc.w then (a.op.newBytes pc.w old pc.data).getD (y - pa) 0
           else mget s.cellar y) ∧
     (let scratch (ca off : Nat) (part : Column → Mem) (put : Column → Mem → Column) : Prop :=
        s.scratchLock t a.op.kind pc.addr id = false → s.scratchTaint t pc.addr = none →
        let old := mread (part (s.col ca)) off pc.w
        Completes ev s fun u => ∃ m c, u = m.settle t ∧ ended old m ∧
          m = (if a.op.kind.writes then s.setCol ca (put (s.col ca) c) else s).setThread t (m.thread t) ∧
          ∀ y, mget c y = if a.op.kind.writes ∧ off ≤ y ∧ y < off + pc.w then (a.op.newBytes pc.w old pc.data).getD (y - off) 0
            else mget (part (s.col ca)) y
      let own := pc.addr - Config.homeBase
      let far := remoteOff pc.addr
      th.ordered = false →
      (Config.homeBase ≤ pc.addr → isDrive t = false →
        (own + pc.w ≤ 0x100000 → scratch t.ca own (·.home) fun c h => { c with home := h }) ∧
        (0x100000 ≤ own → own - 0x100000 + pc.w ≤ (s.col t.ca).loftSize →
          scratch t.ca (own - 0x100000) (·.loft) fun c h => { c with loft := h })) ∧
      (inRemote pc.addr = true → isDrive t = false → remoteHigh pc.addr = 0 → remoteRow pc.addr ≤ 35 → remoteCa pc.addr ∉ s.retired →
        (far + pc.w ≤ 0x100000 → scratch (remoteCa pc.addr) far (·.home) fun c h => { c with home := h }) ∧
        (0x100000 ≤ far → far - 0x100000 + pc.w ≤ (s.col (remoteCa pc.addr)).loftSize →
          scratch (remoteCa pc.addr) (far - 0x100000) (·.loft) fun c h => { c with loft := h })) ∧
      (Config.homeBase ≤ pc.addr → isDrive t = true → own + pc.w ≤ 0x10000 →
        scratch t.ca own (·.drive) fun c h => { c with drive := h })) ∧
     (∀ x chain, judged x → x.ext = true → a.tag ≠ 0 → s.poison = [] → tmem s.parts p = true → pc.addr % 64 + pc.w ≤ 64 →
       chain.head? = some a.tag → chain.length ≤ 3 → (∀ g ∈ chain, g ≠ 0) →
       (∀ pre g post, chain = pre ++ g :: post → ∃ i, (s.part p).tag g = some i ∧ i.parent = post.headD 0) →
       let off := pc.addr % 64
       let byte (d : BitVec 512) (i : Nat) : Byte := BitVec.ofNat 8 (d.toNat / 2 ^ (8 * i))
       let inside (i : Nat) : Prop := off ≤ i ∧ i < off + pc.w
       let found := chain.findSome? fun g => (s.part p).cellAt g x.line
       let noted (u m : State) : Prop := if th.ordered then
           ∃ os, m = (u.updPart p fun q => { q with otasks := os }).setThread t (m.thread t) ∧ (∀ g, g ≠ th.ownTag → (m.part p).otaskOf g = (s.part p).otaskOf g) ∧
             ∀ o, (s.part p).otaskOf th.ownTag = some o → (m.part p).otaskOf th.ownTag = some { o with
               reads := if o.reads.contains x.line then o.reads else o.reads ++ [x.line], tie := o.tie || o.tieLines.contains x.line }
         else m = u.setThread t (m.thread t)
       (∀ d sgn, a.op = .ld d sgn →
         let old := match found with
           | some c => (List.range pc.w).map fun i => byte c.data (off + i)
           | none => s.readBase p x.back pc.w
         Completes ev s fun u => ∃ m, u = m.settle t ∧ ended old m ∧ noted s m) ∧
       (a.op = .st → Completes ev s fun u => ∃ m c, u = m.settle t ∧ ended [] m ∧ (m.part p).cellAt a.tag x.line = some c ∧
         (let w := s.updPart p fun q => { q with cells := (m.part p).cells, highCells := (m.part p).highCells }
          if ((s.part p).cellAt a.tag x.line).isNone then noted w m else m = w.setThread t (m.thread t)) ∧
         (∀ g l, g ≠ a.tag ∨ l ≠ x.line → (m.part p).cellAt g l = (s.part p).cellAt g l) ∧
         ∀ i < 64,
           (inside i → byte c.data i = (leBytes pc.w pc.data.toNat).getD (i - off) 0 ∧ c.mask.getLsbD i = true) ∧
           (¬ inside i → byte c.data i = (match found with
               | some b => byte b.data i
               | none => (s.readBase p x.back.lineStart 64).getD i 0) ∧
             c.mask.getLsbD i = match (s.part p).cellAt a.tag x.line with | some b => b.mask.getLsbD i | none => false))) ∧
     (a.op = .redx ∨ (∃ o ty, a.op = .red o ty) → th.ordered = true → tmem s.parts p = true →
       (∃ x, inScratch pc.addr = false ∧ s.judge t a.op.kind 0 false true pc.addr = .ok x) →
       Completes ev s fun u => ∃ m os, u = m.settle t ∧ ended [] m ∧
         m = (s.updPart p fun q => { q with otasks := os }).setThread t (m.thread t) ∧
         (∀ g, g ≠ th.ownTag → (m.part p).otaskOf g = (s.part p).otaskOf g) ∧
         ∀ o, (s.part p).otaskOf th.ownTag = some o → ∃ buf, (m.part p).otaskOf th.ownTag = some { o with buf := buf } ∧
           (∀ b, b ∈ buf ↔ b = a ∨ b ∈ o.buf) ∧
           (o.buf.Pairwise (fun b c => b.id < c.id) → (∀ b ∈ o.buf, b.id ≠ a.id) → buf.Pairwise fun b c => b.id < c.id))) ∧
  (∀ (s : State) (t : ThreadRef) (id p n : Nat) (a : Access) (xs : Piece → Xlat) (pa : Piece → Nat), s.accessOf t id = some a →
     s.canPerform t a = true → s.partOf t = some p → threadOk t = true → (s.thread t).ordered = false → s.poison = [] →
     (∀ pc ∈ a.pieces, inScratch pc.addr = false ∧ pc.w = n ∧ 0 < n ∧ n ≤ 4 ∧ pc.idx < 64) →
     let th := s.thread t
     let done (m : State) : Thread := { th with
       v := (m.thread t).v, out := th.out.filter (fun b => b.id != id),
       cntLd := if a.op.isLoad then th.cntLd - 1 else th.cntLd, cntSt := if a.op.isLoad then th.cntSt else th.cntSt - 1 }
     (∀ d sgn, a.op = .vld d sgn → (a.pieces.map (·.idx)).Nodup →
       (∀ pc ∈ a.pieces, s.judge t .load a.tag a.stale false pc.addr = .ok (xs pc)) →
       Completes (.loadReturn t id) s fun u => ∃ m, u = m.settle t ∧ m = s.setThread t (done m) ∧ ∀ e i, i < 64 →
         (m.thread t).rv e i = match a.pieces.find? (fun pc => pc.idx == i) with
           | some pc =>
             let bs := s.readXlat p (xs pc) a.tag pc.addr n
             if e = d ∧ a.dests.contains (.v d i) then
               (if sgn then (BitVec.ofNat (8 * n) (leNat bs)).signExtend 32 else BitVec.ofNat 32 (leNat bs))
             else th.rv e i
           | none => th.rv e i) ∧
     (a.op = .st →
       (∀ c : Mem, (∀ y, (∀ pc ∈ a.pieces, y < pa pc ∨ pa pc + n ≤ y) → mget c y = mget s.cellar y) → ∀ pc ∈ a.pieces,
         ({ s with cellar := c } : State).judge t .store a.tag a.stale false pc.addr = .ok (xs pc) ∧ (xs pc).back = .cellar (pa pc) ∧
         ((xs pc).ext = false ∨ a.tag = 0)) →
       Completes (.storePerformed t id) s fun u => ∃ m, u = m.settle t ∧ m = { s.setThread t (done m) with cellar := m.cellar } ∧
         (m.thread t).v = th.v ∧ ∀ y, mget m.cellar y = a.pieces.foldl (fun b pc =>
           if pa pc ≤ y ∧ y < pa pc + n then (leBytes n pc.data.toNat).getD (y - pa pc) 0 else b) (mget s.cellar y)) ∧
     (∀ d sgn pre pc post c, a.op = .vld d sgn → a.pieces = pre ++ pc :: post →
       (∀ q ∈ pre, s.judge t .load a.tag a.stale false q.addr = .ok (xs q)) →
       s.judge t .load a.tag a.stale false pc.addr = .error (.fault c) →
       Completes (.loadReturn t id) s fun u => u = (s.setThread t { th with
         out := th.out.map fun b => if b.id = id then { b with status := .fault c pc.addr false } else b }).settle t)) ∧
  (∀ (s : State) (p line : Nat) (o : OTask),
     let lineAt (pc : Piece) : Nat := match s.translate p pc.addr with | .ok x => x.line | .error _ => pc.addr / 64
     line ∈ s.writeSet p o ↔ (∃ c ∈ (s.part p).cells, c.tag = o.tag ∧ c.mask ≠ 0 ∧ c.line = line) ∨
       ∃ a ∈ o.buf, ∃ pc ∈ a.pieces, lineAt pc = line) ∧
  (∀ (w : Nat) (old : List Byte) (data cmp : Word) (ty : WidthSign) (d : BitVec 5), old.length = w →
     w = (if ty = .s32 ∨ ty = .z32 then 4 else 8) →
     let m := 2 ^ (8 * w)
     let x := leNat old
     let y := data.toNat % m
     let signed : Prop := ty = .s32 ∨ ty = .s64
     let int (n : Nat) : Int := (BitVec.ofNat (8 * w) n).toInt
     let after (op : AccOp) : Nat := leNat (op.newBytes w old data)
     after .st = y ∧
     after (.red .add ty) = (x + y) % m ∧ after (.red .opAnd ty) = x &&& y ∧ after (.red .opOr ty) = x ||| y ∧
     after (.red .opXor ty) = x ^^^ y ∧
     (¬ signed → after (.red .opMin ty) = min x y ∧ after (.red .opMax ty) = max x y) ∧
     (signed → int (after (.red .opMin ty)) = min (int x) (int y) ∧ int (after (.red .opMax ty)) = max (int x) (int y)) ∧
     after (.amo .swap ty d cmp) = y ∧ after (.amo .add ty d cmp) = (x + y) % m ∧
     after (.amo .cas ty d cmp) = if x = cmp.toNat % m then y else x) ∧
  (∀ (old : List Byte) (data : Word), old.length = 32 →
     let v := leNat old % 2 ^ 254
     let code := leNat old / 2 ^ 254
     let after := leNat (AccOp.redx.newBytes 32 old data)
     let joins (y : Nat) : Prop := after % 2 ^ 254 = v ∧
       after / 2 ^ 254 = if code = 0 then y else if code = y then y else 3
     let adds (r : Int) : Prop := after / 2 ^ 254 = code ∧ (after % 2 ^ 254 : Int) = (v + r) % (2 ^ 254 : Int)
     match f32.decode (data.toNat % 2 ^ 32) with
     | .nan => joins 3
     | .inf neg => joins (if neg then 2 else 1)
     | .num neg m e =>
       let sign : Int := if neg then -1 else 1
       (∀ k : Nat, e = k - 128 → if 2 ^ 253 ≤ m * 2 ^ k then joins (if neg then 2 else 1) else adds (sign * (m * 2 ^ k : Nat))) ∧
       (∀ k : Nat, 0 < k → e = -128 - k → ∃ r : Nat, adds (sign * r) ∧ 2 * r * 2 ^ k ≤ 2 * m + 2 ^ k ∧ 2 * m ≤ 2 * r * 2 ^ k + 2 ^ k ∧
         (2 * r * 2 ^ k = 2 * m + 2 ^ k ∨ 2 * m = 2 * r * 2 ^ k + 2 ^ k → r % 2 = 0)))

/-- R250 to R254: TLOD and TSMP issue one lookup of their descriptor; RESQ and RESW check every active element, then issue one
access to the map bits; RMFENCE waits for its own RESWs, then for the lookups in flight that have read a bit of the map (R131). R231:
their traps. `u`, `x`, `ld`: the state after the descriptor's read in base, its bytes, what they say. R114 to R117: a descriptor,
its geometry, a texel's address. R119, R121: taps, and the value of weighted taps. R118 to R120, R130: a lookup performs by two
LOAD_RETURNs: it reads its map bits and finds each element's level, then reads its taps, writes channels and status, and offers its
records; at a write-locked line it waits. R129: the bits of RESQ and RESW. R125 to R128: one record offered to the gleaning ring: known to
the filter, written and its key inserted, dropped with BAD, or dropped for want of room; a full filter loses its oldest use. The
model's choice or reading: MISALIGNED of a descriptor in two lines (log 72), SCRATCH_ABSENT above R78's table (log 71), TADDR 0 of
PROTECTION (log 31), reads in two moves and a RESQ in one (log 13), a ring page not writable (log 74). -/
def Obligations.Lookups : Prop :=
  (∀ (s u : State) (d a b : BitVec 4) (k c : BitVec 2) (r : BitVec 5) (new : Bool) (x : Nat) (ld : LodDesc),
    threadOk s.cur = true → isDrive s.cur = false →
    let desc := (s.rs r).toNat
    let els := s.actives k
    let tlod : Instr := .tlod d a b k r c
    let tsmp : Instr := .tsmp d a b k r c
    let resq : Instr := .resq d a k r
    let resw : Instr := .resw d a k r new
    let rmfence : Instr := .rmfence r
    let look (bilinear : Bool) (i : Instr) : Prop := Completes i s fun t =>
      Issued s t (.tex bilinear d (c.toNat + 1) desc (els.map fun e => ⟨e, s.rv a e, s.rv b e, (s.rv d e).toNat % 16⟩) none)
        [⟨0, desc, 64, 0⟩] s.th.ctxcur (els.flatMap fun e => (List.range (c.toNat + 2)).map fun m => .v (d + BitVec.ofNat 4 m) e)
    let level (e : Nat) : Nat := (s.rv a e).toNat / 2 ^ 28
    let page (e : Nat) : Nat := (s.rv a e).toNat % 2 ^ 28
    let named (e : Nat) : Prop := level e < ld.levels ∧ page e < ld.px (level e) * ld.py (level e)
    let readable : Prop := s.reaches desc 64 1 ∧ (∀ o ∈ s.th.out, o.op.isAmo = false ∧ s.lineOf s.cur desc ∉ s.linesAt s.cur o) ∧
      s.unregistered s.cur = [] ∧ s.loadBase s.cur desc 64 = .ok (u, x)
    let granted : Prop := s.curPart.pol.resid = true ∧ s.curPart.pol.reslo ≤ ld.map ∧
      ld.map + (ld.loff ld.levels + 7) / 8 ≤ s.curPart.pol.reshi
    let bit (e : Nat) : Nat := ld.loff (level e) + page e
    let acts (op : List (Nat × Option Nat) → AccOp) (bits : List (Nat × Option Nat)) (i : Instr) : Prop := Completes i s fun t =>
      Issued u t (op bits) (bits.filterMap fun y => y.2.map fun j => ⟨y.1, ld.map + j / 8, 1, 0⟩) s.th.ctxcur
        (els.map fun e => .v d e)
    let reader (o : Access) : Prop := ∃ bl v n ad es q, o.op = .tex bl v n ad es (some q) ∧ q.desc.map = ld.map
    let inFlight (n : Nat) : Prop := ∃ th ∈ s.heldThreads s.pid, ∃ o ∈ th.out, o.id = n ∧ ∃ bl v m ad es q, o.op = .tex bl v m ad es (some q)
    (s.th.vl = 0 → ∀ i ∈ [tlod, tsmp, resq, resw], exec i s = .next (s.trap .laneClaim)) ∧
    (s.th.vl ≠ 0 → s.th.cntLd < 31 → s.th.cntSt < 31 → ∀ cause, s.coreTraps desc 64 1 cause →
      ∀ i ∈ [tlod, tsmp, resq, resw, rmfence], exec i s = .next (s.trapAt cause desc)) ∧
    (s.th.vl ≠ 0 → s.th.cntLd < 31 → s.reaches desc 64 1 → look false tlod ∧ look true tsmp) ∧
    (readable → lodDesc s.curPart.grbase x = none → s.th.vl ≠ 0 → s.th.cntLd < 31 → s.th.cntSt < 31 →
      ∀ i ∈ [resq, resw, rmfence], exec i s = .next (u.trap .protection)) ∧
    (readable → lodDesc s.curPart.grbase x = some ld →
      (s.th.vl ≠ 0 → s.th.cntLd < 31 →
        ((∃ e ∈ els, ¬ named e) → exec resq s = .next (u.trap .addrRange)) ∧
        ((∀ e ∈ els, named e) → acts (.resq d ld.map) (els.map fun e => (e, if ld.tail ≤ level e then none else some (bit e))) resq)) ∧
      (s.th.vl ≠ 0 → s.th.cntSt < 31 →
        (¬ granted ∨ s.th.ordered = true → exec resw s = .next (u.trap .protection)) ∧
        (granted → s.th.ordered = false → (∃ e ∈ els, ¬ named e) → exec resw s = .next (u.trap .addrRange)) ∧
        (granted → s.th.ordered = false → (∀ e ∈ els, named e) →
          acts (.resw d ld.map new) (els.map fun e => (e, if ld.tail ≤ level e ∧ new = false then none else some (bit e))) resw)) ∧
      (¬ granted → exec rmfence s = .next (u.trap .protection)) ∧
      (granted → (∀ o ∈ s.th.out, o.reswOf ld.map = false) →
        ((s.th.waited = false ∨ ∀ ids, s.th.wait ≠ .lookups ids) →
          ((∀ th ∈ s.heldThreads s.pid, ∀ o ∈ th.out, ¬ reader o) → Completes rmfence s fun t => t = u) ∧
          ((∃ th ∈ s.heldThreads s.pid, ∃ o ∈ th.out, reader o) → ∃ ids, exec rmfence s = .next (u.stall (.lookups ids)) ∧
            ∀ n, n ∈ ids ↔ ∃ th ∈ s.heldThreads s.pid, ∃ o ∈ th.out, reader o ∧ o.id = n)) ∧
        (∀ ids, s.th.waited = true → s.th.wait = .lookups ids →
          ((∀ n ∈ ids, ¬ inFlight n) → Completes rmfence s fun t => t = u) ∧
          ((∃ n ∈ ids, inFlight n) → exec rmfence s = .next (u.stall (.lookups ids))))))) ∧
  (∀ (g : Word) (x : Nat) (d : LodDesc),
    let f (lo n : Nat) : Nat := x / 2 ^ (8 * lo) % 2 ^ (8 * n)
    lodDesc g x = some d ↔ d = ⟨f 0 8, f 8 8, f 16 8, f 24 2, f 26 2, f 28 1, f 29 1, f 30 1, f 32 2⟩ ∧
      d.base % 2 ^ 16 = 0 ∧ d.base < 2 ^ 48 ∧ d.map % 8 = 0 ∧ d.map < 2 ^ 48 ∧ 1 ≤ d.w0 ∧ d.w0 ≤ 16384 ∧ 1 ≤ d.h0 ∧ d.h0 ≤ 16384 ∧
      1 ≤ d.levels ∧ d.levels ≤ 16 ∧ d.tail < d.levels ∧ d.fmt ≤ 4 ∧ f 31 1 = 0 ∧ f 34 30 = 0 ∧
      (d.ring = 0 ∨ d.ring = g.toNat / 2 ^ 12 % 2 ^ 36 * 4096)) ∧
  (∀ (d : LodDesc) (l x y u v : Nat),
    let b : Nat := match d.fmt with | 1 => 8 | 3 => 2 | _ => 4
    let pw : Nat := if b = 2 then 256 else 128
    let ph : Nat := if b = 8 then 64 else 128
    let k : Nat := if ph = 64 then 3 else 4
    let w := max 1 (d.w0 / 2 ^ l)
    let h := max 1 (d.h0 / 2 ^ l)
    let pages (n side : Nat) (p : Nat) : Prop := n ≤ p * side ∧ p * side < n + side
    let tx := x % pw / 8
    let ty := y % ph / 8
    pages w pw (d.px l) ∧ pages h ph (d.py l) ∧ d.loff 0 = 0 ∧ d.loff (l + 1) = d.loff l + d.px l * d.py l ∧
    d.page l x y = x / pw + y / ph * d.px l ∧
    (∃ m, d.texel l x y = d.base + (d.loff l + d.page l x y) * 2 ^ 16 + m * 64 * b + (y % ph % 8 * 8 + x % pw % 8) * b ∧
      m / 4 ^ k = tx / 2 ^ k ∧ ∀ i < k, m.testBit (2 * i) = tx.testBit i ∧ m.testBit (2 * i + 1) = ty.testBit i) ∧
    d.taps false l u v = [⟨65536, min (u / 2 ^ (16 + l)) (w - 1), min (v / 2 ^ (16 + l)) (h - 1)⟩] ∧
    (∃ (x0 y0 : Int) (fx fy : Nat),
      let at_ (u : Nat) (x : Int) (f : Nat) : Prop :=
        let c : Int := 2 * u - (2 ^ (16 + l) : Nat) - x * (2 ^ (17 + l) : Nat)
        0 ≤ c ∧ c < (2 ^ (17 + l) : Nat) ∧ f * (2 ^ (17 + l) : Nat) ≤ 256 * c ∧ 256 * c < (f + 1) * (2 ^ (17 + l) : Nat)
      let tap (wt : Nat) (x y : Int) : Tap := ⟨wt, min x.toNat (w - 1), min y.toNat (h - 1)⟩
      at_ u x0 fx ∧ at_ v y0 fy ∧ d.taps true l u v =
        [tap ((256 - fx) * (256 - fy)) x0 y0, tap (fx * (256 - fy)) (x0 + 1) y0, tap ((256 - fx) * fy) x0 (y0 + 1),
         tap (fx * fy) (x0 + 1) (y0 + 1)].filter fun t => decide (t.wt ≠ 0))) ∧
  (∀ (fmt : Nat) (taps : List (Nat × List Byte)) (c : Nat), taps ≠ [] → (∀ t ∈ taps, t.1 ≠ 0) → fmt ≤ 4 → c < 4 →
    let r := mixTaps fmt taps c
    let has : Nat := match fmt with | 0 => 4 | 1 => 4 | 2 => 2 | _ => 1
    let one : FV := if c = 3 then .num false 1 0 else .num false 0 0
    let value (bs : List Byte) : FV :=
      if c < has then (if fmt = 4 then f32.decode (leNat (bs.take 4)) else f16.decode (leNat ((bs.drop (2 * c)).take 2))) else one
    (fmt = 0 → (taps.map (·.1)).sum ≤ 65536 →
      let sum := (taps.map fun t => t.1 * (t.2.getD c 0).toNat).sum
      let den := 255 * 65536
      ∃ m k : Nat, f32.decode r = .num false m (-(k : Int)) ∧ (sum = 0 → m = 0) ∧ (sum ≠ 0 → 2 ^ 23 ≤ m ∧ m < 2 ^ 24) ∧
        2 * (sum * 2 ^ k) ≤ 2 * (m * den) + den ∧ 2 * (m * den) ≤ 2 * (sum * 2 ^ k) + den ∧
        (2 * (sum * 2 ^ k) = 2 * (m * den) + den ∨ 2 * (m * den) = 2 * (sum * 2 ^ k) + den → m % 2 = 0)) ∧
    (fmt ≠ 0 →
      ((∃ t ∈ taps, value t.2 = .nan) ∨ (∃ t ∈ taps, value t.2 = .inf false) ∧ (∃ t ∈ taps, value t.2 = .inf true) → r = 0x7FC00000) ∧
      (∀ neg, (∀ t ∈ taps, value t.2 ≠ .nan ∧ value t.2 ≠ .inf (!neg)) → (∃ t ∈ taps, value t.2 = .inf neg) →
        r = if neg then 0xFF800000 else 0x7F800000) ∧
      (∀ y : Nat × List Byte → Bool × Nat × Int, (∀ t ∈ taps, value t.2 = .num (y t).1 (y t).2.1 (y t).2.2) →
        ∃ n m e, r = f32.round .rne false (.num n m e) ∧
          (∀ z : Int, z ≤ e → (∀ t ∈ taps, z ≤ (y t).2.2 - 16) →
            (if n then -1 else 1) * ((m * 2 ^ (e - z).toNat : Nat) : Int) =
              (taps.map fun t => (if (y t).1 then -1 else 1) * (((y t).2.1 * t.1 * 2 ^ ((y t).2.2 - 16 - z).toNat : Nat) : Int)).sum) ∧
          (m = 0 → (n = true ↔ ∀ t ∈ taps, (y t).1 = true ∧ (y t).2.1 = 0))))) ∧
  (∀ (s u : State) (t : ThreadRef) (id p n desc x : Nat) (a : Access) (d : BitVec 4) (bl : Bool) (els : List Lookup) (xs : Nat → Xlat),
    s.accessOf t id = some a → s.canPerform t a = true → s.partOf t = some p → threadOk t = true → tmem s.parts p = true → n ≤ 4 →
    ((s.thread t).out.map (·.id)).Nodup → (els.map (·.idx)).Nodup → (∀ e ∈ els, e.idx < 64) →
    let th := s.thread t
    let seen (o : Option Seen) (st : Status) : List Access := th.out.map fun b =>
      if b.id = id then { b with op := .tex bl d n desc els o, status := st } else b
    let noted (u m : State) (th' : Thread) (lines : Nat → Prop) : Prop :=
      m = (if th.ordered then u.updPart p fun q => { q with otasks := (m.part p).otasks } else u).setThread t th' ∧
      (∀ g, g ≠ th.ownTag → (m.part p).otaskOf g = (u.part p).otaskOf g) ∧
      ∀ o, (u.part p).otaskOf th.ownTag = some o → ∃ o', (m.part p).otaskOf th.ownTag = some o' ∧
        ∀ l, l ∈ o'.reads ↔ l ∈ o.reads ∨ th.ordered = true ∧ lines l
    let gone : List Access := th.out.filter fun b => b.id != id
    let returned (m : State) (v : Nat → Nat → Nat) : Prop := ∀ r i, i < 64 → (m.thread t).rv r i =
      if a.dests.contains (.v r i) ∧ (∃ e ∈ els, e.idx = i) ∧ (r - d).toNat ≤ n then BitVec.ofNat 32 (v i (r - d).toNat) else th.rv r i
    let pages (ld : LodDesc) (e : Lookup) (l : Nat) : List Nat := (ld.taps bl l e.u.toNat e.v.toNat).map fun q => ld.page l q.x q.y
    let first (ld : LodDesc) (e : Lookup) : Nat := min e.lreq (ld.levels - 1)
    (a.op = .tex bl d n desc els none → s.loadBase t desc 64 = .ok (u, x) →
      (lodDesc (s.part p).grbase x = none → Completes (.loadReturn t id) s fun w => ∃ m, w = m.settle t ∧
        m = u.setThread t { th with v := (m.thread t).v, out := gone, cntLd := th.cntLd - 1 } ∧
        returned m fun _ c => if c = n then 0x20 else 0) ∧
      (∀ ld, lodDesc (s.part p).grbase x = some ld →
        (∀ i < (ld.loff ld.levels + 7) / 8, inScratch (ld.map + i) = false ∧ (xs i).cls = .shared ∧
          s.judge t .load 0 false th.ordered (ld.map + i) = .ok (xs i) ∧ s.taint p (xs i) 0 = none) →
        let has (l q : Nat) : Prop := ld.tail ≤ l ∨ (leNat (s.readXlat p (xs ((ld.loff l + q) / 8)) 0 (ld.map + (ld.loff l + q) / 8) 1)).testBit
          ((ld.loff l + q) % 8) = true
        Completes (.loadReturn t id) s fun w => ∃ m fs, w = m.settle t ∧ fs.length = els.length ∧
          (∀ y ∈ els.zip fs, first ld y.1 ≤ y.2.level ∧
            (∀ l, first ld y.1 ≤ l → l < y.2.level → l < ld.tail ∧ ∃ q ∈ pages ld y.1 l, ¬ has l q) ∧
            (∀ q ∈ pages ld y.1 y.2.level, has y.2.level q) ∧ y.2.pages.Pairwise (· < ·) ∧
            ∀ q, q ∈ y.2.pages ↔ y.2.level ≠ first ld y.1 ∧ q ∈ pages ld y.1 (first ld y.1) ∧ ¬ has (first ld y.1) q) ∧
          noted u m { th with out := seen (some ⟨ld, fs⟩) .pending } fun line => ∃ y ∈ els.zip fs, ∃ l q, first ld y.1 ≤ l ∧ l ≤ y.2.level ∧
            l < ld.tail ∧ q ∈ pages ld y.1 l ∧ line = (xs ((ld.loff l + q) / 8)).line) ∧
      (∀ ld e rest q more, lodDesc (s.part p).grbase x = some ld → els = e :: rest → first ld e < ld.tail →
        pages ld e (first ld e) = q :: more → let at_ := ld.map + (ld.loff (first ld e) + q) / 8
        ∀ y, s.translate p at_ = .ok y → inScratch at_ = false →
        (y.cls = .shared → s.judge t .load 0 false th.ordered at_ = .error (.fault .rangeLock) →
          Completes (.loadReturn t id) s fun w => w = s.settle t) ∧
        (y.cls ≠ .shared → Completes (.loadReturn t id) s fun w =>
          w = (s.setThread t { th with out := seen none (.fault .protection at_ false) }).settle t))) ∧
    (∀ k : Seen, a.op = .tex bl d n desc els (some k) → els.length = k.found.length →
      let ad (l : Nat) (q : Tap) : Nat := k.desc.texel l q.x q.y
      let taps (y : Lookup × LevelFound) : List Tap := k.desc.taps bl y.2.level y.1.u.toNat y.1.v.toNat
      ((∀ y ∈ els.zip k.found, ∀ q ∈ taps y, addrBad (ad y.2.level q) k.desc.b = false ∧ s.translate p (ad y.2.level q) = .ok (xs (ad y.2.level q)) ∧
          (xs (ad y.2.level q)).cls = .lod ∧ s.writeLocked (.mem p (xs (ad y.2.level q)).line) = false ∧ s.taint p (xs (ad y.2.level q)) 0 = none) →
        Completes (.loadReturn t id) s fun w => ∃ m,
          noted s m { th with v := (m.thread t).v } (fun line => ∃ y ∈ els.zip k.found, ∃ q ∈ taps y, line = (xs (ad y.2.level q)).line) ∧
          (∀ r i, i < 64 → (∀ e ∈ els, e.idx ≠ i) ∨ n < (r - d).toNat → (m.thread t).rv r i = th.rv r i) ∧
          (∀ y ∈ els.zip k.found, ∀ r, (r - d).toNat ≤ n → (m.thread t).rv r y.1.idx =
            if a.dests.contains (.v r y.1.idx) then BitVec.ofNat 32 (if (r - d).toNat < n
              then mixTaps k.desc.fmt ((taps y).map fun q => (q.wt, s.readBase p (xs (ad y.2.level q)).back k.desc.b)) (r - d).toNat
              else (y.2.level - first k.desc y.1) + if y.2.level ≠ first k.desc y.1 ∧ y.2.level = k.desc.tail then 16 else 0)
            else th.rv r y.1.idx) ∧
          match m.offers t k.desc (if k.desc.ring ≠ 0 ∧ (s.part p).grbase.toNat % 32 ≠ 0 then (els.zip k.found).flatMap fun y =>
              y.2.pages.map fun q => (first k.desc y.1, y.2.level, q) else []) with
          | .ok o => w = (o.setThread t { o.thread t with out := gone, cntLd := th.cntLd - 1 }).settle t
          | .error place => w = (s.consume t place).settle t) ∧
      (∀ e rest g more q qs, els = e :: rest → k.found = g :: more → taps (e, g) = q :: qs → addrBad (ad g.level q) k.desc.b = false →
        ∀ y, s.translate p (ad g.level q) = .ok y →
        (y.cls = .lod → s.writeLocked (.mem p y.line) = true → Completes (.loadReturn t id) s fun w => w = s.settle t) ∧
        (y.cls ≠ .lod → Completes (.loadReturn t id) s fun w =>
          w = (s.setThread t { th with out := seen none (.fault .protection (ad g.level q) false) }).settle t))) ∧
    (∀ (map : Nat) (bits : List (Nat × Option Nat)), (bits.map (·.1)).Nodup → (∀ y ∈ bits, y.1 < 64) →
      let bit (j : Nat) : Nat := leNat (s.readXlat p (xs j) 0 (map + j / 8) 1) / 2 ^ (j % 8) % 2
      (a.op = .resq d map bits → (∀ y ∈ bits, ∀ j, y.2 = some j → inScratch (map + j / 8) = false ∧ (xs j).cls = .shared ∧
          s.judge t .load 0 false th.ordered (map + j / 8) = .ok (xs j) ∧ s.taint p (xs j) 0 = none) →
        Completes (.loadReturn t id) s fun w => ∃ m, w = m.settle t ∧
          noted s m { th with v := (m.thread t).v, out := gone, cntLd := th.cntLd - 1 }
            (fun line => ∃ y ∈ bits, ∃ j, y.2 = some j ∧ line = (xs j).line) ∧
          (∀ r i, i < 64 → r ≠ d ∨ (∀ y ∈ bits, y.1 ≠ i) → (m.thread t).rv r i = th.rv r i) ∧
          ∀ y ∈ bits, (m.thread t).rv d y.1 = if a.dests.contains (.v d y.1)
            then BitVec.ofNat 32 (match y.2 with | none => 1 | some j => bit j) else th.rv d y.1) ∧
      (∀ (new : Bool) (pa : Nat → Nat), a.op = .resw d map new bits → s.poison = [] →
        (∀ c : Mem, (∀ y, (∀ z ∈ bits, ∀ j, z.2 = some j → y ≠ pa j) → mget c y = mget s.cellar y) → ∀ z ∈ bits, ∀ j, z.2 = some j →
          addrBad (map + j / 8) 1 = false ∧ ({ s with cellar := c } : State).translate p (map + j / 8) = .ok (xs j) ∧
          (xs j).cls = .shared ∧ (xs j).w = true ∧ (xs j).back = .cellar (pa j) ∧
          ({ s with cellar := c } : State).writeLocked (.mem p (xs j).line) = false ∧
          ({ s with cellar := c } : State).readLocked (.mem p (xs j).line) = false) →
        let was (j : Nat) : Bool := (mget s.cellar (pa j)).getLsbD (j % 8)
        let same (i j : Nat) : Prop := pa i = pa j ∧ i % 8 = j % 8
        Completes (.storePerformed t id) s fun w => ∃ m : State, w = m.settle t ∧
          m = { s.setThread t { th with v := (m.thread t).v, out := gone, cntSt := th.cntSt - 1 } with cellar := m.cellar } ∧
          (∀ y b, b < 8 → (mget m.cellar y).getLsbD b = true ↔
            ((∃ z ∈ bits, ∃ j, z.2 = some j ∧ pa j = y ∧ j % 8 = b) ∧ new = true) ∨
              (¬ (∃ z ∈ bits, ∃ j, z.2 = some j ∧ pa j = y ∧ j % 8 = b) ∧ (mget s.cellar y).getLsbD b = true)) ∧
          (∀ r i, i < 64 → r ≠ d ∨ (∀ y ∈ bits, y.1 ≠ i) → (m.thread t).rv r i = th.rv r i) ∧
          ∀ pre z post, bits = pre ++ z :: post →
            (a.dests.contains (.v d z.1) = false → (m.thread t).rv d z.1 = th.rv d z.1) ∧
            (a.dests.contains (.v d z.1) = true → z.2 = none → (m.thread t).rv d z.1 = 2) ∧
            (a.dests.contains (.v d z.1) = true → ∀ j, z.2 = some j → ((m.thread t).rv d z.1 = 0 ∨ (m.thread t).rv d z.1 = 1) ∧
              ((m.thread t).rv d z.1 = 1 ↔
                ((∃ e ∈ pre, ∃ i, e.2 = some i ∧ same i j) ∧ new = true) ∨ (¬ (∃ e ∈ pre, ∃ i, e.2 = some i ∧ same i j) ∧ was j = true)))))) ∧
  (∀ (s : State) (t : ThreadRef) (p l lp n : Nat) (d : LodDesc) (rest : List (Nat × Nat × Nat)), s.partOf t = some p → t.ca < 4096 →
    tmem s.parts p = true → l < 16 → lp < 16 → n < 2 ^ 32 → d.rid < 2 ^ 16 →
    let part := s.part p
    let col := s.col t.ca
    let keys := col.filter.filter fun k => decide (s.almanac.toNat < k.born + 2 ^ 20)
    let mine (k : FilterKey) : Prop := k.rid = d.rid ∧ k.level = l ∧ k.page = n
    let size : Nat := if part.grbase.toNat % 32 = 0 then 0 else 2 ^ (part.grbase.toNat % 32)
    let free : Prop := (part.grhead - part.grtail).toNat < size
    let at_ := part.grbase.toNat / 2 ^ 12 % 2 ^ 36 * 4096 + 16 * (part.grhead.toNat % size)
    let taken := s.updPart p fun q => { q with grhead := q.grhead + 1 }
    let refused (u : State) (bad : Bool) : Prop := ∃ g : Word, s.offer t d l lp n = .ok (u.updPart p fun q => { q with govf := g }) ∧
      g.toNat % 2 ^ 32 = min (part.govf.toNat % 2 ^ 32 + 1) 0xFFFFFFFF ∧ g.toNat / 2 ^ 32 % 2 ^ 30 = 0 ∧ g.getLsbD 63 = true ∧
      g.getLsbD 62 = (bad || part.govf.getLsbD 62)
    s.offers t d [] = .ok s ∧
    (∀ u, s.offer t d l lp n = .ok u → s.offers t d ((l, lp, n) :: rest) = u.offers t d rest) ∧
    (∀ x, s.offer t d l lp n = .error x → s.offers t d ((l, lp, n) :: rest) = .error x) ∧
    ((∃ k ∈ keys, mine k) → ∃ k ∈ keys, mine k ∧ s.offer t d l lp n = .ok (s.setCol t.ca { col with
      filter := (keys.filter fun y => !(y.rid == d.rid && y.level == l && y.page == n)) ++ [k] })) ∧
    ((∀ k ∈ keys, ¬ mine k) →
      (¬ free → refused s false) ∧
      (free → ∀ x, s.translate p at_ = .ok x → x.cls = .sync → x.w = true → ∃ bs, bs.length = 16 ∧
        (let r := leNat bs
         r % 2 ^ 40 = s.almanac.toNat % 2 ^ 40 ∧ r / 2 ^ 40 % 2 ^ 12 = 0 ∧ r / 2 ^ 52 % 2 ^ 12 = t.ca ∧ r / 2 ^ 64 % 2 ^ 32 = n ∧
         r / 2 ^ 96 % 2 ^ 8 = 0 ∧ r / 2 ^ 104 % 2 ^ 4 = lp ∧ r / 2 ^ 108 % 2 ^ 4 = l ∧ r / 2 ^ 112 = d.rid) ∧
        s.offer t d l lp n = .ok ((taken.writeBase p x.back bs).setCol t.ca { col with
          filter := (if 64 ≤ keys.length then keys.drop 1 else keys) ++ [⟨d.rid, l, n, s.almanac.toNat⟩] })) ∧
      (free → ∀ x, s.translate p at_ = .ok x → x.cls ≠ .sync ∨ x.w = false → refused taken true) ∧
      (free → ∀ mal, s.translate p at_ = .error (.absent mal) → refused taken true) ∧
      (free → ∀ y, s.translate p at_ = .error (.poison y) → s.offer t d l lp n = .error y)))

/-- R101, R102, R107 to R110, R246 to R249: CTXNEW makes a free tag live under its parent, CTXSET sets CTXCUR, CTXFOLD writes a
cells' marked bytes into base or into its parent's cells, which it materialises, and frees them, CTXRET makes a tag and its live
descendants dead with their cells, CTXQ reads a tag's word; and their traps, in an ordered task those outside its subtree (R110). R106: a
full heap stops a fold. R109: an access outstanding in a tag that becomes free stays dead. Which free tag CTXNEW returns is a free value (R102, log 2). R72: CTXNEW, CTXFOLD and CTXRET that have waited
park before the instruction under a pre-emption request. -/
def Obligations.ContextTags : Prop :=
  ∀ (s : State) (d a : BitVec 5) (g : Guard) (i : TagInfo), threadOk s.cur = true → isDrive s.cur = false → s.guardTrue g = true →
    let x := s.rs a
    let tag : BitVec 12 := x.truncate 12
    let swept := s.sweep s.pid
    let free (t : BitVec 12) : Prop := swept.curPart.tag t = none
    let own : Prop := s.th.ordered = true ∧ x.toNat = s.th.ownTag.toNat
    let mine : Prop := s.th.ordered = false ∨ s.curPart.below s.th.ownTag 4 tag = true
    let word (i : TagInfo) : Word := BitVec.ofNat 64 ((if i.live then 1 else 2) + 2 ^ 2 * i.depth + 2 ^ 16 * i.parent.toNat +
      2 ^ 32 * if tag = 0 then 0 else min (swept.curPart.cells.filter fun c => c.tag == tag).length 0xFFFFFFFF)
    let drained : Prop := s.th.cntSt = 0 ∧ s.th.cntLd ≤ 31 ∧ ∀ o ∈ s.th.out, o.op.isAmo = false
    let calm : Prop := s.th.waited = false ∨ s.mustPark s.cur = false
    let gone (n : BitVec 12) : Prop := s.curPart.live n = true ∧ s.curPart.below tag 4 n = true
    (¬ calm → s.th.out = [] → s.th.engFaults = [] → s.th.cntLd = 0 → s.th.cntSt = 0 → s.th.cntCp = 0 → s.th.cntTl = 0 → s.th.cntFx = 0 →
      ∀ i ∈ [Instr.ctxnew d a g, .ctxfold a g, .ctxret a g], Completes i s fun t => ThreadBecomes s t { s.th with
        run := .parked, park := .preempt .ready, preReq := none, ibuf := [], waited := false, pc := s.th.ipc, held := true,
        taken := false }) ∧
    (4096 ≤ x.toNat → (calm → ∀ i ∈ [Instr.ctxnew d a g, .ctxfold a g, .ctxret a g], exec i s = .next (s.trap .ctxDead)) ∧
      exec (.ctxset a g) s = .next (s.trap .ctxDead) ∧
      Completes (.ctxq d a g) s fun t => ScalarWrite s t d 0) ∧
    (calm → x = 0 ∨ own → exec (.ctxfold a g) s = .next (s.trap .protection) ∧ exec (.ctxret a g) s = .next (s.trap .protection)) ∧
    (x.toNat < 4096 → s.curPart.live tag = false → (calm → exec (.ctxnew d a g) s = .next (s.trap .ctxDead)) ∧
      exec (.ctxset a g) s = .next (s.trap .ctxDead) ∧
      (calm → x ≠ 0 → ¬ own → exec (.ctxfold a g) s = .next (s.trap .ctxDead) ∧ exec (.ctxret a g) s = .next (s.trap .ctxDead))) ∧
    (calm → x.toNat < 4096 → s.curPart.tag tag = some i → i.live = true → ¬ mine ∨ i.depth = 3 →
      exec (.ctxnew d a g) s = .next (s.trap .protection)) ∧
    (x.toNat < 4096 → ¬ mine → exec (.ctxq d a g) s = .next (s.trap .protection) ∧
      (s.curPart.live tag = true → exec (.ctxset a g) s = .next (s.trap .protection) ∧
        (calm → ∀ i ∈ [Instr.ctxfold a g, .ctxret a g], exec i s = .next (s.trap .protection)))) ∧
    (∀ n j, s.curPart.tag n = some j → j.live = false → s.tagFreed s.pid n = true → s.cur.ca ∈ s.heldBy s.pid →
      free n ∧ ∀ o ∈ swept.th.out, o.tag = n → o.stale = true) ∧
    (∀ addr l n (k : Kind), s.translate s.pid addr = .ok l → l.ext = true → k = .load ∨ k = .store → s.slotOk s.pid s.cur l.back = true →
      l.permits k s.cur.ca s.th.ordered = true → s.judge s.cur k n true s.th.ordered addr = .error (.fault .ctxDead)) ∧
    (calm → x.toNat < 4096 → s.curPart.tag tag = some i → i.live = true → mine → i.depth ≠ 3 → tmem s.parts s.pid = true →
      swept.curPart.pol.taglim ≤ 4096 → swept.curPart.pool ≠ 0 →
      swept.frontierWaits = false → Completes (.ctxnew d a g) s fun t => ∃ n u, n ≠ 0 ∧ n.toNat < swept.curPart.pol.taglim ∧ free n ∧
        u.curPart.tag n = some ⟨true, tag, i.depth + 1⟩ ∧ (∀ m, m ≠ n → u.curPart.tag m = swept.curPart.tag m) ∧
        u = { swept.updCurPart fun p => { p with tags := u.curPart.tags } with freeCtr := swept.freeCtr + 1 } ∧
        ScalarWrite u t d (n.zeroExtend 64)) ∧
    (x.toNat < 4096 → s.curPart.live tag = true → mine → Completes (.ctxset a g) s fun t =>
      ThreadBecomes s t { s.th with ctxcur := tag }) ∧
    (x.toNat < 4096 → mine → Completes (.ctxq d a g) s fun t =>
      ScalarWrite swept t d (match swept.curPart.tag tag with | some i => word i | none => 0)) ∧
    (calm → x.toNat < 4096 → x ≠ 0 → ¬ own → mine → s.curPart.live tag = true → drained →
      (∀ c pa l, s.engineNames s.pid tag = false → s.curPart.tag tag = some ⟨true, 0, i.depth⟩ →
        (s.curPart.cells.filter fun c => c.tag == tag) = [c] → s.translate s.pid (c.line * 64) = .ok l → l.back = .cellar pa →
        pa % 64 = 0 → (∀ e ∈ s.poison, e.at_ ≠ .cellar (pa / 64) ∧ e.at_ ≠ .cell s.pid c.tag c.line) → Completes (.ctxfold a g) s fun t =>
          t = { s.updCurPart fun p => { p with cells := p.cells.filter fun y => !(y.tag == tag && y.line == c.line) } with
                cellar := t.cellar } ∧
          ∀ y, mget t.cellar y = if pa ≤ y ∧ y < pa + 64 ∧ c.mask.getLsbD (y - pa) = true
            then BitVec.ofNat 8 (c.data.toNat / 2 ^ (8 * (y - pa))) else mget s.cellar y) ∧
      (let cs := s.curPart.cells.filter fun c => c.tag == tag
       ∀ (up : BitVec 12) (ls : Nat → Xlat) (pa : Nat → Nat), s.engineNames s.pid tag = false → s.poison = [] →
        s.curPart.tag tag = some ⟨true, up, i.depth⟩ → cs ≠ [] → (cs.map (·.line)).Nodup →
        (∀ m : Mem, (∀ y, (∀ c ∈ cs, y < pa c.line ∨ pa c.line + 64 ≤ y) → mget m y = mget s.cellar y) → ∀ c ∈ cs,
          ({ s with cellar := m } : State).translate s.pid (c.line * 64) = .ok (ls c.line) ∧ (ls c.line).back = .cellar (pa c.line) ∧
          pa c.line % 64 = 0 ∧ (ls c.line).ext = true ∧ (ls c.line).line = c.line ∧ c.mask ≠ 0) →
        (up = 0 → Completes (.ctxfold a g) s fun t =>
          t = { s.updCurPart fun p => { p with cells := p.cells.filter fun y => y.tag != tag } with cellar := t.cellar } ∧
          ∀ y, mget t.cellar y = cs.foldl (fun b c => if pa c.line ≤ y ∧ y < pa c.line + 64 ∧ c.mask.getLsbD (y - pa c.line) = true
            then BitVec.ofNat 8 (c.data.toNat / 2 ^ (8 * (y - pa c.line))) else b) (mget s.cellar y)) ∧
        (up ≠ 0 → up ≠ tag → s.curPart.cells.length < s.curPart.pol.cellq → tmem s.parts s.pid = true → Completes (.ctxfold a g) s fun t =>
          t = (s.updCurPart fun p => { p with cells := t.curPart.cells, highCells := t.curPart.highCells }) ∧
          (∀ l, t.curPart.cellAt tag l = none) ∧
          (∀ h l, h ≠ tag → h ≠ up ∨ (∀ c ∈ cs, c.line ≠ l) → t.curPart.cellAt h l = s.curPart.cellAt h l) ∧
          ∀ c ∈ cs, ∃ k, t.curPart.cellAt up c.line = some k ∧
            k.mask = c.mask ||| (match s.curPart.cellAt up c.line with | some e => e.mask | none => 0) ∧
            ∀ j < 64, k.data.toNat / 2 ^ (8 * j) % 2 ^ 8 = (if c.mask.getLsbD j then c.data else s.readLine s.pid (ls c.line) up).toNat / 2 ^ (8 * j) % 2 ^ 8) ∧
        (∀ c rest, up ≠ 0 → cs = c :: rest → s.curPart.cellAt up c.line = none → s.curPart.pol.cellq ≤ s.curPart.cells.length →
          exec (.ctxfold a g) s = .next (s.trapAt .cellHeapFull (c.line * 64)))) ∧
      ((∀ n, gone n → s.engineNames s.pid n = false) → Completes (.ctxret a g) s fun t =>
        t = (s.updCurPart fun p => { p with cells := t.curPart.cells, tags := t.curPart.tags }) ∧
        (∀ c, c ∈ t.curPart.cells ↔ c ∈ s.curPart.cells ∧ ¬ gone c.tag) ∧
        ∀ n, (gone n → t.curPart.live n = false) ∧ (¬ gone n → t.curPart.tag n = s.curPart.tag n)))

/-! ### Tasks, barriers, messages and exchange -/

/-- R256: SPAWNR's traps in their order, and a reservation: a fresh 64-byte slot of the queue backing (which, is a free value: log
2), its priority and class written, at the named column for class 0, else at the column that R69 chooses, once for a spawn that
stalls (R280). TADDR 0 of its column's ADDR_RANGE and PROTECTION is the model's reading (log 31). R69: the placement in a domain: the
plain choice where it reads at or below THDISP, else the lowest reading there among the allowed, the first after the plain choice; and
the counts advance. -/
def Obligations.Spawning : Prop :=
  (∀ (s : State) (d a b : BitVec 5) (g : Guard), threadOk s.cur = true → isDrive s.cur = false → s.guardTrue g = true →
    let i : Instr := .spawnr d a b g
    let x := s.rs b
    let prio := x.toNat % 4
    let pclass := x.toNat / 4 % 8
    let ca := (s.rs a).toNat % 4096
    let held := (s.curPart.slots.filter fun e => e.owner == s.cur).length
    let named : Prop := pclass = 0 → caOk ca = true ∧ s.curPart.pol.has ca = true ∧ ca ∉ s.retired
    let target : Nat × State := if pclass = 0 then (ca, s)
      else match s.th.wait with | .spawn kept _ => (kept, s) | _ => s.place (if pclass = 5 then 0 else pclass)
    (5 < pclass → exec i s = .next (s.trap .illegalInstr)) ∧
    (pclass = 0 → caOk ca = false → exec i s = .next (s.trap .addrRange)) ∧
    (pclass = 0 → caOk ca = true → s.curPart.pol.has ca = false ∨ ca ∈ s.retired → exec i s = .next (s.trap .protection)) ∧
    (pclass ≤ 5 → named → 8 ≤ held → exec i s = .next (s.takeTrap s.cur .queueFull 8 s.th.ipc ⟨false, false, true⟩)) ∧
    (pclass ≤ 5 → named → held < 8 →
      (target.2.queueFull target.2.pid target.1 prio = true → exec i s = .next (target.2.stall (.spawn target.1 prio))) ∧
      (target.2.queueFull target.2.pid target.1 prio = false → Completes i s fun t => ∃ n u, n % 64 = 0 ∧ Config.queueBacking ≤ n ∧
        n < Config.fwWindowEnd ∧
        (let q : Partition := target.2.curPart
         let sl : Slot := ⟨n, target.2.cur, target.1, BitVec.ofNat 3 pclass, BitVec.ofNat 2 prio,
            BitVec.ofNat 512 ((4 * pclass + prio) * 2 ^ (8 * 34))⟩
         let w : State := { target.2 with poison := s.poison.filter fun e => e.at_ != Place.slot s.pid n }.updCurPart fun _ =>
           { q with slots := q.slots ++ [sl] }
         u = { w with freeCtr := target.2.freeCtr + 1 }.upd fun th => { th with resv := th.resv ++ [n], wait := .none }) ∧
        ScalarWrite u t d (BitVec.ofNat 64 n)))) ∧
  (∀ (s : State) (level : Nat),
    let pol := s.curPart.pol
    let id := domIdAt s.here.domid level
    let m := (s.members pol).filter fun ca => decide (level = 0) || domIdAt (s.colOf pol.part ca).domid level == id
    let x := (s.curPart.places.find? fun y => y.level == level && y.id == id).getD ⟨level, id, 0, []⟩
    let n := m.length
    let actual (j : Nat) : Nat := tget x.actual j 0
    let dev (j : Nat) : Int := (actual j : Int) - ((List.range x.n).filter fun k => k % n == j).length
    let j0 := x.n % n
    let reading (j : Nat) : Nat := let c := s.col (m.getD j 0); min 0xFFFF (c.temp.toNat / 16 + 2 * c.droop.toNat)
    let low (j : Nat) : Prop := reading j ≤ s.curPart.thdisp.toNat
    let good (j : Nat) : Prop := j < n ∧ low j ∧
      (j = j0 ∨ dev j + 1 ≤ (s.curPart.pdist.toNat : Int) ∧ -(s.curPart.pdist.toNat : Int) ≤ dev j0 - 1)
    let after (j : Nat) : Nat := (j + n - j0 - 1) % n
    m ≠ [] → ∃ j < n, (low j0 ∨ (∀ k, ¬ good k) → j = j0) ∧
      (¬ low j0 → (∃ k, good k) → good j ∧ ∀ k, good k → reading j < reading k ∨ (reading j = reading k ∧ after j ≤ after k)) ∧
      s.place level = (m.getD j 0, s.updCurPart fun q => { q with
        places := q.places.filter (fun y => !(y.level == level && y.id == id)) ++ [⟨level, id, x.n + 1, tset x.actual j (actual j + 1)⟩] }))

/-- R257 to R259, R263: STAMP and SPAWNC refuse what is no slot of the thread; STAMP stores the stamp, saturated, and writes it to
d; SPAWNC commits the slot's record to its queue behind its thread's accesses, or holds it in an ordered task, or, at a column
that another partition still runs, issues it as a store (R432), and a poisoned slot is consumed (R450); JOIN issues its decrement.
R49, R260 to R262: TEND, YIELD and AWAIT of a thread whose counters are 0. TEND of no task, and of a plain task without C, leaves
the thread Idle, its lease and lanes released; with C it decrements JOIN at PARENT first, or traps as that refuses it, and at 0 commits
the written-back parent (R50); of an ordered task, Waiting for its commit. YIELD commits the continuation to the
thread's own column and leaves it Idle. AWAIT writes the continuation in base and goes on where JOIN is at or below 0. The model's
choice or reading: LEASE_MISUSE before AWAIT's checks of sa (log 85), AWAIT's write and JOIN step in one move (log 51), TADDR 0 of
SPAWNC's checks of a record (log 31), the alignment of TEND's PARENT (log 79). -/
def Obligations.CommittingAndEnding : Prop :=
  (∀ (s : State) (d a b : BitVec 5) (g : Guard), threadOk s.cur = true → isDrive s.cur = false → s.guardTrue g = true →
     let x := (s.rs a).toNat
     let sum := s.th.tscur.toNat + (s.rs b).toNat
     let stamp : Word := if 2 ^ 64 ≤ sum then BitVec.allOnes 64 else BitVec.ofNat 64 sum
     (s.heldSlot (s.rs a) = none → exec (.spawnc a g) s = .next (s.trapAt .protection x) ∧
       exec (.stamp d a b g) s = .next (s.trapAt .protection x)) ∧
     (∀ sl, s.heldSlot (s.rs a) = some sl →
       (s.th.cntSt < 31 → Completes (.stamp d a b g) s fun t => ∃ u,
         Issued s u .st [⟨0, sl.addr + 24, 8, stamp⟩] s.th.ctxcur [] ∧ ScalarWrite u t d stamp) ∧
       ((∀ o ∈ s.th.out, o.op.isLoad = true ∨ sl.addr / 64 ∉ o.lines) →
         let bad : Prop := ∃ e ∈ s.poison, e.at_ = .slot s.pid sl.addr
         (bad → exec (.spawnc a g) s = .next (s.consume s.cur (.slot s.pid sl.addr))) ∧
         (∀ c, ¬ bad → s.recordTrap sl.data = some c → exec (.spawnc a g) s = .next (s.trap c)) ∧
         (¬ bad → s.recordTrap sl.data = none →
           let r : Rec := { Rec.ofBits sl.data with x := sl.ca != s.cur.ca, pclass := sl.pclass, prio := sl.prio }
           let u := s.upd fun th => { th with resv := th.resv.filter fun n => n != sl.addr }
           let v := u.updCurPart fun p => { p with slots := p.slots.filter fun e => e.addr != sl.addr }
           (s.th.ordered = false → (s.col sl.ca).holder = some s.pid → Completes (.spawnc a g) s fun t =>
             t = v.enqueueAs s.pid sl.ca sl.prio.toNat r s.lineage sl.addr (some (s.cur, s.nextId)) none) ∧
           (s.th.ordered = false → (s.col sl.ca).holder ≠ some s.pid → s.th.cntSt < 31 → Completes (.spawnc a g) s fun t =>
             Issued v t (.spawn r sl.ca sl.addr s.lineage) [] s.th.ctxcur []) ∧
           (s.th.ordered = true → Completes (.spawnc a g) s fun t =>
             t = { u.updCurPart fun p => { p with otasks := p.otasks.map fun o =>
                     if o.tag = s.th.ownTag then { o with spawns := o.spawns ++ [⟨r, sl.ca, sl.addr, s.nextId⟩] } else o } with
                   nextId := s.nextId + 1 })))) ∧
     (s.th.cntSt < 31 → s.reaches x 64 64 → inScratch x = false → Completes (.join a g) s fun t =>
       Issued s t .join [⟨0, x + 36, 4, 0⟩] s.th.ctxcur [])) ∧
  (∀ (s : State) (a : BitVec 5), threadOk s.cur = true → s.th.out = [] → s.th.engFaults = [] → s.th.cntLd = 0 → s.th.cntSt = 0 →
     s.th.cntCp = 0 → s.th.cntTl = 0 → s.th.cntFx = 0 → isDrive s.cur = false → isService s.cur = false →
     let th := s.th
     let leased : Prop := ∃ n, s.here.lease = some (s.cur.tid, n)
     let idle : Thread := { Thread.reset with sent := th.sent, resv := th.resv, preReq := th.preReq }
     let endedFrom (w t : State) : Prop := ∃ u, (leased → u = w.setCol s.cur.ca { w.col s.cur.ca with lease := none, leaseUntil := none }) ∧
       (¬ leased → u = w) ∧ t = u.setThread s.cur { idle with run := .idle, vl := 0 }
     let ended (t : State) : Prop := endedFrom s t
     let cont : Rec := { (match th.task with | some k => k.r | none => ⟨0, 0, 0, 0, false, false, false, 0, 0, 0, 0, 0, 0, 0⟩) with
       code := th.pc, frame := s.rs 30, arg0 := s.rs 1, arg1 := s.rs 2, arg2 := s.rs 3 }
     let gone (u t : State) : Prop := t = u.setThread s.cur { idle with
       run := .idle, vl := (u.thread s.cur).vl, laneReq := (u.thread s.cur).laneReq, laneHeld := (u.thread s.cur).laneHeld }
     (th.task = none ∨ (∃ k, th.task = some k ∧ k.r.o = false ∧ k.r.c = false) → Completes .tend s ended) ∧
     (∀ k, th.task = some k → k.r.o = false → k.r.c = true →
       let at_ := k.r.parent.toNat
       (∀ c, s.coreTraps at_ 64 64 c → exec .tend s = .next (s.trapAt c at_)) ∧
       (s.reaches at_ 64 64 → inScratch at_ = true → exec .tend s = .next (s.trapAt .protection at_)) ∧
       (s.reaches at_ 64 64 → inScratch at_ = false →
         (∀ c, s.judge s.cur .red 0 false th.ordered (at_ + 36) = .error (.fault c) → exec .tend s = .next (s.trapAt c (at_ + 36))) ∧
         (∀ x, s.judge s.cur .red 0 false th.ordered (at_ + 36) = .ok x → s.taint s.pid x 0 = none →
           let new := BitVec.ofNat 32 (leNat (s.readXlat s.pid x 0 (at_ + 36) 4) + 0xFFFFFFFF)
           let w := s.writeXlat s.pid x 0 (at_ + 36) (leBytes 4 new.toNat)
           let line := BitVec.ofNat 512 (leNat (w.readXlat s.pid { x with back := x.back.lineStart } 0 0 64))
           let held := s.curPart.wb.find? fun e => e.addr == at_
           (0 < new.toInt ∨ (new = 0 ∧ held = none) → Completes .tend s (endedFrom w)) ∧
           (new.toInt < 0 → Completes .tend s (endedFrom (w.updCurPart fun q => { q with negJoins := q.negJoins + 1 }))) ∧
           (∀ e, new = 0 → held = some e → Completes .tend s (endedFrom
             ((w.updCurPart fun q => { q with wb := q.wb.filter fun y => !(y.addr == at_) }).enqueue s.pid e.ca e.prio.toNat
               { Rec.ofBits line with join := 0 } e.lin at_)))))) ∧
     (∀ k, th.task = some k → k.r.o = true → (∀ o, s.curPart.otaskOf k.r.tag = some o → o.tie = false) →
       Completes .tend s fun t => ThreadBecomes s t { th with run := .waiting, wait := .commit, since := s.now, mark := s.nextId }) ∧
     (leased → exec .yield s = .next (s.trap .leaseMisuse) ∧ exec (.await a) s = .next (s.trap .leaseMisuse)) ∧
     (¬ leased → th.preReq = none →
       ((∃ e ∈ s.poison, e.at_ = .home s.cur.ca ((Config.recordSlots - Config.homeBase + 64 * s.cur.tid) / 64)) →
         exec .yield s = .next (s.consume s.cur (.home s.cur.ca ((Config.recordSlots - Config.homeBase + 64 * s.cur.tid) / 64)))) ∧
       ((∀ e ∈ s.poison, e.at_ ≠ .home s.cur.ca ((Config.recordSlots - Config.homeBase + 64 * s.cur.tid) / 64)) →
         Completes .yield s fun t => ∃ u, gone u t ∧
         let off := Config.recordSlots - Config.homeBase + 64 * s.cur.tid
         let r : Rec := { cont with join := BitVec.ofNat 32 (leNat (mread s.here.home (off + 36) 4)) }
         u = (s.setCol s.cur.ca { s.here with home := mwrite s.here.home off r.bytes }).enqueue s.pid s.cur.ca r.prio.toNat r
           (s.lineage.drop 1) 0) ∧
       (∀ x, s.reaches (s.rs a).toNat 64 64 → inScratch (s.rs a).toNat = false → s.awaitPage (s.rs a).toNat = .ok x →
         let old := s.readLine s.pid x 0
         let join := BitVec.ofNat 32 (old.toNat / 2 ^ (8 * 36))
         let w := s.writeXlat s.pid { x with back := x.back.lineStart } 0 0 (leBytes 64 ({ cont with join := join } : Rec).bits.toNat)
         (join.toInt ≤ 0 → Completes (.await a) s fun t => t = w) ∧
         (0 < join.toInt → Completes (.await a) s fun t => ∃ u, gone u t ∧
           u = w.updPart s.pid fun q => { q with wb := q.wb.filter (fun e => e.addr != (s.rs a).toNat) ++
             [⟨(s.rs a).toNat, s.cur.ca, cont.prio, s.lineage.drop 1, if cont.o then cont.tag else 0⟩] }))))

/-- R264, R265, R63: BAR and BARV, in their plain and exchange forms, are refused to a lease holder, to an ordered task and in an
open exchange phase; otherwise the thread waits in place with its level, form and vote. DOMQ reads the domain's ID, its column
count and the issuing column's rank. R59, R61, R63, R137: a barrier releases when every column of its domain has arrived, the
loads and stores of its waiting threads have performed (log 56) and the ordered tasks that went out from them before it have
committed. Then all of them go on at one tick, t0; each BARV writes the operation over all values; an exchange form opens a phase
at t0; where they do not agree, each traps with ILLEGAL_INSTR, its lanes as they were (log 92). R60: a barrier whose wait, from its first
general thread on, passes BARWD, in microseconds, kills its partition with code 0x19; BARWD 0 means no watchdog. -/
def Obligations.BarriersAndVotes : Prop :=
  (∀ (s : State) (l : BitVec 3) (d a : BitVec 5) (o : VoteOp) (g : Guard), isDrive s.cur = false →
     let th := s.th
     let key : Nat × Nat := (l.toNat, domIdAt s.here.domid l.toNat)
     let leased : Prop := ∃ n, s.here.lease = some (s.cur.tid, n)
     let kind (i : Instr) (x : Bool) (v : Option (VoteOp × BitVec 16 × BitVec 5)) : Prop :=
       (i = .bar l ∧ x = false ∧ v = none) ∨ (i = .barX l ∧ x = true ∧ v = none) ∨
       (i = .barv d a o l ∧ x = false ∧ v = some (o, (s.rs a).truncate 16, d)) ∨
       (i = .barvX d a o l ∧ x = true ∧ v = some (o, (s.rs a).truncate 16, d))
     (∀ i x v, kind i x v → Runs i s →
       (leased → exec i s = .next (s.trap .leaseMisuse)) ∧
       (¬ leased → th.ordered = true → exec i s = .next (s.trap .protection)) ∧
       (¬ leased → th.ordered = false → th.phase ≠ none → exec i s = .next (s.trap .xslot)) ∧
       (¬ leased → th.ordered = false → th.phase = none → ∀ q, s.waitFault s.cur 0 0 = some q → exec i s = .next (s.deliver q)) ∧
       (¬ leased → th.ordered = false → th.phase = none → th.preReq = none → (∀ q ∈ th.out, q.status = .pending) →
         Completes i s fun t => ∃ u,
           (u = if isService s.cur ∨ (∃ b ∈ s.curPart.barWait, b.1 = key) then s
             else s.updCurPart fun q => { q with barWait := q.barWait ++ [(key, s.now)] }) ∧
           ThreadBecomes u t { th with run := .waiting, wait := .barrier l.toNat x v, since := s.now, mark := s.nextId })) ∧
     (Runs (.domq d g l) s →
       let m := (s.members s.curPart.pol).filter fun ca =>
         decide (l = 0) || (domIdAt (s.colOf s.curPart.pol.part ca).domid l.toNat == domIdAt s.here.domid l.toNat)
       let rank := (m.filter fun ca => decide (ca < s.cur.ca)).length
       Completes (.domq d g l) s fun t => ScalarWrite s t d (BitVec.ofNat 64 (key.2 + 2 ^ 8 * m.length + 2 ^ 20 * rank)))) ∧
  (∀ (s : State) (p level id : Nat),
     let i : Instr := .barrierRelease p level id
     let q := s.part p
     let cas := s.domain q.pol level id
     let ws := s.waiters level id cas
     let votes := ws.map s.voteOf
     let x := votes.any fun v => v.1
     let cast := votes.filterMap fun v => v.2
     let swept := s.sweep p
     let may : Prop := q.here = true ∧ ws ≠ [] ∧ (∀ ca ∈ cas, (s.col ca).holder = some p ∧
         ∀ n < 24, s.barrierOf ⟨ca, n⟩ = some (level, id) ∨ ((s.thread ⟨ca, n⟩).run = .idle ∧ swept.poppable p ca = false)) ∧
       (∀ t ∈ ws, (s.thread t).cntSt = 0 ∧ (s.thread t).cntLd = 0) ∧ swept.orderedDone p ws = true
     let agree : Prop := ∀ v ∈ votes, ∀ w ∈ votes, v.1 = w.1 ∧ v.2.map (fun e => e.1) = w.2.map (fun e => e.1)
     let result (o : VoteOp) (r : BitVec 16) : Prop := match o with
       | .opAnd => ∀ j < 16, r.getLsbD j = cast.all fun e => e.2.1.getLsbD j
       | .opOr => ∀ j < 16, r.getLsbD j = cast.any fun e => e.2.1.getLsbD j
       | .opMax => (∃ e ∈ cast, r = e.2.1) ∧ ∀ e ∈ cast, e.2.1.toNat ≤ r.toNat
     (¬ may → exec i s = .next s) ∧
     (may → agree → Completes i s fun t =>
       (∀ w ∈ ws, (t.thread w).run = .ready ∧ (t.thread w).wait = .none ∧ (t.thread w).phase = (if x then some s.now else none) ∧
         ∀ o v d, (s.voteOf w).2 = some (o, v, d) → ∃ r, result o r ∧ (t.thread w).rs d = if d = 0 then 0 else r.zeroExtend 64) ∧
       (∀ w, w ∉ ws → t.thread w = s.thread w) ∧
       (∀ ca ∈ cas, (t.col ca).domLevel = BitVec.ofNat 3 level ∧ (t.col ca).domX = x ∧ (cas.Nodup → (t.col ca).domEpoch = (s.col ca).domEpoch + 1) ∧
         (x = true → (t.col ca).xcount = 0)) ∧ SameMemory s t) ∧
     (may → ¬ agree → exec i s = .next (((s.updPart p fun y => { y with
       barWait := y.barWait.filter (fun b => b.1 != (level, id)),
       places := y.places.filter fun b => !(b.level == level && b.id == id) }).updCols cas fun c => { c with
         domLevel := BitVec.ofNat 3 level, domX := false, domEpoch := c.domEpoch + 1, mrots := 0, rotsSent := [] }).each ws fun u w =>
         u.takeTrap w .illegalInstr 0 (u.thread w).ipc ⟨false, false, false⟩))) ∧
  (∀ (s : State) (p level id since : Nat), (s.part p).barWait.find? (fun b => b.1 == (level, id)) = some ((level, id), since) →
     let wd := (s.part p).pol.barwd
     let waits : Prop := ∃ w ∈ s.waiters level id (s.heldBy p), isService w = false
     (wd ≠ 0 → since + 1000 * wd < s.now → waits →
       Completes (.barrierWatchdog p level id) s fun t => t = s.killPart p 0x19) ∧
     (wd = 0 ∨ s.now ≤ since + 1000 * wd ∨ ¬ waits → exec (.barrierWatchdog p level id) s = .next s))

/-- R266, R267: SEND captures the 64 bytes at sa and a header with the sender, the channel, the count of its earlier messages
there and the almanac, puts the message on its way and raises the FIFO/exchange counter; and its traps. R268 to R270: RECV removes
the message it takes and writes its 80 bytes to sa and header bytes 0 to 7 to d, or waits; on channel 16 it takes the oldest
arrived entry and raises SPILL, and a general thread may not; a general RECV takes replayed entries first, and no others while
SPILL is above 0. RECVQ counts what it could take. RPLAY puts an entry back and lowers SPILL, where a place is free. R450: each consumes the poison of a
line of the entry that it uses. TADDR 0 of SEND's refusal of its target is the model's reading (log 31); so is that they wait for the
locks of the thread's earlier commands (log 98). -/
def Obligations.Messages : Prop :=
  (∀ (s : State) (a b : BitVec 5) (g : Guard), Runs (.send a b g) s → s.th.cntFx < 31 →
     let i : Instr := .send a b g
     let addr := (s.rs a).toNat
     let w := (s.rs b).toNat
     let ca := w % 4096
     let drv : Bool := w / 4096 % 2 == 1
     let ch := w / 65536 % 16
     let me := s.cur
     let drive : Bool := isDrive me
     let key : Nat × Nat × Bool := (ch, ca, drv)
     let earlier := ((s.th.sent.find? fun e => e.1 == key).map fun e => e.2).getD 0
     let hdr : Nat := (me.ca + 2 ^ 15 * drive.toNat) + 2 ^ 16 * (if drive then me.tid - 32 else me.tid) +
       2 ^ 24 * (ch + 16 * drv.toNat) + 2 ^ 32 * (earlier % 2 ^ 32) + 2 ^ 64 * s.almanac.toNat
     let both (p : Nat) : Prop := s.presHolder = some p ∧ s.curPart.pol.chmask.getLsbD ch = true ∧ (s.part p).pol.chmask.getLsbD ch = true
     let open_ : Prop := s.th.ordered = false ∧ ch ≠ 15 ∧
       (drv = true → s.curPart.pol.pres = true ∨ ∃ p, both p) ∧
       (drv = false → s.curPart.pol.has ca = true ∧ ca ∉ s.retired)
     (addr + 64 ≤ 2 ^ 48 → addr % 64 ≠ 0 → inRemote addr = false → exec i s = .next (s.trapAt .misaligned addr)) ∧
     (s.reaches addr 64 64 → inScratch addr = false ∨ inRemote addr = true → exec i s = .next (s.trapAt .protection addr)) ∧
     (s.reaches addr 64 64 → inScratch addr = true → inRemote addr = false →
       (caOk ca = false → exec i s = .next (s.trap .addrRange)) ∧
       (caOk ca = true → ¬ open_ → exec i s = .next (s.trap .protection)) ∧
       (caOk ca = true → open_ → (∀ o ∈ s.th.out, o.op.isAmo = false ∧ s.lineOf me addr ∉ s.linesAt me o) →
         s.unregistered me = [] → (drive = false → ∀ e ∈ s.poison, e.at_ ≠ windowPlace me.ca (addr - Config.homeBase)) →
         Completes i s fun t => ∃ m : Msg,
         m.id = s.nextId ∧ m.from_ = some me ∧ m.ca = ca ∧ m.drv = drv ∧ m.hdr = BitVec.ofNat 128 hdr ∧
         m.part = (if drv then s.presHolder.getD 16 else s.pid) ∧ m.fromPart = s.pid ∧
         (∀ j < 64, (if drive then s.driveByte me.ca (addr - Config.homeBase + j)
             else (s.scratchByte me.ca (addr - Config.homeBase + j)).getD 0).toNat = m.pay.toNat / 2 ^ (8 * j) % 256) ∧
         let w := s.setThread me { s.th with
           cntFx := s.th.cntFx + 1, sent := s.th.sent.filter (fun e => e.1 != key) ++ [(key, earlier + 1)] }
         t = { w with net := s.net ++ [m], nextId := s.nextId + 1 } ∧ SameMemory s t) ∧
       (caOk ca = true → open_ → (∀ o ∈ s.th.out, o.op.isAmo = false ∧ s.lineOf me addr ∉ s.linesAt me o) → s.unregistered me = [] →
         drive = false → (∃ e ∈ s.poison, e.at_ = windowPlace me.ca (addr - Config.homeBase)) →
         exec i s = .next (s.consume me (windowPlace me.ca (addr - Config.homeBase)))))) ∧
  (∀ (s : State) (d a c : BitVec 5) (g : Guard) (n : BitVec 5), threadOk s.cur = true →
     let addr := (s.rs a).toNat
     let drv := isDrive s.cur
     let off := addr - Config.homeBase
     let leased : Prop := drv = false ∧ ∃ k, s.here.lease = some (s.cur.tid, k)
     let inHome : Prop := Config.homeBase ≤ addr ∧ addr + 80 ≤ Config.homeBase + if drv then 0x10000 else 0x100000
     let apart : Prop := s.unregistered s.cur = [] ∧ ∀ o ∈ s.th.out, o.op.isAmo = false ∧
       ∀ i, addr / 64 * 64 + 64 * i < addr + 80 → s.lineOf s.cur (addr / 64 * 64 + 64 * i) ∉ s.linesAt s.cur o
     let bad (i : Nat) : Prop := drv = false ∧ off / 64 ≤ i ∧ 64 * i < off + 80 ∧ ∃ e ∈ s.poison, e.at_ = .home s.cur.ca i
     let edge (i : Nat) : Prop := ¬ (off ≤ 64 * i ∧ 64 * i + 64 ≤ off + 80)
     let channel (m : Msg) : Nat := m.hdr.toNat / 2 ^ 24 % 16
     let replayed (k : Nat) : List Msg := (if drv then s.here.dreplay else s.here.replay).filter fun m => channel m == k
     let arrived (k : Nat) : List Msg := (if drv then s.here.dinbox else s.here.inbox).filter fun m => channel m == k
     let spill (k : Nat) : Nat := tget (if drv then s.here.dspill else s.here.spill) k 0
     let takes (k : Nat) : List Msg := if 0 < spill k then replayed k else replayed k ++ arrived k
     let oldest : Option Msg := if c = 16 then (if drv then s.here.dinbox else s.here.inbox).head? else (takes c.toNat).head?
     let recv : Instr := .recv d a c
     let replay : Instr := .rplay d a g
     let back : Nat := (mread (if drv then s.here.drive else s.here.home) off 80).foldr (fun b x => b.toNat + 256 * x) 0
     let k := back / 2 ^ 24 % 16
     let room : Prop := if drv then s.here.dinbox.length + s.here.dreplay.length < 16 else s.here.inbox.length + s.here.replay.length < 64
     (isService s.cur = false → (c = 16 → exec recv s = .next (s.trap .priv)) ∧ exec replay s = .next (s.trap .priv)) ∧
     (Runs recv s → (leased → exec recv s = .next (s.trap .leaseMisuse)) ∧
       (¬ leased → s.th.ordered = true → exec recv s = .next (s.trap .protection)) ∧
       (¬ leased → s.th.ordered = false → addr + 80 ≤ 2 ^ 48 → (addr % 16 ≠ 0 → exec recv s = .next (s.trapAt .misaligned addr)) ∧
         (addr % 16 = 0 → ¬ inHome → exec recv s = .next (s.trapAt .protection addr))) ∧
       (¬ leased → s.th.ordered = false → addr % 16 = 0 → inHome → apart → s.th.preReq = none →
         (oldest = none → Completes recv s fun t => ThreadBecomes s t { s.th with
           run := .waiting, wait := .recv c.toNat, pc := s.th.ipc, held := true, taken := false, since := if s.th.waited then s.th.since else s.now }) ∧
         (∀ m, oldest = some m → (∃ i, bad i ∧ edge i) → ∃ i, bad i ∧ edge i ∧ exec recv s = .next (s.consume s.cur (.home s.cur.ca i))) ∧
         ∀ m, oldest = some m → (∀ i, ¬ bad i) → Completes recv s fun t => ∃ u v,
           u.thread s.cur = s.th ∧
           (∀ y, (if drv then u.driveByte s.cur.ca y else mget u.here.home y) = if off ≤ y ∧ y < off + 80
             then BitVec.ofNat 8 ((m.hdr.toNat + 2 ^ 128 * m.pay.toNat) / 2 ^ (8 * (y - off)))
             else if drv then s.driveByte s.cur.ca y else mget s.here.home y) ∧
           v = (if drv then { s.here with
               dinbox := s.here.dinbox.filter (fun e => e.id != m.id)
               dreplay := s.here.dreplay.filter (fun e => e.id != m.id)
               dspill := if c = 16 then tset s.here.dspill (channel m) (spill (channel m) + 1) else s.here.dspill
               drive := u.here.drive }
             else { s.here with
               inbox := s.here.inbox.filter (fun e => e.id != m.id)
               replay := s.here.replay.filter (fun e => e.id != m.id)
               spill := if c = 16 then tset s.here.spill (channel m) (spill (channel m) + 1) else s.here.spill
               home := u.here.home }) ∧
           u = s.setCol s.cur.ca v ∧ ScalarWrite u t d (m.hdr.truncate 64))) ∧
     (Runs (.recvq d n g) s → Completes (.recvq d n g) s fun t => ScalarWrite s t d (BitVec.ofNat 64 (takes n.toNat).length)) ∧
     (Runs replay s → (addr + 80 ≤ 2 ^ 48 → (addr % 16 ≠ 0 → exec replay s = .next (s.trapAt .misaligned addr)) ∧
         (addr % 16 = 0 → ¬ inHome → exec replay s = .next (s.trapAt .protection addr))) ∧
       (addr % 16 = 0 → inHome → (s.th.ordered = true → exec replay s = .next (s.trap .protection)) ∧
         (s.th.ordered = false → apart → (∃ i, bad i) → ∃ i, bad i ∧ exec replay s = .next (s.consume s.cur (.home s.cur.ca i))) ∧
         (s.th.ordered = false → apart → (∀ i, ¬ bad i) → (spill k = 0 → exec replay s = .next (s.trap .protection)) ∧
           (spill k ≠ 0 → ¬ room → Completes replay s fun t => ScalarWrite s t d 0) ∧
           (spill k ≠ 0 → room → Completes replay s fun t => ∃ u : State, ∃ m : Msg,
             m.id = s.nextId ∧ m.ca = s.cur.ca ∧ m.drv = drv ∧ m.hdr = BitVec.ofNat 128 back ∧ m.pay = BitVec.ofNat 512 (back / 2 ^ 128) ∧
             let v : Column := if drv then { s.here with dreplay := s.here.dreplay ++ [m], dspill := tset s.here.dspill k (spill k - 1) }
               else { s.here with replay := s.here.replay ++ [m], spill := tset s.here.spill k (spill k - 1) }
             u = { s.setCol s.cur.ca v with nextId := s.nextId + 1 } ∧
             ScalarWrite u t d 1)))))

/-- R272 to R275, R361: XSEND's traps in their order, those of an address with it (log 31), and a transfer that passes them, with
its source lines locked against writers, unless an earlier command of its thread is still to register (R144); XRECV writes the
landed count and closes the thread's phase once the expected transfers have landed, or its deadline has come and what R376 says
has landed by then has. R474: a transfer that shares a link with others is not bounded, nor is one that follows it in later slots.
R273: a route's walk: each step crosses a link to the next column in its direction, wraps in a torus and leaves any other
rectangle; turn 1 turns left, 2 right, 3 delivers and goes straight on. R63, R149, R274, R275: a transfer reads its source at its
tick, once the stores and returning AMOs before it have performed (R140) and its source is locked, and frees its source locks; its first beat locks its
lines at a column that is open for landing, its last leaves its bytes there, which the column counts; elsewhere it is discarded
and counted; its sender's counter falls at the last target. -/
def Obligations.ExchangePhases : Prop :=
  (∀ (s : State) (r a : BitVec 5) (n : BitVec 10) (k : BitVec 14), threadOk s.cur = true → isDrive s.cur = false →
     let send : Instr := .xsend r a n
     let recv : Instr := .xrecv r k
     let route := s.rs r
     let span := (s.rs a).toNat
     let lines := n.toNat + 1
     let slot := route.toNat % 4096
     let soff := span % 2 ^ 22
     let doff := span / 2 ^ 22 % 2 ^ 22
     let turn (i : Nat) : Nat := route.toNat / 2 ^ (58 - 2 * i) % 4
     let dir := route.toNat / 2 ^ 60
     let want := (s.rs r).toNat % 65536
     let lands (x : Xfer) : Prop := x.lines ≤ 32 ∧ x.clash = false ∧ s.cur.ca ∈ x.targets ∧ x.date + 60 ≤ s.now ∧
       (x.launched = true → s.mayLand x s.cur.ca = true) ∧ (x.launched = false → s.launchFree x = true ∧ s.landHeld x s.cur.ca = false)
     let due (t0 : Nat) : Prop := want ≤ s.here.xcount ∨ (k ≠ 0 ∧ t0 + 20 * k.toNat ≤ s.now ∧ ∀ x ∈ s.xfers, ¬ lands x)
     let legal (m : Nat) : Prop := m < 24 ∧ turn m = 3 ∧ (∀ i, m < i → i < 24 → turn i = 0) ∧ dir ≤ 3 ∧ span < 2 ^ 44
     (s.th.cntFx < 31 → ((∀ m, ¬ legal m) → exec send s = .next (s.trap .illegalInstr)) ∧
       ∀ m, legal m →
         let rt := s.curPart.pol.route s.cur.ca dir ((List.range (m + 1)).map turn)
         let cut : Prop := ∃ l ∈ rt.links, l ∈ s.retiredLinks ∨ (l.2, l.1) ∈ s.retiredLinks
         let late : Prop := s.th.phase = none ∨ 4096 ≤ slot + (lines + 31) / 32 - 1 ∨ cut ∨ ∃ t0, s.th.phase = some t0 ∧ t0 + 20 * slot < s.now
         let skew : Prop := soff % 64 ≠ 0 ∨ doff % 64 ≠ 0
         let short : Prop := 0x100000 + s.here.loftSize < soff + 64 * lines
         let absent : Prop := short ∨ 0x100000 < doff + 64 * lines ∨ ∃ ca ∈ rt.targets, ca ∈ s.retired
         let todo := (List.range lines).map fun i => scratchLine s.cur.ca (soff + 64 * i)
         let earlier : Prop := (∀ c ∈ s.cmds, c.t = s.cur → c.id < s.nextId → c.registered = true) ∧
           ∀ y ∈ s.xfers, y.t = s.cur → y.id < s.nextId → y.todo = []
         let barred : Prop := s.th.ordered = true ∨ rt.leaves = true
         (late → exec send s = .next (s.trap .xslot)) ∧
         (¬ late → skew → exec send s = .next (s.trapAt .misaligned (Config.homeBase + if soff % 64 ≠ 0 then soff else doff))) ∧
         (¬ late → ¬ skew → absent → ∃ x, exec send s = .next (s.trapAt .scratchAbsent x) ∧
           (short → x = Config.homeBase + soff) ∧ (¬ short → x = Config.homeBase + doff)) ∧
         (¬ late → ¬ skew → ¬ absent → barred → exec send s = .next (s.trap .protection)) ∧
         (¬ late → ¬ skew → ¬ absent → ¬ barred → (∀ y ∈ s.xfers, y.id < s.nextId) → Completes send s fun t => SameMemory s t ∧
           ∃ t0, s.th.phase = some t0 ∧
           let f : Xfer := ⟨s.nextId, s.cur, soff, doff, lines, slot, t0, rt.targets, false, [], todo.map fun l => (l, false), [], rt.links, false⟩
           let meets (y : Xfer) : Bool := f.meets y
           let sent (f : Xfer) (locks : List Machine.Lock) : State := { s.setThread s.cur { s.th with cntFx := s.th.cntFx + 1 } with
             nextId := s.nextId + 1, locks := locks
             xfers := spreadClash (s.xfers.length + 1)
               (s.xfers.map (fun y => if y.meets f then { y with clash := true } else y) ++ [{ f with clash := s.xfers.any meets }]) }
           (¬ earlier → t = sent f s.locks) ∧
           (earlier → (∀ l ∈ s.locks, l.wr = true → l.line ∉ todo) → t = sent { f with todo := [] } (s.locks ++
             todo.map fun l => ⟨l, false, s.nextId⟩)))) ∧
     (s.th.phase = none → exec recv s = .next (s.trap .xslot)) ∧
     (∀ t0, s.th.phase = some t0 →
       let w := s.setThread s.cur { s.th with phase := none }
       let c : Column := { w.here with xopen := s.here.xopen.filter fun m => m != s.cur.tid, xrecvd := true, xlanded := [] }
       (due t0 → Completes recv s fun t => ∃ u, u = { w.setCol s.cur.ca c with
           locks := s.locks.filter fun l => !s.here.xlanded.contains l.owner } ∧
         ScalarWrite u t r (BitVec.ofNat 64 s.here.xcount)) ∧
       (¬ due t0 → Completes recv s fun t => ThreadBecomes s t { s.th with
         run := .stalled, wait := .xrecv r want (if k = 0 then 0 else t0 + 20 * k.toNat), pc := s.th.ipc, held := true, taken := false,
         since := if s.th.waited then s.th.since else s.now }))) ∧
  (∀ (p : Policy) (row col dir turn : Nat) (rest : List Nat), row < p.rows → col < p.cols → dir < 4 → p.originCol + p.cols ≤ 64 →
     let at_ (r c : Nat) : Nat := 64 * (p.originRow + r) + p.originCol + c
     let ahead : Nat × Nat := match dir with
       | 0 => (if row = 0 then p.rows - 1 else row - 1, col)
       | 1 => (row, if col + 1 = p.cols then 0 else col + 1)
       | 2 => (if row + 1 = p.rows then 0 else row + 1, col)
       | _ => (row, if col = 0 then p.cols - 1 else col - 1)
     let crosses : Prop := (dir = 0 ∧ row = 0) ∨ (dir = 1 ∧ col + 1 = p.cols) ∨ (dir = 2 ∧ row + 1 = p.rows) ∨ (dir = 3 ∧ col = 0)
     let next := at_ ahead.1 ahead.2
     let onward := p.route next (if turn = 1 then (dir + 3) % 4 else if turn = 2 then (dir + 1) % 4 else dir) rest
     (crosses → p.torus = false → p.route (at_ row col) dir (turn :: rest) = ⟨[], [], true⟩) ∧
     (¬ crosses ∨ p.torus = true → p.route (at_ row col) dir (turn :: rest) =
       ⟨(at_ row col, next) :: onward.links, if turn = 3 then next :: onward.targets else onward.targets, onward.leaves⟩)) ∧
  (∀ l : List Xfer, let m := spreadClash l.length l
     m.map (fun x => { x with clash := false }) = l.map (fun x => { x with clash := false }) ∧ ((∀ x ∈ l, x.clash = false) → m = l) ∧
     ∀ x ∈ m, ∀ y ∈ m, y.clash = true → y.date ≤ x.date → (∃ k ∈ x.links, k ∈ y.links) → x.clash = true) ∧
  (∀ (s : State) (f : Xfer) (ca : Nat), s.xferOf f.id = some f →
     let bad : Prop := s.rangeTaint f.t [(Config.homeBase + f.soff, 64 * f.lines)] ≠ none
     let due : Prop := f.launched = false ∧ f.t0 + 20 * f.slot ≤ s.now ∧
       (∀ a ∈ (s.thread f.t).out, a.id < f.id → a.op.isLoad = true ∧ a.op.isAmo = false) ∧ f.todo = []
     let begun (n : Nat) : Prop := f.landing.find? (fun l => l.1 == ca) = some (ca, n)
     let new : Prop := ∀ l ∈ f.landing, l.1 ≠ ca
     let dest := (List.range f.lines).map fun i => scratchLine ca (f.doff + 64 * i)
     let c := s.col ca
     let th := s.thread f.t
     let leaves (u t : State) : Prop :=
       (f.targets.erase ca ≠ [] → t = { u with
         xfers := s.xfers.map fun y => if y.id = f.id then { y with targets := f.targets.erase ca } else y }) ∧
       (f.targets.erase ca = [] → th.preReq = none → (∀ o ∈ th.out, o.status = .pending) → t = { u with xfers := s.xfers.filter fun y => y.id != f.id }.setThread f.t
         { u.thread f.t with cntFx := (u.thread f.t).cntFx - 1 })
     (due → ∀ x, s.rangeTaint f.t [(Config.homeBase + f.soff, 64 * f.lines)] = some x →
       exec (.exchangeLaunch f.id) s = .next (s.consume f.t x)) ∧
     (due → ¬ bad → Completes (.exchangeLaunch f.id) s fun t => Becomes s t { s with
       xfers := s.xfers.map fun y => if y.id = f.id then { y with
         launched := true
         data := (List.range f.lines).flatMap fun i => (s.col f.t.ca).scratchRead (f.soff + 64 * i) 64 } else y
       locks := s.locks.filter fun l => l.owner != f.id }) ∧
     (¬ due → exec (.exchangeLaunch f.id) s = .next s) ∧
     (f.launched = true → ca ∈ f.targets → new → c.xopen = [] → Completes (.transferLanding f.id ca) s fun t =>
       leaves (s.updPart ((s.partOf f.t).getD 16) fun q => { q with dropXfers := q.dropXfers + 1 }) t) ∧
     (f.launched = true → ca ∈ f.targets → new → c.xopen ≠ [] →
       ((∃ l ∈ s.locks, l.line ∈ dest) → exec (.transferLanding f.id ca) s = .next s) ∧
       ((∀ l ∈ s.locks, l.line ∉ dest) → Completes (.transferLanding f.id ca) s fun t => Becomes s t { s with
         nextId := s.nextId + 1, locks := s.locks ++ dest.map fun l => ⟨l, true, s.nextId⟩
         xfers := s.xfers.map fun y => if y.id = f.id then { y with landing := y.landing ++ [(ca, s.nextId)] } else y })) ∧
     (∀ n, f.launched = true → ca ∈ f.targets → begun n → f.doff % 64 = 0 → f.data.length = 64 * f.lines →
       f.doff + 64 * f.lines ≤ 0x100000 → Completes (.transferLanding f.id ca) s fun t => ∃ home : Mem,
       leaves { s.setCol ca { c with
           home := home, xcount := c.xcount + 1, xlanded := if c.xrecvd then c.xlanded else c.xlanded ++ [n] } with
         poison := s.poison.filter fun e => !((List.range f.lines).any fun i => e.at_ == Place.home ca (f.doff / 64 + i))
         locks := if c.xrecvd then s.locks.filter fun l => l.owner != n else s.locks } t ∧
       ∀ a, mget home a = if f.doff ≤ a ∧ a < f.doff + f.data.length then f.data.getD (a - f.doff) 0 else mget c.home a))

/-- R276 to R278, R23: VFPUSH captures the entry its format names and a 16-bit tag, and raises the FIFO/exchange counter; it is
refused outside a presentation partition and in an ordered task. VFPOP writes the oldest entry's halves to vd and vd + 1 and its
tag, or stalls; VFFREE counts the free entries. R277, R350: a FIFO with a free place takes the next push whose thread's earlier
stores and returning AMOs have performed (R140), each thread's in order, unless a gating request of the presentation partition holds them back; the pusher's
counter falls. -/
def Obligations.VerticalFifo : Prop :=
  (∀ (s : State) (v : BitVec 4) (r : BitVec 5) (f : FifoFmt),
     let push : Instr := .vfpush v r f
     let pop : Instr := .vfpop v r
     let barred : Prop := s.th.ordered = true ∨ s.curPart.pol.pres = false
     let bits (e : BitVec 1024) (lo n : Nat) : Nat := e.toNat / 2 ^ lo % 2 ^ n
     (Runs push s → s.th.cntFx < 31 → (barred → exec push s = .next (s.trap .protection)) ∧
       (¬ barred → Completes push s fun t => ∃ e : BitVec 1024,
         (match f with
           | .w32 => ∀ i < 32, bits e (32 * i) 32 = (s.rv v i).toNat
           | .w32h => ∀ i < 32, bits e (32 * i) 32 = (s.rv v (32 + i)).toNat
           | .h16 => ∀ i < 64, bits e (16 * i) 16 = (s.rv v i).toNat % 65536) ∧
         let w := s.setThread s.cur { s.th with cntFx := s.th.cntFx + 1 }
         let c : Column := { w.here with pushes := s.here.pushes ++ [⟨s.nextId, s.cur, e, (s.rs r).truncate 16, s.pid⟩] }
         t = { w.setCol s.cur.ca c with nextId := s.nextId + 1 } ∧ SameMemory s t)) ∧
     (Runs pop s → (s.th.waited = false ∨ s.mustPark s.cur = false → ∀ e rest, s.here.fifo = e :: rest → v.toNat % 2 = 0 → Completes pop s fun t => ∃ u w x,
         u = s.setCol s.cur.ca { s.here with fifo := rest } ∧
         VectorWrite u w v (List.range 16) (fun j => BitVec.ofNat 32 (bits e.entry (32 * j) 32)) ∧
         VectorWrite w x (v + 1) (List.range 16) (fun j => BitVec.ofNat 32 (bits e.entry (512 + 32 * j) 32)) ∧
         ScalarWrite x t r (e.tag.zeroExtend 64)) ∧
       (s.here.fifo = [] → s.th.preReq = none → Completes pop s fun t => ThreadBecomes s t { s.th with
         run := .stalled, wait := .fifo, pc := s.th.ipc, held := true, taken := false, since := if s.th.waited then s.th.since else s.now })) ∧
     (Runs (.vffree r) s → Completes (.vffree r) s fun t => ScalarWrite s t r (BitVec.ofNat 64 (16 - s.here.fifo.length)))) ∧
  (∀ (s : State) (ca : Nat) (x : Push) (after : List Push),
     let c := s.col ca
     let th := s.thread x.t
     let held : Prop := (match s.presHolder with | some p => s.colOf p ca | none => c).upReq = true
     (held ∨ 16 ≤ c.fifo.length → exec (.fifoEntry ca) s = .next s) ∧
     (¬ held → c.fifo.length < 16 → c.pushes = x :: after →
       (∀ a ∈ (s.threadOf x.part x.t).out, a.id < x.id → a.op.isLoad = true ∧ a.op.isAmo = false) →
       (∀ y ∈ after, y.id ≠ x.id) → th.preReq = none → (∀ o ∈ th.out, o.status = .pending) → Completes (.fifoEntry ca) s fun t => Becomes s t
         (let u := s.setCol ca { c with fifo := c.fifo ++ [x], pushes := after }
          u.updThreadOf x.part x.t fun th => { th with cntFx := th.cntFx - 1 })))

/-! ### Engines -/

/-- R67, R309: MLEASE is granted at once where the unit is free and no other thread waits, else it stalls; a holder's MLEASE, a
MREL without a lease, and every matrix command without one trap with LEASE_MISUSE; MREL ends the lease. R67: a free matrix unit
goes to the thread waiting in MLEASE that comes first after the last holder, in cyclic order. -/
def Obligations.MatrixLeases : Prop :=
  (∀ (s : State) (n : BitVec 6), threadOk s.cur = true → isDrive s.cur = false →
     let ca := s.cur.ca
     let leased : Prop := ∃ k, s.here.lease = some (s.cur.tid, k)
     let waits (m : Nat) : Prop := (s.thread ⟨ca, m⟩).run = .stalled ∧ ∃ k, (s.thread ⟨ca, m⟩).wait = .mlease k
     let free : Prop := s.here.lease = none ∧ ∀ m < 32, ¬ waits m
     (leased → s.th.wait ≠ .mlease n.toNat → exec (.mlease n) s = .next (s.trap .leaseMisuse)) ∧
     (leased → s.th.wait = .mlease n.toNat → Completes (.mlease n) s fun t =>
       ThreadBecomes s t { s.th with wait := .none }) ∧
     (free → Completes (.mlease n) s fun t =>
       Becomes s t ((s.setCol ca { s.here with lease := some (s.cur.tid, n.toNat), leaseUntil := none, lastLease := s.cur.tid }).setThread s.cur
         { s.th with wait := .none })) ∧
     (¬ leased → ¬ free → Completes (.mlease n) s fun t => ThreadBecomes s t { s.th with
       run := .stalled, wait := .mlease n.toNat, pc := s.th.ipc, held := true, taken := false,
       since := if s.th.waited then s.th.since else s.now }) ∧
     (leased → Completes .mrel s fun t => Becomes s t (s.setCol ca { s.here with lease := none, leaseUntil := none })) ∧
     (¬ leased → exec .mrel s = .next (s.trap .leaseMisuse)) ∧
     ∀ i : Instr, (∃ r c m k, i = .mclr r c m k) ∨ (∃ a b r c m k x, i = .mma a b r c m k x) ∨ (∃ a b k, i = .mrot a b k) ∨
         (∃ a b, i = .mrd a b) ∨ (∃ b v, i = .mrdv b v) → ¬ leased → s.th.cntTl < 31 → exec i s = .next (s.trap .leaseMisuse)) ∧
  (∀ (s : State) (ca : Nat), (s.col ca).lastLease < 32 →
     let c := s.col ca
     let waits (n : Nat) : Prop := (s.thread ⟨ca, n⟩).run = .stalled ∧ ∃ k, (s.thread ⟨ca, n⟩).wait = .mlease k
     let turn (n : Nat) : Nat := (n + 31 - c.lastLease) % 32
     (c.lease = none → ∀ n k, n < 32 → waits n → (s.thread ⟨ca, n⟩).wait = .mlease k → (∀ m < 32, waits m → turn n ≤ turn m) →
       Completes (.leaseGrant ca) s fun t => Becomes s t ((s.setCol ca { c with lease := some (n, k), leaseUntil := none, lastLease := n }).setThread ⟨ca, n⟩
         { s.thread ⟨ca, n⟩ with run := .ready, waited := true })) ∧
     (c.lease ≠ none ∨ (∀ n < 32, ¬ waits n) → exec (.leaseGrant ca) s = .next s))

/-- R67, R144, R199, R307, R308, R313 to R315, R318, R320, R321, R323 to R325: under a lease, MCLR, MMA, MROT, MRD and MRDV are
issued with the fields and registers that they sample and the locks of their rows; the lease counts one command less; a command
issued while an abandoned one's fault is undelivered is discarded (R317); and what their operand words and formats refuse at issue,
with the data address (R361, log 31). R307, R315, R327: the address checks of an engine command's lines, in their
order: a line outside the address space, a start that is no multiple, a line that scratch does not have, a line of another
partition's scratch; none where every line is reached. That scale arrays count for no ENGINE_IN_ORDERED is the model's choice
(log 80). -/
def Obligations.MatrixCommands : Prop :=
  (∀ (s : State) (a b : BitVec 5) (r c m n : BitVec 2) (k : BitVec 6) (v : BitVec 4) (left : Nat), threadOk s.cur = true →
     isDrive s.cur = false → s.here.lease = some (s.cur.tid, left) → s.th.cntTl < 31 →
     let th := s.th
     let wa := (s.rs a).toNat
     let wb := (s.rs b).toNat
     let bits (x lo w : Nat) : Nat := x / 2 ^ lo % 2 ^ w
     let opnd (x : Nat) : Opnd := ⟨x % 2 ^ 48, if bits x 63 1 = 1 then th.ctxcur else 0⟩
     let bad (x : Nat) : Prop := bits x 48 15 ≠ 0
     let far (x : Nat) : Prop := th.ordered = true ∧ inScratch (x % 2 ^ 48) = false
     let discards : Prop := ∃ e ∈ th.engFaults, e.ctr = .tl
     let used : Column := { s.here with lease := if left = 1 then none else some (s.cur.tid, left - 1)
                                        leaseUntil := if left = 1 then none else s.here.leaseUntil }
     let issued (op : CmdOp) (locks : List (Line × Bool)) (rows : Nat) (t : State) : Prop :=
       (¬ discards → CommandIssued (s.setCol s.cur.ca used) t op locks locks.isEmpty rows) ∧
       (discards → Becomes s t (s.setCol s.cur.ca used))
     let q (code : BitVec 5) : Prop := code.toNat ∈ [0x10, 0x11, 0x12, 0x17, 0x1A, 0x1E]
     let reached (rs : List Range) : Prop := ∀ x ∈ rs, ∀ l ∈ linesOf x.1 x.2, s.reaches l 64 64
     let locks (wr : Bool) (rs : List Range) : List (Line × Bool) := s.locksOver s.cur wr rs
     let A : MatOpnd := ⟨opnd wa, th.mfmta, th.mstra.toNat, bits th.mscla.toNat 0 48, bits th.mscla.toNat 48 16⟩
     let B : MatOpnd := ⟨opnd wb, th.mfmtb, th.mstrb.toNat, bits th.msclb.toNat 0 48, bits th.msclb.toNat 48 16⟩
     let rows := 16 * (m.toNat + 1)
     let cols := 16 * (n.toNat + 1)
     let kk := 32 * (k.toNat + 1)
     let rowsOf (o : MatOpnd) (cnt : Nat) : List Range :=
       (List.range cnt).map fun i => (o.at_.addr + i * o.str, (matFmt o.fmt.toNat).rowBytes kk)
     let scalesOf (o : MatOpnd) (cnt : Nat) (l : List Range) : Prop :=
       (q o.fmt → l = (List.range cnt).map fun i => (o.scl + i * o.sstr, kk / 8)) ∧ (¬ q o.fmt → l = [])
     let mma : Instr := .mma a b r c m n k
     let mrot : Instr := .mrot a b k
     let mrd : Instr := .mrd a b
     let mrdv : Instr := .mrdv b v
     let badRead (x : Nat) : Prop := bits x 15 13 ≠ 0 ∨ bits x 7 1 ≠ 0 ∨ 10 < bits x 0 4
     let ro : ReadOut := ⟨bits wb 0 4, bits wb 4 2, bits wb 6 1 == 1, (BitVec.ofNat 7 (bits wb 8 7)).toInt⟩
     let qc := bits wa 36 3 + 1
     let qr := bits wb 36 3 + 1
     let block := s.curPart.pol.block s.cur.ca qr qc
     let aoff := bits wa 0 22
     let boff := bits wb 0 22
     let asub := bits wa 22 14
     let bsub := bits wb 22 14
     let pol := s.curPart.pol
     let outside : Prop := th.ordered = true ∨ pol.rows < (s.cur.ca / 64 - pol.originRow) / qr * qr + qr ∨
       pol.cols < (s.cur.ca % 64 - pol.originCol) / qc * qc + qc
     let skew : Prop := aoff % 64 ≠ 0 ∨ boff % 64 ≠ 0 ∨ asub % 4 ≠ 0 ∨ bsub % 4 ≠ 0 ∨ th.mstra.toNat % 4 ≠ 0 ∨ th.mstrb.toNat % 4 ≠ 0
     let off := if aoff % 64 ≠ 0 then aoff else if boff % 64 ≠ 0 then boff else if asub % 4 ≠ 0 then aoff + asub
       else if bsub % 4 ≠ 0 then boff + bsub else if th.mstra.toNat % 4 ≠ 0 then aoff + th.mstra.toNat else boff + th.mstrb.toNat
     let absentA : Prop := 0x100000 + s.here.loftSize < aoff + 64 * th.mstra.toNat
     let absentB : Prop := 0x100000 + s.here.loftSize < boff + 64 * th.mstrb.toNat
     let absent : Prop := absentA ∨ absentB ∨ ∃ x ∈ block, x ∈ s.retired
     let ms := bits wb 30 2
     let ns := bits wb 28 2
     let m' := 16 * (ms + 1)
     let n' := 16 * (ns + 1)
     let out : List Range := ((List.range m').map fun i => (wa % 2 ^ 48 + i * bits wb 48 16, n' * dstWidth ro.dst / 8)) ++
       if 7 ≤ ro.dst then (List.range m').map fun i => (bits th.mscla.toNat 0 48 + i * bits th.mscla.toNat 48 16, n' / 8) else []
     let rough : Prop := bad wa ∨ badRead wb ∨ bits wb 36 12 ≠ 0 ∨ 3 < bits wb 34 2 + ms ∨ 3 < bits wb 32 2 + ns
     (Completes (.mclr r c m n) s (issued (.mclr (16 * r.toNat) (16 * c.toNat) rows cols) [] 0)) ∧
     (bad wa ∨ bad wb → exec mma s = .next (s.trap .illegalInstr)) ∧
     (¬ bad wa → ¬ bad wb → far wa ∨ far wb → exec mma s = .next (s.trap .engineInOrdered)) ∧
     (∀ x y rs, ¬ bad wa → ¬ bad wb → ¬ far wa → ¬ far wb → scalesOf A rows x → scalesOf B cols y →
       rs = rowsOf A rows ++ rowsOf B cols ++ x ++ y →
       (∀ cause addr, s.rangeTrap 4 [(wa % 2 ^ 48, wa % 2 ^ 48), (wb % 2 ^ 48, wb % 2 ^ 48), (A.str, wa % 2 ^ 48 + A.str),
           (B.str, wb % 2 ^ 48 + B.str)] rs = some (cause, addr) →
         exec mma s = .next (s.trapAt cause addr)) ∧
       (reached rs → wa % 4 = 0 → wb % 4 = 0 → A.str % 4 = 0 → B.str % 4 = 0 → Completes mma s
         (issued (.mma (16 * r.toNat) (16 * c.toNat) rows cols kk A B th.mpend) (locks false rs) (if th.mpend then th.mdone.toNat else 0)))) ∧
     (bits wa 39 25 ≠ 0 ∨ bits wb 39 25 ≠ 0 ∨ q th.mfmta ∨ q th.mfmtb → exec mrot s = .next (s.trap .illegalInstr)) ∧
     (bits wa 39 25 = 0 → bits wb 39 25 = 0 → ¬ q th.mfmta → ¬ q th.mfmtb →
       (outside → exec mrot s = .next (s.trap .protection)) ∧
       (¬ outside → skew → exec mrot s = .next (s.trapAt .misaligned (Config.homeBase + off))) ∧
       (¬ outside → ¬ skew → absent → ∃ x, exec mrot s = .next (s.trapAt .scratchAbsent x) ∧
         (¬ absentA → absentB → x = Config.homeBase + boff) ∧ (absentA ∨ ¬ absentB → x = Config.homeBase + aoff)) ∧
       (¬ outside → ¬ skew → ¬ absent → Completes mrot s fun t => ∃ reads : List (Line × Bool),
         reads = locks false [(Config.homeBase + aoff, 64 * th.mstra.toNat), (Config.homeBase + boff, 64 * th.mstrb.toNat)] ∧
         (discards → Becomes s t (s.setCol s.cur.ca used)) ∧
         (¬ discards → CommandIssued (s.setCol s.cur.ca { used with mrots := s.here.mrots + 1 }) t
           (.mrot kk qc qr asub bsub aoff boff th.mfmta th.mfmtb th.mstra.toNat th.mstrb.toNat s.here.mrots) reads reads.isEmpty 0))) ∧
     (rough → exec mrd s = .next (s.trap .illegalInstr)) ∧
     (¬ rough → far wa → exec mrd s = .next (s.trap .engineInOrdered)) ∧
     (¬ rough → ¬ far wa →
       (∀ cause addr, s.rangeTrap 4 [(wa % 2 ^ 48, wa % 2 ^ 48), (bits wb 48 16, wa % 2 ^ 48 + bits wb 48 16)] out =
         some (cause, addr) → exec mrd s = .next (s.trapAt cause addr)) ∧
       (reached out → wa % 4 = 0 → bits wb 48 16 % 4 = 0 → Completes mrd s
         (issued (.mrd (opnd wa) (bits wb 48 16) (16 * bits wb 34 2) (16 * bits wb 32 2) m' n' ro (bits th.mscla.toNat 0 48)
           (bits th.mscla.toNat 48 16)) (locks true out) 0))) ∧
     (badRead wb ∨ bits wb 48 16 ≠ 0 ∨ bits wb 28 8 ≠ 0 ∨ 7 ≤ ro.dst → exec mrdv s = .next (s.trap .illegalInstr)) ∧
     (¬ badRead wb → bits wb 48 16 = 0 → bits wb 28 8 = 0 → ro.dst < 7 →
       (th.vl = 0 → exec mrdv s = .next (s.trap .laneClaim)) ∧
       (th.vl ≠ 0 → Completes mrdv s (issued (.mrdv v (bits wb 42 6) (bits wb 36 6) ro th.vl) [] 0)))) ∧
  (∀ (s : State) (align : Nat) (starts : List (Nat × Nat)) (rs : List Range),
     let some_ (f : Nat → Bool) : Prop := ∃ r ∈ rs, ∃ l ∈ linesOf r.1 r.2, f l = true
     let outside : Prop := some_ fun l => addrBad l 64
     let skew : Prop := ∃ a ∈ starts, a.1 % align ≠ 0
     let absent : Prop := some_ fun l => s.absentBad s.cur l 64
     let other : Prop := some_ fun l => s.remoteBad s.cur l
     let cause : Option Cause := (s.rangeTrap align starts rs).map fun e => e.1
     (outside → cause = some .addrRange) ∧ (¬ outside → skew → cause = some .misaligned) ∧
     (¬ outside → ¬ skew → absent → cause = some .scratchAbsent) ∧
     (¬ outside → ¬ skew → ¬ absent → other → cause = some .protection) ∧
     (¬ outside → ¬ skew → ¬ absent → ¬ other → cause = none) ∧
     ∀ e, s.rangeTrap align starts rs = some e → (∃ a ∈ starts, e.2 = a.2) ∨ ∃ r ∈ rs, e.2 = r.1)

/-- R307, R326, R327, R329, R57, R144: what CPY, CPY2D, CPYG and COLL refuse at issue, in order, and the commands that they issue
with the locks of their source and destination lines; a COLL takes the next number of its level and ID. R144 rules 1 to 3: a
command whose thread's earlier accesses have performed and whose thread's earlier commands and transfers have registered registers
its locks in order up to the first that another command's lock refuses, and so does a transfer; a matrix command first waits until
those before it in its column have registered theirs (R310, log 99); a CPYG waits until no other
command writes its index array (R153), and is abandoned where that array is no longer present (R86). R144 rule 4, R199, R67, R312:
a command that ends leaves the list of commands with all its locks, its thread's counter falls, and a lease that awaited the last
matrix command of a holder that trapped ends with it. -/
def Obligations.CopyCommandsAndLocks : Prop :=
  (∀ (s : State) (a b : BitVec 5) (l : BitVec 12) (r6 l6 : BitVec 6) (k : CollKind) (e : BitVec 3), threadOk s.cur = true →
     isDrive s.cur = false → s.th.cntCp < 31 →
     let th := s.th
     let wa := (s.rs a).toNat
     let wb := (s.rs b).toNat
     let bits (x lo w : Nat) : Nat := x / 2 ^ lo % 2 ^ w
     let opnd (x : Nat) : Opnd := ⟨x % 2 ^ 48, if bits x 63 1 = 1 then th.ctxcur else 0⟩
     let bad : Prop := bits wa 48 15 ≠ 0 ∨ bits wb 48 15 ≠ 0
     let A := wa % 2 ^ 48
     let B := wb % 2 ^ 48
     let reached (rs : List Range) : Prop := ∀ x ∈ rs, ∀ y ∈ linesOf x.1 x.2, s.reaches y 64 64
     let apart (base : Nat) (stride : Int) (q : Nat) : Nat := ((base : Int) + stride * q).toNat
     let rowsOf (base : Nat) (stride : Int) (cnt lines : Nat) : List Range := (List.range cnt).map fun q => (apart base stride q, 64 * lines)
     let above (base : Nat) (stride : Int) (cnt : Nat) : Prop := ∀ q < cnt, 0 ≤ (base : Int) + stride * q
     let copies (i : Instr) (cnt lines : Nat) (ss ds : Int) : Prop :=
       above A ss cnt → above B ds cnt →
       let src := rowsOf A ss cnt lines
       let dst := rowsOf B ds cnt lines
       (∀ c x, s.rangeTrap 64 [(A, A), (B, B)] (src ++ dst) = some (c, x) → exec i s = .next (s.trapAt c x)) ∧
       (reached (src ++ dst) → A % 64 = 0 → B % 64 = 0 → Completes i s fun t =>
         CommandIssued s t (.cpy (opnd wa) (opnd wb) cnt lines ss ds) (s.locksOver s.cur false src ++ s.locksOver s.cur true dst) false 0)
     let any (i : Instr) : Prop := i = .cpy a b l ∨ i = .cpy2d a b r6 l6 ∨ i = .cpyg a b l ∨ i = .coll a b k e l6
     let id := domIdAt s.here.domid e.toNat
     let lines := l6.toNat + 1
     let n := match k with
       | .gather => (s.domain s.curPart.pol e.toNat id).length * lines
       | _ => lines
     let num := ((s.here.colls.find? fun x => x.1 == (e.toNat, id)).map fun x => x.2).getD 0
     let ends : List Range := [(A, 64 * lines), (B, 64 * n)]
     (∀ i, any i → (bad → exec i s = .next (s.trap .illegalInstr)) ∧
       (¬ bad → th.ordered = true → exec i s = .next (s.trap .engineInOrdered))) ∧
     (¬ bad → th.ordered = false →
       copies (.cpy a b l) 1 (l.toNat + 1) 0 0 ∧
       copies (.cpy2d a b r6 l6) (r6.toNat + 1) (l6.toNat + 1) th.cstrs.toInt th.cstrd.toInt ∧
       (let rs : List Range := [(A, 64 * (l.toNat + 1)), (B, 8 * (l.toNat + 1))]
        (∀ c x, s.rangeTrap 64 [(A, A)] rs = some (c, x) → exec (.cpyg a b l) s = .next (s.trapAt c x)) ∧
        (reached rs → A % 64 = 0 →
         (B < Config.homeBase → exec (.cpyg a b l) s = .next (s.trapAt .protection B)) ∧
         (Config.homeBase ≤ B → Completes (.cpyg a b l) s fun t =>
           CommandIssued s t (.cpyg (opnd wa) B (l.toNat + 1) th.ctxcur) [] false 0))) ∧
       (∀ c x, s.rangeTrap 64 [(A, A), (B, B)] ends = some (c, x) → exec (.coll a b k e l6) s = .next (s.trapAt c x)) ∧
       (reached ends → A % 64 = 0 → B % 64 = 0 →
         (A < Config.homeBase → exec (.coll a b k e l6) s = .next (s.trapAt .protection A)) ∧
         (Config.homeBase ≤ A → B < Config.homeBase → exec (.coll a b k e l6) s = .next (s.trapAt .protection B)) ∧
         (Config.homeBase ≤ A → Config.homeBase ≤ B → Completes (.coll a b k e l6) s fun t => ∃ u,
           u = s.setCol s.cur.ca { s.here with
             colls := s.here.colls.filter (fun x => x.1 != (e.toNat, id)) ++ [((e.toNat, id), num + 1)] } ∧
           CommandIssued u t (.coll k e.toNat lines A B num id)
             (s.locksOver s.cur false [(A, 64 * lines)] ++ s.locksOver s.cur true [(B, 64 * n)]) false 0)))) ∧
  (∀ (s : State) (id : Nat) (c : Cmd), s.cmdOf id = some c →
     let refused (x : Line × Bool) : Prop := ∃ k ∈ s.locks, s.lineNow k.line = s.lineNow x.1 ∧ k.owner ≠ c.id ∧ (k.wr = true ∨ x.2 = true)
     let next : List (Line × Bool) := match c.op, c.srcs with
       | .cpyg _ idx n _, [] => s.locksOver c.t false [(idx, 8 * n)]
       | _, _ => c.todo.take 1
     let ready : Prop := c.registered = false ∧ (∀ x ∈ s.cmds, x.t = c.t → x.id < c.id → x.registered = true) ∧
       (∀ y ∈ s.xfers, y.t = c.t → y.id < c.id → y.todo = []) ∧ s.performedBefore c.t c.id = true ∧ (∀ x ∈ next, ¬ refused x) ∧
       (c.op.isMatrix = true → ∀ x ∈ s.cmds, x.t.ca = c.t.ca → x.op.isMatrix = true → x.id < c.id → x.registered = true)
     (¬ ready → exec (.engineRegistration id) s = .next s) ∧
     (ready → ∀ d i n x a, c.op = .cpyg d i n x → c.srcs = [] → s.goneRange c.t [(i, 8 * n)] = some a →
       exec (.engineRegistration id) s = .next (s.abandon c .scratchAbsent a false)) ∧
     (ready → (∀ d i n x, c.op ≠ .cpyg d i n x) → Completes (.engineRegistration id) s fun t => ∃ n,
       (∀ x ∈ c.todo.take n, ¬ refused x) ∧ (∀ x rest, c.todo.drop n = x :: rest → refused x) ∧
       Becomes s t { s with
         locks := s.locks ++ (c.todo.take n).map (fun x => ⟨x.1, x.2, c.id⟩)
         cmds := s.cmds.map fun y => if y.id = c.id then { y with todo := c.todo.drop n, registered := (c.todo.drop n).isEmpty } else y })) ∧
  (∀ (s : State) (id : Nat) (f : Xfer), s.cmdOf id = none → s.xferOf id = some f →
     let refused (x : Line × Bool) : Prop := ∃ k ∈ s.locks, s.lineNow k.line = s.lineNow x.1 ∧ k.owner ≠ f.id ∧ (k.wr = true ∨ x.2 = true)
     let ready : Prop := (∀ x ∈ s.cmds, x.t = f.t → x.id < f.id → x.registered = true) ∧
       ∀ y ∈ s.xfers, y.t = f.t → y.id < f.id → y.todo = []
     (¬ ready → exec (.engineRegistration id) s = .next s) ∧
     (ready → Completes (.engineRegistration id) s fun t => ∃ n,
       (∀ x ∈ f.todo.take n, ¬ refused x) ∧ (∀ x rest, f.todo.drop n = x :: rest → refused x) ∧
       Becomes s t { s with
         locks := s.locks ++ (f.todo.take n).map (fun x => ⟨x.1, x.2, f.id⟩)
         xfers := s.xfers.map fun y => if y.id = f.id then { y with todo := f.todo.drop n } else y })) ∧
  (∀ (s : State) (c : Cmd), (s.thread c.t).preReq = none → (∀ o ∈ (s.thread c.t).out, o.status = .pending) →
     let u : State := { s with cmds := s.cmds.filter (fun x => x.id != c.id), locks := s.locks.filter (fun l => l.owner != c.id) }
     let th := s.thread c.t
     let after : Thread := { th with
       cntCp := if c.op.isMatrix then th.cntCp else th.cntCp - 1, cntTl := if c.op.isMatrix then th.cntTl - 1 else th.cntTl }
     let last : Prop := isDrive c.t = false ∧ ∃ k n, (s.col c.t.ca).lease = some (c.t.tid, k) ∧ (s.col c.t.ca).leaseUntil = some n ∧
       ∀ x ∈ s.cmds, x.id ≠ c.id → x.t = c.t → x.op.isMatrix = true → n ≤ x.id
     (¬ last → s.endCmd c = u.setThread c.t after) ∧
     (last → s.endCmd c = (u.setThread c.t after).setCol c.t.ca { (u.setThread c.t after).col c.t.ca with lease := none, leaseUntil := none }))

/-- R327: a registered copy copies each source line to its destination line, in ascending order, between home scratch and home scratch,
and between lines of memory: CPY, CPY2D with its strides, CPYG by the lines its index array named; it releases its locks and lowers its
counter; no other byte changes. R329: joined COLLs write at every member the exact sums, the cells' sums, every source in rank order, or
the first. R310, R313, R314, R319, R324, R325: matrix commands of a column take effect in issue order: MCLR clears its region, MMA adds
the products of rows of A and B into the cells of its region, MRD writes rows of converted cells and their scale bytes to scratch, or to
memory, MRDV writes converted cells to a vector register; a cell of their rows that does not check with its residue is a MACHINE_CHECK,
the command executed again finding the same (R168). R314, R161: an operand row is the bytes of own or remote scratch or of memory in its
context; an element of a Q format is its TYPE's meaning times its block's scale. R164 to R168, R170: a cell is exact: a finite term is
added to its value as a multiple of 2^-128 modulo 2^256, its residue follows from its operands, and special codes join; read out, its
value is its integer scaled by 2^(P - 128). That an MMA takes its MROWP back as it completes is the model's choice (log 81). -/
def Obligations.CommandsComplete : Prop :=
  (∀ (s : State) (c : Cmd) (A B L : Nat), s.cmdOf c.id = some c → c.registered = true → c.status = .pending → c.rows = 0 →
     c.op = .cpy ⟨Config.homeBase + A, 0⟩ ⟨Config.homeBase + B, 0⟩ 1 L 0 0 → isDrive c.t = false →
     0 < L → A % 64 = 0 → B % 64 = 0 → A + 64 * L ≤ 0x100000 → B + 64 * L ≤ 0x100000 → A + 64 * L ≤ B ∨ B + 64 * L ≤ A →
     (∀ e ∈ s.poison, ∀ l, e.at_ ≠ .home c.t.ca l) → Completes (.copyComplete c.id) s fun t => ∃ h, t = (s.setCol c.t.ca { s.col c.t.ca with home := h }).endCmd c ∧
       ∀ y, mget h y = if B ≤ y ∧ y < B + 64 * L then mget (s.col c.t.ca).home (A + (y - B)) else mget (s.col c.t.ca).home y) ∧
  (∀ (s : State) (c : Cmd) (n p : Nat) (S D : Nat → Nat) (xs xd : Nat → Xlat) (ps pd : Nat → Nat), s.cmdOf c.id = some c →
     c.registered = true → c.status = .pending → c.rows = 0 → s.partOf c.t = some p → s.poison = [] →
     ((∃ A B rows L ss ds, c.op = .cpy ⟨A, 0⟩ ⟨B, 0⟩ rows L ss ds ∧ n = rows * L ∧ A < 2 ^ 48 ∧ B < 2 ^ 48 ∧ ∀ j < n,
         0 ≤ (A : Int) + ss * (j / L : Nat) ∧ (S j : Int) = A + ss * (j / L : Nat) + (64 * (j % L) : Nat) ∧
         0 ≤ (B : Int) + ds * (j / L : Nat) ∧ (D j : Int) = B + ds * (j / L : Nat) + (64 * (j % L) : Nat)) ∨
       ∃ B idx L x, c.op = .cpyg ⟨B, 0⟩ idx L x ∧ n = c.srcs.length ∧ ∀ j < n, c.srcs[j]? = some ⟨S j, 0⟩ ∧ D j = B + 64 * j) →
     (∀ i < n, inScratch (S i) = false ∧ inScratch (D i) = false ∧ ∀ j < n, ps i + 64 ≤ pd j ∨ pd j + 64 ≤ ps i) →
     (∀ m : Mem, (∀ y, (∀ j < n, y < pd j ∨ pd j + 64 ≤ y) → mget m y = mget s.cellar y) → ∀ j < n,
       ({ s with cellar := m } : State).translate p (S j) = .ok (xs j) ∧ (xs j).permitsEngine false c.t.ca = true ∧
       (xs j).back = .cellar (ps j) ∧ ({ s with cellar := m } : State).translate p (D j) = .ok (xd j) ∧
       (xd j).permitsEngine true c.t.ca = true ∧ (xd j).back = .cellar (pd j)) →
     Completes (.copyComplete c.id) s fun t => ∃ m, t = ({ s with cellar := m } : State).endCmd c ∧
       ∀ y, mget m y = (List.range n).foldl (fun b j => if pd j ≤ y ∧ y < pd j + 64 then mget s.cellar (ps j + (y - pd j)) else b)
         (mget s.cellar y)) ∧
  (∀ (s : State) (c : Cmd) (ps : List Cmd) (k : CollKind) (lv lines seq id : Nat) (A B : Nat → Nat), s.cmdOf c.id = some c → c ∈ ps →
     s.collPeers c = ps → ps.length = s.collSize c → c.status = .pending → s.poison = [] → (ps.map fun x => x.t.ca).Nodup → (ps.map (·.id)).Nodup →
     let n := match k with | .gather => ps.length * lines | _ => lines
     (∀ x ∈ ps, x.registered = true ∧ isDrive x.t = false ∧ (s.thread x.t).preReq = none ∧ (∀ o ∈ (s.thread x.t).out, o.status = .pending) ∧
       x.op = .coll k lv lines (Config.homeBase + A x.t.ca) (Config.homeBase + B x.t.ca) seq id ∧ A x.t.ca % 64 = 0 ∧ B x.t.ca % 64 = 0 ∧
       A x.t.ca + 64 * lines ≤ 0x100000 ∧ B x.t.ca + 64 * n ≤ 0x100000) →
     let data (x : Cmd) : List Byte := mread (s.col x.t.ca).home (A x.t.ca) (64 * lines)
     let word (bs : List Byte) (w i : Nat) : Nat := leNat ((bs.drop (w * i)).take w)
     Completes (.copyComplete c.id) s fun t => ∃ r : List Byte, r.length = 64 * n ∧
       (k = .bcast → (ps.map data).head? = some r) ∧ (k = .gather → r = (ps.map data).flatten) ∧
       (k = .sumf → ∀ i < 16 * lines, word r 4 i = exactToF32 .rne ((ps.map fun x => word (data x) 4 i).foldl exactAdd 0)) ∧
       (k = .sumx → ∀ i < 2 * lines,
         let cells := ps.map fun x => word (data x) 32 i
         let out := word r 32 i
         let special (y : Nat) : Prop := y ≠ 0 ∧ ∃ x ∈ cells, x / 2 ^ 254 = y
         out % 2 ^ 254 = (cells.map (· % 2 ^ 254)).sum % 2 ^ 254 ∧ ((∀ y, ¬ special y) → out / 2 ^ 254 = 0) ∧
         (∀ y, special y → (∀ z, special z → z = y) → out / 2 ^ 254 = y) ∧ (∀ y z, special y → special z → y ≠ z → out / 2 ^ 254 = 3)) ∧
       (∀ x ∈ ps, ∀ y, mget (t.col x.t.ca).home y = if B x.t.ca ≤ y ∧ y < B x.t.ca + 64 * n then r.getD (y - B x.t.ca) 0
         else mget (s.col x.t.ca).home y) ∧
       (∀ ca, (∀ x ∈ ps, x.t.ca ≠ ca) → t.col ca = s.col ca) ∧ (∀ x ∈ ps, (t.thread x.t).cntCp = (s.thread x.t).cntCp - 1) ∧
       t.cmds = s.cmds.filter (fun y => ps.all fun x => y.id != x.id) ∧ t.locks = s.locks.filter fun l => ps.all fun x => l.owner != x.id) ∧
  (∀ (s : State) (t : ThreadRef) (p k i : Nat) (o : MatOpnd) (bs sc : List Byte), s.partOf t = some p → isDrive t = false →
     let f := matFmt o.fmt.toNat
     let holds (a n : Nat) (l : List Byte) : Prop := l.length = n ∧ ∀ j < n,
       let at_ := a + j
       let ca := if inRemote at_ then remoteCa at_ else t.ca
       let off := if inRemote at_ then remoteOff at_ else at_ - Config.homeBase
       (inScratch at_ = true → (s.col ca).scratchHas off 1 = true ∧ (inRemote at_ = true → ca ∉ s.retired) ∧
         s.scratchByte ca off = some (l.getD j 0) ∧ ∀ e ∈ s.poison, e.at_ ≠ windowPlace ca off) ∧
       (inScratch at_ = false → s.byteAt p o.at_.tag at_ = some (l.getD j 0) ∧ ∃ x, s.translate p at_ = .ok x ∧
         x.permitsEngine false t.ca = true ∧ s.slotOk p t x.back = true ∧ (x.ext = true → (s.part p).live o.at_.tag = true) ∧
         s.taint p x o.at_.tag = none)
     holds (o.at_.addr + i * o.str) (f.rowBytes k) bs → (f.kind = .scaled → holds (o.scl + i * o.sstr) (k / 8) sc) →
       (f.kind ≠ .scaled → sc = []) → s.operandRow t o k i = .ok (rowElems f bs sc k)) ∧
  (∀ x ∈ [((0x10, 0, 0x00) : Nat × Nat × Nat), (0x10, 1, 0x02), (0x10, 2, 0x03), (0x10, 3, 0x04), (0x11, 0, 0x05), (0x11, 1, 0x07),
       (0x11, 2, 0x08), (0x11, 3, 0x09), (0x12, 0, 0x0A), (0x12, 1, 0x0C), (0x12, 2, 0x0D), (0x12, 3, 0x0E), (0x17, 0, 0x13),
       (0x17, 1, 0x15), (0x17, 3, 0x16), (0x1A, 0, 0x18), (0x1A, 1, 0x19), (0x1E, 0, 0x1B), (0x1E, 1, 0x1C), (0x1E, 2, 0x1D)],
     ∀ (bs sc : List Byte) (k t : Nat), t < k → (sc.getD (t / 8) 0).toNat / 64 = x.2.1 →
       let e := (sc.getD (t / 8) 0).toNat % 64
       (rowElems (matFmt x.1) bs sc k).getD t .nan = if e = 63 then .nan
         else match (rowElems (matFmt x.2.2) bs [] k).getD t .nan with
           | .num n m g => .num n m (g + (e : Int) - 32)
           | y => y) ∧
  (∀ (s : State) (c : Cmd), s.cmdOf c.id = some c → c.registered = true → c.status = .pending → c.sentOn = false → isDrive c.t = false →
     (∀ x ∈ s.cmds.takeWhile (fun x => x.id != c.id), x.t.ca = c.t.ca → x.op.isMatrix = true → x.sentOn = true) →
     let clean : Prop := ∀ e ∈ s.poison, ∀ l, e.at_ ≠ .home c.t.ca l
     let col := s.col c.t.ca
     let ev : Instr := .matrixCommandComplete c.id
     let region (r k m n row cl : Nat) : Prop := r ≤ row ∧ row < r + m ∧ k ≤ cl ∧ cl < k + n
     let good (row cl : Nat) : Prop := (col.cell row cl).residue = (col.cell row cl).v.toNat % 255
     let fails : Prop := Completes ev s fun t => t = s.uncorrected c.t 8
     (∀ dst dstr r k m n ro scl sstr, c.op = .mrd dst dstr r k m n ro scl sstr → c.rows < m → (∃ j < n, ¬ good (r + c.rows) (k + j)) → fails) ∧
     (∀ r k m n, c.op = .mclr r k m n → Completes ev s fun t => ∃ acc, Becomes s t ((s.setCol c.t.ca { col with acc := acc }).endCmd c) ∧
       ∀ row cl, row < 64 → cl < 64 → tget acc (64 * row + cl) ⟨0, 0, 0⟩ =
         if region r k m n row cl then ⟨0, 0, 0⟩ else col.cell row cl) ∧
     (∀ r k m n kk A B fa fb sa sb cont, c.op = .mma r k m n kk ⟨⟨Config.homeBase + A, 0⟩, fa, sa, 0, 0⟩ ⟨⟨Config.homeBase + B, 0⟩, fb, sb, 0, 0⟩ cont →
       c.rows < m → r + m ≤ 64 → k + n ≤ 64 → clean → (matFmt fa.toNat).kind ≠ .scaled → (matFmt fb.toNat).kind ≠ .scaled →
       A + m * sa + (matFmt fa.toNat).rowBytes kk ≤ 0x100000 → B + n * sb + (matFmt fb.toNat).rowBytes kk ≤ 0x100000 →
       let row (base str : Nat) (f : BitVec 5) (i : Nat) : List FV :=
         rowElems (matFmt f.toNat) (mread col.home (base + i * str) ((matFmt f.toNat).rowBytes kk)) [] kk
       ((∃ j < n, ¬ good (r + c.rows) (k + j)) → fails) ∧
       ((∀ i j, region (r + c.rows) k (m - c.rows) n i j → good i j) → Completes ev s fun t => ∃ acc,
         t = ((s.setCol c.t.ca { col with acc := acc }).updThread c.t fun th => { th with mpend := false, mdone := 0 }).endCmd c ∧
         ∀ i j, i < 64 → j < 64 → tget acc (64 * i + j) ⟨0, 0, 0⟩ =
           if region (r + c.rows) k (m - c.rows) n i j then dotInto (col.cell i j) (row A sa fa (i - r)) (row B sb fb (j - k))
           else col.cell i j)) ∧
     (∀ r k m n kk X Y cont, ∀ a b : Nat → List FV, c.op = .mma r k m n kk X Y cont → c.rows < m → r + m ≤ 64 → k + n ≤ 64 →
       (∀ i, c.rows ≤ i → i < m → s.operandRow c.t X kk i = .ok (a i)) → (∀ j < n, s.operandRow c.t Y kk j = .ok (b j)) →
       (∀ i j, region (r + c.rows) k (m - c.rows) n i j → good i j) → Completes ev s fun t => ∃ acc,
         t = ((s.setCol c.t.ca { col with acc := acc }).updThread c.t fun th => { th with mpend := false, mdone := 0 }).endCmd c ∧
         ∀ i j, i < 64 → j < 64 → tget acc (64 * i + j) ⟨0, 0, 0⟩ =
           if region (r + c.rows) k (m - c.rows) n i j then dotInto (col.cell i j) (a (i - r)) (b (j - k)) else col.cell i j) ∧
     (∀ dst dstr r k m n ro scl sstr, c.op = .mrd dst dstr r k m n ro scl sstr → c.rows < m → 0 < n → n % 16 = 0 → ro.dst ≤ 10 →
       (∀ i j, region (r + c.rows) k (m - c.rows) n i j → good i j) → dst.tag = 0 → s.poison = [] →
       let mode := RMode.of (BitVec.ofNat 2 ro.mode)
       let w := dstWidth ro.dst
       let value (i j : Nat) : FV := (col.cell (r + i) (k + j)).value ro.p
       let bytes (i : Nat) (row sc : List Byte) : Prop := row.length = n * w / 8 ∧
         (ro.dst ≤ 6 → sc = [] ∧ ∀ j < n, leNat row / 2 ^ (w * j) % 2 ^ w = readCell ro.dst mode ro.sat (value i j)) ∧
         (7 ≤ ro.dst → sc.length = n / 8 ∧ ∀ q < n / 8,
           let block := readBlock ro.dst mode ((List.range 8).map fun j => value i (8 * q + j))
           (sc.getD q 0).toNat = block.1 ∧ ∀ j < 8, leNat row / 2 ^ (w * (8 * q + j)) % 2 ^ w = block.2.getD j 0)
       let rows := (List.range m).drop c.rows
       let after (writes : List (Nat × List Byte)) (old : Byte) (y : Nat) : Byte :=
         writes.foldl (fun b x => if x.1 ≤ y ∧ y < x.1 + x.2.length then x.2.getD (y - x.1) 0 else b) old
       (Config.homeBase ≤ dst.addr → dst.addr - Config.homeBase + m * dstr + n * w / 8 ≤ 0x100000 →
         (7 ≤ ro.dst → Config.homeBase ≤ scl ∧ scl - Config.homeBase + m * sstr + n / 8 ≤ 0x100000) →
         Completes ev s fun t => ∃ (h : Mem) (row sc : Nat → List Byte), (∀ i ∈ rows, bytes i (row i) (sc i)) ∧
           t = (s.setCol c.t.ca { col with home := h }).endCmd c ∧
           ∀ y, mget h y = after (rows.flatMap fun i => [(dst.addr - Config.homeBase + i * dstr, row i), (scl - Config.homeBase + i * sstr, sc i)])
             (mget col.home y) y) ∧
       (∀ (p : Nat) (xs : Nat → Xlat) (pa : Nat → Nat), s.partOf c.t = some p → ro.dst ≤ 6 →
         (∀ i ∈ rows, inScratch (dst.addr + i * dstr) = false ∧ (dst.addr + i * dstr) % 64 + n * w / 8 ≤ 64) →
         (∀ M : Mem, (∀ y, (∀ i ∈ rows, y < pa i ∨ pa i + n * w / 8 ≤ y) → mget M y = mget s.cellar y) → ∀ i ∈ rows,
           ({ s with cellar := M } : State).translate p (dst.addr + i * dstr) = .ok (xs i) ∧ (xs i).permitsEngine true c.t.ca = true ∧
           (xs i).back = .cellar (pa i)) →
         Completes ev s fun t => ∃ (M : Mem) (row : Nat → List Byte), (∀ i ∈ rows, bytes i (row i) []) ∧
           t = ({ s with cellar := M } : State).endCmd c ∧
           ∀ y, mget M y = after (rows.map fun i => (pa i, row i)) (mget s.cellar y) y)) ∧
     (∀ v rw k ro vl, c.op = .mrdv v rw k ro vl → (∃ j, k ≤ j ∧ j < k + vl * (32 / dstWidth ro.dst) ∧ j ≤ 63 ∧ ¬ good rw j) → fails) ∧
     (∀ v rw k ro vl, c.op = .mrdv v rw k ro vl → (∀ j, k ≤ j → j < k + vl * (32 / dstWidth ro.dst) → j ≤ 63 → good rw j) → ro.dst ≤ 6 → vl ≤ 64 → Completes ev s fun t => ∃ th : Thread,
       t = (s.setThread c.t th).endCmd c ∧
       th = { s.thread c.t with v := th.v, out := (List.range vl).foldl (fun o e => dropDest (.v v e) o) (s.thread c.t).out } ∧ (∀ q, q ≠ v → th.v[q.toNat] = (s.thread c.t).v[q.toNat]) ∧
       (∀ e, vl ≤ e → e < 64 → th.rv v e = (s.thread c.t).rv v e) ∧
       ∀ e < vl, ∀ i < 32 / dstWidth ro.dst, (th.rv v e).toNat / 2 ^ (dstWidth ro.dst * i) % 2 ^ dstWidth ro.dst =
         if 63 < k + 32 / dstWidth ro.dst * e + i then 0
         else readCell ro.dst (RMode.of (BitVec.ofNat 2 ro.mode)) ro.sat ((col.cell rw (k + 32 / dstWidth ro.dst * e + i)).value ro.p))) ∧
  (∀ (c : AccCell) (neg : Bool) (m : Nat) (e : Int) (a b : List FV),
     let t : FV := .num neg m e
     let joins (x y z : BitVec 2) : Prop := z = if x = 0 then y else if y = 0 then x else if x = y then x else 3
     (∀ k : Nat, -128 ≤ e → e + 128 = k →
       (c.addTerm t).v = c.v + BitVec.ofInt 256 ((if neg then -1 else 1) * ((m * 2 ^ k : Nat) : Int)) ∧
       (c.addTerm t).code = c.code ∧ (c.residue < 255 →
         ((c.addTerm t).residue = (c.addTerm t).v.toNat % 255 ↔ c.residue = c.v.toNat % 255))) ∧
     (∀ s, joins c.code (if s then 2 else 1) (c.addTerm (.inf s)).code ∧ (c.addTerm (.inf s)).v = c.v ∧ (c.addTerm (.inf s)).residue = c.residue) ∧
     (joins c.code 3 (c.addTerm .nan).code ∧ (c.addTerm .nan).v = c.v) ∧
     (∀ x y, dotInto c (x :: a) (y :: b) = dotInto (c.addTerm (mulExact x y)) a b) ∧ dotInto c [] b = c ∧
     (∀ p : Int, c.code = 0 → ∃ n k, c.value p = .num n k (p - 128) ∧ (if n then -(k : Int) else (k : Int)) = c.v.toInt) ∧
     (∀ p : Int, c.code ≠ 0 → c.value p = if c.code = 1 then .inf false else if c.code = 2 then .inf true else .nan))

/-- R319, R320: an MROT, once the buffers of the step before have landed everywhere, adds into every cell the products of the rows of
its A buffer and of its B buffer, releases its read locks, and is to send its A buffer one column west in its block and its B buffer one
north, each where the block has another column that way; with neither it ends. An MROT whose products are done lands its buffers, each at
its offset in its receiver's scratch, once every receiver has sent its own of that step and no other command locks their lines, and ends,
or is abandoned with none landed where a receiver no longer has the scratch (R81; log 58). A cell that does not check with its residue is
a MACHINE_CHECK (R168). R318, R319: a block's columns, and a column's west and north neighbours in it, its edges wrapping. -/
def Obligations.Rotations : Prop :=
  (∀ (s : State) (c : Cmd) (p k qc qr asub bsub aoff boff sa sb num : Nat) (fa fb : BitVec 5), s.cmdOf c.id = some c →
     c.registered = true → c.status = .pending → c.sentOn = false → isDrive c.t = false → s.partOf c.t = some p →
     (∀ x ∈ s.cmds.takeWhile (fun x => x.id != c.id), x.t.ca = c.t.ca → x.op.isMatrix = true → x.sentOn = true) →
     c.op = .mrot k qc qr asub bsub aoff boff fa fb sa sb num → (matFmt fa.toNat).kind ≠ .scaled → (matFmt fb.toNat).kind ≠ .scaled →
     let pol := (s.part p).pol
     let col := s.col c.t.ca
     let ev : Instr := .matrixCommandComplete c.id
     let before : Prop := num = 0 ∨ ∀ x ∈ pol.block c.t.ca qr qc, x ≠ c.t.ca → pol.west x qc = c.t.ca ∨ pol.north x qr = c.t.ca →
       num - 1 ∈ (s.col x).rotsSent ∧ ∀ y ∈ s.cmds, y.t.ca = x → ∀ k q r e f g h i j m n, y.op ≠ .mrot k q r e f g h i j m n (num - 1)
     let row (off str sub : Nat) (f : BitVec 5) (i : Nat) : List FV :=
       rowElems (matFmt f.toNat) (mread col.home (off + i * str + sub) ((matFmt f.toNat).rowBytes k)) [] k
     let good (i j : Nat) : Prop := (col.cell i j).residue = (col.cell i j).v.toNat % 255
     let sends : List (Nat × Nat × List Byte) :=
       (if qc = 1 then [] else [(pol.west c.t.ca qc, aoff, mread col.home aoff (64 * sa))]) ++
       (if qr = 1 then [] else [(pol.north c.t.ca qr, boff, mread col.home boff (64 * sb))])
     (¬ before → exec ev s = .next s) ∧
     (before → aoff + 64 * sa ≤ 0x100000 → boff + 64 * sb ≤ 0x100000 → (∀ e ∈ s.poison, ∀ l, e.at_ ≠ .home c.t.ca l) →
       aoff + 63 * sa + asub + (matFmt fa.toNat).rowBytes k ≤ 0x100000 → boff + 63 * sb + bsub + (matFmt fb.toNat).rowBytes k ≤ 0x100000 →
       ((∃ i < 64, ∃ j < 64, ¬ good i j) → Completes ev s fun t => t = s.uncorrected c.t 8) ∧
       ((∀ i < 64, ∀ j < 64, good i j) → Completes ev s fun t => ∃ acc,
         let u : State := { s.setCol c.t.ca { col with acc := acc, rotsSent := col.rotsSent ++ [num] } with
           locks := s.locks.filter fun l => l.owner != c.id }
         (t = if qc = 1 ∧ qr = 1 then u.endCmd c else { u with
           cmds := s.cmds.map fun x => if x.id = c.id then { x with sentOn := true, sends := sends } else x }) ∧
         ∀ i j, i < 64 → j < 64 → tget acc (64 * i + j) ⟨0, 0, 0⟩ = dotInto (col.cell i j) (row aoff sa asub fa i) (row boff sb bsub fb j)))) ∧
  (∀ (s : State) (c : Cmd), s.cmdOf c.id = some c → c.sentOn = true →
     ∀ (k qc qr asub bsub aoff boff sa sb num : Nat) (fa fb : BitVec 5), c.op = .mrot k qc qr asub bsub aoff boff fa fb sa sb num →
       let held : Prop := ∃ x ∈ c.sends, num ∉ (s.col x.1).rotsSent ∨ ∃ l ∈ s.locks, (∃ o ∈ linesOf x.2.1 x.2.2.length, scratchLine x.1 o = l.line) ∧
         ∀ y ∈ s.cmds, y.id = l.owner → ∀ k2 a2 b2 c2 d2 e2 f2 g2 h2 i2 j2 n2, y.op ≠ .mrot k2 a2 b2 c2 d2 e2 f2 g2 h2 i2 j2 n2
       let lost (x : Nat × Nat × List Byte) : Prop := 0x100000 + (s.col x.1).loftSize < x.2.1 + x.2.2.length
       (held → exec (.mrotLanding c.id) s = .next s) ∧
       (¬ held → (∃ x ∈ c.sends, lost x) → ∃ x ∈ c.sends, lost x ∧
         exec (.mrotLanding c.id) s = .next (s.abandon c .scratchAbsent (Config.homeBase + x.2.1) false)) ∧
       (¬ held → (∀ x ∈ c.sends, x.2.2 ≠ [] ∧ x.2.1 + x.2.2.length ≤ 0x100000) → isDrive c.t = false → s.poison = [] →
         Completes (.mrotLanding c.id) s fun t => ∃ homes : Nat → Mem,
           t = (c.sends.foldl (fun u x => u.setCol x.1 { u.col x.1 with home := homes x.1 }) s).endCmd c ∧
           ∀ ca y, mget (homes ca) y = c.sends.foldl (fun b x =>
             if x.1 = ca ∧ x.2.1 ≤ y ∧ y < x.2.1 + x.2.2.length then x.2.2.getD (y - x.2.1) 0 else b) (mget (s.col ca).home y))) ∧
  (∀ (p : Policy) (i j qr qc : Nat), 0 < qr → 0 < qc → i < p.rows → j < p.cols → p.originCol + p.cols ≤ 64 →
     let at_ (r c : Nat) : Nat := 64 * (p.originRow + r) + p.originCol + c
     let r0 := i / qr * qr
     let c0 := j / qc * qc
     p.west (at_ i j) qc = at_ i (if j = c0 then c0 + qc - 1 else j - 1) ∧
     p.north (at_ i j) qr = at_ (if i = r0 then r0 + qr - 1 else i - 1) j ∧
     ∀ ca, ca ∈ p.block (at_ i j) qr qc ↔ ∃ x y, x < qr ∧ y < qc ∧ ca = at_ (r0 + x) (c0 + y))

/-! ### Pixels -/

/-- R336: PSETUP forms the edge functions of the triangle in elements 0 to 5 of va, with positive area, and writes elements 0 to
15 of vd, whatever the mask and VL hold. R332, R333, R337: PCOVER's traps; it sets bit i of kc where element i's pixel is covered,
bit i of kl where i leads a block with a covered pixel, and writes the weights E2 / area and E0 / area at the block's centre, each
quotient rounded once. -/
def Obligations.TrianglesAndCoverage : Prop :=
  (∀ (s : State) (d a : BitVec 4), Runs (.psetup d a) s →
     let x (v : Nat) : Int := (s.rv a (2 * (v % 3))).toInt
     let y (v : Nat) : Int := (s.rv a (2 * (v % 3) + 1)).toInt
     let area : Int := (y 0 - y 1) * x 2 + (x 1 - x 0) * y 2 + (x 0 * y 1 - x 1 * y 0)
     let sg : Int := if area < 0 then -1 else 1
     let far : Prop := ∃ v < 3, x v < -2 ^ 22 ∨ 2 ^ 22 < x v ∨ y v < -2 ^ 22 ∨ 2 ^ 22 < y v
     let degenerate : Prop := area = 0 ∨ far
     let low (n : Int) : Elem := BitVec.ofInt 32 n
     let high (n : Int) : Elem := BitVec.ofInt 32 (n / 2 ^ 32)
     (s.th.vl = 0 → exec (.psetup d a) s = .next (s.trap .laneClaim)) ∧
     (s.th.vl ≠ 0 → ∃ f : Nat → Elem, (Completes (.psetup d a) s fun t => VectorWrite s t d (List.range 16) f) ∧
       f 15 = 0 ∧ (f 14).toNat = (if area < 0 then 1 else 0) + (f 14).toNat / 2 * 2 ∧ (degenerate → (f 14).toNat / 2 = 1 ∧ ∀ i < 14, f i = 0) ∧
       (¬ degenerate → (f 14).toNat / 2 = 0 ∧ f 12 = low (sg * area) ∧ f 13 = high (sg * area) ∧ ∀ e < 3,
         f e = low (sg * (y e - y (e + 1))) ∧ f (3 + e) = low (sg * (x (e + 1) - x e)) ∧
         f (6 + 2 * e) = low (sg * (x e * y (e + 1) - x (e + 1) * y e)) ∧ f (7 + 2 * e) = high (sg * (x e * y (e + 1) - x (e + 1) * y e))))) ∧
  (∀ (s : State) (d a : BitVec 4) (c l m : BitVec 2) (r : BitVec 5), Runs (.pcover d a c l m r) s → c ≠ l →
     let i0 : Instr := .pcover d a c l m r
     let w := (s.rs r).toNat
     let PIX := w % 2 ^ 14
     let rate := 2 ^ (w / 2 ^ 14 % 4)
     let rows := s.th.vl / 8
     let bad : Prop := 2 ^ 32 ≤ w ∨ PIX % 8 ≠ 0 ∨ 127 < PIX / 128 + rows - 1 ∨ 8 < PIX / 128 % 8 + rows
     let px (i : Nat) : Nat := (PIX + i % 8 + 128 * (i / 8)) % 128
     let py (i : Nat) : Nat := (PIX + i % 8 + 128 * (i / 8)) / 128
     let block (i : Nat) : Nat × Nat := (px i / rate, py i / rate)
     let word (i : Nat) : Int := (BitVec.ofNat 64 ((s.rv a i).toNat + 2 ^ 32 * (s.rv a (i + 1)).toNat)).toInt
     let A (e : Nat) : Int := (s.rv a e).toInt
     let B (e : Nat) : Int := (s.rv a (3 + e)).toInt
     let E (e : Nat) (x y : Int) : Int := A e * x + B e * y + word (6 + 2 * e)
     let area := word 12
     let degenerate : Bool := (s.rv a 14).getLsbD 1
     let inside (x y : Int) (e : Nat) : Prop := 0 < E e x y ∨ (E e x y = 0 ∧ (0 < A e ∨ (A e = 0 ∧ 0 < B e)))
     let covered (x y : Nat) : Prop := degenerate = false ∧ 0 < area ∧ ∀ e < 3, inside (256 * x + 128) (256 * y + 128) e
     let any (i : Nat) : Prop := ∃ u v, u < rate ∧ v < rate ∧ covered ((block i).1 * rate + u) ((block i).2 * rate + v)
     let leads (i : Nat) : Prop := ∀ j < i, block j ≠ block i
     let els := s.actives m
     (s.th.vl = 0 → exec i0 s = .next (s.trap .laneClaim)) ∧
     (s.th.vl ≠ 0 → w / 2 ^ 14 % 4 = 3 → exec i0 s = .next (s.trap .illegalInstr)) ∧
     (s.th.vl ≠ 0 → w / 2 ^ 14 % 4 ≠ 3 → bad → exec i0 s = .next (s.trap .addrRange)) ∧
     (s.th.vl ≠ 0 → s.th.vl ≤ 64 → s.th.vl % 8 = 0 → w / 2 ^ 14 % 4 ≠ 3 → ¬ bad → ∃ (f g : Nat → Elem) (kc kl : Word),
       (Completes i0 s fun t => ∃ u v x, VectorWrite s u d els f ∧ VectorWrite u v (d + 1) els g ∧ MaskWrite v x c kc ∧ MaskWrite x t l kl) ∧
       (∀ i ∈ els, (kc.getLsbD i = true ↔ covered (px i) (py i)) ∧ (kl.getLsbD i = true ↔ leads i ∧ any i)) ∧
       (∀ i < 64, i ∉ els → kc.getLsbD i = (s.rk c).getLsbD i ∧ kl.getLsbD i = (s.rk l).getLsbD i) ∧
       ∀ i ∈ els, (¬ any i → f i = 0 ∧ g i = 0) ∧ (any i →
         let q (e : Nat) : Int := E e (256 * ((block i).1 * rate : Nat) + 128 * rate) (256 * ((block i).2 * rate : Nat) + 128 * rate)
         let weight (e : Nat) : Nat := f32.round .rne false (quotient (decide (q e < 0)) (q e).natAbs area.natAbs 160)
         (f i).toNat = weight 2 ∧ (g i).toNat = weight 0)))

/-- R332, R338, R339, R341, R346: with an empty blend buffer, PDEPTH compares with the stored depth and, in its .w form, stores
where the test passes; PLD reads a plane; PST stores its block leads' values, PST.x to the pixels that va names. These and TEND
drain first; they stall while the drain, or the lit values that a PLD reads, or the draw values that a store writes, await a copy.
R340 to R342: a PBLEND deposits its active elements' pixels with the sources of their block leads, its operation and token, and
traps where 64 entries wait; a commutative one is applied at once; both stall for the copies of what they apply. A drain applies
the entries in token order, equal tokens in deposit order, each pixel channel by channel as R340 computes it. R345: a pixel class is driven while an emission covers it, from its lit value after calibration,
whose layout and arithmetic are free (log 86). -/
def Obligations.PixelsAndBlending : Prop :=
  (∀ (s : State) (ca i cls : Nat), cls < 3 →
     let p := (s.col ca).pixel i
     let lit : BitVec 16 := if cls = 0 then p.litR else if cls = 1 then p.litG else p.litB
     let driven : Prop := ∃ e ∈ (s.col ca).seqr, e.copied = true ∧ e.cls.getLsbD cls = true ∧ e.t ≤ s.now ∧ s.now < e.stop ∧
       e.x0 ≤ i % 128 ∧ i % 128 < e.x0 + e.w ∧ e.y0 ≤ i / 128 ∧ i / 128 < e.y0 + e.h
     (driven → s.lightOf ca i cls = some (Config.emitterDrive (s.col ca).calib i cls lit s.emitterScale)) ∧
     (¬ driven → s.lightOf ca i cls = none)) ∧
  (∀ (s : State) (d a : BitVec 4) (e m : BitVec 2) (w : Bool) (r : BitVec 5) (c : DepthCond) (pl : Plane), threadOk s.cur = true →
     isDrive s.cur = true → s.th.vl ≠ 0 → s.th.vl ≤ 16 → s.th.vl % 8 = 0 →
     let x := (s.rs r).toNat
     let PIX := x % 2 ^ 14
     let rate := 2 ^ (x / 2 ^ 14 % 4)
     let rows := s.th.vl / 8
     let legal : Prop := x / 2 ^ 14 % 4 ≠ 3 ∧ x < 2 ^ 32 ∧ PIX % 8 = 0 ∧ PIX / 128 + rows - 1 ≤ 127 ∧ PIX / 128 % 8 + rows ≤ 8
     let pix (i : Nat) : Nat := PIX + i % 8 + 128 * (i / 8)
     let block (i : Nat) : Nat × Nat := (pix i % 128 / rate, pix i / 128 / rate)
     let lead (j i : Nat) : Prop := block j = block i ∧ ∀ k, block k = block i → j ≤ k
     let els := s.actives m
     let depth : Instr := .pdepth e a w m r c
     let load : Instr := .pld d m r pl
     let store : Instr := .pst d m r pl
     let storeX : Instr := .pstX d a m pl
     let drawn : Prop := pl = .drg ∨ pl = .db ∨ pl = .dep ∨ pl = .aux
     let half (v : Elem) : BitVec 16 := BitVec.ofNat 16 (v.toNat / 65536)
     let get (p : Pixel) : Nat := match pl with
       | .drg => p.drawR.toNat + 65536 * p.drawG.toNat
       | .db => p.drawB.toNat
       | .lrg => p.litR.toNat + 65536 * p.litG.toNat
       | .lb => p.litB.toNat
       | .dep => p.depth.toNat
       | .aux => p.aux.toNat
     let put (p : Pixel) (v : Elem) : Pixel := match pl with
       | .drg => { p with drawR := v.truncate 16, drawG := half v }
       | .db => { p with drawB := v.truncate 16 }
       | .dep => { p with depth := v }
       | .aux => { p with aux := v.truncate 16 }
       | _ => p
     let holds (v z : Nat) : Prop := match c with
       | .lt => v < z
       | .le => v ≤ z
       | .eq => v = z
       | .ne => v ≠ z
       | .gt => z < v
       | .ge => z ≤ v
       | .al => True
     let stored (t : State) (px : Nat → Pixel) : Prop := ∃ tbl, Becomes s t (s.setCol s.cur.ca { s.here with pixels := tbl }) ∧
       ∀ k, tget tbl k Pixel.reset = px k
     let mine (n : Nat) : Prop := ∃ i ∈ els, pix i = n
     let named (n : Nat) : Prop := ∃ i ∈ els, (s.rv a i).toNat = n
     let litCls : BitVec 3 := match pl with | .lrg => 3 | .lb => 4 | _ => 0
     let drawCls : BitVec 3 := match pl with | .drg => 3 | .db => 4 | _ => 0
     let empty : Prop := s.here.blend = []
     (legal → DrainsFirst depth s ∧ DrainsFirst load s ∧ (drawn → DrainsFirst store s)) ∧
     ((∀ i ∈ els, (s.rv a i).toNat < 2 ^ 14) → drawn → DrainsFirst storeX s) ∧ DrainsFirst .tend s ∧
     (legal → empty → AwaitsCopies load s litCls mine ∧ (drawn → AwaitsCopies store s drawCls mine)) ∧
     ((∀ i ∈ els, (s.rv a i).toNat < 2 ^ 14) → empty → drawn → AwaitsCopies storeX s drawCls named) ∧
     (legal → empty → ∃ k : Word, (∀ i ∈ els, k.getLsbD i = true ↔ holds (s.rv a i).toNat (s.here.pixel (pix i)).depth.toNat) ∧
       (∀ i < 64, i ∉ els → k.getLsbD i = (s.rk e).getLsbD i) ∧ Completes depth s fun t => ∃ u, MaskWrite u t e k ∧
         ((w = false → u = s) ∧ (w = true → stored u fun n => match els.find? fun i => pix i == n && k.getLsbD i with
           | some i => { s.here.pixel n with depth := s.rv a i }
           | none => s.here.pixel n))) ∧
     (legal → empty → (∀ q, ¬ ToCopy s litCls mine q) → Completes load s fun t => VectorWrite s t d els fun i => BitVec.ofNat 32 (get (s.here.pixel (pix i)))) ∧
     (legal → empty → drawn → (∀ q, ¬ ToCopy s drawCls mine q) → Completes store s fun t => ∃ px, stored t px ∧ (∀ n, (∀ i ∈ els, pix i ≠ n) → px n = s.here.pixel n) ∧
       ∀ i ∈ els, ∀ j, lead j i → px (pix i) = put (s.here.pixel (pix i)) (s.rv d j)) ∧
     ((∃ i ∈ els, 2 ^ 14 ≤ (s.rv a i).toNat) → exec storeX s = .next (s.trap .addrRange)) ∧
     ((∀ i ∈ els, (s.rv a i).toNat < 2 ^ 14) → empty → drawn → (∀ q, ¬ ToCopy s drawCls named q) → Completes storeX s fun t => ∃ px, stored t px ∧
       (∀ n, (∀ i ∈ els, (s.rv a i).toNat ≠ n) → px n = s.here.pixel n) ∧
       ∀ i ∈ els, (∀ j ∈ els, i < j → s.rv a j ≠ s.rv a i) → px (s.rv a i).toNat = put (s.here.pixel (s.rv a i).toNat) (s.rv d i))) ∧
  (∀ (s : State) (g : Bool) (a b : BitVec 4) (m : BitVec 2) (r : BitVec 5) (o : BlendOp), threadOk s.cur = true →
     isDrive s.cur = true → s.th.vl ≠ 0 → s.tileTrap (s.rs r) = none →
     let PIX := (s.rs r).toNat % 2 ^ 14
     let rate := 2 ^ ((s.rs r).toNat / 2 ^ 14 % 4)
     let pix (i : Nat) : Nat := PIX + i % 8 + 128 * (i / 8)
     let block (i : Nat) : Nat × Nat := (pix i % 128 / rate, pix i / 128 / rate)
     let lead (j i : Nat) : Prop := block j = block i ∧ ∀ k, block k = block i → j ≤ k
     let els := s.actives m
     let put : Instr := .pblend g a b m r o
     let now : Instr := .pblendC g a b m r o
     let src : List BlendPix := s.blendSources a b m (s.rs r)
     let here := s.here
     let entry : Blend := ⟨o, (s.rs r).toNat / 65536 % 65536, src⟩
     let mine (n : Nat) : Prop := ∃ p ∈ src, p.idx = n
     let hit : Prop := ∃ n, Buffered s n ∧ mine n
     let both (n : Nat) : Prop := Buffered s n ∨ mine n
     let all (n : Nat) : Prop := (Buffered s n ∧ (hit ∨ g = true)) ∨ mine n
     let half (v : Elem) (h : Nat) : BitVec 16 := BitVec.ofNat 16 (v.toNat / 2 ^ (16 * h))
     (src.length = els.length ∧ ∀ k i j : Nat, els[k]? = some i → lead j i →
       src[k]? = some (BlendPix.mk (pix i) (half (s.rv a j) 0) (half (s.rv a j) 1) (half (s.rv b j) 0) (half (s.rv b j) 1))) ∧
     (64 ≤ here.blend.length → exec put s = .next (s.trap .fifoMisuse)) ∧
     (here.blend.length < 64 → g = true → AwaitsCopies put s 7 both) ∧
     (here.blend.length < 64 → (g = true → ∀ q, ¬ ToCopy s 7 both q) → Completes put s fun t =>
       let c : Column := { here with blend := here.blend ++ [entry] }
       Becomes s t (s.setCol s.cur.ca (if g then c.drain else c))) ∧
     (o = .rep ∨ o = .over → exec now s = .next (s.trap .illegalInstr)) ∧
     (o = .add ∨ o = .opMax ∨ o = .opMin → AwaitsCopies now s 7 all) ∧
     (o = .add ∨ o = .opMax ∨ o = .opMin → (∀ q, ¬ ToCopy s 7 all q) → Completes now s fun t => ∃ c : Column,
       (hit → c = here.drain.blendEntry ⟨o, 0, src⟩) ∧ (¬ hit → c = here.blendEntry ⟨o, 0, src⟩) ∧
       Becomes s t (s.setCol s.cur.ca (if g then c.drain else c)))) ∧
  (∀ (c : Column) (e : Blend) (n : Nat),
     (∃ l : List Blend, l.Perm c.blend ∧ l.Pairwise (fun x y => x.token ≤ y.token) ∧
       (∀ k : Nat, (l.filter fun x => x.token == k) = c.blend.filter fun x => x.token == k) ∧
       c.drain = { l.foldl Column.blendEntry c with blend := [] }) ∧
     c.blendEntry e = { c with pixels := (c.blendEntry e).pixels } ∧
     (c.blendEntry e).pixel n = e.pix.foldl (fun p b => if b.idx = n then
         { p with
           drawR := blendChan e.op p.drawR b.r b.a
           drawG := blendChan e.op p.drawG b.g b.a
           drawB := blendChan e.op p.drawB b.b b.a }
       else p) (c.pixel n)) ∧
  (∀ (x y al : BitVec 16), (blendChan .rep x y al = y) ∧
       (blendChan .over x y al).toNat = min 65535 (y.toNat + (x.toNat * (65535 - al.toNat) + 32767) / 65535) ∧
       (blendChan .add x y al).toNat = min 65535 (x.toNat + y.toNat) ∧ (blendChan .opMax x y al).toNat = max x.toNat y.toNat ∧
       (blendChan .opMin x y al).toNat = min x.toNat y.toNat)

/-- R343, R344, R347: EMIT refuses a bad region word; with an empty blend buffer and a free sequencer entry it queues the
emission, or copies at once and counts it late, or drops it and counts it missed, draining first (R341, R346); EMITQ reads the latest end of the emissions held
that overlap. R344: at its tick an emission copies draw to lit in its classes and region, once; at its end its entry frees. -/
def Obligations.Emissions : Prop :=
  (∀ (s : State) (a b : BitVec 5), threadOk s.cur = true → isDrive s.cur = true →
     let x := (s.rs b).toNat
     let T := (s.rs a).toNat
     let bits (lo n : Nat) : Nat := x / 2 ^ lo % 2 ^ n
     let W := bits 14 7 + 1
     let H := bits 21 7 + 1
     let D := bits 34 24
     let bad : Prop := bits 61 3 ≠ 0 ∨ bits 28 6 ≠ 0 ∨ bits 58 3 = 0 ∨ 128 < bits 0 7 + W ∨ 128 < bits 7 7 + H
     let em (copied : Bool) : Emission := ⟨s.nextId, T, T + D, bits 0 7, bits 7 7, W, H, BitVec.ofNat 3 (bits 58 3), copied⟩
     let in_ (n : Nat) : Prop := bits 0 7 ≤ n % 128 ∧ n % 128 < bits 0 7 + W ∧ bits 7 7 ≤ n / 128 ∧ n / 128 < bits 7 7 + H
     let sat (v : BitVec 16) : BitVec 16 := if v = 0xFFFF then v else v + 1
     let meets (f : Emission) : Prop := s.now < f.stop ∧ f.cls.toNat &&& bits 58 3 ≠ 0 ∧ bits 0 7 < f.x0 + f.w ∧ f.x0 < bits 0 7 + W ∧
       bits 7 7 < f.y0 + f.h ∧ f.y0 < bits 7 7 + H
     (bad ∨ D = 0 → exec (.emit a b) s = .next (s.trap .illegalInstr)) ∧
     (bad → exec (.emitq a b) s = .next (s.trap .illegalInstr)) ∧
     (¬ bad → D ≠ 0 → DrainsFirst (.emit a b) s) ∧
     (¬ bad → D ≠ 0 → s.here.blend = [] → 16 ≤ s.here.seqr.length → Completes (.emit a b) s fun t => ThreadBecomes s t { s.th with
       run := .stalled, wait := .sequencer, pc := s.th.ipc, held := true, taken := false,
       since := if s.th.waited then s.th.since else s.now }) ∧
     (¬ bad → D ≠ 0 → s.here.blend = [] → s.here.seqr.length < 16 → Completes (.emit a b) s fun t =>
       (s.now ≤ T → Becomes s t { s.setCol s.cur.ca { s.here with seqr := s.here.seqr ++ [em false] } with nextId := s.nextId + 1 }) ∧
       (T < s.now → s.now < T + D → ∃ px tele, (let c : Column := { s.here with
             seqr := s.here.seqr ++ [em true], late := true, lateCnt := sat s.here.lateCnt, pixels := px }
           Becomes s t { s.setCol s.cur.ca c with nextId := s.nextId + 1, colTele := tele }) ∧
         ∀ n, let p := s.here.pixel n
           tget px n Pixel.reset = if in_ n then { p with
             litR := if (bits 58 3).testBit 0 then p.drawR else p.litR
             litG := if (bits 58 3).testBit 1 then p.drawG else p.litG
             litB := if (bits 58 3).testBit 2 then p.drawB else p.litB } else p) ∧
       (T + D ≤ s.now → ∃ tele, Becomes s t { s.setCol s.cur.ca { s.here with missed := true, missCnt := sat s.here.missCnt } with
         nextId := s.nextId + 1, colTele := tele })) ∧
     (¬ bad → Completes (.emitq a b) s fun t => ∃ n : Nat, ScalarWrite s t a (BitVec.ofNat 64 n) ∧
       (∀ f ∈ s.here.seqr, meets f → f.stop ≤ n) ∧ (n = 0 ∨ ∃ f ∈ s.here.seqr, meets f ∧ f.stop = n))) ∧
  (∀ (s : State) (ca : Nat) (x : Emission), (s.col ca).seqr.find? (fun y => y.id == x.id) = some x → x.x0 + x.w ≤ 128 →
     let c := s.col ca
     let in_ (n : Nat) : Prop := x.x0 ≤ n % 128 ∧ n % 128 < x.x0 + x.w ∧ x.y0 ≤ n / 128 ∧ n / 128 < x.y0 + x.h
     (x.copied = false → x.t ≤ s.now → Completes (.emissionCopy ca x.id) s fun t => ∃ px,
       (let d : Column := { c with
           pixels := px, seqr := c.seqr.map fun y => if y.id = x.id then { y with copied := true } else y }
        Becomes s t (s.setCol ca d)) ∧
       ∀ n, let p := c.pixel n
         tget px n Pixel.reset = if in_ n then { p with
           litR := if x.cls.getLsbD 0 then p.drawR else p.litR
           litG := if x.cls.getLsbD 1 then p.drawG else p.litG
           litB := if x.cls.getLsbD 2 then p.drawB else p.litB } else p) ∧
     (x.copied = true ∨ s.now < x.t → exec (.emissionCopy ca x.id) s = .next s) ∧
     (x.copied = true → x.stop ≤ s.now → Completes (.emissionEnd ca x.id) s fun t =>
       let d : Column := { c with seqr := c.seqr.filter fun y => y.id != x.id }
       Becomes s t (s.setCol ca d)) ∧
     (x.copied = false ∨ s.now < x.stop → exec (.emissionEnd ca x.id) s = .next s))

/-! ### System registers and traps -/

/-- R352, R354, R356, R348, R350: which threads may read and write which register; the rest trap with PRIV or ILLEGAL_INSTR. R354
and the map: what SYSR writes to its register. -/
def Obligations.SystemRegisterReads : Prop :=
  (∀ (s : State) (a : BitVec 5) (r : BitVec 12), threadOk s.cur = true →
     let n := r.toNat
     let drive := isDrive s.cur
     let served := isService s.cur
     let free : List Nat := [0x000, 0x001, 0x002, 0x003, 0x031, 0x032, 0x033, 0x034, 0x040, 0x042, 0x051, 0x060, 0x061, 0x062, 0x063, 0x070]
     let control : List Nat := [0x010, 0x011, 0x012, 0x013, 0x014, 0x015, 0x016, 0x018, 0x019, 0x030, 0x041]
     let level : List Nat := [0x020, 0x021, 0x022, 0x023, 0x024]
     let mapped : Prop := n ∈ free ∨ n ∈ level ∨ (n ∈ control ∧ drive = false) ∨ (n = 0x050 ∧ drive = true)
     let firmware : Prop := 0x800 ≤ n ∨ (n = 0x050 ∧ drive = false)
     let mayRead : Prop := n ∈ level → served = true
     let mayWrite : Prop := (n ∈ level ∨ n = 0x033 ∨ n = 0x051 → served = true) ∧
       (n = 0x034 → drive = false ∧ s.curPart.pol.pres = true) ∧ (n = 0x060 ∨ n = 0x062 ∨ n = 0x063 → s.curPart.pol.resid = true)
     (firmware → exec (.sysr a r) s = .next (s.trap .priv) ∧ exec (.sysw a r) s = .next (s.trap .priv) ∧
       exec (.sysx a r) s = .next (s.trap .priv)) ∧
     (¬ firmware → ¬ mapped → exec (.sysr a r) s = .next (s.trap .illegalInstr) ∧ exec (.sysw a r) s = .next (s.trap .illegalInstr) ∧
       exec (.sysx a r) s = .next (s.trap .illegalInstr)) ∧
     (¬ firmware → mapped → (mayRead ↔ Runs (.sysr a r) s) ∧ (mayWrite ↔ Runs (.sysw a r) s) ∧ (mayRead ∧ mayWrite ↔ Runs (.sysx a r) s) ∧
       (¬ mayRead → exec (.sysr a r) s = .next (s.trap .priv)) ∧ (¬ mayWrite → exec (.sysw a r) s = .next (s.trap .priv)) ∧
       (¬ (mayRead ∧ mayWrite) → exec (.sysx a r) s = .next (s.trap .priv)))) ∧
  (∀ (s : State) (d : BitVec 5) (r : BitVec 12), Runs (.sysr d r) s →
     let th := s.th
     let c := s.here
     let p := s.curPart
     let gate := match s.presHolder with
       | some q => s.colOf q s.cur.ca
       | none => c
     let temp := c.temp.toNat
     let droop := c.droop.toNat
     let words : List (Nat × Nat) := [(0x000, th.vl), (0x001, th.vrmode.toNat), (0x002, th.ctxcur.toNat), (0x003, th.tscur.toNat),
       (0x010, th.mfmta.toNat), (0x011, th.mfmtb.toNat), (0x012, th.mscla.toNat), (0x013, th.msclb.toNat), (0x014, th.mstra.toNat),
       (0x015, th.mstrb.toNat), (0x016, th.mdone.toNat + 128 * th.mpend.toNat), (0x018, th.cstrs.toNat), (0x019, th.cstrd.toNat),
       (0x020, th.tcause.toNat), (0x021, th.taddr.toNat), (0x022, th.tpc.toNat),
       (0x023, p.tvecAddr.toNat % 2 ^ 48 / 8 * 8 + p.tvecEn.toNat), (0x024, th.tstat.toNat),
       (0x030, c.ways + 2 ^ 6 * c.loftStatus.toNat), (0x031, c.thallow.toNat),
       (0x032, min 0xFFFF (temp / 16 + 2 * droop) + 2 ^ 16 * temp + 2 ^ 32 * droop), (0x033, p.thdisp.toNat),
       (0x034, gate.upReq.toNat + 2 * gate.upState.toNat), (0x040, c.domLevel.toNat + 2 ^ 3 * c.domX.toNat + 2 ^ 16 * c.domEpoch.toNat),
       (0x041, c.domid.toNat), (0x042, s.almanac.toNat),
       (0x050, c.late.toNat + 2 * c.missed.toNat + 2 ^ 2 * c.seqr.length + 2 ^ 32 * c.lateCnt.toNat + 2 ^ 48 * c.missCnt.toNat),
       (0x051, p.pdist.toNat), (0x060, p.grbase.toNat), (0x061, p.grhead.toNat), (0x062, p.grtail.toNat), (0x063, p.govf.toNat),
       (0x070, s.frontier s.pid)]
     ∃ e ∈ words, r.toNat = e.1 ∧ Completes (.sysr d r) s fun t => ScalarWrite s t d (BitVec.ofNat 64 e.2))

/-- R3, R83, R123, R124, R308, R354 to R356: a write of a read-only register, or of a reserved bit or value, traps with
ILLEGAL_INSTR, LOFTWAYS beyond the quota with QUOTA; a thread register takes its value at once; a wider one holds the thread until
its own step; SYSX returns the old value. R355, R123, R124, R350, R348, R363: the steps by which a write of a column's, drive's or
partition's register takes force: the register changes with its side effect, the thread goes on, and a SYSX receives the old
value; where the write ends a loop's body, the loop acts in that move, by the model's reading (log 57). -/
def Obligations.SystemRegisterWrites : Prop :=
  (∀ (s : State) (d : BitVec 5) (r : BitVec 12), Runs (.sysw d r) s →
     let n := r.toNat
     let v := (s.rs d).toNat
     let bits (lo w : Nat) : Nat := v / 2 ^ lo % 2 ^ w
     let p := s.curPart
     let ring := if p.grbase.toNat % 32 = 0 then 0 else 2 ^ (p.grbase.toNat % 32)
     let takes : Prop :=
       (n = 0x001 ∧ v < 4) ∨ (n = 0x010 ∧ v < 32) ∨ (n = 0x011 ∧ v < 0x13) ∨ n = 0x012 ∨ n = 0x013 ∨
       ((n = 0x014 ∨ n = 0x015) ∧ v < 2 ^ 16 ∧ v % 4 = 0) ∨ (n = 0x016 ∧ v < 256 ∧ v % 128 ≤ 64) ∨
       ((n = 0x018 ∨ n = 0x019) ∧ v < 2 ^ 32 ∧ v % 64 = 0) ∨ (n = 0x020 ∧ v < 256) ∨ n = 0x021 ∨ n = 0x022 ∨
       (n = 0x023 ∧ v < 2 ^ 48 ∧ bits 1 2 = 0) ∨ n = 0x024 ∨
       (n = 0x030 ∧ v < 256 ∧ bits 5 1 = 0 ∧ v % 32 % 2 = 0 ∧ v % 32 ≠ 0 ∧ v % 32 ≤ 16) ∨ (n = 0x033 ∧ v < 2 ^ 16) ∨ (n = 0x034 ∧ v < 4) ∨
       (n = 0x041 ∧ v < 2 ^ 32) ∨ (n = 0x050 ∧ bits 7 25 = 0) ∨ (n = 0x051 ∧ v < 16) ∨
       (n = 0x060 ∧ v < 2 ^ 48 ∧ bits 5 7 = 0 ∧ (v % 32 = 0 ∨ (8 ≤ v % 32 ∧ v % 32 ≤ 20 ∧ v / 2 ^ 12 * 2 ^ 12 % (16 * 2 ^ (v % 32)) = 0))) ∨
       (n = 0x062 ∧ v < 2 ^ 32 ∧ (p.grhead - BitVec.ofNat 32 v).toNat ≤ ring) ∨ (n = 0x063 ∧ bits 32 30 = 0)
     let beyond : Prop := n = 0x030 ∧ p.pol.loftq < (16 - v % 32) * 0x20000
     let own : Prop := n < 0x030 ∧ n ≠ 0x023
     let th := s.th
     let after : List (Nat × Thread) := [(0x001, { th with vrmode := BitVec.ofNat 2 v }), (0x010, { th with mfmta := BitVec.ofNat 5 v }),
       (0x011, { th with mfmtb := BitVec.ofNat 5 v }), (0x012, { th with mscla := s.rs d }), (0x013, { th with msclb := s.rs d }),
       (0x014, { th with mstra := BitVec.ofNat 16 v }), (0x015, { th with mstrb := BitVec.ofNat 16 v }),
       (0x016, { th with mdone := BitVec.ofNat 7 v, mpend := v / 128 % 2 == 1 }), (0x018, { th with cstrs := BitVec.ofNat 32 v }),
       (0x019, { th with cstrd := BitVec.ofNat 32 v }), (0x020, { th with tcause := BitVec.ofNat 8 v }), (0x021, { th with taddr := s.rs d }),
       (0x022, { th with tpc := s.rs d }),
       (0x024, { th with tstat := (th.tstat &&& ~~~4#32) ||| BitVec.ofNat 32 (v / 4 % 2 * 4) })]
     (¬ takes → exec (.sysw d r) s = .next (s.trap .illegalInstr) ∧ (Runs (.sysx d r) s → exec (.sysx d r) s = .next (s.trap .illegalInstr))) ∧
     (takes → beyond → exec (.sysw d r) s = .next (s.trap .quota)) ∧
     (takes → ¬ beyond → own → ∃ e ∈ after, e.1 = n ∧ (Completes (.sysw d r) s fun t => ThreadBecomes s t e.2) ∧
       (Runs (.sysx d r) s → Completes (.sysx d r) s fun t => ∃ u, ThreadBecomes s u e.2 ∧ ScalarWrite u t d (s.readSys n))) ∧
     (takes → ¬ beyond → ¬ own → (Completes (.sysw d r) s fun t =>
         ThreadBecomes s t { th with run := .stalled, wait := .sysw r (s.rs d) none, since := s.now }) ∧
       (Runs (.sysx d r) s → Completes (.sysx d r) s fun t =>
         ThreadBecomes s t { th with run := .stalled, wait := .sysw r (s.rs d) (some d), since := s.now }))) ∧
  (∀ (s : State) (t : ThreadRef) (r : BitVec 12) (v : Word) (o : Option (BitVec 5)), threadOk t = true →
     (s.thread t).run = .stalled → (s.thread t).wait = .sysw r v o →
     let n := r.toNat
     let x := v.toNat
     let old := s.oldSys t n
     let p := (s.partOf t).getD 16
     let q := s.part p
     let c := s.col t.ca
     let done (u w : State) : Prop := u = w.written t old
     (∀ w : State, w.written t old = w.setThread t (match (w.thread t).wait with
       | .sysw _ _ (some d) => { (w.thread t).passBarrier with run := .ready, wait := .none }.ws d old
       | _ => { (w.thread t).passBarrier with run := .ready, wait := .none })) ∧
     (n = 0x023 → Completes (.systemRegisterWrite t r v) s fun u =>
       done u (s.setPart p { q with tvecEn := x % 2 == 1, tvecAddr := BitVec.ofNat 64 (x / 8 * 8) })) ∧
     (n = 0x033 → Completes (.systemRegisterWrite t r v) s fun u => done u (s.setPart p { q with thdisp := BitVec.ofNat 16 x })) ∧
     (n = 0x041 → Completes (.systemRegisterWrite t r v) s fun u => done u (s.setCol t.ca { c with domid := BitVec.ofNat 32 x })) ∧
     (n = 0x050 → Completes (.systemRegisterWrite t r v) s fun u => done u (s.setCol t.ca { c with
       late := x % 2 == 1, missed := x / 2 % 2 == 1, lateCnt := BitVec.ofNat 16 (x / 2 ^ 32), missCnt := BitVec.ofNat 16 (x / 2 ^ 48) })) ∧
     (n = 0x051 → Completes (.systemRegisterWrite t r v) s fun u => done u (s.setPart p { q with pdist := BitVec.ofNat 4 x })) ∧
     (n = 0x063 → Completes (.systemRegisterWrite t r v) s fun u => done u (s.setPart p { q with govf := v })) ∧
     (n = 0x060 → Completes (.grbaseWrite t v) s fun u => ∃ w, done u w ∧ (tmem s.parts p = true →
       (w.part p) = { q with grbase := v, grhead := 0, grtail := 0 } ∧
       (∀ ca, (w.col ca) = { s.col ca with filter := if ca ∈ s.heldBy p then [] else (s.col ca).filter }) ∧
       ∀ v ∈ w.saved, v.part = p → v.col.filter = [])) ∧
     (n = 0x062 → (q.grhead - v.truncate 32).toNat ≤ (if q.grbase.toNat % 32 = 0 then 0 else 2 ^ (q.grbase.toNat % 32)) →
       Completes (.grtailWrite t v) s fun u => done u (s.setPart p { q with grtail := v.truncate 32 })) ∧
     (n = 0x034 → Completes (.upgateWrite t v) s fun u =>
       let f (y : Column) : Column := if x % 2 = 1 then { y with upReq := true } else { y with upReq := false, upState := false }
       done u (s.updColOf p t.ca f) ∧ (c.holder = some p → done u (s.setCol t.ca (f c)))) ∧
     (n = 0x030 → c.loftChange = none → Completes (.loftwaysWrite t v) s fun u =>
       (x % 32 = c.ways → done u (s.setCol t.ca { c with loftStatus := 0 })) ∧
       (x % 32 ≠ c.ways → s.registeredBefore t s.nextId = true → u = s.setCol t.ca { c with loftChange := some ⟨t, x % 32, s.now, false⟩ }) ∧
       (x % 32 ≠ c.ways → s.registeredBefore t s.nextId = false → u = s)) ∧
     (n = 0x030 → c.loftChange ≠ none → exec (.loftwaysWrite t v) s = .next s))

/-- R84, R85, R86, R350: a change of LOFTWAYS in progress switches the loft scratch's size once no range lock covers what a shrink
gives up, nor does a transfer or a rotation under way use it, up to the reconfiguration limit (log 60), after which it fails with
STATUS 1; bytes gained read as zero. R53, R87: the thread then goes on, past a loop's end in that move (log 57, the model's
choice), unless its task was aborted, which leaves the change under way and its thread alone. A drive core asked to gate does so once its FIFO is empty, whichever partition holds the
column's control cores then; from when it is asked and its FIFO is empty on it issues nothing. -/
def Obligations.LoftwaysAndGate : Prop :=
  ∀ (s : State) (ca : Nat),
    let c := s.col ca
    (∀ ch, c.loftChange = some ch →
      let size := (16 - ch.ways) * 0x20000
      let beyond (off n : Nat) : Prop := 0x100000 + size < off + n
      let kept : Prop := c.ways < ch.ways ∧ ((∃ k ∈ s.locks, ∃ l, k.line = .loft ca l ∧ size ≤ 64 * l) ∨
        (∃ x ∈ s.xfers, x.t.ca = ca ∧ x.launched = false ∧ beyond x.soff (64 * x.lines)) ∨ (∃ k ∈ s.cmds, ∃ b ∈ k.sends, b.1 = ca ∧ beyond b.2.1 b.2.2.length) ∨
        ∃ k ∈ s.cmds, k.sentOn = true ∧ k.t.ca = ca ∧ ∃ n qc qr asub bsub aoff boff fa fb sa sb num,
          k.op = .mrot n qc qr asub bsub aoff boff fa fb sa sb num ∧ (beyond aoff (64 * sa) ∨ beyond boff (64 * sb)))
      let limit := (s.part ((s.partOf ch.t).getD 16)).pol.reconf
      let both := (16 - max c.ways ch.ways) * 0x20000
      let told (v : State) : State := if ch.gone then v else v.written ch.t (s.oldSys ch.t 0x030)
      (¬ kept → s.now ≤ ch.start + limit → Completes (.loftwaysSwitch ca) s fun t => ∃ loft poison,
        t = told ({ s with poison := poison }.setCol ca { c with ways := ch.ways, loftStatus := 0, loftChange := none, loft := loft }) ∧
        (∀ e, e ∈ poison ↔ e ∈ s.poison ∧ ∀ l, e.at_ = .loft ca l → 64 * l < both) ∧
        ∀ a, mget loft a = if a < both then mget c.loft a else 0) ∧
      (kept ∨ ch.start + limit < s.now → exec (.loftwaysSwitch ca) s = .next s) ∧
      (ch.start + limit < s.now → Completes (.loftwaysTimeout ca) s fun t =>
        t = told (s.setCol ca { c with loftStatus := 1, loftChange := none })) ∧
      (s.now ≤ ch.start + limit → exec (.loftwaysTimeout ca) s = .next s)) ∧
    (∀ p, s.presHolder = some p → let g := s.colOf p ca
      (g.upReq = true → g.upState = false → c.fifo = [] → Completes (.driveGate ca) s fun t =>
        Becomes s t (s.updColOf p ca fun y => { y with upState := true })) ∧
      (g.upReq = false ∨ c.fifo ≠ [] → exec (.driveGate ca) s = .next s) ∧
      (∀ d, 32 ≤ d → g.upState = true ∨ (g.upReq = true ∧ c.fifo = []) → s.canIssue ⟨ca, d⟩ = false)) ∧
    (s.presHolder = none → exec (.driveGate ca) s = .next s)

/-- R360 to R364: taking a trap. With a handler, a general thread parks with the cause's code, its address, its resumption address
and TSTAT; a lease that it holds ends once its matrix commands are done, as it does where the trap parks the thread for firmware
(R360, R67, R312). A service thread's trap, a MACHINE_CHECK and a trap while
TVEC.EN is 0 kill the partition. R364, R74: a trap is handed to the dormant service thread of its core once the accesses before it
have performed, but for those that faulted and those held behind them, the lowest thread first: it starts at the handler with the
trap's registers, its general registers kept; the trapped thread waits, handled. R36, R362: a request of firmware starts a dormant
service thread, before a trap that waits for it, with WHY 0b10; when, at which entry and with which registers is the schedule's
choice (log 68). -/
def Obligations.TrapEntry : Prop :=
  (∀ (s : State) (t : ThreadRef) (c : Cause) (addr : Nat) (tpc : Word) (def_ eng unres : Bool), c ≠ .quota →
     let p := (s.partOf t).getD 16
     let th := s.thread t
     let ord : Bool := match th.task with
       | some k => k.r.o
       | none => false
     let status : Nat := def_.toNat + 2 * eng.toNat + 2 ^ 2 * def_.toNat + 2 ^ 6 * (if isDrive t then 0 else t.tid) +
       2 ^ 11 * (isDrive t).toNat + 2 ^ 12 * ord.toNat + 2 ^ 16 * unres.toNat
     let trapped : Thread := { th with
       run := .parked, park := .trap, wait := .none, held := true, taken := false, waited := false, ibuf := [], pc := tpc, tpc := tpc
       tcause := BitVec.ofNat 8 c.code, taddr := BitVec.ofNat 64 addr, tstat := BitVec.ofNat 32 status }
     let handled : Prop := isService t = false ∧ c ≠ .machineCheck ∧ (s.part p).tvecEn = true
     let u := s.setThread t trapped
     let leased (n : Nat) : Prop := isDrive t = false ∧ (s.col t.ca).lease = some (t.tid, n)
     (handled → (∀ n, ¬ leased n) → s.takeTrap t c addr tpc ⟨def_, eng, unres⟩ = u) ∧
     (handled → ∀ n, leased n → s.takeTrap t c addr tpc ⟨def_, eng, unres⟩ =
       u.setCol t.ca (if th.cntTl = 0 then { u.col t.ca with lease := none, leaseUntil := none }
         else { u.col t.ca with leaseUntil := some ((u.col t.ca).leaseUntil.getD s.nextId) })) ∧
     (∀ y : State, (∀ n, isDrive t = false → (y.col t.ca).lease ≠ some (t.tid, n)) → y.endLease t = y) ∧
     (∀ n, leased n → s.endLease t = s.setCol t.ca (if th.cntTl = 0 then { s.col t.ca with lease := none, leaseUntil := none }
         else { s.col t.ca with leaseUntil := some ((s.col t.ca).leaseUntil.getD s.nextId) })) ∧
     (∀ n a late, s.parkFirmware t n a late = (s.setThread t { th with
       run := .parked, park := .firmware, wait := .page n a late, pc := th.ipc, held := true, taken := false, ibuf := [] }).endLease t) ∧
     (¬ handled → s.takeTrap t c addr tpc ⟨def_, eng, unres⟩ = s.killFor t c) ∧
     s.killFor t c = ((match s.partOf t with
       | some q => s.kill q c.code 0 t.ca none 0
       | none => s).updThread t fun y => { y with run := if isService t then .dormant else .idle, held := true }) ∧
     (Cause.code .illegalInstr, Cause.code .illegalBundle, Cause.code .misaligned, Cause.code .addrRange, Cause.code .pageAbsent,
       Cause.code .protection, Cause.code .rangeLock, Cause.code .scratchAbsent) = (0x01, 0x02, 0x03, 0x04, 0x05, 0x06, 0x07, 0x08) ∧
     (Cause.code .ctxExhausted, Cause.code .cellHeapFull, Cause.code .ctxDead, Cause.code .queueFull, Cause.code .xslot,
       Cause.code .stampTie, Cause.code .fifoMisuse, Cause.code .leaseMisuse) = (0x09, 0x0A, 0x0B, 0x0C, 0x0D, 0x0E, 0x0F, 0x10) ∧
     (Cause.code .engineInOrdered, Cause.code .laneClaim, Cause.code .priv, Cause.code .breakpoint, Cause.code .syscall,
       Cause.code .ifetch, Cause.code .quota, Cause.code .machineCheck, Cause.code .preempt) =
       (0x11, 0x12, 0x13, 0x14, 0x15, 0x16, 0x17, 0x18, 0x19)) ∧
  (∀ (s : State) (t : ThreadRef), threadOk t = true → isService t = false →
     let sv : ThreadRef := if isDrive t then ⟨t.ca, 33⟩ else ⟨t.ca, 24 + t.tid / 3⟩
     let th := s.thread t
     let p := s.part ((s.partOf t).getD 16)
     let ready : Prop := th.park = .trap ∧ (th.preReq = none ∨ th.phase ≠ none) ∧
       (∀ a ∈ th.out, ∃ b ∈ s.stuck t (fun o => o.status != .pending), b.id = a.id) ∧ (s.thread sv).run = .dormant ∧
       ((s.thread sv).preReq = none ∨ th.phase ≠ none) ∧ (isDrive t = false → ∀ n < t.tid, n / 3 = t.tid / 3 → n < 24 → (s.thread ⟨t.ca, n⟩).park ≠ .trap)
     (ready → Completes (.trapDelivery t) s fun u => Becomes s u ((s.setThread t { th with park := .handled }).setThread sv { s.thread sv with
         run := .ready, wait := .none, park := .no, pc := p.tvecAddr, tcause := th.tcause, taddr := th.taddr, tpc := th.tpc
         tstat := th.tstat, ibuf := [], waited := false })) ∧
     (¬ ready → exec (.trapDelivery t) s = .next s)) ∧
  (∀ (s : State) (sv : ThreadRef) (pc : Word) (cause : BitVec 8) (addr tpc : Word) (rest : List Choice),
     let p := (s.partOf sv).getD 16
     let may : Prop := threadOk sv = true ∧ isService sv = true ∧ s.partOf sv = some p ∧
       ((s.part p).resident = true ∨ (s.part p).clocked = true) ∧ (s.part p).asked = false ∧
       (∃ l, (s.part p).launch = some l ∧ l.ended = none) ∧ (isDrive sv = true ∨ sv.ca ∉ s.retired) ∧
       (s.thread sv).run = .dormant ∧ (s.thread sv).preReq = none
     s.sched = .request sv pc cause addr tpc :: rest →
     (may → step s = .next (({ s with sched := rest } : State).setThread sv { s.thread sv with
       run := .ready, wait := .none, park := .no, pc := pc, tcause := cause, taddr := addr, tpc := tpc, tstat := 0x80000000#32
       ibuf := [], waited := false })) ∧
     (¬ may → step s = .next { s with sched := rest }))

/-- R357, R359, R365: SCALL and BKPT take their trap with the code and the link value; HALT ends the partition's launch with
status 1 and its code; ERET resumes the thread that TSTAT names at TPC where TSTAT.WHY is 0, its deferred access reissued where
TSTAT.REISS is 1 and else dropped, its counter lowered (R92), and leaves the service thread dormant with its trap registers zero,
once its own accesses have performed, an absent page among them served. R359: the end of a launch stops every thread of the partition
and discards its queues, slots, written-back records, ordered tasks, tags, cells, reservations, inboxes, engine commands and
transfers with their locks, messages, faults and contexts put away, and nothing of another partition. ERET and HALT at the general level trap with PRIV. R193,
R194, R12, R13: an instruction that its core's kind has not is illegal; one whose guard is false has no effect. -/
def Obligations.TrapsByDesign : Prop :=
  (∀ (s : State) (n : BitVec 12), threadOk s.cur = true →
     let th := s.th
     let handled : Prop := isService s.cur = false ∧ s.curPart.tvecEn = true ∧ (∀ k, s.here.lease ≠ some (s.cur.tid, k))
     let by_ (c : Cause) : Thread := { th with
       run := .parked, park := .trap, wait := .none, held := false, taken := false, waited := false, ibuf := [], tpc := th.pc
       tcause := BitVec.ofNat 8 c.code, taddr := n.zeroExtend 64
       tstat := BitVec.ofNat 32 (2 ^ 6 * (if isDrive s.cur then 0 else s.cur.tid) + 2 ^ 11 * (isDrive s.cur).toNat +
         2 ^ 12 * (match th.task with | some k => k.r.o | none => false).toNat) }
     let target : ThreadRef := ⟨s.cur.ca, if th.tstat.toNat / 2 ^ 11 % 2 = 1 then 32 else th.tstat.toNat / 2 ^ 6 % 32⟩
     let why := th.tstat.toNat / 2 ^ 30
     let sleeps (u t : State) : Prop := t = u.setThread s.cur { u.thread s.cur with
       run := .dormant, wait := .none, tcause := 0, taddr := 0, tpc := 0, tstat := 0, ibuf := [] }
     (handled → Completes (.scall n) s fun t => ThreadBecomes s t (by_ .syscall)) ∧
     (handled → Completes (.bkpt n) s fun t => ThreadBecomes s t (by_ .breakpoint)) ∧
     (isService s.cur = false → exec .eret s = .next (s.trap .priv) ∧ exec (.halt n) s = .next (s.trap .priv)) ∧
     (isService s.cur = true → Completes (.halt n) s fun t => ∃ u, u = s.haltPart s.pid 1 n.toNat ∧
       t = u.setThread u.cur { u.th with held := true }) ∧
     (isService s.cur = true → ∀ a pre post addr, th.out = pre ++ a :: post → a.status = .firmware addr →
       (∀ b ∈ pre, ∀ y, b.status ≠ .firmware y) → exec .eret s = .next (s.deliver a)) ∧
     (isService s.cur = true → (∀ o ∈ th.out, ∃ c x y, o.status = .fault c x y) →
       (why ≠ 0 ∨ (s.thread target).park ≠ .handled → Completes .eret s fun t => sleeps s t) ∧
       (why = 0 → (s.thread target).park = .handled → (s.thread target).tied = false → target ≠ s.cur →
         let old := s.thread target
         let on : Thread := { old with run := .ready, park := .no, wait := .none, pc := th.tpc, reissue := none }
         ((∀ a ∈ old.out, old.reissue ≠ some a.id) → Completes .eret s fun t => sleeps (s.setThread target on) t) ∧
         ∀ a, old.reissue = some a.id → old.out.find? (fun b => b.id == a.id) = some a →
           (th.tstat.toNat / 4 % 2 = 1 → Completes .eret s fun t => sleeps (s.setThread target { on with
             out := old.out.map fun b => if b.id = a.id then { b with status := .pending } else b }) t) ∧
           (th.tstat.toNat / 4 % 2 = 0 → Completes .eret s fun t => sleeps (s.setThread target { on with
             out := old.out.filter fun b => b.id != a.id
             cntLd := if a.op.isLoad then old.cntLd - 1 else old.cntLd
             cntSt := if a.op.isLoad then old.cntSt else old.cntSt - 1 }) t)))) ∧
  (∀ (s : State) (p st code : Nat), tmem s.parts p = true →
     let t := s.haltPart p st code
     let q := s.part p
     let holds (ca : Nat) : Prop := ca ∈ q.pol.columns ∧ (s.col ca).holder = some p
     let ours (n : Nat) : Prop := (∃ c ∈ s.cmds, s.owns p c.t = true ∧ c.id = n) ∨
       (∃ x ∈ s.xfers, s.owns p x.t = true ∧ (x.id = n ∨ ∃ y ∈ x.landing, y.2 = n)) ∨ ∃ ca, holds ca ∧ n ∈ (s.col ca).xlanded
     (∀ ca, holds ca → let c := t.col ca
       (∀ n < 32, t.thread ⟨ca, n⟩ = Thread.resetAt n) ∧ c.q0 = [] ∧ c.q1 = [] ∧ c.q2 = [] ∧ c.q3 = [] ∧ c.inbox = [] ∧ c.replay = [] ∧
       c.spill = [] ∧ c.loftChange = none ∧ c.lease = none ∧ c.mrots = 0 ∧ c.colls = [] ∧ c.xcount = 0 ∧ c.xopen = [] ∧
       c.home = (s.col ca).home ∧ c.loft = (s.col ca).loft ∧ c.ways = (s.col ca).ways ∧ c.acc = (s.col ca).acc ∧
       c.domid = (s.col ca).domid ∧ c.holder = some p) ∧
     (q.pol.pres = false → ∀ ca, ¬ holds ca → t.col ca = s.col ca) ∧
     (q.pol.pres = true → ∀ ca, ¬ holds ca → t.col ca = { s.col ca with
       threads := (s.col ca).threads.filter fun e => decide (e.1 < 32)
       dinbox := [], dreplay := [], dspill := [], fifo := [], pushes := [] }) ∧
     (q.pol.pres = true → ∀ ca, let c := t.col ca
       (∀ d, 32 ≤ d → t.thread ⟨ca, d⟩ = Thread.resetAt d) ∧ c.dinbox = [] ∧ c.dreplay = [] ∧ c.dspill = [] ∧ c.fifo = [] ∧ c.pushes = [] ∧
       c.pixels = (s.col ca).pixels ∧ c.drive = (s.col ca).drive ∧ c.seqr = (s.col ca).seqr ∧ c.blend = (s.col ca).blend) ∧
     t.part p = { q with
       slots := [], wb := [], otasks := [], tags := [], heldBack := true, cells := [], barWait := [], places := []
       launch := q.launch.map fun l => { l with ended := match l.ended with
         | some e => some e
         | none => some (st, code, Stranded s p, s.now) } } ∧
     (∀ n, n ≠ p → t.part n = s.part n) ∧ t.cmds = s.cmds.filter (fun c => !s.owns p c.t) ∧
     t.xfers = s.xfers.filter (fun x => !s.owns p x.t) ∧ (∀ l, l ∈ t.locks ↔ l ∈ s.locks ∧ ¬ ours l.owner) ∧
     (∀ m, m ∈ t.net ↔ m ∈ s.net ∧ m.fromPart ≠ p ∧ (m.part = p → m.drv = true)) ∧
     t.faults = s.faults.filter (fun x => x.part != p) ∧ t.routers = s.routers.filter (fun x => x.part != p) ∧
     t.posted = s.posted.filter (fun x => x.part != p) ∧ t.ranges = s.ranges.filter (fun x => x.part != p) ∧
     t.records = s.records.filter (fun x => x.1 != p) ∧ t.saved = s.saved.filter (fun x => x.part != p) ∧
     (∀ b ∈ t.batches, ∀ e ∈ b.entries, e.part ≠ p) ∧
     (∀ k, let old := tget s.links k Link.reset
       (tget t.links k Link.reset).permits = old.permits ∧ (tget t.links k Link.reset).cmds = old.cmds.map fun c => match c.fault with
         | some x => if x.part = p then { c with fault := none, part := 16 } else c
         | none => c) ∧
     (∀ e, e ∈ t.poison ↔ e ∈ s.poison ∧ match e.at_ with
       | .cell n _ _ | .slot n _ => n ≠ p
       | .loft ca _ => ¬ holds ca
       | .home _ _ | .cellar _ | .arg _ _ => True) ∧
     t.cellar = s.cellar ∧ t.hostMem = s.hostMem ∧ t.fns = s.fns) ∧
  (∀ (s : State) (i : Instr), threadOk s.cur = true → (∃ w, encodeNat i = some w) →
     (i.onKind (isDrive s.cur) = false → exec i s = .next (s.trap .illegalInstr)) ∧
     (i.onKind (isDrive s.cur) = true → (∀ d r, i ≠ .sysr d r) → (∀ d r, i ≠ .sysw d r) → (∀ d r, i ≠ .sysx d r) → i ≠ .eret →
       (∀ n, i ≠ .halt n) → (∀ d a g, i ≠ .rplay d a g) → (∀ d a c, i ≠ .recv d a c) → s.guardTrue i.guard = false → exec i s = .next s))

/-! ### Progress of threads, queues and messages -/

/-- R37, R200, R202, R275: a held thread goes on once what it waits for is there, not before, or a fault holds it back; XRECV also
at its deadline, once what R376 says has landed by then has; and a thread stalled before a pre-emption point issues again to park
there (R72). What a fault holds back is what stands behind it in the model's reading (log 54). R44, R360, R101, R67: a spawn that
has stalled for longer than its limit traps, unless the field controller grows the queue (a free value, log 2); a lease of its
thread ends either way; a CTXNEW traps. The placement counts stay after a QUEUE_FULL (the model's choice, log 84). -/
def Obligations.StallsEnd : Prop :=
  (∀ (s : State) (t : ThreadRef),
     let th := s.thread t
     let c := s.col t.ca
     let stopped (ld st : Nat) : Prop := ∃ b ∈ th.out, b.status ≠ .pending ∧ ∃ a ∈ s.stuck t (fun a => a.id == b.id),
       if a.op.isLoad then ld < th.cntLd else st < th.cntSt
     let over_ (w : Wait) (P : Prop) : Prop :=
       (w = .room .ld ∧ (P ↔ th.cntLd < 31)) ∨ (w = .room .st ∧ (P ↔ th.cntSt < 31)) ∨ (w = .room .cp ∧ (P ↔ th.cntCp < 31)) ∨
       (w = .room .tl ∧ (P ↔ th.cntTl < 31)) ∨ (w = .room .fx ∧ (P ↔ th.cntFx < 31)) ∨
       (∃ a b d e f, w = .limits a b d e f ∧
         (P ↔ (th.cntLd ≤ a ∧ th.cntSt ≤ b ∧ th.cntCp ≤ d ∧ th.cntTl ≤ e ∧ th.cntFx ≤ f) ∨ stopped a b ∨
           ∃ g ∈ th.engFaults, (match g.ctr with | .cp => d | .tl => e | _ => f) < g.before)) ∨
       (w = .sequencer ∧ (P ↔ c.seqr.length < 16)) ∨ (w = .fifo ∧ (P ↔ c.fifo ≠ [])) ∨ (w = .foldStores ∧ (P ↔ th.cntSt = 0 ∨ stopped 31 0)) ∨
       (∃ d n k, w = .xrecv d n k ∧ (P ↔ n ≤ c.xcount)) ∨ (∃ ids, w = .copies ids ∧ (P ↔ ∀ i ∈ ids, ∀ e ∈ c.seqr, e.id = i → e.copied = true)) ∨
       (∃ ca prio, w = .spawn ca prio ∧ (P ↔ s.queueFull ((s.partOf t).getD 16) ca prio = false)) ∨
       (∃ ids, w = .lookups ids ∧ (P ↔ ∀ y ∈ s.heldThreads ((s.partOf t).getD 16), ∀ a ∈ y.out, a.id ∈ ids →
         ∀ f d els ld mode seen, a.op ≠ .tex f d els ld mode (some seen))) ∨
       (w = .again ∧ (P ↔ (∀ a ∈ th.out, ∃ b ∈ s.stuck t (fun o => o.status != .pending), b.id = a.id) ∧
         (s.unregistered t = [] ∨ ∃ b ∈ th.out, b.status ≠ .pending ∧ b.mayPass = false ∧ ∃ n ∈ s.unregistered t, b.id < n)))
     let on : Thread := { th with run := .ready, waited := true }
     (th.run = .stalled → ∀ P, over_ th.wait P →
       (P → Completes (.stallResume t) s fun u => Becomes s u (s.setThread t on)) ∧
       (¬ P → s.mustPark t = false → exec (.stallResume t) s = .next s)) ∧
     (th.run = .stalled → s.mustPark t = true → th.wait = .fifo ∨ th.wait = .foldStores ∨ (∃ l, th.wait = .engineTags l) →
       Completes (.stallResume t) s fun u => Becomes s u (s.setThread t on)) ∧
     (th.run ≠ .stalled → th.run ≠ .waiting → exec (.stallResume t) s = .next s) ∧
     (∀ d n k, th.run = .stalled → th.wait = .xrecv d n k →
       (k ≠ 0 → k ≤ s.now → s.landingDue t.ca = false → Completes (.xrecvDeadline t) s fun u => Becomes s u (s.setThread t on)) ∧
       (k = 0 ∨ s.now < k ∨ s.landingDue t.ca = true → exec (.xrecvDeadline t) s = .next s))) ∧
  (∀ (s : State) (t : ThreadRef), (s.thread t).run = .stalled →
     let th := s.thread t
     let p := (s.partOf t).getD 16
     let q := s.part p
     (∀ ca prio, th.wait = .spawn ca prio →
       (th.since + q.pol.spawnlim < s.now → Completes (.spawnStallLimit t) s fun u =>
         let f : State := { s with freeCtr := s.freeCtr + 1 }
         u = f.takeTrap t .queueFull 0 th.ipc ⟨false, false, true⟩ ∨
         ∃ k, 0 < k ∧ u = ((f.setPart p { q with grown := tset q.grown (4 * ca + prio) (tget q.grown (4 * ca + prio) 0 + k) }).setThread t
           { th with run := .ready, waited := false }).endLease t) ∧
       (s.now ≤ th.since + q.pol.spawnlim → exec (.spawnStallLimit t) s = .next s)) ∧
     (th.wait = .tagFree →
       (th.since + q.pol.ctxlim < s.now → exec (.contextStallLimit t) s = .next ((s.setPart p { q with
         ctxExhausted := q.ctxExhausted + 1 }).takeTrap
           t .ctxExhausted 0 th.ipc ⟨false, false, false⟩)) ∧
       (s.now ≤ th.since + q.pol.ctxlim → exec (.contextStallLimit t) s = .next s)))

/-- R46, R47, R48, R52: an idle general thread pops the record at the commit frontier, else the first of the highest priority,
skipping what the tag pool cannot start and what waits for its spawner's accesses (R259); it enters with the record's words, its
slot and index, the almanac, and everything else cleared; the frontier's takes the tag held back for it (R56); a poisoned record
is consumed (R450). R46: a record that has waited 2^16 ticks in its queue moves one priority up, ahead of what was committed there
after it. R52, R53, R55: a task at its TEND commits once its timestamp is the frontier's and its lines have their pages (log 55),
and its thread ends; with a tie it traps with STAMP_TIE; a poisoned line of its is consumed (R450); otherwise it waits on. R53: an
abort withdraws the task from its thread, discards its cells, buffered reductions and held spawns, and commits its original record
again; a LOFTWAYS change of its goes on without it. Stated of a task that a thread of its partition runs, with no cells, no suspended continuation and no reservations. -/
def Obligations.QueuesAndOrder : Prop :=
  (∀ (s0 : State) (t : ThreadRef) (p : Nat) (q : QRec) (before after : List QRec), (s0.col t.ca).holder = some p → threadOk t = true →
     t.tid < 24 → (s0.thread t).run = .idle → (s0.thread t).preReq = none → t.ca ∉ s0.retired → (s0.part p).here = true →
     (s0.part p).asked = false →
     let s := s0.sweep p
     let c := s.col t.ca
     let pool := (s.part p).pool
     let first (r : QRec) : Prop := r.r.o = true ∧ r.r.stamp.toNat = s.frontier p ∧ (r.r.tag ≠ 0 ∨ (s.part p).heldBack = true ∨ pool ≠ 0)
     let may (r : QRec) : Prop := r.r.o = true → r.r.tag = 0 → pool ≠ 0 ∧ s.frontierWants p = false
     let free (r : QRec) : Bool := match r.after with | some (t, n) => (s.threadOf p t).out.all fun a => decide (n ≤ a.id) | none => true
     let slot := 0xFFA00 + 64 * t.tid
     let keep (l : List QRec) : List QRec := l.filter fun r => r.seq != q.seq
     (c.q3 ++ c.q2 ++ c.q1 ++ c.q0).filter free = before ++ q :: after →
     (first q ∧ ∀ r ∈ before, ¬ first r) ∨ (may q ∧ (∀ r ∈ before, ¬ may r) ∧ ∀ r ∈ before ++ q :: after, ¬ first r) →
     ((∃ e ∈ s.poison, e.at_ = .slot p q.addr) → exec (.taskPop t) s0 = .next (s.consume t (.slot p q.addr))) ∧
     ((∀ e ∈ s.poison, e.at_ ≠ .slot p q.addr) → Completes (.taskPop t) s0 fun u => ∃ tag : BitVec 12, ∃ th : Thread, (q.r.o = false ∨ q.r.tag ≠ 0 → tag = q.r.tag) ∧
       u.thread t = th ∧ th.run = .ready ∧ th.pc = q.r.code ∧ th.tscur = q.r.stamp ∧ th.ctxcur = tag ∧ th.vl = 0 ∧ th.laneReq = 0 ∧
       th.rs 1 = q.r.arg0 ∧ th.rs 2 = q.r.arg1 ∧ th.rs 3 = q.r.arg2 ∧ th.rs 4 = BitVec.ofNat 64 (0x7F0000000000 + slot) ∧
       th.rs 5 = BitVec.ofNat 64 t.tid ∧ th.rs 6 = s0.almanac ∧ th.rs 30 = q.r.frame ∧
       (∀ r : BitVec 5, r ∉ [1, 2, 3, 4, 5, 6, 30] → th.rs r = 0) ∧ (∀ r, th.rp r = (r == 0)) ∧ (∀ r i, th.rv r i = 0) ∧
       (∀ r, r ≠ 0 → th.rk false r = 0) ∧ th.cntLd = 0 ∧ th.cntSt = 0 ∧ th.cntCp = 0 ∧ th.cntTl = 0 ∧ th.cntFx = 0 ∧ th.out = [] ∧
       th.task = some ⟨{ q.r with tag := tag }, q.lin⟩ ∧
       (∀ n, n ≠ t.tid → u.thread ⟨t.ca, n⟩ = s.thread ⟨t.ca, n⟩) ∧ (∀ ca, ca ≠ t.ca → u.col ca = s.col ca) ∧
       (u.col t.ca).q0 = keep c.q0 ∧ (u.col t.ca).q1 = keep c.q1 ∧ (u.col t.ca).q2 = keep c.q2 ∧ (u.col t.ca).q3 = keep c.q3 ∧
       (∀ a, mget (u.col t.ca).home a = if slot ≤ a ∧ a < slot + 64 then q.r.bytes.getD (a - slot) 0 else mget c.home a) ∧
       (∀ e, e ∈ u.poison ↔ e ∈ s.poison ∧ e.at_ ≠ .home t.ca (slot / 64)) ∧
       (q.r.o = true → q.r.tag = 0 → tmem s.parts p = true → (s.part p).freeTags ≠ [] → (s.part p).pol.taglim ≤ 4096 →
         (s.part p).tag tag = none ∧ (u.part p).tag tag = some ⟨true, 0, 1⟩ ∧
         (u.part p).heldBack = ((s.part p).heldBack && q.r.stamp.toNat != s.frontier p) ∧
         ∃ o ∈ (u.part p).otasks, o.tag = tag ∧ o.orig = q.r ∧ o.ca = t.ca ∧ o.reads = [] ∧ o.buf = [] ∧ o.spawns = [] ∧ o.tie = false))) ∧
  (∀ (s : State) (ca prio : Nat) (q : QRec) (before after : List QRec), prio < 3 → (s.col ca).queue prio = before ++ q :: after →
     q.enter + 65536 ≤ s.now → (∀ r ∈ before, s.now < r.enter + 65536) → (∀ r ∈ before ++ after, r.seq ≠ q.seq) →
     ∀ low high, (s.col ca).queue (prio + 1) = low ++ high → (∀ r ∈ low, r.seq ≤ q.seq) → (∀ r rest, high = r :: rest → q.seq < r.seq) →
     Completes (.recordAging ca prio) s fun t => Becomes s t (s.setCol ca (((s.col ca).setQueue prio (before ++ after)).setQueue (prio + 1)
       (low ++ { q with enter := s.now } :: high)))) ∧
  (∀ (s : State) (t : ThreadRef) (o : OTask), (s.thread t).run = .waiting → (s.thread t).wait = .commit →
     let p := (s.partOf t).getD 16
     let th := s.thread t
     (s.part p).otaskOf th.ownTag = some o →
     let now_ : Prop := o.orig.stamp.toNat = s.frontier p ∧ (s.part p).here = true
     (o.tie = true → exec (.orderedCommit t) s = .next (s.tieTrap t)) ∧
     (o.tie = false → now_ → ∀ line, s.commitTaint p o = some line → exec (.orderedCommit t) s = .next (s.consume t line)) ∧
     (o.tie = false → now_ → s.commitTaint p o = none → s.commitReady p o = true → Completes (.orderedCommit t) s fun u =>
       u = (s.commitTask p t o).endThread t) ∧
     (o.tie = false → ¬ now_ ∨ s.commitTaint p o = none ∧ s.commitReady p o = false → exec (.orderedCommit t) s = .next s) ∧
     (∀ u, u = s.commitTask p t o → tmem s.parts p = true → (s.part p).cells = [] → o.buf = [] → o.spawns = [] →
       o.orig.c = false → (s.part p).live o.tag = true → o.tag ≠ 0 →
       (u.part p).live o.tag = false ∧ (∀ y ∈ (u.part p).otasks, y.tag ≠ o.tag) ∧ SameMemory s u ∧
       ∀ y ∈ (s.part p).otasks, y.tag ≠ o.tag → y ∈ (u.part p).otasks)) ∧
  (∀ (s : State) (p : Nat) (t : ThreadRef) (o : OTask), s.runner p o.tag = some t → (s.col t.ca).holder = some p → t.tid < 24 →
     (∀ ca ∈ (s.part p).pol.columns, ∀ r ∈ (let c := s.colOf p ca; c.q0 ++ c.q1 ++ c.q2 ++ c.q3), ¬ (r.r.o = true ∧ r.r.tag = o.tag)) →
     o.ca = t.ca → tmem s.parts p = true →
     let u := s.abortTask p o
     let th := s.thread t
     u.thread t = { Thread.reset with sent := th.sent, resv := th.resv, preReq := th.preReq, laneReq := th.laneReq, laneHeld := th.laneHeld } ∧
     (∀ ch, (s.col t.ca).loftChange = some ch →
       (u.col t.ca).loftChange = some (if ch.t.tid = t.tid then { ch with gone := true } else ch)) ∧
     (∀ y ∈ (u.part p).otasks, y.tag ≠ o.tag) ∧ (∀ c ∈ (u.part p).cells, c.tag = o.tag → (s.part p).live o.tag = false) ∧
     (u.col t.ca).queue o.orig.prio.toNat = (s.col t.ca).queue o.orig.prio.toNat ++ [⟨o.orig, s.nextId, s.now, o.lin, 0, none, o.born⟩])

/-- R137, R150, R266, R267: a message enters its inbox once no earlier message of its sender waits on that channel and inbox, its
sender's earlier accesses have performed, and there is room; then its sender's counter falls. A drive message of a
partition that no longer has the presentation role is lost, by the model's choice (log 89). A spill wakes the spill routine (R270,
R364), but on no control core of a retired column (R32), and not while its partition is away or asked to leave (R26, R72). -/
def Obligations.MessagesArrive : Prop :=
  ∀ (s : State) (m : Msg) (ca : Nat) (drv : Bool), s.net.find? (fun x => x.id == m.id) = some m →
    let ahead := s.net.takeWhile fun x => x.id != m.id
    let may : Prop := (∀ x ∈ ahead, ¬ (x.from_ = m.from_ ∧ x.fromPart = m.fromPart ∧ x.ch = m.ch ∧ x.ca = m.ca ∧ x.drv = m.drv)) ∧
      (∀ t, m.from_ = some t → ∀ a ∈ (s.threadOf m.fromPart t).out, m.id ≤ a.id) ∧
      (m.drv = true → s.presHolder = some m.part → (s.col m.ca).dinbox.length + (s.col m.ca).dreplay.length < 16) ∧
      (m.drv = false → (s.colOf m.part m.ca).inbox.length + (s.colOf m.part m.ca).replay.length < 64 ∧
        ((s.col m.ca).holder = some m.part ∨ (s.part m.part).leaving = true ∨ (s.part m.part).here = false))
    let w : State := { s with net := s.net.filter fun x => x.id != m.id }
    let u : State := if m.drv then (if s.presHolder = some m.part then w.setCol m.ca { w.col m.ca with dinbox := (w.col m.ca).dinbox ++ [m] } else w)
      else w.updColOf m.part m.ca fun c => { c with inbox := c.inbox ++ [m] }
    (¬ may → exec (.messageDelivery m.id) s = .next s) ∧
    (may → Completes (.messageDelivery m.id) s fun t => (m.from_ = none → t = u) ∧
      ∀ x, m.from_ = some x → ∃ v : State, t = v.settle x ∧
        v = u.updThreadOf m.fromPart x fun th => { th with cntFx := th.cntFx - 1 }) ∧
    (let sv : ThreadRef := ⟨ca, if drv then 33 else 24⟩
     let runs : Prop := ∃ p, (if drv then s.presHolder else (s.col ca).holder) = some p ∧ ((s.part p).resident = true ∨ (s.part p).clocked = true) ∧
       (s.part p).asked = false
     (s.spillEntry ca drv = none ∨ ¬ runs ∨ drv = false ∧ ca ∈ s.retired → exec (.spillWake ca drv) s = .next s) ∧
     (runs → drv = true ∨ ca ∉ s.retired → ∀ e, s.spillEntry ca drv = some e → s.spillCause ca drv = true → (s.thread sv).run = .dormant → (s.thread sv).preReq = none →
       s.trapWaits sv = false → Completes (.spillWake ca drv) s fun t => Becomes s t (s.setThread sv { s.thread sv with
           run := .ready, wait := .none, park := .no, pc := e, tcause := 0, taddr := 0, tpc := 0, tstat := 0x40000000#32, ibuf := []
           waited := false })))

/-- R72, R73, R428: once the field controllers of a leaving partition have consumed what they were told, the request reaches its
threads, a thread stalled before one of R72's instructions issues again to park there, and one at a barrier with nothing
outstanding parks; at its distance a thread that still runs is stopped, its uncommitted ordered task aborted, one in an exchange
phase kills its partition; a frontier task is only stopped. R429: a quantum ends; a partition that waits is entitled once every
rival for its fields yields and none goes first; then its rivals are told to leave, at one permit for each field controller, and
it is to come; without permits all waits. R422: PEVICT, done once the field controllers have acknowledged it and the partition is
swapped out (R428). R430, R431, R421: a column that is free takes in the context of a partition that is to come; one whose holder
leaves and whose threads and engines are done gives its context up first. A context comes back as it went; an error in it, or in
the scratch of the column that gives its context up, kills (R449, R450). PFCMD stands as written until its status. A
partition is resident once it holds all its columns. Which rivals yield is a reading of R429 (log 30), and so is that a frontier
task is stopped and parked (log 77); the layout of PEVICT's operand and the byte 2 of a command that no write brings (log 63), its status 2 (log 40) and its discard beside another
command (log 90) are the model's choice. -/
def Obligations.Preemption : Prop :=
  (∀ (s : State) (p : Nat) (t : ThreadRef),
     let th := s.thread t
     let q := (s.partOf t).getD 16
     let dist := match (s.part q).launch with
       | some l => l.dist
       | none => 0
     let stillRuns : Prop := (th.run ≠ .parked ∨ th.phase ≠ none) ∧ th.run ≠ .idle ∧ th.run ≠ .dormant
     let loft : Prop := ∃ r v d, th.wait = .sysw r v d ∧ r = 0x030
     let past (r : Nat) : Prop := 5 * (dist + 4096) ≤ 16 * (s.now - r)
     let was : Run := if th.run = .stalled ∧ (∀ r v d, th.wait ≠ .sysw r v d) then .ready else th.run
     let told : Prop := ∃ n ∈ (s.part p).pol.fields, ∃ k, (k = n ∨ k = 72 + n) ∧ ∃ c ∈ (tget s.links k Link.reset).cmds,
       c.part = p ∧ c.fault = none
     let front : Prop := ∃ k, th.task = some k ∧ k.r.stamp.toNat = s.frontier q
     let calm : Prop := ∀ y : ThreadRef, (s.thread y).run = .waiting → (∀ a ∈ (s.thread y).out, a.status = .pending) ∧ (s.thread y).engFaults = []
     ((s.part p).leaving = false ∨ (s.part p).asked = true ∨ told → exec (.preemptRequest p) s = .next s) ∧
     ((s.part p).leaving = true → (s.part p).asked = false → ¬ told → Completes (.preemptRequest p) s fun u => (u.part p).asked = true ∧
       (calm → ∀ x : ThreadRef, x.ca ∈ s.heldBy p → x.tid < 32 → (∃ e ∈ (s.col x.ca).threads, e.1 = x.tid) →
         let old := s.thread x
         let again : Prop := (old.run = .stalled ∧ (old.wait = .tagFree ∨ old.wait = .foldStores ∨ (∃ k, old.wait = .engineTags k) ∨ old.wait = .fifo ∨
             ∃ k, old.wait = .recv k)) ∨
           (old.run = .waiting ∧ ∃ k, old.wait = .recv k)
         (again → u.thread x = { old with preReq := some s.now, run := .ready, waited := true }) ∧
         (¬ again → old.run ≠ .waiting → u.thread x = { old with preReq := some s.now }) ∧
         (¬ again → old.run = .waiting → old.phase = none → (∀ k, (s.col x.ca).lease ≠ some (x.tid, k)) →
           old.cntLd = 0 → old.cntSt = 0 → old.cntCp = 0 → old.cntTl = 0 → old.cntFx = 0 →
           (u.thread x).run = .parked ∧ (u.thread x).park = .preempt .waiting))) ∧
     (th.preReq = none → exec (.preemptDistanceExpiry t) s = .next s) ∧
     (∀ r, th.preReq = some r →
       (¬ stillRuns ∨ loft ∨ ¬ past r → exec (.preemptDistanceExpiry t) s = .next s) ∧
       (stillRuns → ¬ loft → past r →
         (th.phase ≠ none → Completes (.preemptDistanceExpiry t) s fun u => u = s.killPart q 0x19) ∧
         (∀ o, th.phase = none → th.ordered = true → (s.part q).otaskOf th.ownTag = some o → ¬ front →
           Completes (.preemptDistanceExpiry t) s fun u => u = s.abortTask q o) ∧
         (th.phase = none → th.ordered = false ∨ front → Completes (.preemptDistanceExpiry t) s fun u =>
           Becomes s u (s.setThread t { th with
             run := .parked, park := .preempt was, preReq := none, ibuf := [], waited := false }))))) ∧
  (∀ (s : State) (p : Nat),
     let x := s.part p
     let here (y : Partition) : Prop := y.resident = true ∨ y.clocked = true
     let spent : Prop := here x ∧ x.spent = false ∧ x.quantumFrom + 1000 * x.pol.quantum ≤ s.now
     let shares (a b : Policy) : Prop := a.originRow < b.originRow + b.rows ∧ b.originRow < a.originRow + a.rows ∧
       a.originCol < b.originCol + b.cols ∧ b.originCol < a.originCol + a.cols
     let rival (n : Nat) (y : Partition) : Prop := (n, y) ∈ s.parts ∧ n ≠ p ∧ shares y.pol x.pol
     let yields (y : Partition) : Prop := ¬ here y ∨ y.leaving = true ∨ y.pol.prio < x.pol.prio ∨
       (y.pol.prio = x.pol.prio ∧ y.spent = true)
     let before (y : Partition) : Prop := y.coming = true ∨ ∃ a b, y.wants = some a ∧ x.wants = some b ∧
       (x.pol.prio < y.pol.prio ∨ (y.pol.prio = x.pol.prio ∧ a < b))
     let link (t : State) (f : Nat) : Link := tget t.links f Link.reset
     let permits (n : Nat) : Prop := ∀ f ∈ (s.part n).pol.fields, 0 < (link s f).permits
     let goes (n : Nat) : Prop := ∃ y, rival n y ∧ here y ∧ y.leaving = false
     let entitled : Prop := x.wants ≠ none ∧ x.coming = false ∧ x.evicted = false ∧ (∀ n y, rival n y → yields y ∧ ¬ before y) ∧
       ∀ n, goes n → permits n
     let tells (n : Nat) (t : State) : Prop := ∀ f ∈ (s.part n).pol.fields, ∃ c,
       link t f = ⟨(link s f).permits - 1, (link s f).cmds ++ [⟨n, c, none⟩]⟩
     let r := s.fn 0
     let word (st : Nat) : Nat := 5 + 65536 * st + 2 ^ 64 * (p % 2 ^ 64)
     let writes (w : Nat) (busy begun : Bool) (t : State) : Prop := (t.fn 0).pfcmd.toNat = w ∧
       t.fn 0 = { r with pfcmd := (t.fn 0).pfcmd, pfBusy := busy, pfStarted := begun } ∧ ∀ k, k ≠ 0 → t.fn k = s.fn k
     let holds (begun : Bool) (t : State) : Prop := writes (if r.pfBusy then r.pfcmd.toNat else word 0xFE) true begun t
     let said (st : Nat) (t : State) : Prop := writes (word st) false false t ∧ t = { s with fns := t.fns }
     let takes : Prop := s.boot.running = true ∧
       (r.pfBusy = false ∨ (r.pfcmd.toNat % 65536 = 5 ∧ r.pfcmd.toNat / 2 ^ 64 % 2 ^ 64 = p % 2 ^ 64))
     let answered : Prop := ∀ f ∈ x.pol.fields, ∀ k, k = f ∨ k = 72 + f → ∀ c ∈ (link s k).cmds, c.part ≠ p ∨ c.fault ≠ none
     let away : Prop := here x ∨ ∃ ca ∈ x.pol.columns, (s.col ca).holder = some p
     (spent → Completes (.quantumExpiry p) s fun t => Becomes s t (s.setPart p { x with spent := true })) ∧
     (¬ spent → exec (.quantumExpiry p) s = .next s) ∧
     (¬ entitled → exec (.preemption p) s = .next s) ∧
     (entitled → tmem s.parts p = true → Completes (.preemption p) s fun t => t.part p = { x with coming := true } ∧
       (∀ n, goes n → t.part n = { s.part n with leaving := true }) ∧
       (∀ n, n ≠ p → ¬ goes n → t.part n = s.part n) ∧ t = { s with parts := t.parts, links := t.links, freeCtr := t.freeCtr } ∧
       ((∀ n, ¬ goes n) → t.links = s.links) ∧
       ∀ n, (s.parts.map fun e => e.1).Nodup → (s.part n).pol.fields.Nodup → goes n → (∀ m, goes m → m = n) → tells n t) ∧
     (takes → tmem s.parts p = true →
       (r.pfStarted = false → permits p → Completes (.pevict p) s fun t =>
         t.part p = { x with evicted := true, wants := none, coming := false, leaving := (t.part p).leaving } ∧
         ((t.part p).leaving = true ↔ x.leaving = true ∨ away) ∧ (∀ n, n ≠ p → t.part n = s.part n) ∧ holds true t ∧
         (x.pol.fields.Nodup → tells p t) ∧ t = { s with parts := t.parts, fns := t.fns, links := t.links, freeCtr := t.freeCtr }) ∧
       (r.pfStarted = false → ¬ permits p → Completes (.pevict p) s fun t => holds false t ∧ t = { s with fns := t.fns }) ∧
       (r.pfStarted = true → answered → ¬ away ∨ x.evicted = false → Completes (.pevict p) s (said 0)) ∧
       (r.pfStarted = true → ¬ answered ∨ (away ∧ x.evicted = true) → exec (.pevict p) s = .next s)) ∧
     (takes → tmem s.parts p = false → Completes (.pevict p) s (said 2)) ∧
     (s.boot.running = false → exec (.pevict p) s = .next s)) ∧
  (∀ (s : State) (ca p q : Nat),
     let c := s.col ca
     let x := s.part q
     let done (p : Nat) : Prop := (s.part p).leaving = true ∧ (s.part p).asked = true ∧
       (∀ n ∈ c.threads.map (fun e => e.1), n < 32 → ((s.thread ⟨ca, n⟩).run = .parked ∧ (s.thread ⟨ca, n⟩).phase = none) ∨
         (s.thread ⟨ca, n⟩).run = .idle ∨ (s.thread ⟨ca, n⟩).run = .dormant) ∧
       (∀ k ∈ s.cmds, (k.t.ca ≠ ca ∨ isDrive k.t = true) ∧ ∀ y ∈ k.sends, y.1 ≠ ca) ∧
       (∀ f ∈ s.xfers, f.t.ca ≠ ca ∧ ca ∉ f.targets) ∧ c.loftChange = none
     let waits (k : Nat) : Prop := ∃ o ∈ x.otasks, o.orig.stamp.toNat = s.frontier q ∧ ∃ t, s.runner q o.tag = some t ∧
       (s.col t.ca).holder ≠ some q ∧ (s.threadOf q t).run = .parked ∧ t.ca = k
     let first : Prop := (∀ k, ¬ waits k) ∨ waits ca
     let bad : Prop := ∃ v ∈ s.saved, v.part = q ∧ v.ca = ca ∧ v.bad = true
     let inCol (x : Place) : Bool := match x with
       | .home k _ | .loft k _ => k == ca
       | _ => false
     let clean : Prop := ∀ e ∈ s.poison, inCol e.at_ = false
     let ctl (a b : Column) : Prop := a.home = b.home ∧ a.loft = b.loft ∧ a.ways = b.ways ∧ a.domid = b.domid ∧ a.acc = b.acc ∧
       a.q0 = b.q0 ∧ a.q1 = b.q1 ∧ a.q2 = b.q2 ∧ a.q3 = b.q3 ∧ a.inbox = b.inbox ∧ a.replay = b.replay ∧ a.spill = b.spill ∧
       a.lease = b.lease ∧ a.upReq = b.upReq ∧ a.upState = b.upState ∧ a.filter = b.filter
     let drive (a b : Column) : Prop := a.drive = b.drive ∧ a.pixels = b.pixels ∧ a.fifo = b.fifo ∧ a.seqr = b.seqr ∧ a.dinbox = b.dinbox ∧
       a.blend = b.blend ∧ a.calib = b.calib
     let comes (t : State) : Prop := (t.col ca).holder = some q ∧ ctl (t.col ca) (s.colOf q ca) ∧ drive (t.col ca) c ∧
       (∀ n < 32, let old := (s.colOf q ca).thread n
         (old.park = .preempt .ready → ((t.col ca).thread n).run = .ready) ∧ (old.park = .preempt .waiting → ((t.col ca).thread n).run = .waiting) ∧
         ((t.col ca).thread n).pc = old.pc ∧ ∀ r : Fin 32, ((t.col ca).thread n).s[r] = old.s[r]) ∧
       (∀ v ∈ t.saved, ¬ (v.part = q ∧ v.ca = ca)) ∧ (∀ e, e ∈ t.poison ↔ e ∈ s.poison ∧ inCol e.at_ = false) ∧ (x.resident = true ∨ x.clocked = true ∨ x.pol.pres = false → ∀ k, k ≠ ca → t.col k = s.col k)
     let arrives (t : State) : Prop :=
       (x.resident = false → x.clocked = false → (t.part q).quantumFrom = s.now ∧ (t.part q).clocked = true ∧ (t.part q).spent = false) ∧
       ((∀ k ∈ x.pol.columns, k ≠ ca → (s.col k).holder = some q) → (t.part q).resident = true ∧ (t.part q).coming = false ∧ (t.part q).wants = none) ∧
       ((∃ k ∈ x.pol.columns, k ≠ ca ∧ (s.col k).holder ≠ some q) → (t.part q).resident = x.resident ∧ (t.part q).coming = true)
     let goes (p : Nat) (t : State) : Prop := (∃ v ∈ t.saved, v.part = p ∧ v.ca = ca ∧ ctl v.col c ∧ v.bad = false) ∧ (t.part p).resident = false ∧
       ((∃ k ∈ (s.part p).pol.columns, k ≠ ca ∧ (s.col k).holder = some p) → (t.part p).leaving = true) ∧
       ((∀ k ∈ (s.part p).pol.columns, k ≠ ca → (s.col k).holder ≠ some p) → (t.part p).leaving = false ∧ (t.part p).clocked = false ∧
         (t.part p).wants = if (s.part p).running ∧ (s.part p).evicted = false then some s.now else none)
     (x.pol.has ca = false → exec (.columnContextExchange ca q) s = .next s) ∧
     (x.pol.has ca = true → c.holder ≠ some q → x.coming = false ∨ ¬ first → exec (.columnContextExchange ca q) s = .next s) ∧
     (x.pol.has ca = true → c.holder = some p → ¬ done p → exec (.columnContextExchange ca q) s = .next s) ∧
     (x.pol.has ca = true → c.holder = none → x.coming = true → first → tmem s.parts q = true →
       (bad → exec (.columnContextExchange ca q) s = .next (s.kill q 0x18 0 ca (some 9) 0)) ∧
       (¬ bad → Completes (.columnContextExchange ca q) s fun t => comes t ∧ arrives t)) ∧
     (∀ e, x.pol.has ca = true → c.holder = some p → done p → p = q ∨ (x.coming = true ∧ first) →
       s.poison.find? (fun y => inCol y.at_) = some e →
       exec (.columnContextExchange ca q) s = .next (s.kill p 0x18 0 e.ca (some e.unit) 0)) ∧
     (x.pol.has ca = true → c.holder = some p → p ≠ q → done p → x.coming = true → first → ¬ bad → clean → tmem s.parts q = true →
       Completes (.columnContextExchange ca q) s fun t => comes t ∧ arrives t ∧ goes p t) ∧
     (x.pol.has ca = true → c.holder = some q → done q → clean → Completes (.columnContextExchange ca q) s fun t =>
       (t.col ca).holder = none ∧ drive (t.col ca) c ∧ goes q t ∧ ctl (t.colOf q ca) c ∧ ∀ k, k ≠ ca → t.col k = s.col k))

/-! ### Faults, kills and sensors -/

/-- R440, R441, R445: SETROOT sets an idle partition's root, INVAL and RESOLVE check their operands; each leaves its opcode, its
operands and its status in TCMD. R428: such an operation is sent to every field controller of the partition, at one permit each, and
has its status once all have acknowledged it; TCMD stands as written till then. RESOLVE of a page with an open record wakes its waiters where the page now translates and
outcome is 0, and fails them otherwise. R445, R446: firmware's service of a posted fault whose page now translates wakes its
waiters; R447: a page of an entry with MIG = 1 is copied into a free frame within MEMQ and mapped, and its waiters get QUOTA where
MEMQ or the cellar leaves none; one with a record open joins it; a single fault with room in the event ring is recorded; with no
ring configured it is unresolvable. R450: firmware's walk that uses poison kills. R423: a page that the driver mapped past MEMQ gives
QUOTA; that such mappings are judged when the tables change is the model's choice (log 64), and so are the layout of operands
(log 63), a command's discard while another waits in TCMD (log 90), and which root has status 2 (log 40). -/
def Obligations.FaultCommands : Prop :=
  (∀ (s : State) (p : Nat) (va : Word) (n : Nat), s.boot.running = false →
     exec (.setroot p va) s = .next s ∧ exec (.inval p va n) s = .next s ∧ exec (.resolve p va n) s = .next s) ∧
  (∀ (s : State) (p : Nat) (va : Word) (n : Nat), s.boot.running = true →
     let r := s.fn 0
     let takes (op k ops : Nat) : Prop := r.tBusy = false ∨ (r.tcmd.toNat % 65536 = op ∧ r.tcmd.toNat / 2 ^ 64 % 2 ^ (64 * k) = ops)
     let drops (i : Instr) : Prop := Completes i s fun t => t = { s with fns := t.fns } ∧ (∀ k, k ≠ 0 → t.fn k = s.fn k) ∧
       t.fn 0 = { r with drop := if r.drop = 0xFFFFFFFF then r.drop else r.drop + 1 }
     let known : Prop := tmem s.parts p = true
     let runs : Prop := ∃ l, (s.part p).launch = some l ∧ l.ended = none
     let page := va.toNat / 65536
     let said (op st ops : Nat) (u t : State) : Prop := (t.fn 0).tcmd.toNat = op + 65536 * st + 2 ^ 64 * ops ∧
       t = { u with fns := t.fns } ∧ t.fn 0 = { u.fn 0 with tcmd := (t.fn 0).tcmd, tBusy := false, tStarted := false } ∧
       ∀ k, k ≠ 0 → t.fn k = u.fn k
     let fields := (s.part p).pol.fields
     let link (t : State) (k : Nat) : Link := tget t.links k Link.reset
     let permits : Prop := ∀ k ∈ fields, 0 < (link s k).permits
     let answered : Prop := ∀ f ∈ fields, ∀ k, k = f ∨ k = 72 + f → ∀ c ∈ (link s k).cmds, c.part ≠ p ∨ c.fault ≠ none
     let holds (op ops : Nat) (begun : Bool) (t : State) : Prop :=
       (t.fn 0).tcmd.toNat = (if r.tBusy then r.tcmd.toNat else op + 65536 * 0xFE + 2 ^ 64 * ops) ∧
       t.fn 0 = { r with tcmd := (t.fn 0).tcmd, tBusy := true, tStarted := begun } ∧ ∀ k, k ≠ 0 → t.fn k = s.fn k
     let sends (i : Instr) (op ops : Nat) : Prop :=
       (r.tStarted = false → permits → Completes i s fun t => holds op ops true t ∧
         t = { s with fns := t.fns, links := t.links, freeCtr := t.freeCtr } ∧ (fields.Nodup → ∀ k ∈ fields, ∃ c,
           link t k = ⟨(link s k).permits - 1, (link s k).cmds ++ [⟨p, c, none⟩]⟩)) ∧
       (r.tStarted = false → ¬ permits → Completes i s fun t => holds op ops false t ∧ t = { s with fns := t.fns }) ∧
       (r.tStarted = true → ¬ answered → exec i s = .next s)
     let told : Prop := r.tStarted = true ∧ answered
     let two := p % 2 ^ 64 + 2 ^ 64 * va.toNat
     let three := p % 2 ^ 64 + 2 ^ 64 * (va.toNat + 2 ^ 64 * (n % 2 ^ 64))
     let clean : Prop := ∀ x, s.translate p (page * 65536) ≠ .error (.poison x)
     let inside : Prop := va.toNat + 4096 ≤ Config.cellarEnd
     let refused : Prop := ∃ k ∈ (s.part p).refused, k.1 ≤ page * 65536 ∧ page * 65536 < k.1 + k.2
     (¬ takes 1 2 two → drops (.setroot p va)) ∧ (¬ takes 2 3 three → drops (.inval p va n)) ∧
     (¬ takes 3 3 three → drops (.resolve p va n)) ∧
     (takes 1 2 two → known → ¬ runs → inside → sends (.setroot p va) 1 two) ∧
     (takes 1 2 two → known → ¬ runs → inside → told → Completes (.setroot p va) s fun t => ∃ u, said 1 0 two u t ∧
       u = s.setPart p { s.part p with root := va, refused := (u.part p).refused, highMem := (u.part p).highMem } ∧
       (u.part p).highMem = max (s.part p).highMem (u.mappedBytes p) ∧ (∀ k ∈ (u.part p).refused, k ∈ u.cellarLeaves p) ∧
       ((s.part p).mapped + ((u.cellarLeaves p).map fun k => k.2).sum ≤ (s.part p).pol.memq → (u.part p).refused = []) ∧
       (s.cellarLeaves p = [] → (s.part p).mapped ≤ (s.part p).pol.memq → u.mappedBytes p ≤ (s.part p).pol.memq)) ∧
     (takes 1 2 two → ¬ known ∨ runs ∨ ¬ inside → Completes (.setroot p va) s fun t => said 1 2 two s t) ∧
     (takes 2 3 three → known → n ≤ 2 → va.toNat < 2 ^ 48 → sends (.inval p va n) 2 three) ∧
     (takes 2 3 three → known → n ≤ 2 → va.toNat < 2 ^ 48 → told → Completes (.inval p va n) s fun t => said 2 0 three s t) ∧
     (takes 2 3 three → ¬ known ∨ 2 < n ∨ 2 ^ 48 ≤ va.toNat → Completes (.inval p va n) s fun t => said 2 2 three s t) ∧
     (takes 3 3 three → ¬ known ∨ 1 < n ∨ 2 ^ 48 ≤ va.toNat → Completes (.resolve p va n) s fun t => said 3 2 three s t) ∧
     (takes 3 3 three → known → n ≤ 1 → va.toNat < 2 ^ 48 → (p, page) ∉ s.records →
       Completes (.resolve p va n) s fun t => said 3 0 three s t) ∧
     (takes 3 3 three → known → n ≤ 1 → va.toNat < 2 ^ 48 → (p, page) ∈ s.records → sends (.resolve p va n) 3 three) ∧
     (takes 3 3 three → known → n ≤ 1 → va.toNat < 2 ^ 48 → (p, page) ∈ s.records → told →
       Completes (.resolve p va n) s fun t => ∃ u, said 3 0 three s u ∧
       (∀ x, n = 0 → s.translate p (page * 65536) = .error (.poison x) → t = u.consumeFor p x) ∧
       (n = 0 → s.maps p page = true → ¬ refused → t = u.wakePage p page) ∧
       (n = 0 → clean → refused → t = u.failPage p page .quota) ∧
       (n = 1 ∨ (clean ∧ s.maps p page = false ∧ ¬ refused) → t = u.failPage p page .pageAbsent))) ∧
  (∀ (s : State) (p page frame : Nat) (x : Posted), s.posted = [x] → x.part = p → x.page = page → x.count = 1 →
     let w : State := { s with posted := [] }
     let ring := s.fn 0
     let info := x.wr.toNat + 2 * x.fetch.toNat + 4 * x.malformed.toNat + 8 * x.engine.toNat
     let record : List Byte := leBytes 1 1 ++ leBytes 1 p ++ leBytes 2 x.ca ++ leBytes 2 info ++ leBytes 2 1 ++ leBytes 8 (page * 65536) ++
       leBytes 8 s.now ++ leBytes 8 0
     let refused : Prop := ∃ k ∈ (s.part p).refused, k.1 ≤ page * 65536 ∧ page * 65536 < k.1 + k.2
     let full : Prop := (s.part p).pol.memq < s.mappedBytes p + 65536 ∨ ∀ n, s.frameFree n = false
     let clean : Prop := ∀ y, s.translate p (page * 65536) ≠ .error (.poison y)
     (∀ y, s.translate p (page * 65536) = .error (.poison y) → exec (.pageFaultService p page frame) s = .next (s.consumeFor p y)) ∧
     (s.maps p page = true → ¬ refused → Completes (.pageFaultService p page frame) s fun t => t = w.wakePage p page) ∧
     (clean → refused → Completes (.pageFaultService p page frame) s fun t => t = w.failPage p page .quota) ∧
     (∀ a e, clean → s.maps p page = false → ¬ refused → s.migEntry p page = some (a, e) → tmem s.parts p = true →
       let host := e.toNat / 65536 % 2 ^ 32 * 65536
       let leaf := e.toNat / 2 ^ 48 * 2 ^ 48 + frame * 65536 + e.toNat / 256 % 2 * 256 + e.toNat / 32 % 4 * 32 + 3
       (full → Completes (.pageFaultService p page frame) s fun t => t = w.failPage p page .quota) ∧
       (¬ full → s.frameFree frame = false → exec (.pageFaultService p page frame) s = .next s) ∧
       (¬ full → s.frameFree frame = true → Completes (.pageFaultService p page frame) s fun t => ∃ u : State, t = u.wakePage p page ∧
         u = { w with cellar := mwrite (mwrite s.cellar (frame * 65536) (mread s.hostMem host 65536)) a (leBytes 8 (leaf % 2 ^ 64))
                      parts := u.parts, poison := u.poison } ∧
         (∀ e, e ∈ u.poison ↔ e ∈ s.poison ∧ ∀ l, e.at_ = .cellar l → l / 1024 ≠ frame) ∧
         (∀ k, k ≠ p → u.part k = s.part k) ∧ u.part p = { s.part p with
           migrated := (s.part p).migrated ++ [⟨page, host, frame, decide (e.toNat / 32 % 2 = 1), a⟩], highMem := (u.part p).highMem })) ∧
     (clean → s.maps p page = false → ¬ refused → s.migEntry p page = none → (p, page) ∈ s.records →
       Completes (.pageFaultService p page frame) s fun t => t = w) ∧
     (clean → s.maps p page = false → ¬ refused → s.migEntry p page = none → (p, page) ∉ s.records → ring.evbase = 0 →
       Completes (.pageFaultService p page frame) s fun t => t = w.failPage p page .pageAbsent) ∧
     (clean → s.maps p page = false → ¬ refused → s.migEntry p page = none → (p, page) ∉ s.records → ring.evbase ≠ 0 →
       (2 ^ ring.evsize ≤ ring.evtail - ring.evhead → exec (.pageFaultService p page frame) s = .next s) ∧
       (ring.evtail - ring.evhead < 2 ^ ring.evsize → Completes (.pageFaultService p page frame) s fun t => t = { s with
         posted := [], records := s.records ++ [(p, page)]
         hostMem := mwrite s.hostMem (ring.evbase.toNat + 32 * (ring.evtail % 2 ^ ring.evsize)) record
         fns := t.fns } ∧ t.fn 0 = { ring with evtail := ring.evtail + 1, msix := ring.msix ++ [3] })))

/-- R443, R444: a fault joins an entry of its page at its router, or takes one of 16 and goes west and then north to the field's
corner, whose controller sends it to the scheduler on its link at a permit (R428), or waits; one behind another on the same link waits with it. A page's resolution frees the entries that
it reaches, and the accesses and the commands that wait there go on; a command that waits for other pages too still waits (R445). A
batch goes to its field controller at 32 entries or after 2,000 ticks, following pages merged into ranges in ascending order, which
go to the scheduler one by one at a permit each. A thread parked at its own instruction receives an unresolved fault there, its
context put away or not (R445). That a range with a
malformed page is marked MALFORMED is the model's choice (log 59). -/
def Obligations.FaultTree : Prop :=
  (∀ (s : State) (f : FaultMsg) (b : Batch), s.faults.find? (fun x => x.id == f.id) = some f →
     s.batches.find? (fun x => x.ca == b.ca) = some b →
     let mine (r : RouterEntry) : Prop := r.ca = f.ca ∧ r.part = f.part ∧ r.page = f.page
     let busy := (s.routers.filter fun r => r.ca == f.ca).length
     let behind : Prop := ∃ x ∈ s.faults.takeWhile (fun x => x.id != f.id), x.ca = f.ca ∧ x.port = f.port
     let rest := s.faults.filter fun x => x.id != f.id
     let entry : RouterEntry := ⟨f.ca, f.part, f.page, 1#5 <<< f.port⟩
     let west : Prop := f.ca % 64 % 8 ≠ 0
     let north : Prop := f.ca % 64 % 8 = 0 ∧ f.ca / 64 % 4 ≠ 0
     let moves (n : Nat) (t : State) : Prop := Becomes s t { s with
       routers := s.routers ++ [entry], faults := rest ++ [{ f with ca := n }] }
     let due : Prop := 32 ≤ b.entries.length ∨ b.start + 2000 ≤ s.now
     let link (t : State) (k : Nat) : Link := tget t.links k Link.reset
     let back (ca : Nat) : Nat := 72 + (8 * (ca / 64 / 4) + ca % 64 / 8)
     (behind → exec (.faultCombine f.id) s = .next s) ∧
     (¬ behind → (∃ r ∈ s.routers, mine r) → Completes (.faultCombine f.id) s fun t => t.faults = rest ∧ t.routers.length = s.routers.length ∧
       (∀ i (h : i < s.routers.length) (h2 : i < t.routers.length), (mine s.routers[i] →
           t.routers[i] = { s.routers[i] with wake := s.routers[i].wake ||| (1#5 <<< f.port) }) ∧
         (¬ mine s.routers[i] → t.routers[i] = s.routers[i])) ∧ t = { s with faults := t.faults, routers := t.routers }) ∧
     ((∀ r ∈ s.routers, ¬ mine r) → 16 ≤ busy → exec (.faultCombine f.id) s = .next s) ∧
     (¬ behind → (∀ r ∈ s.routers, ¬ mine r) → busy < 16 → (west → Completes (.faultCombine f.id) s (moves (f.ca - 1))) ∧
       (north → Completes (.faultCombine f.id) s (moves (f.ca - 64))) ∧
       (¬ west → ¬ north → (link s (back f.ca)).permits = 0 → exec (.faultCombine f.id) s = .next s) ∧
       (¬ west → ¬ north → (link s (back f.ca)).permits ≠ 0 → Completes (.faultCombine f.id) s fun t =>
         t = { s with routers := s.routers ++ [entry], faults := rest, links := t.links, freeCtr := s.freeCtr + 1 } ∧
         (∀ k, k ≠ back f.ca → link t k = link s k) ∧ ∃ c, link t (back f.ca) = ⟨(link s (back f.ca)).permits - 1,
           (link s (back f.ca)).cmds ++ [⟨f.part, c, some ⟨f.part, f.page, 1, f.origin, f.wr, f.fetch, f.malformed, f.engine⟩⟩]⟩)) ∧
     (¬ due → Completes (.faultBatchDelivery b.ca) s fun t => t = s.sendRanges (8 * (b.ca / 64 / 4) + b.ca % 64 / 8) 32) ∧
     (due → Completes (.faultBatchDelivery b.ca) s fun t => ∃ ranges : List Posted,
       t = ({ s with ranges := s.ranges ++ ranges, batches := s.batches.erase b } : State).sendRanges (8 * (b.ca / 64 / 4) + b.ca % 64 / 8) 32 ∧
       (∀ x ∈ ranges, 0 < x.count ∧ x.ca = b.ca ∧ x.engine = true ∧ x.fetch = false) ∧
       (∀ p page wr, (∃ m, ⟨p, page, wr, m⟩ ∈ b.entries) ↔ ∃ x ∈ ranges, x.part = p ∧ x.wr = wr ∧ x.page ≤ page ∧ page < x.page + x.count) ∧
       (∀ x ∈ ranges, x.malformed = true → ∃ e ∈ b.entries, e.mal = true ∧ e.part = x.part ∧ e.wr = x.wr ∧ x.page ≤ e.page ∧
         e.page < x.page + x.count) ∧
       (∀ e ∈ b.entries, e.mal = true → ∃ x ∈ ranges, x.malformed = true ∧ x.part = e.part ∧ x.wr = e.wr ∧ x.page ≤ e.page ∧
         e.page < x.page + x.count) ∧
       ∀ i x y, ranges[i]? = some x → ranges[i + 1]? = some y → x.page ≤ y.page ∧
         ¬ (y.part = x.part ∧ y.wr = x.wr ∧ y.page = x.page + x.count))) ∧
  (∀ (s : State) (n k : Nat),
     let field (x : Posted) : Nat := 8 * (x.ca / 64 / 4) + x.ca % 64 / 8
     let link := tget s.links (72 + n) Link.reset
     (s.sendRanges n 0 = s) ∧
     ((∀ x ∈ s.ranges, field x ≠ n) ∨ link.permits = 0 → s.sendRanges n k = s) ∧
     ∀ pre x post, s.ranges = pre ++ x :: post → (∀ y ∈ pre, field y ≠ n) → field x = n → link.permits ≠ 0 → ∃ c,
       s.sendRanges n (k + 1) = ({ s with
         ranges := pre ++ post, freeCtr := s.freeCtr + 1
         links := tset s.links (72 + n) ⟨link.permits - 1, link.cmds ++ [⟨x.part, c, some x⟩]⟩ } : State).sendRanges n k) ∧
  (∀ (s : State) (p page a : Nat) (t : ThreadRef) (c : Cause) (miss : Nat → Bool) (late : Bool), c ≠ .quota → c ≠ .machineCheck →
     isService t = false → isDrive t = false → (s.part p).tvecEn = true → miss a = false →
     let th := s.threadOf p t
     let ord : Bool := match th.task with
       | some k => k.r.o
       | none => false
     th.park = .firmware → th.wait = .page p a late → a / 65536 = page → th.out = [] →
     ((s.col t.ca).holder = some p → s.failThread p page c miss t = s.takeTrap t c a th.ipc ⟨late, false, true⟩) ∧
     ((s.col t.ca).holder ≠ some p → s.failThread p page c miss t = s.updColOf p t.ca fun y => { y with threads := tset y.threads t.tid { th with
         run := .parked, park := .trap, wait := .none, held := true, taken := false, waited := false, ibuf := [], pc := th.ipc, tpc := th.ipc
         tcause := BitVec.ofNat 8 c.code, taddr := BitVec.ofNat 64 a
         tstat := BitVec.ofNat 32 (late.toNat + 2 ^ 2 * late.toNat + 2 ^ 6 * t.tid + 2 ^ 12 * ord.toNat + 2 ^ 16) } })) ∧
  (∀ (s : State) (p page : Nat),
     let u := s.wakePage p page
     (∀ r, r ∈ u.records ↔ r ∈ s.records ∧ r ≠ (p, page)) ∧
     (∀ r, r ∈ u.routers ↔ r ∈ s.routers ∧ ¬ (r.part = p ∧ r.page = page ∧ r.ca ∈ s.woken p page)) ∧
     (∀ (t : ThreadRef) (a : Access) (x : Nat), t.ca ∈ s.heldBy p → t.tid < 32 → (∃ e ∈ (s.col t.ca).threads, e.1 = t.tid) →
       a ∈ (s.thread t).out → a.status = .firmware x → x / 65536 = page → s.missed p page (s.faultOrigin p x) = false →
       { a with status := .pending } ∈ (u.thread t).out) ∧
     (∀ c ∈ s.cmds, s.owns p c.t = true → c.op.isMatrix = false →
       ((∀ a ∈ c.waits, a / 65536 = page) → c.waits ≠ [] → { c with waits := [], status := .pending } ∈ u.cmds) ∧
       ((∃ a ∈ c.waits, a / 65536 ≠ page) → ∃ k ∈ u.cmds, k.id = c.id ∧ k.waits ≠ [] ∧ k.op = c.op)))

/-- R449 to R452, R27: a kill ends the launch with status 3 and its code, stops every thread of the partition in its columns,
empties their queues, inboxes, accumulators and loft, frees its tags and cells, drops its commands, transfers, messages and faults
and its contexts put away, and posts a kill record and an error record; other columns' control sides and home scratch stay; a swap
under way is abandoned, and its columns are free. An error while the partition is being killed adds an error record alone.
Messages on their way to drive inboxes from others stay, and poison goes with the cells, the slots and the loft it stood in. A
consumed error poisons its line and kills. R457: a column above 115 °C or a channel above 105 °C kills every resident partition
with CODE 0x18 and a marked record and bars launches, once for each time that the sensor passes its limit; the others stay. That
home scratch stays is the model's reading (log 28), and where the mark stands, and an error record's INFO and DETAIL that the spec
leaves open, its choice (log 61). -/
def Obligations.KillsAndTrips : Prop :=
  let error (s : State) (p ca i addr d : Nat) : List Byte := leBytes 1 3 ++ leBytes 1 p ++ leBytes 2 ca ++ leBytes 2 i ++ leBytes 2 0 ++
    leBytes 8 addr ++ leBytes 8 s.now ++ leBytes 8 d
  let killed (s : State) (p ca info : Nat) : List Byte := leBytes 1 4 ++ leBytes 1 p ++ leBytes 2 ca ++ leBytes 2 info ++ leBytes 2 0 ++
    leBytes 8 0 ++ leBytes 8 s.now ++ leBytes 8 0
  let events (s t : State) (p ca info addr : Nat) (unit : Option Nat) : Prop := ∃ i d, (∀ k, unit = some k → i = k) ∧
    let v := (s.postEvent (killed s p ca info)).postEvent (error s p ca i addr d)
    t.fns = v.fns ∧ t.hostMem = v.hostMem
  let fenced (s : State) (p : Nat) : Prop := ∃ l c k e, (s.part p).launch = some l ∧ l.ended = some (3, c, k, e)
  (∀ (s : State) (p code mark ca : Nat) (unit : Option Nat) (addr : Nat), tmem s.parts p = true →
     let t := s.kill p code mark ca unit addr
     let q := s.part p
     (fenced s p → (unit = none → t = s) ∧ ∀ k, unit = some k → ∃ d, let v := s.postEvent (error s p ca k addr d)
       t = { s with fns := v.fns, hostMem := v.hostMem, freeCtr := s.freeCtr + 1 }) ∧
     (¬ fenced s p →
       (∀ ca, ca ∈ q.pol.columns → (s.col ca).holder = some p →
         (∀ n < 32, t.thread ⟨ca, n⟩ = Thread.resetAt n) ∧ (t.col ca).q0 = [] ∧ (t.col ca).q1 = [] ∧ (t.col ca).q2 = [] ∧ (t.col ca).q3 = [] ∧
         (t.col ca).inbox = [] ∧ (t.col ca).acc = [] ∧ (t.col ca).loft = [] ∧ (t.col ca).ways = 16 ∧ (t.col ca).lease = none ∧
         (t.col ca).domid = 0 ∧ (t.col ca).home = (s.col ca).home ∧ (t.col ca).holder = if q.leaving then none else some p) ∧
       (q.pol.pres = false → ∀ ca, ca ∉ q.pol.columns ∨ (s.col ca).holder ≠ some p → t.col ca = s.col ca) ∧
       (t.part p).tags = [] ∧ (t.part p).cells = [] ∧ (t.part p).slots = [] ∧ (t.part p).otasks = [] ∧ (t.part p).kills = q.kills + 1 ∧
       (t.part p).mapped = q.mapped ∧ (t.part p).leaving = false ∧ (t.part p).resident = (q.resident && !q.leaving) ∧
       (∀ n, n ≠ p → t.part n = s.part n) ∧
       (∀ l, q.launch = some l → (t.part p).launch = some { l with
         ended := match l.ended with
           | some e => some e
           | none => some (3, code, Stranded s p, s.now) }) ∧
       (∀ c ∈ t.cmds, s.owns p c.t = false) ∧ (∀ x ∈ t.xfers, s.owns p x.t = false) ∧
       (∀ m ∈ t.net, m.fromPart ≠ p ∧ (m.part = p → m.drv = true)) ∧ (∀ f ∈ t.faults, f.part ≠ p) ∧ (∀ f ∈ t.posted, f.part ≠ p) ∧ (∀ f ∈ t.ranges, f.part ≠ p) ∧
       (∀ e ∈ t.links, ∀ c ∈ e.2.cmds, ∀ f, c.fault = some f → f.part ≠ p) ∧ (∀ v ∈ t.saved, v.part ≠ p) ∧ t.cellar = s.cellar ∧
       (∀ e, e ∈ t.poison ↔ e ∈ s.poison ∧ match e.at_ with
         | .cell n _ _ => n ≠ p
         | .slot n _ => n ≠ p
         | .loft ca _ => ca ∉ q.pol.columns ∨ (s.col ca).holder ≠ some p
         | .home _ _ => True
         | .cellar _ => True
         | .arg _ _ => True) ∧ events s t p ca (code + 256 * mark) addr unit)) ∧
  (∀ (s : State) (p ca unit line : Nat),
     let good : Prop := tmem s.parts p = true ∧ ca / 64 < 36 ∧ 1 ≤ unit ∧ unit ≤ 10
     (good → Completes (.partitionKill p ⟨ca, unit⟩ line) s fun u => ∃ w : State, u = w.kill p 0x18 0 ca (some unit) line ∧
       (line = 0 → w = s) ∧ (line ≠ 0 → w = { s with poison := w.poison } ∧
         ∀ e, e ∈ w.poison ↔ e = ⟨.cellar (line / 64), unit, ca⟩ ∨ (e ∈ s.poison ∧ e.at_ ≠ .cellar (line / 64)))) ∧
     (¬ good → exec (.partitionKill p ⟨ca, unit⟩ line) s = .next s)) ∧
  (∀ (s : State) (ca ch : Nat), (s.parts.map fun e => e.1).Nodup →
     let here (x : Partition) : Prop := x.resident = true ∨ x.clocked = true
     let trips (x : Sensor) (t : State) : Prop := t.boot = { s.boot with thermal := true, barred := true, trips := s.boot.trips ++ [x] } ∧ t.cellar = s.cellar ∧
       ∀ p, tmem s.parts p = true →
         (here (s.part p) → ¬ fenced s p → (t.part p).kills = (s.part p).kills + 1 ∧ ∀ l, (s.part p).launch = some l → l.ended = none →
           ∃ n, (t.part p).launch = some { l with ended := some (3, 0x18, n, s.now) } ∧
             ((∀ k, k ≠ p → ¬ here (s.part k)) → n = Stranded s p)) ∧
         (¬ here (s.part p) ∨ fenced s p → t.part p = s.part p)
     (115 * 16 < (s.col ca).temp.toNat → .column ca ∉ s.boot.trips → Completes (.thermalTrip (.column ca)) s fun t => trips (.column ca) t ∧
       ∀ p, tmem s.parts p = true → here (s.part p) → ¬ fenced s p → (∀ n, n ≠ p → ¬ here (s.part n)) →
         ∃ mark, 0 < mark ∧ mark < 256 ∧ events s t p ca (0x18 + 256 * mark) 0 none) ∧
     (105 * 16 < (s.chan ch).temp → .cellar ch ∉ s.boot.trips → Completes (.thermalTrip (.cellar ch)) s (trips (.cellar ch))) ∧
     (∀ x ∈ s.boot.trips, exec (.thermalTrip x) s = .next s) ∧
     ((s.col ca).temp.toNat ≤ 115 * 16 → exec (.thermalTrip (.column ca)) s = .next s) ∧
     ((s.chan ch).temp ≤ 105 * 16 → exec (.thermalTrip (.cellar ch)) s = .next s))

/-- R29, R366, R367, R457, in units of 1/16 °C: a channel counts its refreshes, doubles them above 85 °C until below 82 °C, and
above 95 °C until below 90 °C halves the ALLOW of its four columns; a column above 100 °C until below 95 °C halves its own; HOLD
is its window's; an emitter layer above 90 °C scales the emitter drive by a free value (log 2), and changes no lit value. R127: an
entry of a column's duplicate filter expires 2^20 ticks after it was inserted. R433, R435: at a pulse the almanac steps forward by
an error below -10^6, or slews by one tick in 1,000; STATE is 2 within 5; a slew's end; and a loss sets holdover and signals
vector 2. R457: a sensor at its limit or below may trip again, and launches are taken again once every sensor stands 20 °C below
its limit. R465: a tick counts for each thread stalled in CTXNEW. That two heat sources quarter ALLOW is the model's choice (log
35), and so is that the almanac moves by no more than one tick and stops where an event is due (log 49). -/
def Obligations.SensorsAndReference : Prop :=
  (∀ (s : State) (ch ca temp : Nat) (v droop hold : BitVec 16), ch < 576 → caOk ca = true →
     let c := s.chan ch
     let base (u : State) (a : Nat) : Nat := match (u.col a).holder with
       | some p => (u.part p).pol.allow.toNat
       | none => 0xEE
     let allow (u : State) (a : Nat) : Nat := base u a / (if (u.col a).hot then 2 else 1) / (if (u.chan (chanOf a)).hot then 2 else 1)
     let above (t : State) (x : Sensor) : Prop := match x with
       | .column a => 115 * 16 < (t.col a).temp.toNat
       | .cellar n => 105 * 16 < (t.chan n).temp
     let senses (t : State) : Prop := t.boot = { s.boot with trips := t.boot.trips, barred := t.boot.barred } ∧
       (∀ x, x ∈ t.boot.trips ↔ x ∈ s.boot.trips ∧ above t x) ∧
       (t.boot.barred = true ↔ s.boot.barred = true ∧ ((∃ e ∈ t.cols, 95 * 16 < e.2.temp.toNat) ∨ ∃ e ∈ t.chans, 85 * 16 < e.2.temp))
     let allows (u t : State) (a : Nat) : Prop := t.col a = { u.col a with thallow := (t.col a).thallow } ∧
       (t.col a).thallow.toNat = allow t a + 65536 * ((u.col a).thallow.toNat / 65536)
     Completes (.cellarRefresh ch) s (fun t => t = { s with chans := t.chans } ∧ t.chan ch = { c with refreshes := c.refreshes + 1 } ∧
       ∀ n, n ≠ ch → t.chan n = s.chan n) ∧
     Completes (.cellarSensorChange ch temp) s (fun t => t = { s with chans := t.chans, cols := t.cols, boot := t.boot } ∧ senses t ∧
       (∀ n, n ≠ ch → t.chan n = s.chan n) ∧ (t.chan ch).temp = temp ∧ (t.chan ch).maxTemp = max c.maxTemp temp ∧
       ((t.chan ch).doubled = true ↔ 85 * 16 < temp ∨ (82 * 16 ≤ temp ∧ c.doubled = true)) ∧
       ((t.chan ch).hot = true ↔ 95 * 16 < temp ∨ (90 * 16 ≤ temp ∧ c.hot = true)) ∧
       ∀ a, (a / 128 * 32 + a % 64 / 2 = ch → allows s t a) ∧ (a / 128 * 32 + a % 64 / 2 ≠ ch → t.col a = s.col a)) ∧
     Completes (.thsenseRefresh ca v droop) s (fun t => t = { s with cols := t.cols, colTele := t.colTele, boot := t.boot } ∧ senses t ∧
       (let d : Column := { s.col ca with temp := v, droop := droop, hot := (t.col ca).hot }
        allows (s.setCol ca d) t ca) ∧
       ((t.col ca).hot = true ↔ 100 * 16 < v.toNat ∨ (95 * 16 ≤ v.toNat ∧ (s.col ca).hot = true)) ∧
       (t.tele ca).maxTemp = max (s.tele ca).maxTemp v.toNat ∧ ∀ a, a ≠ ca → t.col a = s.col a) ∧
     Completes (.thallowWindow ca hold) s (fun t => t = { s with cols := t.cols, colTele := t.colTele } ∧
       t.col ca = { s.col ca with thallow := hold ++ (s.col ca).thallow.truncate 16 } ∧
       (t.tele ca).throttled = (s.tele ca).throttled + hold.toNat * 1000 / 65536 ∧ ∀ a, a ≠ ca → t.col a = s.col a) ∧
     (90 * 16 < temp → Completes (.emitterLayerSensorChange temp) s fun t => ∃ k < 65536,
       t = { s with emitterScale := some k, freeCtr := s.freeCtr + 1 }) ∧
     (temp ≤ 90 * 16 → exec (.emitterLayerSensorChange temp) s = .next { s with emitterScale := none })) ∧
  (∀ (s : State) (ca : Nat), Completes (.filterEntryExpiry ca) s fun t => ∃ keep,
     (let d : Column := { s.col ca with filter := keep }
      Becomes s t (s.setCol ca d)) ∧ keep.Sublist (s.col ca).filter ∧
     ∀ k, k ∈ keep ↔ k ∈ (s.col ca).filter ∧ s.now < k.born + 2 ^ 20) ∧
  (∀ (s : State) (sec : Nat),
     let e : Int := (s.almanac.toNat : Int) - (((10 ^ 9 * sec : Nat) : Int) + s.almOff.toInt)
     let r := s.ref
     (e < -(10 ^ 6) → Completes (.referencePulse sec) s fun t =>
       t = { s with almanac := s.almanac + BitVec.ofNat 64 e.natAbs, ref := t.ref, boot := { s.boot with bootTick := s.boot.bootTick + e.natAbs } } ∧
       t.ref.state = 1 ∧ t.ref.slew = 0 ∧
       t.ref.err.toNat = min e.natAbs 0xFFFFFFFF) ∧
     (-(10 ^ 6) ≤ e → Completes (.referencePulse sec) s fun t => t = { s with ref := t.ref } ∧ t.ref.slew = -e ∧
       t.ref.state = (if e.natAbs ≤ 5 then 2 else 1) ∧ t.ref.err.toNat = min e.natAbs 0xFFFFFFFF ∧ t.ref.phase = 0) ∧
     (r.slew = 0 → ∀ n, s.ticks n = { s with almanac := s.almanac + BitVec.ofNat 64 n }) ∧
     (r.phase = 0 → 0 < r.slew → s.ticks 1001 = { s with almanac := s.almanac + 1001, ref := { r with slew := r.slew - 1 } }) ∧
     (r.phase = 0 → r.slew < 0 → s.ticks 1000 = { s with almanac := s.almanac + 999, ref := { r with slew := r.slew + 1 } }) ∧
     ((s.ticks 1).almanac = s.almanac ∨ (s.ticks 1).almanac = s.almanac + 1) ∧
     (r.slew = 0 → exec .slewEnd s = .next { s with ref := { r with phase := 0 } }) ∧
     (r.slew ≠ 0 → exec .slewEnd s = .next s) ∧
     (r.state = 0 ∨ r.state = 3 → exec .referenceLoss s = .next s) ∧
     (r.state ≠ 0 → r.state ≠ 3 → Completes .referenceLoss s fun t =>
       t = { s with ref := { r with state := 3 }, fns := t.fns } ∧ t.fn 0 = { s.fn 0 with msix := (s.fn 0).msix ++ [2] } ∧
       ∀ n, n ≠ 0 → t.fn n = s.fn n)) ∧
  (∀ (s : State) (n : Nat), (∀ d ∈ s.dueTicks, s.now < d → (s.advance n).now ≤ d) ∧
     ∀ p, tmem s.parts p = true → (s.part p).ctxStallTicks +
       ((s.advance n).now - s.now) * ((s.heldThreads p).filter fun th => decide (th.run = .stalled ∧ th.wait = .tagFree)).length =
         ((s.advance n).part p).ctxStallTicks)

/-! ### Launches, host and fleet -/

/-- The table of function registers and R422, R458, R460, of a device that is not in recovery: ring registers are written while
LQHEAD = LQTAIL alone and otherwise counted in DROP; PF registers of a VF ignore writes; an unknown opcode gets status 0xFF; a
write to FWCMD while a command waits is counted in DROP; in recovery only FWCMD and FWSTAT serve. R424, and the table of function
registers: a write of LQTAIL more than the ring's size from LQHEAD is ignored with vector 0; any other takes effect, and an
evicted partition's eviction ends. R424, R427: a record is refused with status 6 for a reserved field, for ALEN above 3,072, or
where its function has no partition, which leaves the partition's GROVF as that of its last completion (R465); nothing is taken
while the ring of completions is full, a launch runs, or a trip bars launches. R420: while a full inbox holds a function's message
at the link, its later writes wait. When an eviction ends is the model's reading of R422 (log 38). A ring size out of range, an unaligned base and the bits of WINBASE below the
BAR's size follow the model's choice (log 25), and so does a write beside a command that waits in PFCMD or TCMD (log 90). -/
def Obligations.HostRegistersAndDoorbells : Prop :=
  (∀ (s : State) (fn off : Nat) (v : Word),
     let f := s.fn fn
     let free : Prop := fn ≤ 15 ∧ ∀ m ∈ s.net, m.from_ = none → m.fromPart ≠ 16 + fn
     let write (o : Nat) (g : HostFn) : Prop := Completes (.hostRegisterWrite fn o v) s fun t =>
       t = { s with fns := t.fns } ∧ t.fn fn = g ∧ ∀ n, n ≠ fn → t.fn n = s.fn n
     let drop : HostFn := { f with drop := if f.drop = 0xFFFFFFFF then f.drop else f.drop + 1 }
     let ring (o : Nat) (g : HostFn) : Prop := (f.lqhead = f.lqtail → write o g) ∧ (f.lqhead ≠ f.lqtail → write o drop)
     let size (old : Nat) : Nat := if v.toNat % 16 ≤ 8 then v.toNat % 16 else old
     let page := v &&& ~~~0xFFF#64
     let pf (o : Nat) (g : HostFn) : Prop := write o (if fn = 0 then g else f)
     let line (x y : BitVec 512) (o : Nat) : Prop := ∀ i, i < 64 → y.extractLsb' (8 * i) 8 =
       if o ≤ i ∧ i < o + 8 then v.extractLsb' (8 * (i - o)) 8 else x.extractLsb' (8 * i) 8
     (¬ free → exec (.hostRegisterWrite fn off v) s = .next s) ∧
     (free → s.boot.recovery = false →
       ring 0x010 { f with lqbase := page } ∧ ring 0x018 { f with lqsize := size f.lqsize } ∧ ring 0x030 { f with cqbase := page } ∧
       ring 0x038 { f with cqsize := size f.cqsize } ∧ write 0x048 { f with cqhead := v.toNat } ∧
       write 0x050 { f with msgtgt := v.truncate 13 } ∧ pf 0x118 { f with winbase := BitVec.ofNat 64 (v.toNat / 2 ^ f.barBits * 2 ^ f.barBits) } ∧
       write 0x120 (if fn = 0 then f else { f with vfwin := v &&& ~~~0xFFFF#64 }) ∧ pf 0x340 { f with evbase := page } ∧
       pf 0x348 { f with evsize := size f.evsize } ∧ pf 0x358 { f with evhead := v.toNat } ∧
       (∀ i, i < 8 → ∃ b, line f.msgbuf b (8 * i) ∧ write (0x080 + 8 * i) { f with msgbuf := b }) ∧
       (fn = 0 → Completes (.hostRegisterWrite fn 0x108 v) s fun t => t = { s with almOff := v, fns := t.fns } ∧ ∀ n, t.fn n = s.fn n) ∧
       (fn = 0 → f.fwBusy = true → ∀ i, i < 8 → write (0x400 + 8 * i) drop) ∧
       (fn = 0 → f.fwBusy = false → 1 ≤ v.toNat % 65536 → v.toNat % 65536 ≤ 7 → ∃ b, line f.fwcmd b 0 ∧
         write 0x400 { f with fwcmd := b, fwBusy := true }) ∧
       (fn = 0 → f.fwBusy = false → v.toNat % 65536 = 0 ∨ 7 < v.toNat % 65536 → ∃ b, write 0x400 { f with fwcmd := b, fwBusy := false } ∧
         b.extractLsb' 16 8 = 0xFF) ∧
       (fn = 0 → f.pfBusy = true → ∀ i, i < 8 → write (0x200 + 8 * i) drop) ∧
       (fn = 0 → f.pfBusy = false → 1 ≤ v.toNat % 65536 → v.toNat % 65536 ≤ 5 → ∃ b, line f.pfcmd b 0 ∧
         write 0x200 { f with pfcmd := b, pfBusy := true }) ∧
       (fn = 0 → f.pfBusy = false → v.toNat % 65536 = 0 ∨ 5 < v.toNat % 65536 → ∃ b, write 0x200 { f with pfcmd := b } ∧
         b.extractLsb' 16 8 = 0xFF) ∧
       (fn = 0 → f.tBusy = true → ∀ i, i < 8 → write (0x300 + 8 * i) drop) ∧
       (fn = 0 → f.tBusy = false → 1 ≤ v.toNat % 65536 → v.toNat % 65536 ≤ 3 → ∃ b, line f.tcmd b 0 ∧
         write 0x300 { f with tcmd := b, tBusy := true }) ∧
       (fn = 0 → f.tBusy = false → v.toNat % 65536 = 0 ∨ 3 < v.toNat % 65536 → ∃ b, write 0x300 { f with tcmd := b } ∧
         b.extractLsb' 16 8 = 0xFF) ∧
       (fn = 0 → ∀ i, 1 ≤ i → i < 8 →
         (f.pfBusy = false → ∃ b, line f.pfcmd b (8 * i) ∧ write (0x200 + 8 * i) { f with pfcmd := b }) ∧
         (f.tBusy = false → ∃ b, line f.tcmd b (8 * i) ∧ write (0x300 + 8 * i) { f with tcmd := b }) ∧
         (f.fwBusy = false → ∃ b, line f.fwcmd b (8 * i) ∧ write (0x400 + 8 * i) { f with fwcmd := b }))) ∧
     (s.boot.recovery = true → off < 0x400 ∨ 0x440 ≤ off → exec (.hostRegisterWrite fn off v) s = .next s)) ∧
  (∀ (s : State) (fn tail : Nat), tail < 2 ^ 64 →
     let f := s.fn fn
     let free : Prop := s.boot.recovery = false ∧ fn ≤ 15 ∧ ∀ m ∈ s.net, m.from_ = none → m.fromPart ≠ 16 + fn
     let far : Prop := 2 ^ f.lqsize < (tail + 2 ^ 64 - f.lqhead) % 2 ^ 64
     let others (t : State) : Prop := ∀ n, n ≠ fn → t.fn n = s.fn n
     (¬ free → exec (.launchDoorbell fn tail) s = .next s) ∧
     (free → far → Completes (.launchDoorbell fn tail) s fun t => t = { s with fns := t.fns } ∧ others t ∧
       t.fn fn = { f with msix := f.msix ++ [0] }) ∧
     (free → ¬ far → Completes (.launchDoorbell fn tail) s fun t => t = { s with fns := t.fns, parts := t.parts } ∧ others t ∧
       t.fn fn = { f with lqtail := tail } ∧ (f.bound = none → t.parts = s.parts) ∧
       (∀ p, f.bound = some p → tmem s.parts p = false → t.parts = s.parts) ∧
       ∀ p, f.bound = some p → tmem s.parts p = true → (t.part p).evicted = false ∧ (∀ n, n ≠ p → t.part n = s.part n) ∧
         (let x := s.part p
          t.part p = { x with evicted := false, wants :=
            if x.running ∧ x.resident = false ∧ x.clocked = false ∧ x.coming = false ∧ x.wants = none then some s.now else x.wants }))) ∧
  (∀ (s : State) (fn : Nat) (frames : List Nat),
     let f := s.fn fn
     let at_ (o n : Nat) : Nat := leNat (mread s.hostMem (f.lqbase.toNat + 64 * (f.lqhead % 2 ^ f.lqsize) + o) n)
     let may : Prop := s.boot.running = true ∧ s.boot.barred = false ∧ f.lqhead ≠ f.lqtail
     let idle (p : Nat) : Prop := (s.part p).launch = none ∧ (s.part p).leaving = false
     let bad : Prop := f.bound = none ∨ ∃ p, f.bound = some p ∧ idle p ∧ (at_ 40 24 ≠ 0 ∨ 3072 < at_ 12 4)
     let room : Prop := (f.cqtail + 2 ^ 64 - f.cqhead) % 2 ^ 64 < 2 ^ f.cqsize
     (may → bad → room → Completes (.launchRecord fn frames) s fun t => ∃ u, u = { s with fns := u.fns, parts := u.parts } ∧
       (f.bound = none → u.parts = s.parts) ∧ (∀ p, f.bound = some p → (∀ n, n ≠ p → u.part n = s.part n) ∧
         (tmem s.parts p = true → u.part p = { s.part p with lastOvf := (s.part p).govf, told := false })) ∧
       u.fn fn = { f with lqhead := (f.lqhead + 1) % 2 ^ 64 } ∧ (∀ n, n ≠ fn → u.fn n = s.fn n) ∧
       Recorded u t fn (BitVec.ofNat 64 (at_ 32 8)) 6 none 0 none s.now) ∧
     (may → bad → ¬ room → exec (.launchRecord fn frames) s = .next s) ∧
     (may → (∃ p, f.bound = some p ∧ ¬ idle p) → exec (.launchRecord fn frames) s = .next s) ∧
     (¬ may → exec (.launchRecord fn frames) s = .next s))

/-- R38, R425, R426: a record whose image binds starts every general thread of every column that is not retired with the
registers of R38, D0 of every column for a presentation partition with a drive entry, TVEC.EN with the handler entry, and the
argument block. R428: the launch is sent to each field controller of the partition first, at a permit each, and starts once all have
acknowledged it. R425, R465: an image that does not bind has its completion with status 2 and its code, and leaves the partition's
GROVF as the one at the last completion. R409: every instruction buffer is empty. The column registers are at their reset values (the model's reading, log 23),
a thread's counts of the messages it has sent go on (log 24), T3's registers are zero and D1's as they were (log 87). -/
def Obligations.LaunchEntry : Prop :=
  ∀ (s : State) (fn p : Nat) (frames : List Nat) (b : BoundImage),
    let f := s.fn fn
    let q := s.part p
    let at_ (o n : Nat) : Nat := leNat (mread s.hostMem (f.lqbase.toNat + 64 * (f.lqhead % 2 ^ f.lqsize) + o) n)
    let bare := s.unbound p
    s.boot.running = true → s.boot.barred = false → f.lqhead ≠ f.lqtail → f.bound = some p → tmem s.parts p = true → q.launch = none →
    q.leaving = false → at_ 40 24 = 0 → at_ 12 4 ≤ 3072 →
    let bind := bare.bindImage q.pol (bare.mappedBytes p) (mread s.hostMem (at_ 0 8) (at_ 8 4))
    let link (t : State) (k : Nat) : Link := tget t.links k Link.reset
    let fields := q.pol.fields
    let permits : Prop := ∀ k ∈ fields, 0 < (link s k).permits
    let answered : Prop := ∀ x ∈ fields, ∀ k, k = x ∨ k = 72 + x → ∀ c ∈ (link s k).cmds, c.part ≠ p ∨ c.fault ≠ none
    let room : Prop := (f.cqtail + 2 ^ 64 - f.cqhead) % 2 ^ 64 < 2 ^ f.cqsize
    let framed : Prop := frames.length = imagePages b.z.sects ∧ frames.Nodup ∧ ∀ x ∈ frames, bare.frameFree x = true
    let launch : Instr := .launchRecord fn frames
    (∀ code, bind = .error code →
      (room → Completes launch s fun t => ∃ u, u = { s with fns := u.fns, parts := u.parts } ∧ (∀ n, n ≠ p → u.part n = s.part n) ∧
        u.part p = { q with lastOvf := q.govf, told := false } ∧ u.fn fn = { f with lqhead := (f.lqhead + 1) % 2 ^ 64 } ∧
        (∀ n, n ≠ fn → u.fn n = s.fn n) ∧ Recorded u t fn (BitVec.ofNat 64 (at_ 32 8)) 2 (some code) 0 none s.now) ∧
      (¬ room → exec launch s = .next s)) ∧
    (bind = .ok b →
      (q.told = false → permits → Completes launch s fun t => t = { s with parts := t.parts, links := t.links, freeCtr := t.freeCtr } ∧
        t.part p = { q with told := true } ∧ (∀ n, n ≠ p → t.part n = s.part n) ∧
        (fields.Nodup → ∀ k ∈ fields, ∃ c, link t k = ⟨(link s k).permits - 1, (link s k).cmds ++ [⟨p, c, none⟩]⟩)) ∧
      (q.told = false → ¬ permits → exec launch s = .next s) ∧
      (q.told = true → ¬ answered ∨ ¬ framed → exec launch s = .next s)) ∧
    (bind = .ok b → q.told = true → answered → framed →
    let retired := q.pol.columns.filter fun ca => s.retired.contains ca
    let cols := q.pol.columns.filter fun ca => !s.retired.contains ca
    let entry := (b.entry 0).getD 0
    let regs (ca tid : Nat) (r : Nat) : Word := match r with
      | 1 => BitVec.ofNat 64 ca | 2 => BitVec.ofNat 64 q.pol.origin | 3 => BitVec.ofNat 64 (q.pol.rows * 256 + q.pol.cols)
      | 4 => 0x2000000000 | 5 => BitVec.ofNat 64 tid | 6 => s.almanac | _ => 0
    Completes launch s fun t =>
      (∀ ca ∈ cols, ∀ tid < 24, let th := (t.colOf p ca).thread tid
        th = { Thread.reset with run := .ready, pc := entry, sent := ((s.colOf p ca).thread tid).sent, s := th.s } ∧
        ∀ r : Fin 32, th.s[r] = regs ca tid r) ∧
      (∀ ca ∈ cols, let c := t.colOf p ca
        c.ways = 16 ∧ c.loft = [] ∧ c.loftStatus = 0 ∧ c.domLevel = 0 ∧ c.domX = false ∧ c.domEpoch = 0 ∧ c.domid = 0 ∧ c.upReq = false ∧
        c.upState = false ∧ c.lease = none ∧ c.xcount = 0 ∧ c.thread 24 = Thread.resetAt 24 ∧
        c.thread 33 = { (s.colOf p ca).thread 33 with ibuf := (c.thread 33).ibuf }) ∧
      (q.pol.pres = true → ∀ ca < 2304, ∀ d, d = 32 ∨ d = 33 → (t.thread ⟨ca, d⟩).ibuf = []) ∧
      (q.pol.pres = true → ∀ e, b.entry 1 = some e → ∀ ca < 2304, let th := t.thread ⟨ca, 32⟩
        th.pc = e ∧ th.vl = 16 ∧ (th.run = .ready ↔ q.resident = true ∨ q.clocked = true) ∧ ∀ r : Fin 32, th.s[r] = regs ca 0 r) ∧
      (t.part p).launch = some ⟨fn, BitVec.ofNat 64 (at_ 32 8), at_ 24 8, if q.resident ∨ q.clocked then some s.now else none, 0,
        b.z.dist, entry, b.entry 1, b.entry 3, b.entry 4, none⟩ ∧
      (t.part p).tvecEn = (b.entry 2).isSome ∧ (t.part p).tvecAddr = (b.entry 2).getD 0 ∧ (∀ n, n ≠ p → t.part n = s.part n) ∧
      (∀ i, i < 0xC00 → mget (t.part p).argBlock i = if i < at_ 12 4 then mget s.hostMem (at_ 16 8 + i) else 0) ∧
      leNat (mread (t.part p).argBlock 0xC00 2) = retired.length % 65536 ∧ leNat (mread (t.part p).argBlock 0xC02 2) = cols.length % 65536 ∧
      leNat (mread (t.part p).argBlock 0xC08 8) = at_ 32 8 ∧
      (∀ i, i < 32 → leNat (mread (t.part p).argBlock (0xC10 + 2 * i) 2) = (retired.getD i 0xFFFF) % 65536) ∧
      (t.part p).told = false ∧ (t.fn fn).lqhead = (f.lqhead + 1) % 2 ^ 64)

/-- R260, R427, R447: a launch whose partition is idle and whose queues and slots are empty completes; a launch past TLIMIT ends
with status 4, every thread stopped; an ended launch's record is written once its ring has room, the wb records forgotten (the
model's reading, log 46) and migrated pages written back. R450, R451: poison in what is written back kills first, and the launch is
KILLED. CODE and START where R427 gives none are free values (log 22), and a poisoned line of a killed partition is not written back
(log 91). -/
def Obligations.LaunchEnds : Prop :=
  ∀ (s : State) (p : Nat) (l : Launch), (s.part p).launch = some l →
    let q := s.part p
    let f := s.fn l.fn
    let quiet (c : Column) : Prop := (∀ e ∈ c.threads, e.1 < 24 → e.2.run = .idle) ∧ c.q0 = [] ∧ c.q1 = [] ∧ c.q2 = [] ∧ c.q3 = []
    let done : Prop := l.ended = none ∧ l.start ≠ none ∧ q.slots = [] ∧ (∀ ca ∈ q.pol.columns, quiet (s.colOf p ca)) ∧
      (q.pol.pres = true → ∀ e ∈ s.cols, (e.2.thread 32).run = .idle)
    let ends (status : Nat) : Option Launch := some { l with ended := some (status, 0, Stranded s p, s.now) }
    let spans : Nat := l.ran + if q.resident || q.clocked || q.leaving then s.now - max q.quantumFrom (l.start.getD s.now) else 0
    let late : Prop := l.ended = none ∧ l.tlimit ≠ 0 ∧ 1000 * l.tlimit < spans
    let room : Prop := (f.cqtail + 2 ^ 64 - f.cqhead) % 2 ^ 64 < 2 ^ f.cqsize
    (done → exec (.launchComplete p) s = .next (s.setPart p { q with launch := ends 0 })) ∧
    (¬ done → exec (.launchComplete p) s = .next s) ∧
    (late → Completes (.launchTimeout p) s fun t => t = s.haltPart p 4 0 ∧ (t.part p).launch = ends 4 ∧
      (∀ ca ∈ q.pol.columns, (s.col ca).holder = some p → ∀ n < 32, t.thread ⟨ca, n⟩ = Thread.resetAt n) ∧ ∀ n, n ≠ p → t.part n = s.part n) ∧
    (¬ late → exec (.launchTimeout p) s = .next s) ∧
    (l.ended = none → exec (.completionRecord p) s = .next s) ∧
    (∀ st code str stop, l.ended = some (st, code, str, stop) →
      let spoiled (l : Nat) : Prop := ∃ e ∈ s.poison, e.at_ = .cellar l
      let dirty : Prop := st ≠ 3 ∧ ∃ m ∈ q.migrated, (m.wr = true ∧ ∃ i < 1024, spoiled (m.frame * 1024 + i)) ∨ spoiled (m.entry / 64)
      (¬ room → exec (.completionRecord p) s = .next s) ∧
      (room → dirty → Completes (.completionRecord p) s fun t => (t.part p).launch = some { l with ended := some (3, 0x18, str, stop) } ∧
        (t.part p).kills = q.kills + 1 ∧ (t.fn l.fn).cqtail = f.cqtail ∧ ∀ n, n ≠ p → t.part n = s.part n) ∧
      (room → ¬ dirty → Completes (.completionRecord p) s fun t => ∃ u,
        Recorded u t l.fn l.cookie st (if st = 1 ∨ st = 2 ∨ st = 3 then some code else none) str l.start stop ∧
        (u.part p).launch = none ∧ (u.part p).wb = [] ∧ (u.part p).migrated = [] ∧ (∀ n, n ≠ p → u.part n = s.part n) ∧
        (q.migrated = [] → u = { s with parts := u.parts } ∧ u.part p = { q with
          launch := none, wb := [], lastOvf := q.govf, launches := if st = 0 then q.launches + 1 else q.launches }) ∧
        ∀ m, q.migrated = [m] → (∃ bs : List Byte, bs.length = 65536 ∧ (u.hostMem = if m.wr then mwrite s.hostMem m.host bs else s.hostMem) ∧
            ∀ i < 1024, (spoiled (m.frame * 1024 + i) → (bs.drop (64 * i)).take 64 = mread s.hostMem (m.host + 64 * i) 64) ∧
              (¬ spoiled (m.frame * 1024 + i) → (bs.drop (64 * i)).take 64 = mread s.cellar (m.frame * 65536 + 64 * i) 64)) ∧
          (let e := leNat (mread s.cellar m.entry 8)
           u.cellar = mwrite s.cellar m.entry (leBytes 8 ((e / 2 ^ 48 * 2 ^ 48 + m.host + 512 + e / 256 % 2 * 256 + e / 32 % 4 * 32 + 22) % 2 ^ 64)))))

/-- R418, R419, R452: the PF's BAR2 reaches the cellar at WINBASE + o; a VF's reaches its partition at VFWIN + o where that
translates to the cellar; a refused read completes with Unsupported Request and a refused write is discarded and counted. R420,
R266: a write of MSGDB sends MSGBUF, with the function's count of messages to that inbox as SEQ, to channel 15 of an inbox of the
bound partition, or any drive inbox for the presentation role; a message elsewhere is discarded and counted in DROP. A full inbox
holds the message at the link, and the function's later requests wait. R417: an offset beyond the BAR reaches nothing. R428: the
oldest command of a link is consumed and its permit returned, and a field controller acknowledges it on the link back, at a permit
of that link; a fault that a controller's command posts is then posted (R443, R444). R450: a walk that uses poison kills, and a poisoned line completes with Unsupported Request. What happens beyond the
cellar and in queue backing, and what becomes of a message to a retired column's control cores, is the model's choice (logs 26, 44
and 62). -/
def Obligations.HostAccesses : Prop :=
  (∀ (s : State) (fn off len : Nat) (bs : List Byte), s.boot.recovery = false → bs.length = len → 0 < len →
     let f := s.fn fn
     let free : Prop := fn ≤ 15 ∧ ∀ m ∈ s.net, m.from_ = none → m.fromPart ≠ 16 + fn
     let a := f.winbase.toNat + off
     let va := f.vfwin.toNat + off
     let drop : HostFn := { f with drop := if f.drop = 0xFFFFFFFF then f.drop else f.drop + 1 }
     let bad (l : Nat) : Prop := ∃ e ∈ s.poison, e.at_ = .cellar l
     let sets (g : HostFn) (t : State) : Prop := t = { s with fns := t.fns } ∧ t.fn fn = g ∧ ∀ n, n ≠ fn → t.fn n = s.fn n
     let gets (x : Option (List Byte)) : Prop := Completes (.hostBar2Read fn off len) s (sets { f with reads := f.reads ++ [x] })
     let puts (b : Nat) : Prop := Completes (.hostBar2Write fn off bs) s fun t =>
       t = { s with cellar := mwrite s.cellar b bs, poison := t.poison, parts := t.parts } ∧
       (∀ e, e ∈ t.poison ↔ e ∈ s.poison ∧ ∀ l, e.at_ = .cellar l → ¬ (b ≤ 64 * l ∧ 64 * l + 64 ≤ b + len)) ∧
       (fn ≠ 0 → t.parts = s.parts) ∧ ∀ p, t.part p = { s.part p with refused := (t.part p).refused, highMem := (t.part p).highMem }
     let refused : Prop := gets none ∧ Completes (.hostBar2Write fn off bs) s (sets drop)
     let fenced (p : Nat) : Prop := ∃ l c k e, (s.part p).launch = some l ∧ l.ended = some (3, c, k, e)
     let inBar : Prop := off + len ≤ 2 ^ f.barBits
     (¬ free → exec (.hostBar2Read fn off len) s = .next s ∧ exec (.hostBar2Write fn off bs) s = .next s) ∧
     (free → 6 ≤ f.barBits →
       (fn = 0 → f.winbase.toNat % 64 = 0 → a + len ≤ Config.cellarEnd → inBar → puts a ∧
         ((∀ i < len, ¬ bad ((a + i) / 64)) → gets (some (mread s.cellar a len))) ∧ ((∃ i < len, bad ((a + i) / 64)) → gets none)) ∧
       (fn = 0 → f.winbase.toNat % 64 = 0 → Config.cellarEnd < a + len ∨ ¬ inBar → refused) ∧
       (fn ≠ 0 → off % 64 + len ≤ 64 →
         (f.bound = none ∨ ¬ inBar → refused) ∧
         ∀ p, f.bound = some p → (fenced p → refused) ∧
           (∀ e, s.translate p va = .error e → (∀ y, e ≠ .poison y) → refused) ∧
           (∀ y, inBar → ¬ fenced p → s.translate p va = .error (.poison y) → let u := s.consumeFor p y
             let g := u.fn fn
             let after (i : Instr) (h : HostFn) : Prop := Completes i s fun t => t = { u with fns := t.fns } ∧ t.fn fn = h ∧
               ∀ n, n ≠ fn → t.fn n = u.fn n
             after (.hostBar2Read fn off len) { g with reads := g.reads ++ [none] } ∧
             after (.hostBar2Write fn off bs) { g with drop := if g.drop = 0xFFFFFFFF then g.drop else g.drop + 1 }) ∧
           ∀ x, s.translate p va = .ok x → (x.cls = .lod → refused) ∧
             ∀ b, inBar → ¬ fenced p → x.cls ≠ .lod → b % 64 = va % 64 → va % 64 = off % 64 →
               (x.back = .cellar b → puts b ∧ (¬ bad (b / 64) → gets (some (mread s.cellar b len))) ∧ (bad (b / 64) → gets none)) ∧
               (x.back = .arg b → let spoiled : Prop := ∃ e ∈ s.poison, e.at_ = .arg p (b / 64)
                 let q := s.part p
                 (¬ spoiled → gets (some (mread q.argBlock b len))) ∧ (spoiled → gets none) ∧
                 Completes (.hostBar2Write fn off bs) s fun t => Becomes { s with poison := t.poison } t
                   ({ s with poison := t.poison }.setPart p { q with argBlock := mwrite q.argBlock b bs })) ∧
               (x.back = .slot b → let y := b / 64 * 64
                 let spoiled : Prop := ∃ e ∈ s.poison, e.at_ = .slot p y
                 (spoiled → gets none) ∧
                 (∀ sl, ¬ spoiled → (s.part p).slotAt b = some sl → gets (some ((List.range len).map fun i => lineByte sl.data (b % 64 + i)))) ∧
                 (¬ spoiled → (s.part p).slotAt b = none → (∀ e ∈ s.queued (s.part p).pol, e.2.addr ≠ y) →
                   gets (some (List.replicate len 0))) ∧
                 Completes (.hostBar2Write fn off bs) s fun t => t = s.writeBase p (.slot b) bs)))) ∧
  (∀ (s : State) (fn : Nat),
     let f := s.fn fn
     let ca := f.msgtgt.toNat % 4096
     let drv := f.msgtgt.getLsbD 12
     let drop : HostFn := { f with drop := if f.drop = 0xFFFFFFFF then f.drop else f.drop + 1 }
     let free : Prop := s.boot.recovery = false ∧ fn ≤ 15 ∧ ∀ m ∈ s.net, m.from_ = none → m.fromPart ≠ 16 + fn
     let good (p : Nat) : Prop := ca / 64 ≤ 35 ∧
       (if drv then (s.part p).pol.pres = true else (s.part p).pol.has ca = true ∧ ca ∉ s.retired) ∧
       ∀ l, (s.part p).launch = some l → ∀ c k e, l.ended ≠ some (3, c, k, e)
     let seq : Nat := match f.scenes.find? fun e => e.1 == (ca, drv) with
       | some e => e.2
       | none => 0
     (¬ free → exec (.sceneMessage fn) s = .next s) ∧
     (free → f.bound = none ∨ (∃ p, f.bound = some p ∧ ¬ good p) → Completes (.sceneMessage fn) s fun t =>
       t = { s with fns := t.fns } ∧ t.fn fn = drop ∧ ∀ n, n ≠ fn → t.fn n = s.fn n) ∧
     ∀ p, free → f.bound = some p → good p → Completes (.sceneMessage fn) s fun t => ∃ m : Msg,
       t = { s with net := s.net ++ [m], nextId := s.nextId + 1, fns := t.fns } ∧ m.ca = ca ∧ m.drv = drv ∧ m.pay = f.msgbuf ∧
       m.part = p ∧ m.from_ = none ∧ m.fromPart = 16 + fn ∧ m.hdr.extractLsb' 24 4 = 15 ∧ (m.hdr.extractLsb' 28 1 = if drv then 1 else 0) ∧
       (m.hdr.extractLsb' 32 32).toNat = seq % 2 ^ 32 ∧ m.hdr.extractLsb' 64 64 = s.almanac ∧
       (∀ n, n ≠ fn → t.fn n = s.fn n) ∧ t.fn fn = { f with scenes := (t.fn fn).scenes } ∧
       ((t.fn fn).scenes.find? fun e => e.1 == (ca, drv)) = some ((ca, drv), seq + 1)) ∧
  (∀ (s : State) (n : Nat) (c : LinkCmd) (rest : List LinkCmd),
     let link (t : State) (k : Nat) : Link := tget t.links k Link.reset
     (72 ≤ n → (link s n).cmds = c :: rest → Completes (.firmwareCommand n) s fun t =>
       t = { s with links := t.links, posted := s.posted ++ c.fault.toList } ∧
       link t n = ⟨(link s n).permits + 1, rest⟩ ∧ ∀ k, k ≠ n → link t k = link s k) ∧
     (n < 72 → (link s n).cmds = c :: rest →
       ((link s (72 + n)).permits = 0 → exec (.firmwareCommand n) s = .next s) ∧
       (0 < (link s (72 + n)).permits → Completes (.firmwareCommand n) s fun t =>
         t = { s with links := t.links, freeCtr := s.freeCtr + 1 } ∧ link t n = ⟨(link s n).permits + 1, rest⟩ ∧
         (∃ x, link t (72 + n) = ⟨(link s (72 + n)).permits - 1, (link s (72 + n)).cmds ++ [⟨c.part, x, none⟩]⟩) ∧
         ∀ k, k ≠ n → k ≠ 72 + n → link t k = link s k)) ∧
     ((link s n).cmds = [] → exec (.firmwareCommand n) s = .next s))

/-- R422, R423, R428, R463: PCREATE of an accepted policy record makes a partition swapped out, or answers 1, 2 or 3; PDESTROY
cancels, tears down and unbinds; PBIND and PUNBIND; each status stands in byte 2 beside the opcode. PCREATE and PDESTROY go to the
partition's field controllers, a permit for each, and are done once all have acknowledged, PDESTROY once completion rings have
room too. R465: a partition's counters outlive it. A command beside another that waits in PFCMD is discarded (log 90). Which error
gives status 2 and which 3 is in part the model's choice (log 40), and so are PDESTROY's wait for completion rings (log 41) and
the layout of operands and the byte 2 of a command that no write brings (log 63); PFCMD stands as written until its status. -/
def Obligations.PartitionCommands : Prop :=
  (∀ (s : State) (n vf p : Nat), s.boot.running = false → exec (.pcreate n) s = .next s ∧ exec (.pdestroy p) s = .next s ∧
    exec (.pbind vf p) s = .next s ∧ exec (.punbind vf) s = .next s) ∧
  ∀ (s : State) (n vf p : Nat), s.boot.running = true →
    let body := ((s.flash.find? fun e => e.1 == n).map fun e => e.2).getD []
    let r := s.fn 0
    let takes (op k ops : Nat) : Prop := r.pfBusy = false ∨ (r.pfcmd.toNat % 65536 = op ∧ r.pfcmd.toNat / 2 ^ 64 % 2 ^ (64 * k) = ops)
    let drops (i : Instr) : Prop := Completes i s fun t => t = { s with fns := t.fns } ∧ (∀ k, k ≠ 0 → t.fn k = s.fn k) ∧
      t.fn 0 = { r with drop := if r.drop = 0xFFFFFFFF then r.drop else r.drop + 1 }
    let writes (op st ops : Nat) (busy begun : Bool) (u t : State) : Prop := (∀ k, k ≠ 0 → t.fn k = u.fn k) ∧
      t.fn 0 = { u.fn 0 with pfcmd := (t.fn 0).pfcmd, pfBusy := busy, pfStarted := begun } ∧
      (t.fn 0).pfcmd.toNat = op + 65536 * st + 2 ^ 64 * ops
    let said (op st ops : Nat) (u t : State) : Prop := t = { u with fns := t.fns } ∧ writes op st ops false false u t
    let link (t : State) (f : Nat) : Link := tget t.links f Link.reset
    let holds (op ops : Nat) (begun : Bool) (t : State) : Prop := (∀ k, k ≠ 0 → t.fn k = s.fn k) ∧
      t.fn 0 = { r with pfcmd := (t.fn 0).pfcmd, pfBusy := true, pfStarted := begun } ∧
      (t.fn 0).pfcmd.toNat = if r.pfBusy then r.pfcmd.toNat else op + 65536 * 0xFE + 2 ^ 64 * ops
    let sends (i : Instr) (op ops m : Nat) (fields : List Nat) : Prop :=
      ((∀ f ∈ fields, 0 < (link s f).permits) → Completes i s fun t => t = { s with fns := t.fns, links := t.links, freeCtr := t.freeCtr } ∧
        holds op ops true t ∧
        (fields.Nodup → ∀ f ∈ fields, ∃ x, link t f = ⟨(link s f).permits - 1, (link s f).cmds ++ [⟨m, x, none⟩]⟩)) ∧
      ((∃ f ∈ fields, (link s f).permits = 0) → Completes i s fun t => t = { s with fns := t.fns } ∧ holds op ops false t)
    let answered (m : Nat) (fields : List Nat) : Prop := ∀ f ∈ fields, ∀ k, k = f ∨ k = 72 + f → ∀ c ∈ (link s k).cmds,
      c.part ≠ m ∨ c.fault ≠ none
    let a := n % 2 ^ 64
    let c := p % 2 ^ 64
    let d := vf % 2 ^ 64
    let dc := d + 2 ^ 64 * c
    let rebound (b : Option Nat) (u : State) : Prop := u = { s with fns := u.fns } ∧ u.fn vf = { s.fn vf with bound := b } ∧
      ∀ k, k ≠ vf → u.fn k = s.fn k
    let known : Prop := tmem s.parts p = true
    let q := s.part p
    let room : Prop := s.roomFor (s.owedBy p) = true
    (¬ takes 1 1 a → drops (.pcreate n)) ∧ (¬ takes 2 1 c → drops (.pdestroy p)) ∧ (¬ takes 3 2 dc → drops (.pbind vf p)) ∧
    (¬ takes 4 1 d → drops (.punbind vf)) ∧
    (takes 1 1 a → s.accepts 4 body = none → Completes (.pcreate n) s (said 1 1 a s)) ∧
    (∀ e, takes 1 1 a → s.accepts 4 body = some e →
      let pol := policyOf e.body
      let taken : Prop := tmem s.parts pol.part = true ∨ 16 ≤ s.parts.length ∨ (pol.pres = true ∧ s.presHolder ≠ none)
      (bodyOk e.body = false → Completes (.pcreate n) s (said 1 2 a s)) ∧
      (bodyOk e.body = true → taken → Completes (.pcreate n) s (said 1 3 a s)) ∧
      (bodyOk e.body = true → ¬ taken →
        (r.pfStarted = false → sends (.pcreate n) 1 a pol.part pol.fields) ∧
        (r.pfStarted = true → ¬ answered pol.part pol.fields → exec (.pcreate n) s = .next s) ∧
        (r.pfStarted = true → answered pol.part pol.fields → Completes (.pcreate n) s fun t => ∃ u, said 1 0 a u t ∧
          u = { s with parts := u.parts, boot := { s.boot with mreg2 := Crypto.shake (s.boot.mreg2 ++ Crypto.shake e.bytes 64) 64 } } ∧
          tmem u.parts pol.part = true ∧ u.part pol.part = (Partition.create pol).withTally (tget s.tallies pol.part Tally.zero) ∧
          ∀ k, k ≠ pol.part → u.part k = s.part k))) ∧
    (takes 2 1 c → ¬ known → Completes (.pdestroy p) s (said 2 2 c s)) ∧
    (takes 2 1 c → known → r.pfStarted = false → sends (.pdestroy p) 2 c p q.pol.fields) ∧
    (takes 2 1 c → known → r.pfStarted = true → ¬ answered p q.pol.fields ∨ ¬ room → exec (.pdestroy p) s = .next s) ∧
    (takes 2 1 c → known → r.pfStarted = true → answered p q.pol.fields → room → Completes (.pdestroy p) s fun t => tmem t.parts p = false ∧
      (∀ k, k ≠ p → t.part k = s.part k) ∧ (∀ k, (s.fn k).bound = some p → (t.fn k).bound = none ∧ (t.fn k).lqhead = (t.fn k).lqtail) ∧
      (∀ ca ∈ q.pol.columns, (s.col ca).holder = some p → (t.col ca).holder = none) ∧
      (t.fn 0).pfcmd.toNat = 2 + 2 ^ 64 * c ∧ (t.fn 0).pfBusy = false ∧
      (let waits : Prop := ∃ e ∈ s.fns, e.2.bound = some p ∧ ((s.fn e.1).lqtail + 2 ^ 64 - (s.fn e.1).lqhead) % 2 ^ 64 ≠ 0
       q.launch = none → q.migrated = [] → (¬ waits → tget t.tallies p Tally.zero = q.tally) ∧
         (waits → tget t.tallies p Tally.zero = { q.tally with lastOvf := q.govf })) ∧
      (∀ l, q.launch = some l → q.migrated = [] → tget t.tallies p Tally.zero = { q.tally with
        lastOvf := q.govf, launches := if (l.ended.map fun e => e.1) = some 0 then q.launches + 1 else q.launches }) ∧
      ∀ l, q.launch = some l → l.ended = none → q.migrated = [] → (∀ e ∈ s.fns, e.2.bound = some p → (s.fn e.1).lqhead = (s.fn e.1).lqtail) →
        ∃ u, Recorded s u l.fn l.cookie 5 none (Stranded s p) l.start s.now ∧ t.hostMem = u.hostMem ∧
          (t.fn l.fn).cqtail = (u.fn l.fn).cqtail ∧ (t.fn l.fn).msix = (u.fn l.fn).msix) ∧
    (takes 3 2 dc → 1 ≤ vf → vf ≤ 15 → known → (s.fn vf).bound = none → Completes (.pbind vf p) s fun t => ∃ u, rebound (some p) u ∧ said 3 0 dc u t) ∧
    (takes 3 2 dc → vf = 0 ∨ 15 < vf ∨ ¬ known ∨ (s.fn vf).bound ≠ none → Completes (.pbind vf p) s (said 3 2 dc s)) ∧
    (takes 4 1 d → 1 ≤ vf → vf ≤ 15 → (s.fn vf).bound ≠ none → (s.fn vf).lqhead = (s.fn vf).lqtail →
      Completes (.punbind vf) s fun t => ∃ u, rebound none u ∧ said 4 0 d u t) ∧
    (takes 4 1 d → vf = 0 ∨ 15 < vf ∨ (s.fn vf).bound = none ∨ (s.fn vf).lqhead ≠ (s.fn vf).lqtail → Completes (.punbind vf) s (said 4 2 d s))

/-- R458 to R462, of a device whose firmware runs: CONFIRM makes the running trial slot the active one, before its trial ends; FLOOR
rises to an accepted record's value, at most 64 and the running SVN; ACTIVATE puts the other slot on trial with three boots and
resets, a launch record that waits in a ring CANCELLED first, though its function is bound to no partition (R424, R460); a refused ROLLBACK replaces NONCE and an accepted one resets to its slot; STAGE writes the other slot. With firmware not
running, each but STAGE in recovery answers 2. A command that finds another waiting for its status is discarded and counted. R460,
R461, R463: a boot-control record is written over the copy that does not govern; a reset keeps flash, fuses, slots and host memory;
the boot ROM reads the valid copy with the higher sequence number, counts a trial down, or ends it and notes the roll-back, tries
the slot the record names and then the other, measures the slot that runs, or stops in recovery; a trial ends 900 s after its boot.
What a reset keeps besides the rules' words is the model's reading (log 27), and so are an ACTIVATE's and a ROLLBACK's wait for the
completion rings (log 42) and what MREG0 measures (log 12); which slot a STAGE in recovery writes is open (log 43); that a device
without a valid copy stays in recovery (log 65) and the layout of operands (log 63) are the model's choice. -/
def Obligations.FirmwareAndBoot : Prop :=
  let wrote (b c : Boot) (active trial : Bool) (tries : Nat) : Prop :=
    let old := if b.bcCopy then b.copyB else b.copyA
    let new := if b.bcCopy then c.copyA else c.copyB
    c = { b with active := active, trial := trial, tries := tries, bcCopy := !b.bcCopy, copyA := c.copyA, copyB := c.copyB } ∧
    (if b.bcCopy then c.copyB else c.copyA) = old ∧ new.seq = old.seq + 1 ∧ new.active = active ∧ new.trial = trial ∧ new.tries = tries ∧
    new.valid = true
  (∀ (s : State) (addr len : Nat),
     let b := s.boot
     let r := s.fn 0
     let said (op st ops : Nat) (u t : State) : Prop := t = { u with fns := t.fns } ∧ (∀ k, k ≠ 0 → t.fn k = u.fn k) ∧
       t.fn 0 = { u.fn 0 with fwcmd := (t.fn 0).fwcmd, fwBusy := false } ∧ (t.fn 0).fwcmd.toNat = op + 65536 * st + 2 ^ 64 * ops
     let takes (op n ops : Nat) : Prop := r.fwBusy = false ∨ (r.fwcmd.toNat % 65536 = op ∧ r.fwcmd.toNat / 2 ^ 64 % 2 ^ (64 * n) = ops)
     let drops (i : Instr) : Prop := Completes i s fun t => t = { s with fns := t.fns } ∧ (∀ k, k ≠ 0 → t.fn k = s.fn k) ∧
       t.fn 0 = { r with drop := if r.drop = 0xFFFFFFFF then r.drop else r.drop + 1 }
     let bytes (slot : Bool) : List Byte := if slot then b.slotB else b.slotA
     let svn := leNat (((bytes b.slot).drop 8).take 4)
     let rec_ := s.hostRecord addr
     let a := addr % 2 ^ 64
     let al := a + 2 ^ 64 * (len % 2 ^ 64)
     let trial : Prop := b.trial = true ∧ b.slot ≠ b.active ∧ s.now ≤ b.bootTick + 900 * 10 ^ 9
     let room : Prop := s.mayCancel = true
     (¬ takes 2 0 0 → drops .activate) ∧ (¬ takes 3 0 0 → drops .confirm) ∧ (¬ takes 4 1 a → drops (.rollback addr)) ∧
     (¬ takes 5 1 a → drops (.floor addr)) ∧ (¬ takes 1 2 al → drops (.stage addr len)) ∧
     (b.running = false → (takes 2 0 0 → Completes .activate s (said 2 2 0 s)) ∧ (takes 3 0 0 → Completes .confirm s (said 3 2 0 s)) ∧
       (takes 4 1 a → Completes (.rollback addr) s (said 4 2 a s)) ∧ (takes 5 1 a → Completes (.floor addr) s (said 5 2 a s))) ∧
     (b.running = true →
       (takes 3 0 0 → trial → Completes .confirm s fun t => ∃ u, said 3 0 0 u t ∧ u = { s with boot := u.boot } ∧
         wrote b u.boot b.slot false b.tries) ∧
       (takes 3 0 0 → ¬ trial → Completes .confirm s (said 3 2 0 s)) ∧
       (takes 5 1 a → s.accepts 6 rec_ = none → Completes (.floor addr) s (said 5 1 a s)) ∧
       (∀ e x y, takes 5 1 a → s.accepts 6 rec_ = some e → e.body = [x, y] →
         let n := x.toNat + 256 * y.toNat
         (64 < n ∨ svn < n → Completes (.floor addr) s (said 5 2 a s)) ∧
         (n ≤ 64 → n ≤ svn → Completes (.floor addr) s fun t => ∃ u, u = { s with boot := { b with floor := max b.floor n } } ∧ said 5 0 a u t)) ∧
       (takes 2 0 0 → s.firmwareOk (!b.slot) = false → Completes .activate s (said 2 1 0 s)) ∧
       (takes 2 0 0 → s.firmwareOk (!b.slot) = true → ¬ room → exec .activate s = .next s) ∧
       (takes 2 0 0 → s.firmwareOk (!b.slot) = true → room → Completes .activate s fun t => t.parts = [] ∧ t.boot.trial = true ∧
         t.boot.tries = 2 ∧ t.boot.active = b.active ∧ t.boot.floor = b.floor ∧ t.boot.slotA = b.slotA ∧ t.boot.slotB = b.slotB ∧
         t.flash = s.flash ∧
         ∀ fn, s.parts = [] → s.fns = [(fn, s.fn fn)] → (s.fn fn).bound = none →
           ((s.fn fn).lqtail + 2 ^ 64 - (s.fn fn).lqhead) % 2 ^ 64 = 1 → ∃ u, t.hostMem = u.hostMem ∧
             Recorded s u fn (BitVec.ofNat 64 (leNat (mread s.hostMem
               ((s.fn fn).lqbase.toNat + 64 * ((s.fn fn).lqhead % 2 ^ (s.fn fn).lqsize) + 32) 8))) 5 none 0 none s.now) ∧
       (takes 4 1 a → s.accepts 7 rec_ = none → Completes (.rollback addr) s fun t => ∃ u, said 4 1 a u t ∧
         u = { s with freeCtr := s.freeCtr + 1, boot := { b with nonce := u.boot.nonce } }) ∧
       (∀ e slot, takes 4 1 a → s.accepts 7 rec_ = some e → s.rollTarget e.body = some slot →
         (¬ room → exec (.rollback addr) s = .next s) ∧
         (room → Completes (.rollback addr) s fun t => t.parts = [] ∧ t.boot.trial = false ∧ t.boot.active = slot ∧
           t.boot.floor = b.floor ∧ t.boot.slotA = b.slotA ∧ t.boot.slotB = b.slotB))) ∧
     (takes 1 2 al → s.accepts 1 (mread s.hostMem addr len) = none → Completes (.stage addr len) s (said 1 1 al s)) ∧
     ∀ e, takes 1 2 al → s.accepts 1 (mread s.hostMem addr len) = some e →
       (b.recovery = false → b.running = false → Completes (.stage addr len) s (said 1 2 al s)) ∧
       (b.recovery = false → b.running = true → Completes (.stage addr len) s fun t => ∃ u, said 1 0 al u t ∧
         u = { s with boot := if b.slot then { b with slotA := e.bytes } else { b with slotB := e.bytes } }) ∧
       (b.recovery = true → Completes (.stage addr len) s fun t => t.parts = [] ∧ t.boot.trial = false ∧ t.boot.floor = b.floor ∧
         ((t.boot.active = false ∧ t.boot.slotA = e.bytes ∧ t.boot.slotB = b.slotB) ∨
           (t.boot.active = true ∧ t.boot.slotB = e.bytes ∧ t.boot.slotA = b.slotA)))) ∧
  (∀ (s : State),
     let b := s.boot
     let bytes (t : State) : List Byte := if t.boot.slot then t.boot.slotB else t.boot.slotA
     let governs (c : BootCopy) : Prop := (c = b.copyA ∧ c.valid = true ∧ (b.copyB.valid = true → b.copyB.seq ≤ c.seq)) ∨
       (c = b.copyB ∧ c.valid = true ∧ (b.copyA.valid = true → b.copyA.seq < c.seq))
     let counted (c : BootCopy) (x : Boot) : Prop :=
       (c.trial = true → c.tries ≠ 0 → wrote { x with bcCopy := !x.bcCopy, copyA := b.copyA, copyB := b.copyB } x c.active true (c.tries - 1) ∧
         (if x.bcCopy then x.copyA else x.copyB) = c ∧ x.rolledBack = b.rolledBack) ∧
       (c.trial = true → c.tries = 0 → wrote { x with bcCopy := !x.bcCopy, copyA := b.copyA, copyB := b.copyB } x c.active false c.tries ∧
         (if x.bcCopy then x.copyA else x.copyB) = c ∧ x.rolledBack = true) ∧
       (c.trial = false → x.trial = false ∧ x.tries = c.tries ∧ x.active = c.active ∧ x.copyA = b.copyA ∧ x.copyB = b.copyB ∧
         x.rolledBack = b.rolledBack)
     let boots (t : State) : Prop := t.parts = [] ∧ t.cols = State.reset.cols ∧ t.cellar = [] ∧ t.flash = s.flash ∧ t.boot.slotA = b.slotA ∧
       t.boot.slotB = b.slotB ∧ t.boot.floor = b.floor ∧ t.retired = s.retired ∧ (t.boot.running = !t.boot.recovery) ∧
       ((∀ c, ¬ governs c) → t.boot.recovery = true) ∧
       (∀ c, governs c → counted c t.boot ∧
         (let first := if c.trial = true ∧ c.tries ≠ 0 then !c.active else c.active
          t.boot.running = true → t.firmwareOk t.boot.slot = true ∧ (t.firmwareOk first = true → t.boot.slot = first))) ∧
       (t.boot.running = true → t.boot.mreg0 = Crypto.shake (Boot.reset.mreg0 ++ Crypto.shake (bytes t) 64) 64)
     let due : Prop := b.running = true ∧ b.trial = true ∧ b.slot ≠ b.active ∧ b.bootTick + 900 * 10 ^ 9 < s.now
     Completes .deviceReset s (fun t => boots t ∧ t.hostMem = s.hostMem) ∧
     (due → Completes .trialTimeout s boots) ∧ (¬ due → exec .trialTimeout s = .next s))

/-- R464: QUOTE of partition p, or of none where p is 0xFF, writes 768 bytes: the device, the almanac, the nonce, SVN, FLOOR,
SLOT, the partition, the four measurements and its image's, signed under the alias key, with that key's certificate. R465: TELSNAP
writes a snapshot of 84,032 bytes with every column, channel and partition in its place, and begins a new interval of the maxima.
R458: a command that finds another waiting for its status is discarded and counted. The layout of operands is the model's choice
(log 63). -/
def Obligations.QuotesAndSnapshots : Prop :=
  let takes (s : State) (op n ops : Nat) : Prop := (s.fn 0).fwBusy = false ∨
    ((s.fn 0).fwcmd.toNat % 65536 = op ∧ (s.fn 0).fwcmd.toNat / 2 ^ 64 % 2 ^ (64 * n) = ops)
  let drops (s : State) (i : Instr) : Prop := Completes i s fun t => t = { s with fns := t.fns } ∧ (∀ k, k ≠ 0 → t.fn k = s.fn k) ∧
    t.fn 0 = { s.fn 0 with drop := if (s.fn 0).drop = 0xFFFFFFFF then (s.fn 0).drop else (s.fn 0).drop + 1 }
  (∀ (s : State) (p out : Nat) (nonce : List Byte), s.boot.running = true → nonce.length = 32 →
     let b := s.boot
     let ops := p % 2 ^ 64 + 2 ^ 64 * (leNat nonce + 2 ^ 256 * (out % 2 ^ 64))
     let said (st : Nat) (u t : State) : Prop := t = { u with fns := t.fns } ∧ (∀ k, k ≠ 0 → t.fn k = u.fn k) ∧
       t.fn 0 = { u.fn 0 with fwcmd := (t.fn 0).fwcmd, fwBusy := false } ∧ (t.fn 0).fwcmd.toNat = 6 + 65536 * st + 2 ^ 64 * ops
     (¬ takes s 6 6 ops → drops s (.quote p nonce out)) ∧
     (takes s 6 6 ops → b.alias_ = none ∨ (15 < p ∧ p ≠ 0xFF) → Completes (.quote p nonce out) s (said 2 s)) ∧
     ∀ key, takes s 6 6 ops → b.alias_ = some key → p ≤ 15 ∨ p = 0xFF → Completes (.quote p nonce out) s fun t => ∃ bs,
       said 0 { s with hostMem := mwrite s.hostMem out bs } t ∧ bs.length = 768 ∧
       (let q (o n : Nat) : List Byte := (bs.drop o).take n
        q 0 8 = leBytes 8 b.devid.toNat ∧ q 8 8 = leBytes 8 s.now ∧ q 16 32 = nonce ∧
        q 48 2 = leBytes 2 (leNat (((if b.slot then b.slotB else b.slotA).drop 8).take 4)) ∧ q 50 2 = leBytes 2 b.floor ∧
        q 52 1 = leBytes 1 b.slot.toNat ∧ q 53 1 = leBytes 1 p ∧ (b.mreg0.length = 64 → q 64 64 = b.mreg0) ∧
        (b.mreg1.length = 64 → q 128 64 = b.mreg1) ∧ (b.mreg2.length = 64 → q 192 64 = b.mreg2) ∧ (b.mreg3.length = 64 → q 256 64 = b.mreg3) ∧
        (p ≠ 0xFF → (s.part p).img.length = 64 → q 320 64 = (s.part p).img) ∧
        ((Crypto.sign key (q 0 384)).length = 114 → q 384 114 = Crypto.sign key (q 0 384)) ∧
        (b.aliasCert.length = 235 → q 498 235 = b.aliasCert))) ∧
  (∀ (s : State) (out : Nat), s.boot.running = true →
     (¬ takes s 7 1 (out % 2 ^ 64) → drops s (.telsnap out)) ∧
     (takes s 7 1 (out % 2 ^ 64) → Completes (.telsnap out) s fun t => ∃ bs : List Byte,
     let n (o k : Nat) : Nat := leNat ((bs.drop o).take k)
     t.hostMem = mwrite s.hostMem out bs ∧ bs.length = 84032 ∧ n 0 8 = s.now ∧ n 8 4 = s.boot.snapSeq % 2 ^ 32 ∧ n 12 4 = 84032 ∧
     (∀ ca < 2304, n (64 + 32 * ca) 2 = (s.col ca).temp.toNat ∧ n (64 + 32 * ca + 2) 2 = (s.tele ca).maxTemp % 65536 ∧
       (∀ i < 10, n (64 + 32 * ca + 8 + 2 * i) 2 = min (tget (s.tele ca).soft (i + 1) 0) 65535) ∧
       n (64 + 32 * ca + 28) 2 = min (s.tele ca).lateTotal 65535 ∧ n (64 + 32 * ca + 30) 2 = min (s.tele ca).missTotal 65535) ∧
     (∀ ch < 576, n (73792 + 16 * ch) 2 = (s.chan ch).temp % 65536 ∧ n (73792 + 16 * ch + 2) 2 = (s.chan ch).maxTemp % 65536) ∧
     (∀ p < 16, n (83008 + 64 * p) 1 = (if tmem s.parts p then (if (s.part p).resident then 1 else 2) else 0) ∧
       (let x := if tmem s.parts p then (s.part p).tally else tget s.tallies p Tally.zero
        n (83008 + 64 * p + 4) 4 = x.lastOvf.toNat % 2 ^ 32 ∧ n (83008 + 64 * p + 8) 1 = x.lastOvf.toNat / 2 ^ 63 ∧
        n (83008 + 64 * p + 24) 8 = min x.highMem (2 ^ 64 - 1) ∧ n (83008 + 64 * p + 56) 4 = min x.kills (2 ^ 32 - 1))) ∧
     t.boot = { s.boot with thermal := false, snapSeq := s.boot.snapSeq + 1 } ∧
     (t.fn 0).fwcmd.toNat = 7 + 2 ^ 64 * (out % 2 ^ 64) ∧ (t.fn 0).fwBusy = false ∧ t.cols = s.cols ∧ t.cellar = s.cellar ∧
     ∀ p, tmem s.parts p = true → t.part p = { s.part p with highCells := (s.part p).cells.length, highMem := s.mappedBytes p }))
end

