-- ==== Sys2Proof/Laws/Memory.lean ====
section
/-! SUPPORT. The laws of tables and memories: reading after writing, and that every memory operation keeps the canonical form. -/

set_option Elab.async false

namespace Sys2Proof.Machine

/-! ### Tables -/

theorem tget_tset_same {α : Type} (t : Tbl α) (n : Nat) (v d : α) : tget (tset t n v) n d = v := by
  induction t with
  | nil => simp [tset, tget]
  | cons e r ih =>
    obtain ⟨k, w⟩ := e
    simp only [tset]
    split
    · simp [tget]
    · split
      · simp [tget]
      · simpa [tget, *] using ih

theorem tget_tset_ne {α : Type} (t : Tbl α) {m n : Nat} (v d : α) (h : m ≠ n) : tget (tset t n v) m d = tget t m d := by
  induction t with
  | nil => simp [tset, tget, Ne.symm h]
  | cons e r ih =>
    obtain ⟨k, w⟩ := e
    simp only [tset]
    split
    · next hk => subst hk; simp [tget, Ne.symm h]
    · split
      · simp [tget, Ne.symm h]
      · simp only [tget]; split <;> simp [*]

theorem tmem_tset_same {α : Type} (t : Tbl α) (n : Nat) (v : α) : tmem (tset t n v) n = true := by
  induction t with
  | nil => simp [tset, tmem]
  | cons e r ih =>
    obtain ⟨k, w⟩ := e
    simp only [tset]
    split
    · simp [tmem]
    · split
      · simp [tmem]
      · simp only [tmem, List.any_cons] at ih ⊢; simp [ih]

/-! ### The canonical form -/

theorem memWfFrom_cons {lo k : Nat} {v : Byte} {r : Mem} :
    memWfFrom lo ((k, v) :: r) = true ↔ lo ≤ k ∧ v ≠ unlisted ∧ memWfFrom (k + 1) r = true := by
  simp [memWfFrom, and_assoc]

theorem memWfFrom_mono {lo lo' : Nat} (h : lo ≤ lo') : ∀ {m : Mem}, memWfFrom lo' m = true → memWfFrom lo m = true
  | [], _ => rfl
  | (k, v) :: r, hm => by
    rw [memWfFrom_cons] at hm ⊢
    exact ⟨by omega, hm.2⟩

theorem memWfFrom_filter (p : Host.Cell → Bool) : ∀ {m : Mem} {lo : Nat}, memWfFrom lo m = true → memWfFrom lo (m.filter p) = true
  | [], _, _ => rfl
  | (k, v) :: r, lo, hm => by
    rw [memWfFrom_cons] at hm
    rw [List.filter_cons]
    split
    · exact memWfFrom_cons.2 ⟨hm.1, hm.2.1, memWfFrom_filter p hm.2.2⟩
    · exact memWfFrom_mono (by omega) (memWfFrom_filter p hm.2.2)

theorem memWfFrom_mins {a : Nat} {b : Byte} (hb : b ≠ unlisted) :
    ∀ {m : Mem} {lo : Nat}, lo ≤ a → memWfFrom lo m = true → memWfFrom lo (mins m a b) = true
  | [], _, h, _ => memWfFrom_cons.2 ⟨h, hb, rfl⟩
  | (k, v) :: r, lo, h, hm => by
    have hm' := memWfFrom_cons.1 hm
    simp only [mins]
    split
    · next hk => subst hk; exact memWfFrom_cons.2 ⟨h, hb, hm'.2.2⟩
    · split
      · exact memWfFrom_cons.2 ⟨h, hb, memWfFrom_cons.2 ⟨by omega, hm'.2⟩⟩
      · exact memWfFrom_cons.2 ⟨hm'.1, hm'.2.1, memWfFrom_mins hb (by omega) hm'.2.2⟩

/-- Writing one byte keeps the canonical form. -/
theorem Memory.wf_mset {m : Mem} (h : Memory.wf m = true) (a : Nat) (b : Byte) : Memory.wf (mset m a b) = true := by
  unfold mset
  split
  · exact memWfFrom_filter _ h
  · next hb => exact memWfFrom_mins hb (Nat.zero_le a) h

/-- Writing bytes keeps the canonical form. -/
theorem Memory.wf_mwrite {m : Mem} (h : Memory.wf m = true) (a : Nat) (bs : List Byte) : Memory.wf (mwrite m a bs) = true := by
  induction bs generalizing m a with
  | nil => exact h
  | cons b r ih => exact ih (Memory.wf_mset h a b) (a + 1)

/-! ### Reading after writing -/

theorem mget_eq_unlisted {m : Mem} {lo a : Nat} (h : memWfFrom lo m = true) (ha : a < lo) : mget m a = unlisted := by
  induction m generalizing lo with
  | nil => rfl
  | cons e r ih =>
    obtain ⟨k, v⟩ := e
    rw [memWfFrom_cons] at h
    have hk : k ≠ a := by omega
    simpa [mget, hk] using ih h.2.2 (by omega)

theorem mget_filter_ne (m : Mem) (a : Nat) : mget (m.filter fun c => c.1 != a) a = unlisted := by
  induction m with
  | nil => rfl
  | cons e r ih =>
    obtain ⟨k, v⟩ := e
    rw [List.filter_cons]
    split
    · next hk => have : k ≠ a := by simpa using hk
                 simpa [mget, this] using ih
    · exact ih

theorem mget_filter_other (m : Mem) {a x : Nat} (h : x ≠ a) : mget (m.filter fun c => c.1 != a) x = mget m x := by
  induction m with
  | nil => rfl
  | cons e r ih =>
    obtain ⟨k, v⟩ := e
    rw [List.filter_cons]
    split
    · simp [mget, ih]
    · next hk => have : k = a := by simpa using hk
                 subst this
                 simp [mget, Ne.symm h, ih]

theorem mget_mins_same (m : Mem) (a : Nat) (b : Byte) : mget (mins m a b) a = b := by
  induction m with
  | nil => simp [mins, mget]
  | cons e r ih =>
    obtain ⟨k, v⟩ := e
    simp only [mins]
    split
    · simp [mget]
    · split
      · simp [mget]
      · simpa [mget, *] using ih

theorem mget_mins_other (m : Mem) {a x : Nat} (b : Byte) (h : x ≠ a) : mget (mins m a b) x = mget m x := by
  induction m with
  | nil => simp [mins, mget, Ne.symm h]
  | cons e r ih =>
    obtain ⟨k, v⟩ := e
    simp only [mins]
    split
    · next hk => subst hk; simp [mget, Ne.symm h]
    · split
      · simp [mget, Ne.symm h]
      · simp only [mget]; split <;> simp [*]

/-- A byte that was written reads back. -/
theorem mget_mset_same (m : Mem) (a : Nat) (b : Byte) : mget (mset m a b) a = b := by
  unfold mset
  split
  · next hb => rw [mget_filter_ne, hb]
  · exact mget_mins_same m a b

/-- A write leaves every other byte. -/
theorem mget_mset_other (m : Mem) {a x : Nat} (b : Byte) (h : x ≠ a) : mget (mset m a b) x = mget m x := by
  unfold mset
  split
  · exact mget_filter_other m h
  · exact mget_mins_other m b h

/-- What a write of bytes leaves at an address. -/
theorem mget_mwrite (m : Mem) (a : Nat) (bs : List Byte) (x : Nat) :
    mget (mwrite m a bs) x = if a ≤ x ∧ x < a + bs.length then bs.getD (x - a) 0 else mget m x := by
  induction bs generalizing m a with
  | nil => simp [mwrite]
  | cons b r ih =>
    rw [mwrite, ih]
    by_cases hx : x = a
    · subst hx
      simp [mget_mset_same]
    · rw [mget_mset_other m b hx]
      by_cases h : a ≤ x ∧ x < a + (b :: r).length
      · have h1 : a + 1 ≤ x ∧ x < a + 1 + r.length := by simp at h; omega
        rw [if_pos h, if_pos h1]
        obtain ⟨j, rfl⟩ : ∃ j, x = a + 1 + j := ⟨x - (a + 1), by omega⟩
        simp [show a + 1 + j - a = j + 1 by omega]
      · have h1 : ¬ (a + 1 ≤ x ∧ x < a + 1 + r.length) := by simp at h ⊢; omega
        rw [if_neg h, if_neg h1]

theorem mread_length (m : Mem) (a n : Nat) : (mread m a n).length = n := by
  induction n generalizing a with
  | zero => rfl
  | succ n ih => simp [mread, ih]

theorem mread_getD (m : Mem) (a n i : Nat) : (mread m a n).getD i 0 = if i < n then mget m (a + i) else 0 := by
  induction n generalizing a i with
  | zero => simp [mread]
  | succ n ih =>
    cases i with
    | zero => simp [mread]
    | succ i => simp only [mread, List.getD_cons_succ, ih, Nat.add_lt_add_iff_right]; congr 2; omega

/-- The bytes that were written read back. -/
theorem mread_mwrite_same (m : Mem) (a : Nat) (bs : List Byte) : mread (mwrite m a bs) a bs.length = bs := by
  apply List.ext_getElem
  · exact mread_length _ _ _
  · intro i h1 h2
    have h := mread_getD (mwrite m a bs) a bs.length i
    rw [if_pos h2, mget_mwrite, if_pos ⟨by omega, by omega⟩, Nat.add_sub_cancel_left] at h
    rw [List.getD_eq_getElem _ _ h1, List.getD_eq_getElem _ _ h2] at h
    exact h

/-- A write leaves the bytes of every range that it does not meet. -/
theorem mread_mwrite_other (m : Mem) (a : Nat) (bs : List Byte) (x n : Nat) (h : x + n ≤ a ∨ a + bs.length ≤ x) :
    mread (mwrite m a bs) x n = mread m x n := by
  apply List.ext_getElem
  · simp [mread_length]
  · intro i h1 h2
    have hi : i < n := by simpa [mread_length] using h1
    have e1 := mread_getD (mwrite m a bs) x n i
    have e2 := mread_getD m x n i
    rw [List.getD_eq_getElem _ _ h1, if_pos hi, mget_mwrite, if_neg (by omega)] at e1
    rw [List.getD_eq_getElem _ _ h2, if_pos hi] at e2
    rw [e1, e2]

end Sys2Proof.Machine
end

