-- ==== Sys2Proof/Laws/State.lean ====
section
/-! SUPPORT. What the updates of the state leave: each field after setCol, setThread, setPart and updFn; a column, a thread, a
partition and a function read after they are written; registers read after they are written; poison after it is set and cleared; and, for each shared operation
over them, what it can do. -/

set_option Elab.async false

namespace Sys2Proof.Machine

/-! ### Tables -/

theorem tget_tset {α : Type} (t : Tbl α) (n m : Nat) (v d : α) : tget (tset t n v) m d = if m = n then v else tget t m d := by
  split
  · next h => rw [h]; exact tget_tset_same _ _ _ _
  · next h => exact tget_tset_ne _ _ _ h

theorem tmem_tset {α : Type} (t : Tbl α) (n m : Nat) (v : α) : tmem (tset t n v) m = (m == n || tmem t m) := by
  by_cases hm : m = n
  · subst hm; simp [tmem_tset_same]
  · have hn : (n == m) = false := by simpa using Ne.symm hm
    have hm' : (m == n) = false := by simpa using hm
    induction t with
    | nil => simp [tset, tmem, hn, hm']
    | cons e r ih =>
      obtain ⟨k, w⟩ := e
      simp only [tmem, hm', Bool.false_or] at ih
      simp only [tset, tmem, hm', Bool.false_or]
      split
      · next h => subst h; simp [hn]
      · split
        · simp [hn]
        · simp [ih]

/-- Of two writes of one entry the later remains. -/
theorem tset_tset {α : Type} (t : Tbl α) (n : Nat) (v w : α) : tset (tset t n v) n w = tset t n w := by
  induction t with
  | nil => simp [tset]
  | cons e r ih =>
    obtain ⟨k, x⟩ := e
    by_cases h : k = n
    · simp [tset, h]
    · by_cases g : n < k
      · simp [tset, h, g]
      · simp [tset, h, g, ih]

/-! ### Updates in terms of setCol and setThread -/

@[simp] theorem updCol_eq (s : State) (ca : Nat) (f : Column → Column) : s.updCol ca f = s.setCol ca (f (s.col ca)) := rfl
@[simp] theorem updHere_eq (s : State) (f : Column → Column) : s.updHere f = s.setCol s.cur.ca (f (s.col s.cur.ca)) := rfl
@[simp] theorem here_eq (s : State) : s.here = s.col s.cur.ca := rfl
@[simp] theorem updThread_eq (s : State) (t : ThreadRef) (f : Thread → Thread) :
    s.updThread t f = s.setThread t (f (s.thread t)) := rfl
@[simp] theorem upd_eq (s : State) (f : Thread → Thread) : s.upd f = s.setThread s.cur (f s.th) := rfl

/-! ### Each field of the state after setCol, setThread, setPart and updFn -/

@[simp] theorem setCol_sched (s : State) (ca : Nat) (c : Column) : (s.setCol ca c).sched = s.sched := rfl
@[simp] theorem setCol_cur (s : State) (ca : Nat) (c : Column) : (s.setCol ca c).cur = s.cur := rfl
@[simp] theorem setCol_freeCtr (s : State) (ca : Nat) (c : Column) : (s.setCol ca c).freeCtr = s.freeCtr := rfl
@[simp] theorem setCol_nextId (s : State) (ca : Nat) (c : Column) : (s.setCol ca c).nextId = s.nextId := rfl
@[simp] theorem setCol_almanac (s : State) (ca : Nat) (c : Column) : (s.setCol ca c).almanac = s.almanac := rfl
@[simp] theorem setCol_parts (s : State) (ca : Nat) (c : Column) : (s.setCol ca c).parts = s.parts := rfl
@[simp] theorem setCol_tallies (s : State) (ca : Nat) (c : Column) : (s.setCol ca c).tallies = s.tallies := rfl
@[simp] theorem setCol_saved (s : State) (ca : Nat) (c : Column) : (s.setCol ca c).saved = s.saved := rfl
@[simp] theorem setCol_cellar (s : State) (ca : Nat) (c : Column) : (s.setCol ca c).cellar = s.cellar := rfl
@[simp] theorem setCol_hostMem (s : State) (ca : Nat) (c : Column) : (s.setCol ca c).hostMem = s.hostMem := rfl
@[simp] theorem setCol_poison (s : State) (ca : Nat) (c : Column) : (s.setCol ca c).poison = s.poison := rfl
@[simp] theorem setCol_chans (s : State) (ca : Nat) (c : Column) : (s.setCol ca c).chans = s.chans := rfl
@[simp] theorem setCol_emitterScale (s : State) (ca : Nat) (c : Column) : (s.setCol ca c).emitterScale = s.emitterScale := rfl
@[simp] theorem setCol_retired (s : State) (ca : Nat) (c : Column) : (s.setCol ca c).retired = s.retired := rfl
@[simp] theorem setCol_retiredLinks (s : State) (ca : Nat) (c : Column) : (s.setCol ca c).retiredLinks = s.retiredLinks := rfl
@[simp] theorem setCol_ref (s : State) (ca : Nat) (c : Column) : (s.setCol ca c).ref = s.ref := rfl
@[simp] theorem setCol_almOff (s : State) (ca : Nat) (c : Column) : (s.setCol ca c).almOff = s.almOff := rfl
@[simp] theorem setCol_boot (s : State) (ca : Nat) (c : Column) : (s.setCol ca c).boot = s.boot := rfl
@[simp] theorem setCol_flash (s : State) (ca : Nat) (c : Column) : (s.setCol ca c).flash = s.flash := rfl
@[simp] theorem setCol_colTele (s : State) (ca : Nat) (c : Column) : (s.setCol ca c).colTele = s.colTele := rfl
@[simp] theorem setCol_fns (s : State) (ca : Nat) (c : Column) : (s.setCol ca c).fns = s.fns := rfl
@[simp] theorem setCol_links (s : State) (ca : Nat) (c : Column) : (s.setCol ca c).links = s.links := rfl
@[simp] theorem setCol_net (s : State) (ca : Nat) (c : Column) : (s.setCol ca c).net = s.net := rfl
@[simp] theorem setCol_xfers (s : State) (ca : Nat) (c : Column) : (s.setCol ca c).xfers = s.xfers := rfl
@[simp] theorem setCol_cmds (s : State) (ca : Nat) (c : Column) : (s.setCol ca c).cmds = s.cmds := rfl
@[simp] theorem setCol_locks (s : State) (ca : Nat) (c : Column) : (s.setCol ca c).locks = s.locks := rfl
@[simp] theorem setCol_faults (s : State) (ca : Nat) (c : Column) : (s.setCol ca c).faults = s.faults := rfl
@[simp] theorem setCol_routers (s : State) (ca : Nat) (c : Column) : (s.setCol ca c).routers = s.routers := rfl
@[simp] theorem setCol_posted (s : State) (ca : Nat) (c : Column) : (s.setCol ca c).posted = s.posted := rfl
@[simp] theorem setCol_records (s : State) (ca : Nat) (c : Column) : (s.setCol ca c).records = s.records := rfl
@[simp] theorem setCol_batches (s : State) (ca : Nat) (c : Column) : (s.setCol ca c).batches = s.batches := rfl
@[simp] theorem setCol_ranges (s : State) (ca : Nat) (c : Column) : (s.setCol ca c).ranges = s.ranges := rfl
@[simp] theorem setThread_sched (s : State) (t : ThreadRef) (th : Thread) : (s.setThread t th).sched = s.sched := rfl
@[simp] theorem setThread_cur (s : State) (t : ThreadRef) (th : Thread) : (s.setThread t th).cur = s.cur := rfl
@[simp] theorem setThread_freeCtr (s : State) (t : ThreadRef) (th : Thread) : (s.setThread t th).freeCtr = s.freeCtr := rfl
@[simp] theorem setThread_nextId (s : State) (t : ThreadRef) (th : Thread) : (s.setThread t th).nextId = s.nextId := rfl
@[simp] theorem setThread_almanac (s : State) (t : ThreadRef) (th : Thread) : (s.setThread t th).almanac = s.almanac := rfl
@[simp] theorem setThread_parts (s : State) (t : ThreadRef) (th : Thread) : (s.setThread t th).parts = s.parts := rfl
@[simp] theorem setThread_tallies (s : State) (t : ThreadRef) (th : Thread) : (s.setThread t th).tallies = s.tallies := rfl
@[simp] theorem setThread_saved (s : State) (t : ThreadRef) (th : Thread) : (s.setThread t th).saved = s.saved := rfl
@[simp] theorem setThread_cellar (s : State) (t : ThreadRef) (th : Thread) : (s.setThread t th).cellar = s.cellar := rfl
@[simp] theorem setThread_hostMem (s : State) (t : ThreadRef) (th : Thread) : (s.setThread t th).hostMem = s.hostMem := rfl
@[simp] theorem setThread_poison (s : State) (t : ThreadRef) (th : Thread) : (s.setThread t th).poison = s.poison := rfl
@[simp] theorem setThread_chans (s : State) (t : ThreadRef) (th : Thread) : (s.setThread t th).chans = s.chans := rfl
@[simp] theorem setThread_emitterScale (s : State) (t : ThreadRef) (th : Thread) : (s.setThread t th).emitterScale = s.emitterScale := rfl
@[simp] theorem setThread_retired (s : State) (t : ThreadRef) (th : Thread) : (s.setThread t th).retired = s.retired := rfl
@[simp] theorem setThread_retiredLinks (s : State) (t : ThreadRef) (th : Thread) : (s.setThread t th).retiredLinks = s.retiredLinks := rfl
@[simp] theorem setThread_ref (s : State) (t : ThreadRef) (th : Thread) : (s.setThread t th).ref = s.ref := rfl
@[simp] theorem setThread_almOff (s : State) (t : ThreadRef) (th : Thread) : (s.setThread t th).almOff = s.almOff := rfl
@[simp] theorem setThread_boot (s : State) (t : ThreadRef) (th : Thread) : (s.setThread t th).boot = s.boot := rfl
@[simp] theorem setThread_flash (s : State) (t : ThreadRef) (th : Thread) : (s.setThread t th).flash = s.flash := rfl
@[simp] theorem setThread_colTele (s : State) (t : ThreadRef) (th : Thread) : (s.setThread t th).colTele = s.colTele := rfl
@[simp] theorem setThread_fns (s : State) (t : ThreadRef) (th : Thread) : (s.setThread t th).fns = s.fns := rfl
@[simp] theorem setThread_links (s : State) (t : ThreadRef) (th : Thread) : (s.setThread t th).links = s.links := rfl
@[simp] theorem setThread_net (s : State) (t : ThreadRef) (th : Thread) : (s.setThread t th).net = s.net := rfl
@[simp] theorem setThread_xfers (s : State) (t : ThreadRef) (th : Thread) : (s.setThread t th).xfers = s.xfers := rfl
@[simp] theorem setThread_cmds (s : State) (t : ThreadRef) (th : Thread) : (s.setThread t th).cmds = s.cmds := rfl
@[simp] theorem setThread_locks (s : State) (t : ThreadRef) (th : Thread) : (s.setThread t th).locks = s.locks := rfl
@[simp] theorem setThread_faults (s : State) (t : ThreadRef) (th : Thread) : (s.setThread t th).faults = s.faults := rfl
@[simp] theorem setThread_routers (s : State) (t : ThreadRef) (th : Thread) : (s.setThread t th).routers = s.routers := rfl
@[simp] theorem setThread_posted (s : State) (t : ThreadRef) (th : Thread) : (s.setThread t th).posted = s.posted := rfl
@[simp] theorem setThread_records (s : State) (t : ThreadRef) (th : Thread) : (s.setThread t th).records = s.records := rfl
@[simp] theorem setThread_batches (s : State) (t : ThreadRef) (th : Thread) : (s.setThread t th).batches = s.batches := rfl
@[simp] theorem setThread_ranges (s : State) (t : ThreadRef) (th : Thread) : (s.setThread t th).ranges = s.ranges := rfl
@[simp] theorem setPart_sched (s : State) (p : Nat) (x : Partition) : (s.setPart p x).sched = s.sched := by
  unfold State.setPart; split <;> rfl
@[simp] theorem setPart_cur (s : State) (p : Nat) (x : Partition) : (s.setPart p x).cur = s.cur := by
  unfold State.setPart; split <;> rfl
@[simp] theorem setPart_freeCtr (s : State) (p : Nat) (x : Partition) : (s.setPart p x).freeCtr = s.freeCtr := by
  unfold State.setPart; split <;> rfl
@[simp] theorem setPart_nextId (s : State) (p : Nat) (x : Partition) : (s.setPart p x).nextId = s.nextId := by
  unfold State.setPart; split <;> rfl
@[simp] theorem setPart_almanac (s : State) (p : Nat) (x : Partition) : (s.setPart p x).almanac = s.almanac := by
  unfold State.setPart; split <;> rfl
@[simp] theorem setPart_cols (s : State) (p : Nat) (x : Partition) : (s.setPart p x).cols = s.cols := by
  unfold State.setPart; split <;> rfl
@[simp] theorem setPart_tallies (s : State) (p : Nat) (x : Partition) : (s.setPart p x).tallies = s.tallies := by
  unfold State.setPart; split <;> rfl
@[simp] theorem setPart_saved (s : State) (p : Nat) (x : Partition) : (s.setPart p x).saved = s.saved := by
  unfold State.setPart; split <;> rfl
@[simp] theorem setPart_cellar (s : State) (p : Nat) (x : Partition) : (s.setPart p x).cellar = s.cellar := by
  unfold State.setPart; split <;> rfl
@[simp] theorem setPart_hostMem (s : State) (p : Nat) (x : Partition) : (s.setPart p x).hostMem = s.hostMem := by
  unfold State.setPart; split <;> rfl
@[simp] theorem setPart_poison (s : State) (p : Nat) (x : Partition) : (s.setPart p x).poison = s.poison := by
  unfold State.setPart; split <;> rfl
@[simp] theorem setPart_chans (s : State) (p : Nat) (x : Partition) : (s.setPart p x).chans = s.chans := by
  unfold State.setPart; split <;> rfl
@[simp] theorem setPart_emitterScale (s : State) (p : Nat) (x : Partition) : (s.setPart p x).emitterScale = s.emitterScale := by
  unfold State.setPart; split <;> rfl
@[simp] theorem setPart_retired (s : State) (p : Nat) (x : Partition) : (s.setPart p x).retired = s.retired := by
  unfold State.setPart; split <;> rfl
@[simp] theorem setPart_retiredLinks (s : State) (p : Nat) (x : Partition) : (s.setPart p x).retiredLinks = s.retiredLinks := by
  unfold State.setPart; split <;> rfl
@[simp] theorem setPart_ref (s : State) (p : Nat) (x : Partition) : (s.setPart p x).ref = s.ref := by
  unfold State.setPart; split <;> rfl
@[simp] theorem setPart_almOff (s : State) (p : Nat) (x : Partition) : (s.setPart p x).almOff = s.almOff := by
  unfold State.setPart; split <;> rfl
@[simp] theorem setPart_boot (s : State) (p : Nat) (x : Partition) : (s.setPart p x).boot = s.boot := by
  unfold State.setPart; split <;> rfl
@[simp] theorem setPart_flash (s : State) (p : Nat) (x : Partition) : (s.setPart p x).flash = s.flash := by
  unfold State.setPart; split <;> rfl
@[simp] theorem setPart_colTele (s : State) (p : Nat) (x : Partition) : (s.setPart p x).colTele = s.colTele := by
  unfold State.setPart; split <;> rfl
@[simp] theorem setPart_fns (s : State) (p : Nat) (x : Partition) : (s.setPart p x).fns = s.fns := by
  unfold State.setPart; split <;> rfl
@[simp] theorem setPart_links (s : State) (p : Nat) (x : Partition) : (s.setPart p x).links = s.links := by
  unfold State.setPart; split <;> rfl
@[simp] theorem setPart_net (s : State) (p : Nat) (x : Partition) : (s.setPart p x).net = s.net := by
  unfold State.setPart; split <;> rfl
@[simp] theorem setPart_xfers (s : State) (p : Nat) (x : Partition) : (s.setPart p x).xfers = s.xfers := by
  unfold State.setPart; split <;> rfl
@[simp] theorem setPart_cmds (s : State) (p : Nat) (x : Partition) : (s.setPart p x).cmds = s.cmds := by
  unfold State.setPart; split <;> rfl
@[simp] theorem setPart_locks (s : State) (p : Nat) (x : Partition) : (s.setPart p x).locks = s.locks := by
  unfold State.setPart; split <;> rfl
@[simp] theorem setPart_faults (s : State) (p : Nat) (x : Partition) : (s.setPart p x).faults = s.faults := by
  unfold State.setPart; split <;> rfl
@[simp] theorem setPart_routers (s : State) (p : Nat) (x : Partition) : (s.setPart p x).routers = s.routers := by
  unfold State.setPart; split <;> rfl
@[simp] theorem setPart_posted (s : State) (p : Nat) (x : Partition) : (s.setPart p x).posted = s.posted := by
  unfold State.setPart; split <;> rfl
@[simp] theorem setPart_records (s : State) (p : Nat) (x : Partition) : (s.setPart p x).records = s.records := by
  unfold State.setPart; split <;> rfl
@[simp] theorem setPart_batches (s : State) (p : Nat) (x : Partition) : (s.setPart p x).batches = s.batches := by
  unfold State.setPart; split <;> rfl
@[simp] theorem setPart_ranges (s : State) (p : Nat) (x : Partition) : (s.setPart p x).ranges = s.ranges := by
  unfold State.setPart; split <;> rfl
@[simp] theorem updFn_sched (s : State) (n : Nat) (f : HostFn → HostFn) : (s.updFn n f).sched = s.sched := rfl
@[simp] theorem updFn_cur (s : State) (n : Nat) (f : HostFn → HostFn) : (s.updFn n f).cur = s.cur := rfl
@[simp] theorem updFn_freeCtr (s : State) (n : Nat) (f : HostFn → HostFn) : (s.updFn n f).freeCtr = s.freeCtr := rfl
@[simp] theorem updFn_nextId (s : State) (n : Nat) (f : HostFn → HostFn) : (s.updFn n f).nextId = s.nextId := rfl
@[simp] theorem updFn_almanac (s : State) (n : Nat) (f : HostFn → HostFn) : (s.updFn n f).almanac = s.almanac := rfl
@[simp] theorem updFn_cols (s : State) (n : Nat) (f : HostFn → HostFn) : (s.updFn n f).cols = s.cols := rfl
@[simp] theorem updFn_parts (s : State) (n : Nat) (f : HostFn → HostFn) : (s.updFn n f).parts = s.parts := rfl
@[simp] theorem updFn_tallies (s : State) (n : Nat) (f : HostFn → HostFn) : (s.updFn n f).tallies = s.tallies := rfl
@[simp] theorem updFn_saved (s : State) (n : Nat) (f : HostFn → HostFn) : (s.updFn n f).saved = s.saved := rfl
@[simp] theorem updFn_cellar (s : State) (n : Nat) (f : HostFn → HostFn) : (s.updFn n f).cellar = s.cellar := rfl
@[simp] theorem updFn_hostMem (s : State) (n : Nat) (f : HostFn → HostFn) : (s.updFn n f).hostMem = s.hostMem := rfl
@[simp] theorem updFn_poison (s : State) (n : Nat) (f : HostFn → HostFn) : (s.updFn n f).poison = s.poison := rfl
@[simp] theorem updFn_chans (s : State) (n : Nat) (f : HostFn → HostFn) : (s.updFn n f).chans = s.chans := rfl
@[simp] theorem updFn_emitterScale (s : State) (n : Nat) (f : HostFn → HostFn) : (s.updFn n f).emitterScale = s.emitterScale := rfl
@[simp] theorem updFn_retired (s : State) (n : Nat) (f : HostFn → HostFn) : (s.updFn n f).retired = s.retired := rfl
@[simp] theorem updFn_retiredLinks (s : State) (n : Nat) (f : HostFn → HostFn) : (s.updFn n f).retiredLinks = s.retiredLinks := rfl
@[simp] theorem updFn_ref (s : State) (n : Nat) (f : HostFn → HostFn) : (s.updFn n f).ref = s.ref := rfl
@[simp] theorem updFn_almOff (s : State) (n : Nat) (f : HostFn → HostFn) : (s.updFn n f).almOff = s.almOff := rfl
@[simp] theorem updFn_boot (s : State) (n : Nat) (f : HostFn → HostFn) : (s.updFn n f).boot = s.boot := rfl
@[simp] theorem updFn_flash (s : State) (n : Nat) (f : HostFn → HostFn) : (s.updFn n f).flash = s.flash := rfl
@[simp] theorem updFn_colTele (s : State) (n : Nat) (f : HostFn → HostFn) : (s.updFn n f).colTele = s.colTele := rfl
@[simp] theorem updFn_links (s : State) (n : Nat) (f : HostFn → HostFn) : (s.updFn n f).links = s.links := rfl
@[simp] theorem updFn_net (s : State) (n : Nat) (f : HostFn → HostFn) : (s.updFn n f).net = s.net := rfl
@[simp] theorem updFn_xfers (s : State) (n : Nat) (f : HostFn → HostFn) : (s.updFn n f).xfers = s.xfers := rfl
@[simp] theorem updFn_cmds (s : State) (n : Nat) (f : HostFn → HostFn) : (s.updFn n f).cmds = s.cmds := rfl
@[simp] theorem updFn_locks (s : State) (n : Nat) (f : HostFn → HostFn) : (s.updFn n f).locks = s.locks := rfl
@[simp] theorem updFn_faults (s : State) (n : Nat) (f : HostFn → HostFn) : (s.updFn n f).faults = s.faults := rfl
@[simp] theorem updFn_routers (s : State) (n : Nat) (f : HostFn → HostFn) : (s.updFn n f).routers = s.routers := rfl
@[simp] theorem updFn_posted (s : State) (n : Nat) (f : HostFn → HostFn) : (s.updFn n f).posted = s.posted := rfl
@[simp] theorem updFn_records (s : State) (n : Nat) (f : HostFn → HostFn) : (s.updFn n f).records = s.records := rfl
@[simp] theorem updFn_batches (s : State) (n : Nat) (f : HostFn → HostFn) : (s.updFn n f).batches = s.batches := rfl
@[simp] theorem updFn_ranges (s : State) (n : Nat) (f : HostFn → HostFn) : (s.updFn n f).ranges = s.ranges := rfl

/-! ### A column, a thread, a partition and a function read after they are written -/

theorem col_setCol (s : State) (ca x : Nat) (c : Column) : (s.setCol ca c).col x = if x = ca then c else s.col x :=
  tget_tset _ _ _ _ _

@[simp] theorem col_setCol_same (s : State) (ca : Nat) (c : Column) : (s.setCol ca c).col ca = c := by simp [col_setCol]

theorem col_setCol_other (s : State) (ca x : Nat) (c : Column) (h : x ≠ ca) : (s.setCol ca c).col x = s.col x := by
  simp [col_setCol, h]

@[simp] theorem col_setThread_same (s : State) (t : ThreadRef) (th : Thread) :
    (s.setThread t th).col t.ca = { s.col t.ca with threads := tset (s.col t.ca).threads t.tid th } := col_setCol_same _ _ _

theorem col_setThread_other (s : State) (t : ThreadRef) (th : Thread) (ca : Nat) (h : ca ≠ t.ca) :
    (s.setThread t th).col ca = s.col ca := col_setCol_other _ _ _ _ h

/-- Every field of every column but its threads is as before a thread is written. -/
theorem col_setThread (s : State) (t : ThreadRef) (th : Thread) (ca : Nat) :
    (s.setThread t th).col ca = { s.col ca with threads := ((s.setThread t th).col ca).threads } := by
  by_cases h : ca = t.ca
  · subst h; simp
  · rw [col_setThread_other _ _ _ _ h]

@[simp] theorem col_setThread_holder (s : State) (t : ThreadRef) (th : Thread) (ca : Nat) :
    ((s.setThread t th).col ca).holder = (s.col ca).holder := by rw [col_setThread]
@[simp] theorem col_setThread_home (s : State) (t : ThreadRef) (th : Thread) (ca : Nat) :
    ((s.setThread t th).col ca).home = (s.col ca).home := by rw [col_setThread]
@[simp] theorem col_setThread_loft (s : State) (t : ThreadRef) (th : Thread) (ca : Nat) :
    ((s.setThread t th).col ca).loft = (s.col ca).loft := by rw [col_setThread]
@[simp] theorem col_setThread_drive (s : State) (t : ThreadRef) (th : Thread) (ca : Nat) :
    ((s.setThread t th).col ca).drive = (s.col ca).drive := by rw [col_setThread]
@[simp] theorem col_setThread_ways (s : State) (t : ThreadRef) (th : Thread) (ca : Nat) :
    ((s.setThread t th).col ca).ways = (s.col ca).ways := by rw [col_setThread]
@[simp] theorem col_setThread_loftStatus (s : State) (t : ThreadRef) (th : Thread) (ca : Nat) :
    ((s.setThread t th).col ca).loftStatus = (s.col ca).loftStatus := by rw [col_setThread]
@[simp] theorem col_setThread_loftChange (s : State) (t : ThreadRef) (th : Thread) (ca : Nat) :
    ((s.setThread t th).col ca).loftChange = (s.col ca).loftChange := by rw [col_setThread]
@[simp] theorem col_setThread_thallow (s : State) (t : ThreadRef) (th : Thread) (ca : Nat) :
    ((s.setThread t th).col ca).thallow = (s.col ca).thallow := by rw [col_setThread]
@[simp] theorem col_setThread_droop (s : State) (t : ThreadRef) (th : Thread) (ca : Nat) :
    ((s.setThread t th).col ca).droop = (s.col ca).droop := by rw [col_setThread]
@[simp] theorem col_setThread_temp (s : State) (t : ThreadRef) (th : Thread) (ca : Nat) :
    ((s.setThread t th).col ca).temp = (s.col ca).temp := by rw [col_setThread]
@[simp] theorem col_setThread_hot (s : State) (t : ThreadRef) (th : Thread) (ca : Nat) :
    ((s.setThread t th).col ca).hot = (s.col ca).hot := by rw [col_setThread]
@[simp] theorem col_setThread_upReq (s : State) (t : ThreadRef) (th : Thread) (ca : Nat) :
    ((s.setThread t th).col ca).upReq = (s.col ca).upReq := by rw [col_setThread]
@[simp] theorem col_setThread_upState (s : State) (t : ThreadRef) (th : Thread) (ca : Nat) :
    ((s.setThread t th).col ca).upState = (s.col ca).upState := by rw [col_setThread]
@[simp] theorem col_setThread_domLevel (s : State) (t : ThreadRef) (th : Thread) (ca : Nat) :
    ((s.setThread t th).col ca).domLevel = (s.col ca).domLevel := by rw [col_setThread]
@[simp] theorem col_setThread_domX (s : State) (t : ThreadRef) (th : Thread) (ca : Nat) :
    ((s.setThread t th).col ca).domX = (s.col ca).domX := by rw [col_setThread]
@[simp] theorem col_setThread_domEpoch (s : State) (t : ThreadRef) (th : Thread) (ca : Nat) :
    ((s.setThread t th).col ca).domEpoch = (s.col ca).domEpoch := by rw [col_setThread]
@[simp] theorem col_setThread_domid (s : State) (t : ThreadRef) (th : Thread) (ca : Nat) :
    ((s.setThread t th).col ca).domid = (s.col ca).domid := by rw [col_setThread]
@[simp] theorem col_setThread_q0 (s : State) (t : ThreadRef) (th : Thread) (ca : Nat) :
    ((s.setThread t th).col ca).q0 = (s.col ca).q0 := by rw [col_setThread]
@[simp] theorem col_setThread_q1 (s : State) (t : ThreadRef) (th : Thread) (ca : Nat) :
    ((s.setThread t th).col ca).q1 = (s.col ca).q1 := by rw [col_setThread]
@[simp] theorem col_setThread_q2 (s : State) (t : ThreadRef) (th : Thread) (ca : Nat) :
    ((s.setThread t th).col ca).q2 = (s.col ca).q2 := by rw [col_setThread]
@[simp] theorem col_setThread_q3 (s : State) (t : ThreadRef) (th : Thread) (ca : Nat) :
    ((s.setThread t th).col ca).q3 = (s.col ca).q3 := by rw [col_setThread]
@[simp] theorem col_setThread_inbox (s : State) (t : ThreadRef) (th : Thread) (ca : Nat) :
    ((s.setThread t th).col ca).inbox = (s.col ca).inbox := by rw [col_setThread]
@[simp] theorem col_setThread_replay (s : State) (t : ThreadRef) (th : Thread) (ca : Nat) :
    ((s.setThread t th).col ca).replay = (s.col ca).replay := by rw [col_setThread]
@[simp] theorem col_setThread_spill (s : State) (t : ThreadRef) (th : Thread) (ca : Nat) :
    ((s.setThread t th).col ca).spill = (s.col ca).spill := by rw [col_setThread]
@[simp] theorem col_setThread_dinbox (s : State) (t : ThreadRef) (th : Thread) (ca : Nat) :
    ((s.setThread t th).col ca).dinbox = (s.col ca).dinbox := by rw [col_setThread]
@[simp] theorem col_setThread_dreplay (s : State) (t : ThreadRef) (th : Thread) (ca : Nat) :
    ((s.setThread t th).col ca).dreplay = (s.col ca).dreplay := by rw [col_setThread]
@[simp] theorem col_setThread_dspill (s : State) (t : ThreadRef) (th : Thread) (ca : Nat) :
    ((s.setThread t th).col ca).dspill = (s.col ca).dspill := by rw [col_setThread]
@[simp] theorem col_setThread_fifo (s : State) (t : ThreadRef) (th : Thread) (ca : Nat) :
    ((s.setThread t th).col ca).fifo = (s.col ca).fifo := by rw [col_setThread]
@[simp] theorem col_setThread_pushes (s : State) (t : ThreadRef) (th : Thread) (ca : Nat) :
    ((s.setThread t th).col ca).pushes = (s.col ca).pushes := by rw [col_setThread]
@[simp] theorem col_setThread_acc (s : State) (t : ThreadRef) (th : Thread) (ca : Nat) :
    ((s.setThread t th).col ca).acc = (s.col ca).acc := by rw [col_setThread]
@[simp] theorem col_setThread_lease (s : State) (t : ThreadRef) (th : Thread) (ca : Nat) :
    ((s.setThread t th).col ca).lease = (s.col ca).lease := by rw [col_setThread]
@[simp] theorem col_setThread_lastLease (s : State) (t : ThreadRef) (th : Thread) (ca : Nat) :
    ((s.setThread t th).col ca).lastLease = (s.col ca).lastLease := by rw [col_setThread]
@[simp] theorem col_setThread_mrots (s : State) (t : ThreadRef) (th : Thread) (ca : Nat) :
    ((s.setThread t th).col ca).mrots = (s.col ca).mrots := by rw [col_setThread]
@[simp] theorem col_setThread_colls (s : State) (t : ThreadRef) (th : Thread) (ca : Nat) :
    ((s.setThread t th).col ca).colls = (s.col ca).colls := by rw [col_setThread]
@[simp] theorem col_setThread_pixels (s : State) (t : ThreadRef) (th : Thread) (ca : Nat) :
    ((s.setThread t th).col ca).pixels = (s.col ca).pixels := by rw [col_setThread]
@[simp] theorem col_setThread_calib (s : State) (t : ThreadRef) (th : Thread) (ca : Nat) :
    ((s.setThread t th).col ca).calib = (s.col ca).calib := by rw [col_setThread]
@[simp] theorem col_setThread_late (s : State) (t : ThreadRef) (th : Thread) (ca : Nat) :
    ((s.setThread t th).col ca).late = (s.col ca).late := by rw [col_setThread]
@[simp] theorem col_setThread_missed (s : State) (t : ThreadRef) (th : Thread) (ca : Nat) :
    ((s.setThread t th).col ca).missed = (s.col ca).missed := by rw [col_setThread]
@[simp] theorem col_setThread_lateCnt (s : State) (t : ThreadRef) (th : Thread) (ca : Nat) :
    ((s.setThread t th).col ca).lateCnt = (s.col ca).lateCnt := by rw [col_setThread]
@[simp] theorem col_setThread_missCnt (s : State) (t : ThreadRef) (th : Thread) (ca : Nat) :
    ((s.setThread t th).col ca).missCnt = (s.col ca).missCnt := by rw [col_setThread]
@[simp] theorem col_setThread_seqr (s : State) (t : ThreadRef) (th : Thread) (ca : Nat) :
    ((s.setThread t th).col ca).seqr = (s.col ca).seqr := by rw [col_setThread]
@[simp] theorem col_setThread_blend (s : State) (t : ThreadRef) (th : Thread) (ca : Nat) :
    ((s.setThread t th).col ca).blend = (s.col ca).blend := by rw [col_setThread]
@[simp] theorem col_setThread_filter (s : State) (t : ThreadRef) (th : Thread) (ca : Nat) :
    ((s.setThread t th).col ca).filter = (s.col ca).filter := by rw [col_setThread]
@[simp] theorem col_setThread_xcount (s : State) (t : ThreadRef) (th : Thread) (ca : Nat) :
    ((s.setThread t th).col ca).xcount = (s.col ca).xcount := by rw [col_setThread]
@[simp] theorem col_setThread_xopen (s : State) (t : ThreadRef) (th : Thread) (ca : Nat) :
    ((s.setThread t th).col ca).xopen = (s.col ca).xopen := by rw [col_setThread]
@[simp] theorem col_setThread_xt0 (s : State) (t : ThreadRef) (th : Thread) (ca : Nat) :
    ((s.setThread t th).col ca).xt0 = (s.col ca).xt0 := by rw [col_setThread]
@[simp] theorem col_setThread_xrecvd (s : State) (t : ThreadRef) (th : Thread) (ca : Nat) :
    ((s.setThread t th).col ca).xrecvd = (s.col ca).xrecvd := by rw [col_setThread]
@[simp] theorem col_setThread_xlanded (s : State) (t : ThreadRef) (th : Thread) (ca : Nat) :
    ((s.setThread t th).col ca).xlanded = (s.col ca).xlanded := by rw [col_setThread]
@[simp] theorem col_setThread_lastIssue (s : State) (t : ThreadRef) (th : Thread) (ca : Nat) :
    ((s.setThread t th).col ca).lastIssue = (s.col ca).lastIssue := by rw [col_setThread]

@[simp] theorem thread_setThread_same (s : State) (t : ThreadRef) (th : Thread) : (s.setThread t th).thread t = th := by
  simp [State.thread, tget_tset]

@[simp] theorem th_setThread_cur (s : State) (th : Thread) : (s.setThread s.cur th).th = th := thread_setThread_same _ _ _

theorem thread_setThread (s : State) (t u : ThreadRef) (th : Thread) :
    (s.setThread t th).thread u = if u = t then th else s.thread u := by
  by_cases h : u = t
  · subst h; simp
  · rw [if_neg h]
    by_cases hc : u.ca = t.ca
    · have hi : u.tid ≠ t.tid := fun hi => h (by cases u; cases t; simp_all)
      simp [State.thread, hc, tget_tset, hi]
    · simp [State.thread, col_setThread_other _ _ _ _ hc]

theorem thread_setThread_other (s : State) (t u : ThreadRef) (th : Thread) (h : u ≠ t) :
    (s.setThread t th).thread u = s.thread u := by simp [thread_setThread, h]

/-- Threads read from a column's table alone. -/
theorem thread_setCol (s : State) (ca : Nat) (c : Column) (u : ThreadRef) :
    (s.setCol ca c).thread u = if u.ca = ca then tget c.threads u.tid (Thread.resetAt u.tid) else s.thread u := by
  by_cases h : u.ca = ca <;> simp [State.thread, col_setCol, h]

/-- A column's update that leaves its threads leaves every thread. -/
@[simp] theorem thread_setCol_threads (s : State) (ca : Nat) (c : Column) (u : ThreadRef) (h : c.threads = (s.col ca).threads) :
    (s.setCol ca c).thread u = s.thread u := by
  by_cases hu : u.ca = ca
  · subst hu; simp [State.thread, h]
  · simp [State.thread, col_setCol_other _ _ _ _ hu]

theorem part_setPart (s : State) (p q : Nat) (x : Partition) :
    (s.setPart p x).part q = if q = p ∧ tmem s.parts p = true then x else s.part q := by
  unfold State.setPart State.part
  by_cases h : tmem s.parts p = true
  · simp [h, tget_tset]
  · simp [h]

theorem part_setPart_same (s : State) (p : Nat) (x : Partition) (h : tmem s.parts p = true) : (s.setPart p x).part p = x := by
  simp [part_setPart, h]

theorem part_setPart_other (s : State) (p q : Nat) (x : Partition) (h : q ≠ p) : (s.setPart p x).part q = s.part q := by
  simp [part_setPart, h]

@[simp] theorem col_setPart (s : State) (p ca : Nat) (x : Partition) : (s.setPart p x).col ca = s.col ca := by simp [State.col]
@[simp] theorem thread_setPart (s : State) (p : Nat) (x : Partition) (t : ThreadRef) : (s.setPart p x).thread t = s.thread t := by
  simp [State.thread]
@[simp] theorem part_setCol (s : State) (ca p : Nat) (c : Column) : (s.setCol ca c).part p = s.part p := rfl
@[simp] theorem part_setThread (s : State) (t : ThreadRef) (th : Thread) (p : Nat) : (s.setThread t th).part p = s.part p := rfl
@[simp] theorem partOf_setThread (s : State) (t u : ThreadRef) (th : Thread) : (s.setThread t th).partOf u = s.partOf u := by
  simp [State.partOf, State.presHolder]
@[simp] theorem pid_setThread (s : State) (t : ThreadRef) (th : Thread) : (s.setThread t th).pid = s.pid := by
  unfold State.pid; rw [setThread_cur, partOf_setThread]
@[simp] theorem curPart_setThread (s : State) (t : ThreadRef) (th : Thread) : (s.setThread t th).curPart = s.curPart := by
  simp [State.curPart]

@[simp] theorem setCol_setCol (s : State) (ca : Nat) (a b : Column) : (s.setCol ca a).setCol ca b = s.setCol ca b := by
  simp [State.setCol, tset_tset]
@[simp] theorem setThread_setThread (s : State) (t : ThreadRef) (a b : Thread) : (s.setThread t a).setThread t b = s.setThread t b := by
  show (s.setCol t.ca _).setCol t.ca _ = s.setCol t.ca _
  rw [setCol_setCol, col_setThread_same, tset_tset]

theorem fn_updFn (s : State) (n m : Nat) (f : HostFn → HostFn) : (s.updFn n f).fn m = if m = n then f (s.fn n) else s.fn m :=
  tget_tset _ _ _ _ _

@[simp] theorem fn_updFn_same (s : State) (n : Nat) (f : HostFn → HostFn) : (s.updFn n f).fn n = f (s.fn n) := by simp [fn_updFn]

/-! ### Registers read after they are written (R196, R197) -/

@[simp] theorem rs_zero (th : Thread) : th.rs 0 = 0 := rfl

theorem rs_ws (th : Thread) (d r : BitVec 5) (v : Word) : (th.ws d v).rs r = if r = d ∧ d ≠ 0 then v else th.rs r := by
  by_cases hd : d = 0
  · simp [Thread.ws, hd]
  · by_cases hr : r = 0
    · subst hr; rw [if_neg (fun h => hd h.1.symm)]; rfl
    · simp only [Thread.ws, if_neg hd, Thread.rs, if_neg hr, Vector.getElem_set]
      by_cases h : r = d
      · subst h; rw [if_pos rfl, if_pos ⟨rfl, hd⟩]
      · have hn : d.toNat ≠ r.toNat := fun e => h (BitVec.eq_of_toNat_eq e.symm)
        rw [if_neg hn, if_neg (fun e => h e.1)]

theorem bitAt_wp (m : BitVec 8) (d q : BitVec 3) (b : Bool) :
    (if b then m ||| (1#8 <<< d.toNat) else m &&& ~~~(1#8 <<< d.toNat)).getLsbD q.toNat
      = if q = d then b else m.getLsbD q.toNat := by
  have hq := q.isLt
  have h1 : (1#8 <<< d.toNat).getLsbD q.toNat = decide (q = d) := by
    have he : q = d ↔ q.toNat = d.toNat := BitVec.toNat_eq
    rw [BitVec.getLsbD_shiftLeft, BitVec.getLsbD_one]
    by_cases h : q = d
    · have := he.1 h; simp [h]; omega
    · have hn : q.toNat ≠ d.toNat := fun e => h (he.2 e)
      by_cases h2 : q.toNat < d.toNat
      · simp [h, h2]
      · have : q.toNat - d.toNat ≠ 0 := by omega
        simp [h, this]
  have hq8 : q.toNat < 8 := by omega
  by_cases h : q = d
  · rw [if_pos h]
    cases b
    · rw [if_neg Bool.false_ne_true, BitVec.getLsbD_and, BitVec.getLsbD_not, h1]; simp [h]
    · rw [if_pos rfl, BitVec.getLsbD_or, h1]; simp [h]
  · rw [if_neg h]
    cases b
    · rw [if_neg Bool.false_ne_true, BitVec.getLsbD_and, BitVec.getLsbD_not, h1]; simp [h, hq8]
    · rw [if_pos rfl, BitVec.getLsbD_or, h1]; simp [h]

theorem rp_wp (th : Thread) (d q : BitVec 3) (b : Bool) : (th.wp d b).rp q = if q = d ∧ d ≠ 0 then b else th.rp q := by
  by_cases hd : d = 0
  · simp [Thread.wp, hd]
  · by_cases hq : q = 0
    · subst hq; rw [if_neg (fun h => hd h.1.symm)]; rfl
    · simp only [Thread.wp, if_neg hd, Thread.rp]
      rw [bitAt_wp]
      have h0 : (q == 0) = false := beq_eq_false_iff_ne.2 hq
      rw [h0, Bool.false_or, Bool.false_or]
      by_cases h : q = d
      · rw [if_pos h, if_pos ⟨h, hd⟩]
      · rw [if_neg h, if_neg (fun e => h e.1)]
theorem rv_wv (th : Thread) (d r : BitVec 4) (i j : Nat) (x : Elem) :
    (th.wv d i x).rv r j = if r = d ∧ j = i ∧ i < 64 then x else th.rv r j := by
  show ((th.v.set d.toNat ((th.v[d.toNat]'(by omega)).setIfInBounds i x) (by omega))[r.toNat]'(by omega)).getD j 0 =
    if _ then x else (th.v[r.toNat]'(by omega)).getD j 0
  by_cases h : r = d
  · subst h
    rw [Vector.getElem_set_self]
    by_cases hj : j < 64
    · have hg : ∀ (w : Vector Elem 64), w.getD j 0 = w[j] := fun w => by simp [Vector.getD, hj]
      rw [hg, hg, Vector.getElem_setIfInBounds]
      by_cases hi : i = j
      · subst hi; rw [if_pos rfl, if_pos ⟨rfl, rfl, hj⟩]
      · rw [if_neg hi, if_neg (fun e => hi e.2.1.symm)]
    · have hg : ∀ (w : Vector Elem 64), w.getD j 0 = 0 := fun w => by simp [Vector.getD, hj]
      rw [hg, hg, if_neg (by omega)]
  · have hn : d.toNat ≠ r.toNat := fun e => h (BitVec.eq_of_toNat_eq e.symm)
    rw [Vector.getElem_set_ne _ _ hn, if_neg (fun e => h e.1)]

theorem rk_wk (th : Thread) (drv : Bool) (d r : BitVec 2) (m : Word) :
    (th.wk drv d m).rk drv r = if r = d ∧ d ≠ 0 then (if drv then m &&& 0xFFFF#64 else m) else th.rk drv r := by
  by_cases hd : d = 0
  · rw [if_neg (fun e => e.2 hd)]; simp [Thread.wk, hd]
  · by_cases hr : r = 0
    · subst hr; rw [if_neg (fun h => hd h.1.symm)]; rfl
    · unfold Thread.wk Thread.rk
      generalize (if drv = true then m &&& 0xFFFF#64 else m) = w
      simp only [if_neg hd, if_neg hr]
      by_cases h : r = d
      · subst h; exact (Vector.getElem_set_self _).trans (if_pos ⟨rfl, hd⟩).symm
      · have hn : d.toNat ≠ r.toNat := fun e => h (BitVec.eq_of_toNat_eq e.symm)
        exact (Vector.getElem_set_ne _ _ hn).trans (if_neg (fun e => h e.1)).symm

@[simp] theorem ws_run (th : Thread) (d : BitVec 5) (v : Word) : (th.ws d v).run = th.run := by
  unfold Thread.ws; split <;> rfl
@[simp] theorem ws_wait (th : Thread) (d : BitVec 5) (v : Word) : (th.ws d v).wait = th.wait := by
  unfold Thread.ws; split <;> rfl
@[simp] theorem ws_park (th : Thread) (d : BitVec 5) (v : Word) : (th.ws d v).park = th.park := by
  unfold Thread.ws; split <;> rfl
@[simp] theorem ws_pc (th : Thread) (d : BitVec 5) (v : Word) : (th.ws d v).pc = th.pc := by
  unfold Thread.ws; split <;> rfl
@[simp] theorem ws_ipc (th : Thread) (d : BitVec 5) (v : Word) : (th.ws d v).ipc = th.ipc := by
  unfold Thread.ws; split <;> rfl
@[simp] theorem ws_taken (th : Thread) (d : BitVec 5) (v : Word) : (th.ws d v).taken = th.taken := by
  unfold Thread.ws; split <;> rfl
@[simp] theorem ws_held (th : Thread) (d : BitVec 5) (v : Word) : (th.ws d v).held = th.held := by
  unfold Thread.ws; split <;> rfl
@[simp] theorem ws_p (th : Thread) (d : BitVec 5) (v : Word) : (th.ws d v).p = th.p := by
  unfold Thread.ws; split <;> rfl
@[simp] theorem ws_v (th : Thread) (d : BitVec 5) (v : Word) : (th.ws d v).v = th.v := by
  unfold Thread.ws; split <;> rfl
@[simp] theorem ws_k (th : Thread) (d : BitVec 5) (v : Word) : (th.ws d v).k = th.k := by
  unfold Thread.ws; split <;> rfl
@[simp] theorem ws_vl (th : Thread) (d : BitVec 5) (v : Word) : (th.ws d v).vl = th.vl := by
  unfold Thread.ws; split <;> rfl
@[simp] theorem ws_vrmode (th : Thread) (d : BitVec 5) (v : Word) : (th.ws d v).vrmode = th.vrmode := by
  unfold Thread.ws; split <;> rfl
@[simp] theorem ws_ctxcur (th : Thread) (d : BitVec 5) (v : Word) : (th.ws d v).ctxcur = th.ctxcur := by
  unfold Thread.ws; split <;> rfl
@[simp] theorem ws_tscur (th : Thread) (d : BitVec 5) (v : Word) : (th.ws d v).tscur = th.tscur := by
  unfold Thread.ws; split <;> rfl
@[simp] theorem ws_mfmta (th : Thread) (d : BitVec 5) (v : Word) : (th.ws d v).mfmta = th.mfmta := by
  unfold Thread.ws; split <;> rfl
@[simp] theorem ws_mfmtb (th : Thread) (d : BitVec 5) (v : Word) : (th.ws d v).mfmtb = th.mfmtb := by
  unfold Thread.ws; split <;> rfl
@[simp] theorem ws_mscla (th : Thread) (d : BitVec 5) (v : Word) : (th.ws d v).mscla = th.mscla := by
  unfold Thread.ws; split <;> rfl
@[simp] theorem ws_msclb (th : Thread) (d : BitVec 5) (v : Word) : (th.ws d v).msclb = th.msclb := by
  unfold Thread.ws; split <;> rfl
@[simp] theorem ws_mstra (th : Thread) (d : BitVec 5) (v : Word) : (th.ws d v).mstra = th.mstra := by
  unfold Thread.ws; split <;> rfl
@[simp] theorem ws_mstrb (th : Thread) (d : BitVec 5) (v : Word) : (th.ws d v).mstrb = th.mstrb := by
  unfold Thread.ws; split <;> rfl
@[simp] theorem ws_mpend (th : Thread) (d : BitVec 5) (v : Word) : (th.ws d v).mpend = th.mpend := by
  unfold Thread.ws; split <;> rfl
@[simp] theorem ws_mdone (th : Thread) (d : BitVec 5) (v : Word) : (th.ws d v).mdone = th.mdone := by
  unfold Thread.ws; split <;> rfl
@[simp] theorem ws_cstrs (th : Thread) (d : BitVec 5) (v : Word) : (th.ws d v).cstrs = th.cstrs := by
  unfold Thread.ws; split <;> rfl
@[simp] theorem ws_cstrd (th : Thread) (d : BitVec 5) (v : Word) : (th.ws d v).cstrd = th.cstrd := by
  unfold Thread.ws; split <;> rfl
@[simp] theorem ws_tcause (th : Thread) (d : BitVec 5) (v : Word) : (th.ws d v).tcause = th.tcause := by
  unfold Thread.ws; split <;> rfl
@[simp] theorem ws_taddr (th : Thread) (d : BitVec 5) (v : Word) : (th.ws d v).taddr = th.taddr := by
  unfold Thread.ws; split <;> rfl
@[simp] theorem ws_tpc (th : Thread) (d : BitVec 5) (v : Word) : (th.ws d v).tpc = th.tpc := by
  unfold Thread.ws; split <;> rfl
@[simp] theorem ws_tstat (th : Thread) (d : BitVec 5) (v : Word) : (th.ws d v).tstat = th.tstat := by
  unfold Thread.ws; split <;> rfl
@[simp] theorem ws_cntLd (th : Thread) (d : BitVec 5) (v : Word) : (th.ws d v).cntLd = th.cntLd := by
  unfold Thread.ws; split <;> rfl
@[simp] theorem ws_cntSt (th : Thread) (d : BitVec 5) (v : Word) : (th.ws d v).cntSt = th.cntSt := by
  unfold Thread.ws; split <;> rfl
@[simp] theorem ws_cntCp (th : Thread) (d : BitVec 5) (v : Word) : (th.ws d v).cntCp = th.cntCp := by
  unfold Thread.ws; split <;> rfl
@[simp] theorem ws_cntTl (th : Thread) (d : BitVec 5) (v : Word) : (th.ws d v).cntTl = th.cntTl := by
  unfold Thread.ws; split <;> rfl
@[simp] theorem ws_cntFx (th : Thread) (d : BitVec 5) (v : Word) : (th.ws d v).cntFx = th.cntFx := by
  unfold Thread.ws; split <;> rfl
@[simp] theorem ws_loops (th : Thread) (d : BitVec 5) (v : Word) : (th.ws d v).loops = th.loops := by
  unfold Thread.ws; split <;> rfl
@[simp] theorem ws_engFaults (th : Thread) (d : BitVec 5) (v : Word) : (th.ws d v).engFaults = th.engFaults := by
  unfold Thread.ws; split <;> rfl
@[simp] theorem ws_reissue (th : Thread) (d : BitVec 5) (v : Word) : (th.ws d v).reissue = th.reissue := by
  unfold Thread.ws; split <;> rfl
@[simp] theorem ws_ibuf (th : Thread) (d : BitVec 5) (v : Word) : (th.ws d v).ibuf = th.ibuf := by
  unfold Thread.ws; split <;> rfl
@[simp] theorem ws_laneReq (th : Thread) (d : BitVec 5) (v : Word) : (th.ws d v).laneReq = th.laneReq := by
  unfold Thread.ws; split <;> rfl
@[simp] theorem ws_laneHeld (th : Thread) (d : BitVec 5) (v : Word) : (th.ws d v).laneHeld = th.laneHeld := by
  unfold Thread.ws; split <;> rfl
@[simp] theorem ws_task (th : Thread) (d : BitVec 5) (v : Word) : (th.ws d v).task = th.task := by
  unfold Thread.ws; split <;> rfl
@[simp] theorem ws_tied (th : Thread) (d : BitVec 5) (v : Word) : (th.ws d v).tied = th.tied := by
  unfold Thread.ws; split <;> rfl
@[simp] theorem ws_resv (th : Thread) (d : BitVec 5) (v : Word) : (th.ws d v).resv = th.resv := by
  unfold Thread.ws; split <;> rfl
@[simp] theorem ws_phase (th : Thread) (d : BitVec 5) (v : Word) : (th.ws d v).phase = th.phase := by
  unfold Thread.ws; split <;> rfl
@[simp] theorem ws_sent (th : Thread) (d : BitVec 5) (v : Word) : (th.ws d v).sent = th.sent := by
  unfold Thread.ws; split <;> rfl
@[simp] theorem ws_since (th : Thread) (d : BitVec 5) (v : Word) : (th.ws d v).since = th.since := by
  unfold Thread.ws; split <;> rfl
@[simp] theorem ws_waited (th : Thread) (d : BitVec 5) (v : Word) : (th.ws d v).waited = th.waited := by
  unfold Thread.ws; split <;> rfl
@[simp] theorem ws_preReq (th : Thread) (d : BitVec 5) (v : Word) : (th.ws d v).preReq = th.preReq := by
  unfold Thread.ws; split <;> rfl
@[simp] theorem wp_run (th : Thread) (d : BitVec 3) (b : Bool) : (th.wp d b).run = th.run := by
  unfold Thread.wp; split <;> rfl
@[simp] theorem wp_wait (th : Thread) (d : BitVec 3) (b : Bool) : (th.wp d b).wait = th.wait := by
  unfold Thread.wp; split <;> rfl
@[simp] theorem wp_park (th : Thread) (d : BitVec 3) (b : Bool) : (th.wp d b).park = th.park := by
  unfold Thread.wp; split <;> rfl
@[simp] theorem wp_pc (th : Thread) (d : BitVec 3) (b : Bool) : (th.wp d b).pc = th.pc := by
  unfold Thread.wp; split <;> rfl
@[simp] theorem wp_ipc (th : Thread) (d : BitVec 3) (b : Bool) : (th.wp d b).ipc = th.ipc := by
  unfold Thread.wp; split <;> rfl
@[simp] theorem wp_taken (th : Thread) (d : BitVec 3) (b : Bool) : (th.wp d b).taken = th.taken := by
  unfold Thread.wp; split <;> rfl
@[simp] theorem wp_held (th : Thread) (d : BitVec 3) (b : Bool) : (th.wp d b).held = th.held := by
  unfold Thread.wp; split <;> rfl
@[simp] theorem wp_s (th : Thread) (d : BitVec 3) (b : Bool) : (th.wp d b).s = th.s := by
  unfold Thread.wp; split <;> rfl
@[simp] theorem wp_v (th : Thread) (d : BitVec 3) (b : Bool) : (th.wp d b).v = th.v := by
  unfold Thread.wp; split <;> rfl
@[simp] theorem wp_k (th : Thread) (d : BitVec 3) (b : Bool) : (th.wp d b).k = th.k := by
  unfold Thread.wp; split <;> rfl
@[simp] theorem wp_vl (th : Thread) (d : BitVec 3) (b : Bool) : (th.wp d b).vl = th.vl := by
  unfold Thread.wp; split <;> rfl
@[simp] theorem wp_vrmode (th : Thread) (d : BitVec 3) (b : Bool) : (th.wp d b).vrmode = th.vrmode := by
  unfold Thread.wp; split <;> rfl
@[simp] theorem wp_ctxcur (th : Thread) (d : BitVec 3) (b : Bool) : (th.wp d b).ctxcur = th.ctxcur := by
  unfold Thread.wp; split <;> rfl
@[simp] theorem wp_tscur (th : Thread) (d : BitVec 3) (b : Bool) : (th.wp d b).tscur = th.tscur := by
  unfold Thread.wp; split <;> rfl
@[simp] theorem wp_mfmta (th : Thread) (d : BitVec 3) (b : Bool) : (th.wp d b).mfmta = th.mfmta := by
  unfold Thread.wp; split <;> rfl
@[simp] theorem wp_mfmtb (th : Thread) (d : BitVec 3) (b : Bool) : (th.wp d b).mfmtb = th.mfmtb := by
  unfold Thread.wp; split <;> rfl
@[simp] theorem wp_mscla (th : Thread) (d : BitVec 3) (b : Bool) : (th.wp d b).mscla = th.mscla := by
  unfold Thread.wp; split <;> rfl
@[simp] theorem wp_msclb (th : Thread) (d : BitVec 3) (b : Bool) : (th.wp d b).msclb = th.msclb := by
  unfold Thread.wp; split <;> rfl
@[simp] theorem wp_mstra (th : Thread) (d : BitVec 3) (b : Bool) : (th.wp d b).mstra = th.mstra := by
  unfold Thread.wp; split <;> rfl
@[simp] theorem wp_mstrb (th : Thread) (d : BitVec 3) (b : Bool) : (th.wp d b).mstrb = th.mstrb := by
  unfold Thread.wp; split <;> rfl
@[simp] theorem wp_mpend (th : Thread) (d : BitVec 3) (b : Bool) : (th.wp d b).mpend = th.mpend := by
  unfold Thread.wp; split <;> rfl
@[simp] theorem wp_mdone (th : Thread) (d : BitVec 3) (b : Bool) : (th.wp d b).mdone = th.mdone := by
  unfold Thread.wp; split <;> rfl
@[simp] theorem wp_cstrs (th : Thread) (d : BitVec 3) (b : Bool) : (th.wp d b).cstrs = th.cstrs := by
  unfold Thread.wp; split <;> rfl
@[simp] theorem wp_cstrd (th : Thread) (d : BitVec 3) (b : Bool) : (th.wp d b).cstrd = th.cstrd := by
  unfold Thread.wp; split <;> rfl
@[simp] theorem wp_tcause (th : Thread) (d : BitVec 3) (b : Bool) : (th.wp d b).tcause = th.tcause := by
  unfold Thread.wp; split <;> rfl
@[simp] theorem wp_taddr (th : Thread) (d : BitVec 3) (b : Bool) : (th.wp d b).taddr = th.taddr := by
  unfold Thread.wp; split <;> rfl
@[simp] theorem wp_tpc (th : Thread) (d : BitVec 3) (b : Bool) : (th.wp d b).tpc = th.tpc := by
  unfold Thread.wp; split <;> rfl
@[simp] theorem wp_tstat (th : Thread) (d : BitVec 3) (b : Bool) : (th.wp d b).tstat = th.tstat := by
  unfold Thread.wp; split <;> rfl
@[simp] theorem wp_cntLd (th : Thread) (d : BitVec 3) (b : Bool) : (th.wp d b).cntLd = th.cntLd := by
  unfold Thread.wp; split <;> rfl
@[simp] theorem wp_cntSt (th : Thread) (d : BitVec 3) (b : Bool) : (th.wp d b).cntSt = th.cntSt := by
  unfold Thread.wp; split <;> rfl
@[simp] theorem wp_cntCp (th : Thread) (d : BitVec 3) (b : Bool) : (th.wp d b).cntCp = th.cntCp := by
  unfold Thread.wp; split <;> rfl
@[simp] theorem wp_cntTl (th : Thread) (d : BitVec 3) (b : Bool) : (th.wp d b).cntTl = th.cntTl := by
  unfold Thread.wp; split <;> rfl
@[simp] theorem wp_cntFx (th : Thread) (d : BitVec 3) (b : Bool) : (th.wp d b).cntFx = th.cntFx := by
  unfold Thread.wp; split <;> rfl
@[simp] theorem wp_loops (th : Thread) (d : BitVec 3) (b : Bool) : (th.wp d b).loops = th.loops := by
  unfold Thread.wp; split <;> rfl
@[simp] theorem wp_out (th : Thread) (d : BitVec 3) (b : Bool) : (th.wp d b).out = th.out := by
  unfold Thread.wp; split <;> rfl
@[simp] theorem wp_engFaults (th : Thread) (d : BitVec 3) (b : Bool) : (th.wp d b).engFaults = th.engFaults := by
  unfold Thread.wp; split <;> rfl
@[simp] theorem wp_reissue (th : Thread) (d : BitVec 3) (b : Bool) : (th.wp d b).reissue = th.reissue := by
  unfold Thread.wp; split <;> rfl
@[simp] theorem wp_ibuf (th : Thread) (d : BitVec 3) (b : Bool) : (th.wp d b).ibuf = th.ibuf := by
  unfold Thread.wp; split <;> rfl
@[simp] theorem wp_laneReq (th : Thread) (d : BitVec 3) (b : Bool) : (th.wp d b).laneReq = th.laneReq := by
  unfold Thread.wp; split <;> rfl
@[simp] theorem wp_laneHeld (th : Thread) (d : BitVec 3) (b : Bool) : (th.wp d b).laneHeld = th.laneHeld := by
  unfold Thread.wp; split <;> rfl
@[simp] theorem wp_task (th : Thread) (d : BitVec 3) (b : Bool) : (th.wp d b).task = th.task := by
  unfold Thread.wp; split <;> rfl
@[simp] theorem wp_tied (th : Thread) (d : BitVec 3) (b : Bool) : (th.wp d b).tied = th.tied := by
  unfold Thread.wp; split <;> rfl
@[simp] theorem wp_resv (th : Thread) (d : BitVec 3) (b : Bool) : (th.wp d b).resv = th.resv := by
  unfold Thread.wp; split <;> rfl
@[simp] theorem wp_phase (th : Thread) (d : BitVec 3) (b : Bool) : (th.wp d b).phase = th.phase := by
  unfold Thread.wp; split <;> rfl
@[simp] theorem wp_sent (th : Thread) (d : BitVec 3) (b : Bool) : (th.wp d b).sent = th.sent := by
  unfold Thread.wp; split <;> rfl
@[simp] theorem wp_since (th : Thread) (d : BitVec 3) (b : Bool) : (th.wp d b).since = th.since := by
  unfold Thread.wp; split <;> rfl
@[simp] theorem wp_waited (th : Thread) (d : BitVec 3) (b : Bool) : (th.wp d b).waited = th.waited := by
  unfold Thread.wp; split <;> rfl
@[simp] theorem wp_preReq (th : Thread) (d : BitVec 3) (b : Bool) : (th.wp d b).preReq = th.preReq := by
  unfold Thread.wp; split <;> rfl
@[simp] theorem wv_run (th : Thread) (d : BitVec 4) (i : Nat) (x : Elem) : (th.wv d i x).run = th.run := rfl
@[simp] theorem wv_wait (th : Thread) (d : BitVec 4) (i : Nat) (x : Elem) : (th.wv d i x).wait = th.wait := rfl
@[simp] theorem wv_park (th : Thread) (d : BitVec 4) (i : Nat) (x : Elem) : (th.wv d i x).park = th.park := rfl
@[simp] theorem wv_pc (th : Thread) (d : BitVec 4) (i : Nat) (x : Elem) : (th.wv d i x).pc = th.pc := rfl
@[simp] theorem wv_ipc (th : Thread) (d : BitVec 4) (i : Nat) (x : Elem) : (th.wv d i x).ipc = th.ipc := rfl
@[simp] theorem wv_taken (th : Thread) (d : BitVec 4) (i : Nat) (x : Elem) : (th.wv d i x).taken = th.taken := rfl
@[simp] theorem wv_held (th : Thread) (d : BitVec 4) (i : Nat) (x : Elem) : (th.wv d i x).held = th.held := rfl
@[simp] theorem wv_s (th : Thread) (d : BitVec 4) (i : Nat) (x : Elem) : (th.wv d i x).s = th.s := rfl
@[simp] theorem wv_p (th : Thread) (d : BitVec 4) (i : Nat) (x : Elem) : (th.wv d i x).p = th.p := rfl
@[simp] theorem wv_k (th : Thread) (d : BitVec 4) (i : Nat) (x : Elem) : (th.wv d i x).k = th.k := rfl
@[simp] theorem wv_vl (th : Thread) (d : BitVec 4) (i : Nat) (x : Elem) : (th.wv d i x).vl = th.vl := rfl
@[simp] theorem wv_vrmode (th : Thread) (d : BitVec 4) (i : Nat) (x : Elem) : (th.wv d i x).vrmode = th.vrmode := rfl
@[simp] theorem wv_ctxcur (th : Thread) (d : BitVec 4) (i : Nat) (x : Elem) : (th.wv d i x).ctxcur = th.ctxcur := rfl
@[simp] theorem wv_tscur (th : Thread) (d : BitVec 4) (i : Nat) (x : Elem) : (th.wv d i x).tscur = th.tscur := rfl
@[simp] theorem wv_mfmta (th : Thread) (d : BitVec 4) (i : Nat) (x : Elem) : (th.wv d i x).mfmta = th.mfmta := rfl
@[simp] theorem wv_mfmtb (th : Thread) (d : BitVec 4) (i : Nat) (x : Elem) : (th.wv d i x).mfmtb = th.mfmtb := rfl
@[simp] theorem wv_mscla (th : Thread) (d : BitVec 4) (i : Nat) (x : Elem) : (th.wv d i x).mscla = th.mscla := rfl
@[simp] theorem wv_msclb (th : Thread) (d : BitVec 4) (i : Nat) (x : Elem) : (th.wv d i x).msclb = th.msclb := rfl
@[simp] theorem wv_mstra (th : Thread) (d : BitVec 4) (i : Nat) (x : Elem) : (th.wv d i x).mstra = th.mstra := rfl
@[simp] theorem wv_mstrb (th : Thread) (d : BitVec 4) (i : Nat) (x : Elem) : (th.wv d i x).mstrb = th.mstrb := rfl
@[simp] theorem wv_mpend (th : Thread) (d : BitVec 4) (i : Nat) (x : Elem) : (th.wv d i x).mpend = th.mpend := rfl
@[simp] theorem wv_mdone (th : Thread) (d : BitVec 4) (i : Nat) (x : Elem) : (th.wv d i x).mdone = th.mdone := rfl
@[simp] theorem wv_cstrs (th : Thread) (d : BitVec 4) (i : Nat) (x : Elem) : (th.wv d i x).cstrs = th.cstrs := rfl
@[simp] theorem wv_cstrd (th : Thread) (d : BitVec 4) (i : Nat) (x : Elem) : (th.wv d i x).cstrd = th.cstrd := rfl
@[simp] theorem wv_tcause (th : Thread) (d : BitVec 4) (i : Nat) (x : Elem) : (th.wv d i x).tcause = th.tcause := rfl
@[simp] theorem wv_taddr (th : Thread) (d : BitVec 4) (i : Nat) (x : Elem) : (th.wv d i x).taddr = th.taddr := rfl
@[simp] theorem wv_tpc (th : Thread) (d : BitVec 4) (i : Nat) (x : Elem) : (th.wv d i x).tpc = th.tpc := rfl
@[simp] theorem wv_tstat (th : Thread) (d : BitVec 4) (i : Nat) (x : Elem) : (th.wv d i x).tstat = th.tstat := rfl
@[simp] theorem wv_cntLd (th : Thread) (d : BitVec 4) (i : Nat) (x : Elem) : (th.wv d i x).cntLd = th.cntLd := rfl
@[simp] theorem wv_cntSt (th : Thread) (d : BitVec 4) (i : Nat) (x : Elem) : (th.wv d i x).cntSt = th.cntSt := rfl
@[simp] theorem wv_cntCp (th : Thread) (d : BitVec 4) (i : Nat) (x : Elem) : (th.wv d i x).cntCp = th.cntCp := rfl
@[simp] theorem wv_cntTl (th : Thread) (d : BitVec 4) (i : Nat) (x : Elem) : (th.wv d i x).cntTl = th.cntTl := rfl
@[simp] theorem wv_cntFx (th : Thread) (d : BitVec 4) (i : Nat) (x : Elem) : (th.wv d i x).cntFx = th.cntFx := rfl
@[simp] theorem wv_loops (th : Thread) (d : BitVec 4) (i : Nat) (x : Elem) : (th.wv d i x).loops = th.loops := rfl
@[simp] theorem wv_engFaults (th : Thread) (d : BitVec 4) (i : Nat) (x : Elem) : (th.wv d i x).engFaults = th.engFaults := rfl
@[simp] theorem wv_reissue (th : Thread) (d : BitVec 4) (i : Nat) (x : Elem) : (th.wv d i x).reissue = th.reissue := rfl
@[simp] theorem wv_ibuf (th : Thread) (d : BitVec 4) (i : Nat) (x : Elem) : (th.wv d i x).ibuf = th.ibuf := rfl
@[simp] theorem wv_laneReq (th : Thread) (d : BitVec 4) (i : Nat) (x : Elem) : (th.wv d i x).laneReq = th.laneReq := rfl
@[simp] theorem wv_laneHeld (th : Thread) (d : BitVec 4) (i : Nat) (x : Elem) : (th.wv d i x).laneHeld = th.laneHeld := rfl
@[simp] theorem wv_task (th : Thread) (d : BitVec 4) (i : Nat) (x : Elem) : (th.wv d i x).task = th.task := rfl
@[simp] theorem wv_tied (th : Thread) (d : BitVec 4) (i : Nat) (x : Elem) : (th.wv d i x).tied = th.tied := rfl
@[simp] theorem wv_resv (th : Thread) (d : BitVec 4) (i : Nat) (x : Elem) : (th.wv d i x).resv = th.resv := rfl
@[simp] theorem wv_phase (th : Thread) (d : BitVec 4) (i : Nat) (x : Elem) : (th.wv d i x).phase = th.phase := rfl
@[simp] theorem wv_sent (th : Thread) (d : BitVec 4) (i : Nat) (x : Elem) : (th.wv d i x).sent = th.sent := rfl
@[simp] theorem wv_since (th : Thread) (d : BitVec 4) (i : Nat) (x : Elem) : (th.wv d i x).since = th.since := rfl
@[simp] theorem wv_waited (th : Thread) (d : BitVec 4) (i : Nat) (x : Elem) : (th.wv d i x).waited = th.waited := rfl
@[simp] theorem wv_preReq (th : Thread) (d : BitVec 4) (i : Nat) (x : Elem) : (th.wv d i x).preReq = th.preReq := rfl
@[simp] theorem wk_run (th : Thread) (drv : Bool) (e : BitVec 2) (m : Word) : (th.wk drv e m).run = th.run := by
  unfold Thread.wk; split <;> rfl
@[simp] theorem wk_wait (th : Thread) (drv : Bool) (e : BitVec 2) (m : Word) : (th.wk drv e m).wait = th.wait := by
  unfold Thread.wk; split <;> rfl
@[simp] theorem wk_park (th : Thread) (drv : Bool) (e : BitVec 2) (m : Word) : (th.wk drv e m).park = th.park := by
  unfold Thread.wk; split <;> rfl
@[simp] theorem wk_pc (th : Thread) (drv : Bool) (e : BitVec 2) (m : Word) : (th.wk drv e m).pc = th.pc := by
  unfold Thread.wk; split <;> rfl
@[simp] theorem wk_ipc (th : Thread) (drv : Bool) (e : BitVec 2) (m : Word) : (th.wk drv e m).ipc = th.ipc := by
  unfold Thread.wk; split <;> rfl
@[simp] theorem wk_taken (th : Thread) (drv : Bool) (e : BitVec 2) (m : Word) : (th.wk drv e m).taken = th.taken := by
  unfold Thread.wk; split <;> rfl
@[simp] theorem wk_held (th : Thread) (drv : Bool) (e : BitVec 2) (m : Word) : (th.wk drv e m).held = th.held := by
  unfold Thread.wk; split <;> rfl
@[simp] theorem wk_s (th : Thread) (drv : Bool) (e : BitVec 2) (m : Word) : (th.wk drv e m).s = th.s := by
  unfold Thread.wk; split <;> rfl
@[simp] theorem wk_p (th : Thread) (drv : Bool) (e : BitVec 2) (m : Word) : (th.wk drv e m).p = th.p := by
  unfold Thread.wk; split <;> rfl
@[simp] theorem wk_v (th : Thread) (drv : Bool) (e : BitVec 2) (m : Word) : (th.wk drv e m).v = th.v := by
  unfold Thread.wk; split <;> rfl
@[simp] theorem wk_vl (th : Thread) (drv : Bool) (e : BitVec 2) (m : Word) : (th.wk drv e m).vl = th.vl := by
  unfold Thread.wk; split <;> rfl
@[simp] theorem wk_vrmode (th : Thread) (drv : Bool) (e : BitVec 2) (m : Word) : (th.wk drv e m).vrmode = th.vrmode := by
  unfold Thread.wk; split <;> rfl
@[simp] theorem wk_ctxcur (th : Thread) (drv : Bool) (e : BitVec 2) (m : Word) : (th.wk drv e m).ctxcur = th.ctxcur := by
  unfold Thread.wk; split <;> rfl
@[simp] theorem wk_tscur (th : Thread) (drv : Bool) (e : BitVec 2) (m : Word) : (th.wk drv e m).tscur = th.tscur := by
  unfold Thread.wk; split <;> rfl
@[simp] theorem wk_mfmta (th : Thread) (drv : Bool) (e : BitVec 2) (m : Word) : (th.wk drv e m).mfmta = th.mfmta := by
  unfold Thread.wk; split <;> rfl
@[simp] theorem wk_mfmtb (th : Thread) (drv : Bool) (e : BitVec 2) (m : Word) : (th.wk drv e m).mfmtb = th.mfmtb := by
  unfold Thread.wk; split <;> rfl
@[simp] theorem wk_mscla (th : Thread) (drv : Bool) (e : BitVec 2) (m : Word) : (th.wk drv e m).mscla = th.mscla := by
  unfold Thread.wk; split <;> rfl
@[simp] theorem wk_msclb (th : Thread) (drv : Bool) (e : BitVec 2) (m : Word) : (th.wk drv e m).msclb = th.msclb := by
  unfold Thread.wk; split <;> rfl
@[simp] theorem wk_mstra (th : Thread) (drv : Bool) (e : BitVec 2) (m : Word) : (th.wk drv e m).mstra = th.mstra := by
  unfold Thread.wk; split <;> rfl
@[simp] theorem wk_mstrb (th : Thread) (drv : Bool) (e : BitVec 2) (m : Word) : (th.wk drv e m).mstrb = th.mstrb := by
  unfold Thread.wk; split <;> rfl
@[simp] theorem wk_mpend (th : Thread) (drv : Bool) (e : BitVec 2) (m : Word) : (th.wk drv e m).mpend = th.mpend := by
  unfold Thread.wk; split <;> rfl
@[simp] theorem wk_mdone (th : Thread) (drv : Bool) (e : BitVec 2) (m : Word) : (th.wk drv e m).mdone = th.mdone := by
  unfold Thread.wk; split <;> rfl
@[simp] theorem wk_cstrs (th : Thread) (drv : Bool) (e : BitVec 2) (m : Word) : (th.wk drv e m).cstrs = th.cstrs := by
  unfold Thread.wk; split <;> rfl
@[simp] theorem wk_cstrd (th : Thread) (drv : Bool) (e : BitVec 2) (m : Word) : (th.wk drv e m).cstrd = th.cstrd := by
  unfold Thread.wk; split <;> rfl
@[simp] theorem wk_tcause (th : Thread) (drv : Bool) (e : BitVec 2) (m : Word) : (th.wk drv e m).tcause = th.tcause := by
  unfold Thread.wk; split <;> rfl
@[simp] theorem wk_taddr (th : Thread) (drv : Bool) (e : BitVec 2) (m : Word) : (th.wk drv e m).taddr = th.taddr := by
  unfold Thread.wk; split <;> rfl
@[simp] theorem wk_tpc (th : Thread) (drv : Bool) (e : BitVec 2) (m : Word) : (th.wk drv e m).tpc = th.tpc := by
  unfold Thread.wk; split <;> rfl
@[simp] theorem wk_tstat (th : Thread) (drv : Bool) (e : BitVec 2) (m : Word) : (th.wk drv e m).tstat = th.tstat := by
  unfold Thread.wk; split <;> rfl
@[simp] theorem wk_cntLd (th : Thread) (drv : Bool) (e : BitVec 2) (m : Word) : (th.wk drv e m).cntLd = th.cntLd := by
  unfold Thread.wk; split <;> rfl
@[simp] theorem wk_cntSt (th : Thread) (drv : Bool) (e : BitVec 2) (m : Word) : (th.wk drv e m).cntSt = th.cntSt := by
  unfold Thread.wk; split <;> rfl
@[simp] theorem wk_cntCp (th : Thread) (drv : Bool) (e : BitVec 2) (m : Word) : (th.wk drv e m).cntCp = th.cntCp := by
  unfold Thread.wk; split <;> rfl
@[simp] theorem wk_cntTl (th : Thread) (drv : Bool) (e : BitVec 2) (m : Word) : (th.wk drv e m).cntTl = th.cntTl := by
  unfold Thread.wk; split <;> rfl
@[simp] theorem wk_cntFx (th : Thread) (drv : Bool) (e : BitVec 2) (m : Word) : (th.wk drv e m).cntFx = th.cntFx := by
  unfold Thread.wk; split <;> rfl
@[simp] theorem wk_loops (th : Thread) (drv : Bool) (e : BitVec 2) (m : Word) : (th.wk drv e m).loops = th.loops := by
  unfold Thread.wk; split <;> rfl
@[simp] theorem wk_out (th : Thread) (drv : Bool) (e : BitVec 2) (m : Word) : (th.wk drv e m).out = th.out := by
  unfold Thread.wk; split <;> rfl
@[simp] theorem wk_engFaults (th : Thread) (drv : Bool) (e : BitVec 2) (m : Word) : (th.wk drv e m).engFaults = th.engFaults := by
  unfold Thread.wk; split <;> rfl
@[simp] theorem wk_reissue (th : Thread) (drv : Bool) (e : BitVec 2) (m : Word) : (th.wk drv e m).reissue = th.reissue := by
  unfold Thread.wk; split <;> rfl
@[simp] theorem wk_ibuf (th : Thread) (drv : Bool) (e : BitVec 2) (m : Word) : (th.wk drv e m).ibuf = th.ibuf := by
  unfold Thread.wk; split <;> rfl
@[simp] theorem wk_laneReq (th : Thread) (drv : Bool) (e : BitVec 2) (m : Word) : (th.wk drv e m).laneReq = th.laneReq := by
  unfold Thread.wk; split <;> rfl
@[simp] theorem wk_laneHeld (th : Thread) (drv : Bool) (e : BitVec 2) (m : Word) : (th.wk drv e m).laneHeld = th.laneHeld := by
  unfold Thread.wk; split <;> rfl
@[simp] theorem wk_task (th : Thread) (drv : Bool) (e : BitVec 2) (m : Word) : (th.wk drv e m).task = th.task := by
  unfold Thread.wk; split <;> rfl
@[simp] theorem wk_tied (th : Thread) (drv : Bool) (e : BitVec 2) (m : Word) : (th.wk drv e m).tied = th.tied := by
  unfold Thread.wk; split <;> rfl
@[simp] theorem wk_resv (th : Thread) (drv : Bool) (e : BitVec 2) (m : Word) : (th.wk drv e m).resv = th.resv := by
  unfold Thread.wk; split <;> rfl
@[simp] theorem wk_phase (th : Thread) (drv : Bool) (e : BitVec 2) (m : Word) : (th.wk drv e m).phase = th.phase := by
  unfold Thread.wk; split <;> rfl
@[simp] theorem wk_sent (th : Thread) (drv : Bool) (e : BitVec 2) (m : Word) : (th.wk drv e m).sent = th.sent := by
  unfold Thread.wk; split <;> rfl
@[simp] theorem wk_since (th : Thread) (drv : Bool) (e : BitVec 2) (m : Word) : (th.wk drv e m).since = th.since := by
  unfold Thread.wk; split <;> rfl
@[simp] theorem wk_waited (th : Thread) (drv : Bool) (e : BitVec 2) (m : Word) : (th.wk drv e m).waited = th.waited := by
  unfold Thread.wk; split <;> rfl
@[simp] theorem wk_preReq (th : Thread) (drv : Bool) (e : BitVec 2) (m : Word) : (th.wk drv e m).preReq = th.preReq := by
  unfold Thread.wk; split <;> rfl

/-! ### The whole of a register write -/

theorem ws_out (th : Thread) (d : BitVec 5) (v : Word) :
    (th.ws d v).out = if d = 0 then th.out else dropDest (.s d) th.out := by unfold Thread.ws; split <;> rfl

theorem ws_frame (th : Thread) (d : BitVec 5) (v : Word) :
    th.ws d v = { th with s := (th.ws d v).s, out := (th.ws d v).out } := by unfold Thread.ws; split <;> rfl

theorem wp_frame (th : Thread) (d : BitVec 3) (b : Bool) : th.wp d b = { th with p := (th.wp d b).p } := by
  unfold Thread.wp; split <;> rfl

theorem wk_frame (th : Thread) (drv : Bool) (e : BitVec 2) (m : Word) : th.wk drv e m = { th with k := (th.wk drv e m).k } := by
  unfold Thread.wk; split <;> rfl

/-- The thread after elements of a vector register are written in turn. -/
def wvAll (d : BitVec 4) (f : Nat → Elem) (els : List Nat) (th : Thread) : Thread := els.foldl (fun t i => t.wv d i (f i)) th

theorem wvAll_frame (d : BitVec 4) (f : Nat → Elem) (els : List Nat) (th : Thread) :
    wvAll d f els th = { th with v := (wvAll d f els th).v, out := (wvAll d f els th).out } := by
  induction els generalizing th with
  | nil => rfl
  | cons i r ih => exact (ih (th.wv d i (f i))).trans rfl

theorem wvAll_out (d : BitVec 4) (f : Nat → Elem) (els : List Nat) (th : Thread) :
    (wvAll d f els th).out = els.foldl (fun out i => dropDest (.v d i) out) th.out := by
  induction els generalizing th with
  | nil => rfl
  | cons i r ih => exact (ih (th.wv d i (f i))).trans rfl

theorem wvAll_rv_other (d r : BitVec 4) (f : Nat → Elem) (els : List Nat) (th : Thread) (h : r ≠ d) (i : Nat) :
    (wvAll d f els th).rv r i = th.rv r i := by
  induction els generalizing th with
  | nil => rfl
  | cons j l ih => exact (ih (th.wv d j (f j))).trans ((rv_wv th d r j i (f j)).trans (if_neg fun e => h e.1))

theorem wvAll_rv (d : BitVec 4) (f : Nat → Elem) (els : List Nat) (th : Thread) (i : Nat) (hi : i < 64) :
    (wvAll d f els th).rv d i = if i ∈ els then f i else th.rv d i := by
  induction els generalizing th with
  | nil => simp [wvAll]
  | cons j l ih =>
    refine (ih (th.wv d j (f j))).trans ?_
    rw [rv_wv]
    by_cases h : i = j
    · subst h; simp [hi]
    · simp [h]

theorem wvs_eq (s : State) (d : BitVec 4) (els : List Nat) (f : Nat → Elem) :
    s.wvs d els f = s.setThread s.cur (wvAll d f els s.th) := rfl

/-! ### Memory after a thread, a predicate or a register changes -/

theorem SameMemory.refl (s : State) : SameMemory s s := ⟨fun _ => rfl, fun _ => rfl, fun _ _ => rfl, fun _ _ => rfl, fun _ _ _ => rfl⟩

theorem SameMemory.trans {s t u : State} (h : SameMemory s t) (k : SameMemory t u) : SameMemory s u :=
  ⟨fun a => (k.cellar a).trans (h.cellar a), fun a => (k.host a).trans (h.host a),
   fun c o => (k.scratch c o).trans (h.scratch c o), fun c o => (k.drive c o).trans (h.drive c o),
   fun p g v => (k.contexts p g v).trans (h.contexts p g v)⟩

/-- Memory reads from the cellar and its poison, host memory, the partitions and the columns' scratch alone. -/
theorem sameMemory_of {s t : State} (hc : t.cellar = s.cellar) (hh : t.hostMem = s.hostMem) (hp : t.parts = s.parts)
    (hb : t.poison = s.poison)
    (hs : ∀ ca, (t.col ca).home = (s.col ca).home ∧ (t.col ca).loft = (s.col ca).loft ∧ (t.col ca).drive = (s.col ca).drive) :
    SameMemory s t := by
  have hpart : ∀ p, t.part p = s.part p := fun p => by simp [State.part, hp]
  have he : t.bad = s.bad := funext fun l => by simp [State.bad, State.tainted, hb]
  have hw : ∀ r va, t.walk r va = s.walk r va := fun r va => by simp [State.walk, hc, he]
  have ht : ∀ p va, t.translate p va = s.translate p va := fun p va => by
    simp only [State.translate, State.aliasOf, State.mapsTo, hpart, hw]
  have hr : ∀ p b w, t.readBase p b w = s.readBase p b w := fun p b w => by cases b <;> simp [State.readBase, hc, hh, hpart]
  refine ⟨fun a => by rw [hc], fun a => by rw [hh], fun ca off => ?_, fun ca off => ?_, fun p tag va => ?_⟩
  · simp [State.scratchByte, Column.scratchRead, (hs ca).1, (hs ca).2.1]
  · simp [State.driveByte, (hs ca).2.2]
  · simp only [State.byteAt, ht, State.readXlat, hpart, hr]

theorem sameMemory_setThread (s : State) (t : ThreadRef) (th : Thread) : SameMemory s (s.setThread t th) :=
  sameMemory_of rfl rfl rfl rfl fun ca => by simp

/-! ### Register writes as wholes -/

theorem scalarWrite_ws (s : State) (d : BitVec 5) (v : Word) : ScalarWrite s (s.ws d v) d v where
  result := by
    show (s.setThread s.cur (s.th.ws d v)).th.rs d = _
    rw [th_setThread_cur, rs_ws]
    by_cases h : d = 0
    · rw [if_neg (fun e => e.2 h), if_pos h, h]; rfl
    · rw [if_pos ⟨rfl, h⟩, if_neg h]
  registers r h := by
    show (s.setThread s.cur (s.th.ws d v)).th.rs r = s.th.rs r
    rw [th_setThread_cur, rs_ws, if_neg (fun e => h e.1)]
  accesses := by
    show (s.setThread s.cur (s.th.ws d v)).th.out = _
    rw [th_setThread_cur, ws_out]
  else_ := by
    show s.setThread s.cur (s.th.ws d v) = s.setThread s.cur { s.th with
      s := (s.setThread s.cur (s.th.ws d v)).th.s, out := (s.setThread s.cur (s.th.ws d v)).th.out }
    rw [th_setThread_cur]; exact congrArg _ (ws_frame _ _ _)
  memory := sameMemory_setThread _ _ _

theorem predWrite_wp (s : State) (q : BitVec 3) (b : Bool) : PredWrite s (s.wp q b) q b where
  result := by
    show (s.setThread s.cur (s.th.wp q b)).th.rp q = _
    rw [th_setThread_cur, rp_wp]
    by_cases h : q = 0
    · rw [if_neg (fun e => e.2 h), h]; rfl
    · rw [if_pos ⟨rfl, h⟩, beq_eq_false_iff_ne.2 h, Bool.false_or]
  registers r h := by
    show (s.setThread s.cur (s.th.wp q b)).th.rp r = s.th.rp r
    rw [th_setThread_cur, rp_wp, if_neg (fun e => h e.1)]
  else_ := by
    show s.setThread s.cur (s.th.wp q b) = s.setThread s.cur { s.th with p := (s.setThread s.cur (s.th.wp q b)).th.p }
    rw [th_setThread_cur]; exact congrArg _ (wp_frame _ _ _)
  memory := sameMemory_setThread _ _ _

theorem vectorWrite_wvs (s : State) (d : BitVec 4) (els : List Nat) (f : Nat → Elem) :
    VectorWrite s (s.wvs d els f) d els f where
  result i hi := by
    show (s.setThread s.cur (wvAll d f els s.th)).th.rv d i = if i ∈ els then f i else s.th.rv d i
    rw [th_setThread_cur, wvAll_rv _ _ _ _ _ hi]
  registers r h i := by
    show (s.setThread s.cur (wvAll d f els s.th)).th.rv r i = s.th.rv r i
    rw [th_setThread_cur, wvAll_rv_other _ _ _ _ _ h]
  accesses := by
    show (s.setThread s.cur (wvAll d f els s.th)).th.out = _
    rw [th_setThread_cur, wvAll_out]
  else_ := by
    show s.setThread s.cur (wvAll d f els s.th) = s.setThread s.cur { s.th with
      v := (s.setThread s.cur (wvAll d f els s.th)).th.v, out := (s.setThread s.cur (wvAll d f els s.th)).th.out }
    rw [th_setThread_cur]; exact congrArg _ (wvAll_frame _ _ _ _)
  memory := sameMemory_setThread _ _ _

theorem maskWrite_wk (s : State) (e : BitVec 2) (m : Word) : MaskWrite s (s.wk e m) e m where
  result := by
    show (s.setThread s.cur (s.th.wk (isDrive s.cur) e m)).th.rk (isDrive s.cur) e = _
    rw [th_setThread_cur, rk_wk]
    by_cases h : e = 0
    · rw [if_neg (fun x => x.2 h), if_pos h, h]; rfl
    · rw [if_pos ⟨rfl, h⟩, if_neg h]
  registers r h := by
    show (s.setThread s.cur (s.th.wk (isDrive s.cur) e m)).th.rk (isDrive s.cur) r = s.th.rk (isDrive s.cur) r
    rw [th_setThread_cur, rk_wk, if_neg (fun x => h x.1)]
  else_ := by
    show s.setThread s.cur (s.th.wk (isDrive s.cur) e m) = s.setThread s.cur { s.th with
      k := (s.setThread s.cur (s.th.wk (isDrive s.cur) e m)).th.k }
    rw [th_setThread_cur]; exact congrArg _ (wk_frame _ _ _ _)
  memory := sameMemory_setThread _ _ _

theorem threadBecomes (s : State) (th : Thread) : ThreadBecomes s (s.setThread s.cur th) th :=
  ⟨th_setThread_cur s th, rfl, sameMemory_setThread _ _ _⟩

/-! ### Issue -/

theorem issueAs_runs {i : Instr} {s : State} {f : State → State} (h : Runs i s) : issueAs i s f = .next (f s) := by
  simp [issueAs, h.1, h.2.1, h.2.2]

theorem issueAs_skips {i : Instr} {s : State} {f : State → State} (ht : threadOk s.cur = true) (hd : decodeTrap i s = none)
    (hg : s.guardTrue i.guard = false) : issueAs i s f = .next s := by simp [issueAs, ht, hd, hg]

theorem issueAs_traps {i : Instr} {s : State} {f : State → State} {c : Cause} (ht : threadOk s.cur = true)
    (hd : decodeTrap i s = some c) : issueAs i s f = .next (s.trap c) := by simp [issueAs, ht, hd]

theorem issueAs_bad {i : Instr} {s : State} {f : State → State} (ht : threadOk s.cur = false) :
    issueAs i s f = .fault .noSuchThread := by simp [issueAs, ht]

/-- An encoded instruction goes on, traps at its decode, is skipped under a false guard, or has no thread to issue it. -/
theorem issueAs_cases (i : Instr) (s : State) (f : State → State) :
    issueAs i s f = .next (f s) ∨ (∃ c, issueAs i s f = .next (s.trap c)) ∨ issueAs i s f = .next s ∨
      issueAs i s f = .fault .noSuchThread := by
  unfold issueAs
  split
  · split
    · exact .inr (.inl ⟨_, rfl⟩)
    · split
      · exact .inl rfl
      · exact .inr (.inr (.inl rfl))
  · exact .inr (.inr (.inr rfl))

/-- The guard of an instruction that carries none. -/
@[simp] theorem guardTrue_always (s : State) : s.guardTrue ⟨0, false⟩ = true := rfl

/-! ### Completion of register instructions -/

theorem completes_of {i : Instr} {s t : State} {f : State → State} {P : State → Prop} (hr : Runs i s)
    (he : exec i s = issueAs i s f) (hf : f s = t) (h : P t) : Completes i s P := ⟨t, by rw [he, issueAs_runs hr, hf], h⟩

theorem completes_scalar {i : Instr} {s : State} {f : State → State} {d : BitVec 5} {v : Word} (hr : Runs i s)
    (he : exec i s = issueAs i s f) (hf : f s = s.ws d v) : Completes i s fun t => ScalarWrite s t d v :=
  completes_of hr he hf (scalarWrite_ws s d v)

theorem completes_pred {i : Instr} {s : State} {f : State → State} {q : BitVec 3} {b : Bool} (hr : Runs i s)
    (he : exec i s = issueAs i s f) (hf : f s = s.wp q b) : Completes i s fun t => PredWrite s t q b :=
  completes_of hr he hf (predWrite_wp s q b)

theorem completes_vector {i : Instr} {s : State} {f : State → State} {d : BitVec 4} {els : List Nat} {g : Nat → Elem}
    (hr : Runs i s) (he : exec i s = issueAs i s f) (hf : f s = s.wvs d els g) :
    Completes i s fun t => VectorWrite s t d els g := completes_of hr he hf (vectorWrite_wvs s d els g)

theorem completes_mask {i : Instr} {s : State} {f : State → State} {e : BitVec 2} {m : Word} (hr : Runs i s)
    (he : exec i s = issueAs i s f) (hf : f s = s.wk e m) : Completes i s fun t => MaskWrite s t e m :=
  completes_of hr he hf (maskWrite_wk s e m)

theorem completes_thread {i : Instr} {s : State} {f : State → State} {th : Thread} (hr : Runs i s)
    (he : exec i s = issueAs i s f) (hf : f s = s.setThread s.cur th) : Completes i s fun t => ThreadBecomes s t th :=
  completes_of hr he hf (threadBecomes s th)

/-! ### Page tables (R436): a table with one present entry -/

/-- A byte that is not listed. -/
theorem mget_away {m : Mem} {a : Nat} (h : ∀ c ∈ m, c.1 ≠ a) : mget m a = unlisted := by
  induction m with
  | nil => rfl
  | cons c r ih =>
    rw [show mget (c :: r) a = if c.1 = a then c.2 else mget r a from rfl, if_neg (h c (by simp))]
    exact ih fun x hx => h x (by simp [hx])

/-- An aligned word with no listed byte reads as zero. -/
theorem read64_away {m : Mem} {a : Nat} (h : ∀ c ∈ m, c.1 < a ∨ a + 8 ≤ c.1) : read64 m a = 0 := by
  have g (i : Nat) (hi : i < 8) : mget m (a + i) = 0 := mget_away fun c hc => by have := h c hc; omega
  have g0 := g 0 (by decide)
  simp only [Nat.add_zero] at g0
  simp [read64, mread, leNat, Nat.add_assoc, g0, g 1, g 2, g 3, g 4, g 5, g 6, g 7]

/-- A list of pieces of which one alone is not empty. -/
theorem flatMap_one {α : Type} {l : List Nat} {f : Nat → List α} {k : Nat} (hl : l.Nodup) (hk : k ∈ l)
    (h : ∀ i ∈ l, i ≠ k → f i = []) : l.flatMap f = f k := by
  induction l with
  | nil => cases hk
  | cons x r ih =>
    obtain ⟨hx, hr⟩ := List.nodup_cons.mp hl
    rw [List.flatMap_cons]
    by_cases e : x = k
    · subst e
      have : r.flatMap f = [] := by
        rw [List.flatMap_eq_nil_iff]
        exact fun i hi => h i (by simp [hi]) fun e => hx (e ▸ hi)
      rw [this, List.append_nil]
    · rw [h x (by simp) e, List.nil_append]
      exact ih hr (by simpa [Ne.symm e] using hk) fun i hi => h i (by simp [hi])

theorem mem_entriesOf {lo n k : Nat} (h : k < 252) (hn : k < 2 ^ n) : k ∈ entriesOf lo n := by
  unfold entriesOf upto
  rw [List.mem_range]
  split
  · exact h
  · exact hn

theorem entriesOf_nodup (lo n : Nat) : (entriesOf lo n).Nodup := List.nodup_range

/-- A table with one present entry: the leaves below it are those below that entry. -/
theorem leavesFrom_one {s : State} {lo n t va k : Nat} {rest : List (Nat × Nat)} {l : List MapLeaf} (hk : k ∈ entriesOf lo n)
    (h : ∀ i ∈ entriesOf lo n, i ≠ k → read64 s.cellar (t + 8 * i) = 0)
    (hl : (let e := read64 s.cellar (t + 8 * k)
      match leafAt lo e, tableOf lo e with
      | some x, _ => [⟨t + 8 * k, va + k * 2 ^ lo, 2 ^ lo, x⟩]
      | none, some t' => s.leavesFrom rest t' (va + k * 2 ^ lo)
      | none, none => []) = l) : s.leavesFrom ((lo, n) :: rest) t va = l := by
  rw [← hl]
  exact flatMap_one (entriesOf_nodup lo n) hk fun i hi hne => by
    simp [h i hi hne, leafAt, tableOf, bitsOf]

/-- The same for the tables. -/
theorem tablesFrom_one {s : State} {lo n t k : Nat} {rest : List (Nat × Nat)} {l : List Nat} (hk : k ∈ entriesOf lo n)
    (h : ∀ i ∈ entriesOf lo n, i ≠ k → read64 s.cellar (t + 8 * i) = 0)
    (hl : (match tableOf lo (read64 s.cellar (t + 8 * k)) with
      | some t' => s.tablesFrom rest t'
      | none => []) = l) :
    s.tablesFrom ((lo, n) :: rest) t = t :: l := by
  rw [← hl]
  exact congrArg (t :: ·) (flatMap_one (entriesOf_nodup lo n) hk fun i hi hne => by
    simp [h i hi hne, tableOf, bitsOf])

/-- Where the tables map nothing, the image's frames alone are mapped memory. -/
theorem mapped_of_blank {s : State} {p : Nat} (h : s.leaves p = []) : s.mappedBytes p = (s.part p).mapped := by
  simp [State.mappedBytes, State.cellarLeaves, h, totalSize]

theorem entriesOf_lt {lo n i : Nat} (hn : n ≤ 9) (h : i ∈ entriesOf lo n) : i < 512 := by
  have h := List.mem_range.mp h
  have : 2 ^ n ≤ 2 ^ 9 := Nat.pow_le_pow_right (by decide) hn
  split at h <;> omega

/-! ### Poison -/

theorem mem_cleanAt (s : State) (x : Place) (e : Poison) : e ∈ (s.cleanAt x).poison ↔ e ∈ s.poison ∧ e.at_ ≠ x := by
  simp [State.cleanAt, List.mem_filter]

theorem mem_taintAt (s : State) (ca unit : Nat) (x : Place) (e : Poison) :
    e ∈ (s.taintAt ca unit x).poison ↔ (e ∈ s.poison ∧ e.at_ ≠ x) ∨ e = ⟨x, unit, ca⟩ := by
  simp [State.taintAt, List.mem_filter]

theorem tainted_iff (s : State) (x : Place) : s.tainted x = true ↔ ∃ e ∈ s.poison, e.at_ = x := by
  simp [State.tainted, List.any_eq_true]

@[simp] theorem cleanAt_cur (s : State) (x : Place) : (s.cleanAt x).cur = s.cur := rfl
@[simp] theorem taintAt_cur (s : State) (ca unit : Nat) (x : Place) : (s.taintAt ca unit x).cur = s.cur := rfl
@[simp] theorem cleanAt_freeCtr (s : State) (x : Place) : (s.cleanAt x).freeCtr = s.freeCtr := rfl
@[simp] theorem taintAt_freeCtr (s : State) (ca unit : Nat) (x : Place) : (s.taintAt ca unit x).freeCtr = s.freeCtr := rfl
@[simp] theorem cleanAt_nextId (s : State) (x : Place) : (s.cleanAt x).nextId = s.nextId := rfl
@[simp] theorem taintAt_nextId (s : State) (ca unit : Nat) (x : Place) : (s.taintAt ca unit x).nextId = s.nextId := rfl
@[simp] theorem cleanAt_almanac (s : State) (x : Place) : (s.cleanAt x).almanac = s.almanac := rfl
@[simp] theorem taintAt_almanac (s : State) (ca unit : Nat) (x : Place) : (s.taintAt ca unit x).almanac = s.almanac := rfl
@[simp] theorem cleanAt_cols (s : State) (x : Place) : (s.cleanAt x).cols = s.cols := rfl
@[simp] theorem taintAt_cols (s : State) (ca unit : Nat) (x : Place) : (s.taintAt ca unit x).cols = s.cols := rfl
@[simp] theorem cleanAt_parts (s : State) (x : Place) : (s.cleanAt x).parts = s.parts := rfl
@[simp] theorem taintAt_parts (s : State) (ca unit : Nat) (x : Place) : (s.taintAt ca unit x).parts = s.parts := rfl
@[simp] theorem cleanAt_saved (s : State) (x : Place) : (s.cleanAt x).saved = s.saved := rfl
@[simp] theorem taintAt_saved (s : State) (ca unit : Nat) (x : Place) : (s.taintAt ca unit x).saved = s.saved := rfl
@[simp] theorem cleanAt_cellar (s : State) (x : Place) : (s.cleanAt x).cellar = s.cellar := rfl
@[simp] theorem taintAt_cellar (s : State) (ca unit : Nat) (x : Place) : (s.taintAt ca unit x).cellar = s.cellar := rfl
@[simp] theorem cleanAt_hostMem (s : State) (x : Place) : (s.cleanAt x).hostMem = s.hostMem := rfl
@[simp] theorem taintAt_hostMem (s : State) (ca unit : Nat) (x : Place) : (s.taintAt ca unit x).hostMem = s.hostMem := rfl
@[simp] theorem cleanAt_fns (s : State) (x : Place) : (s.cleanAt x).fns = s.fns := rfl
@[simp] theorem taintAt_fns (s : State) (ca unit : Nat) (x : Place) : (s.taintAt ca unit x).fns = s.fns := rfl
@[simp] theorem cleanAt_links (s : State) (x : Place) : (s.cleanAt x).links = s.links := rfl
@[simp] theorem taintAt_links (s : State) (ca unit : Nat) (x : Place) : (s.taintAt ca unit x).links = s.links := rfl
@[simp] theorem cleanAt_net (s : State) (x : Place) : (s.cleanAt x).net = s.net := rfl
@[simp] theorem taintAt_net (s : State) (ca unit : Nat) (x : Place) : (s.taintAt ca unit x).net = s.net := rfl
@[simp] theorem cleanAt_xfers (s : State) (x : Place) : (s.cleanAt x).xfers = s.xfers := rfl
@[simp] theorem taintAt_xfers (s : State) (ca unit : Nat) (x : Place) : (s.taintAt ca unit x).xfers = s.xfers := rfl
@[simp] theorem cleanAt_cmds (s : State) (x : Place) : (s.cleanAt x).cmds = s.cmds := rfl
@[simp] theorem taintAt_cmds (s : State) (ca unit : Nat) (x : Place) : (s.taintAt ca unit x).cmds = s.cmds := rfl
@[simp] theorem cleanAt_locks (s : State) (x : Place) : (s.cleanAt x).locks = s.locks := rfl
@[simp] theorem taintAt_locks (s : State) (ca unit : Nat) (x : Place) : (s.taintAt ca unit x).locks = s.locks := rfl
@[simp] theorem cleanAt_boot (s : State) (x : Place) : (s.cleanAt x).boot = s.boot := rfl
@[simp] theorem taintAt_boot (s : State) (ca unit : Nat) (x : Place) : (s.taintAt ca unit x).boot = s.boot := rfl

end Sys2Proof.Machine
end

