-- ==== Sys2Proof/Laws/Access.lean ====
section
/-! SUPPORT. What the issuing core's checks admit, and what issuing an access does; memory after a change that touches none of it. -/

set_option Elab.async false

namespace Sys2Proof.Machine

/-! ### Memory after changes elsewhere -/

/-- The fields of a partition that memory reads from. -/
structure Partition.SameMemory (p q : Partition) : Prop where
  root : q.root = p.root
  fwPages : q.fwPages = p.fwPages
  launch : q.launch.isSome = p.launch.isSome
  argBlock : q.argBlock = p.argBlock
  slots : q.slots = p.slots
  cells : q.cells = p.cells
  tags : q.tags = p.tags
  refused : q.refused = p.refused

theorem Partition.SameMemory.refl (p : Partition) : p.SameMemory p := ⟨rfl, rfl, rfl, rfl, rfl, rfl, rfl, rfl⟩

theorem viewCell_same {p q : Partition} (h : p.SameMemory q) (line : Nat) :
    ∀ (n : Nat) (tag : BitVec 12), q.viewCell line n tag = p.viewCell line n tag
  | 0, _ => rfl
  | n + 1, tag => by
    simp only [Partition.viewCell, Partition.cellAt, Partition.tag, h.cells, h.tags, viewCell_same h line n]

/-- Memory reads from the cellar, host memory, a partition's translation and cells, and the columns' scratch alone. -/
theorem sameMemory_parts {s t : State} (hc : t.cellar = s.cellar) (hh : t.hostMem = s.hostMem)
    (hq : t.poison = s.poison) (hp : ∀ p, (s.part p).SameMemory (t.part p))
    (hs : ∀ ca, (t.col ca).home = (s.col ca).home ∧ (t.col ca).loft = (s.col ca).loft ∧ (t.col ca).drive = (s.col ca).drive) :
    SameMemory s t := by
  have he : t.bad = s.bad := funext fun l => by simp [State.bad, State.tainted, hq]
  have hw : ∀ r va, t.walk r va = s.walk r va := fun r va => by simp [State.walk, hc, he]
  have ht : ∀ p va, t.translate p va = s.translate p va := fun p va => by
    simp only [State.translate, State.aliasOf, State.mapsTo, (hp p).root, (hp p).fwPages, (hp p).launch, (hp p).refused, hw]
  have hb : ∀ p b w, t.readBase p b w = s.readBase p b w := fun p b w => by
    cases b <;> simp [State.readBase, Partition.slotAt, hc, hh, (hp p).argBlock, (hp p).slots]
  refine ⟨fun a => by rw [hc], fun a => by rw [hh], fun ca off => ?_, fun ca off => ?_, fun p tag va => ?_⟩
  · simp [State.scratchByte, Column.scratchRead, (hs ca).1, (hs ca).2.1]
  · simp [State.driveByte, (hs ca).2.2]
  · simp only [State.byteAt, ht, State.readXlat, viewCell_same (hp p), hb]

/-! ### The issuing core's checks (R231) -/

/-- Where no trap holds an access back. -/
theorem accessCheck_none {s : State} {addr w align : Nat} (h : s.reaches addr w align) (hw : 0 < w) :
    s.accessCheck s.cur addr w align = none := by
  obtain ⟨h1, h2, h3, h4, h5⟩ := h
  have hb : addrBad addr w = false := by
    unfold addrBad
    rw [decide_eq_false (by omega), decide_eq_false (by omega)]
    by_cases hr : inRemote addr
    · obtain ⟨a, b, -⟩ := h4 hr
      simp [a, b]
    · simp [hr]
  have hm : misBad addr w align = false := by simp [misBad, h3]; omega
  have ha : s.absentBad s.cur addr w = false := by
    unfold State.absentBad
    by_cases hi : inScratch addr
    · by_cases hr : inRemote addr
      · obtain ⟨-, -, c, d, e, -⟩ := h4 hr
        simp [hi, hr, c, d, e]
      · have hh : Config.homeBase ≤ addr := by simp [inRemote, inScratch] at hr hi; omega
        have := h5 hh
        by_cases hd : isDrive s.cur
        · rw [if_pos hd] at this; simp [hi, hr, hd]; omega
        · rw [if_neg hd] at this; simp only [State.here] at this; simp [hi, hr, hd, this]
    · simp [hi]
  have hp : s.remoteBad s.cur addr = false := by
    unfold State.remoteBad
    by_cases hr : inRemote addr
    · have := (h4 hr).2.2.2.2.2; simp only [State.curPart, State.pid] at this; simp [this]
    · simp [hr]
  simp [State.accessCheck, hb, hm, ha, hp]

/-- The first trap of R231 that holds is the one the core raises. -/
theorem accessCheck_some {s : State} {addr w align : Nat} {c : Cause} (h : s.coreTraps addr w align c) (hw : 0 < w) :
    s.accessCheck s.cur addr w align = some c := by
  have hb : addrBad addr w = true ↔ 2 ^ 48 < addr + w ∨ inRemote addr = true ∧ (remoteHigh addr ≠ 0 ∨ 35 < remoteRow addr) := by
    have : 2 ^ 48 ≤ addr → 2 ^ 48 < addr + w := by omega
    simp only [addrBad, Bool.or_eq_true, Bool.and_eq_true, decide_eq_true_eq, bne_iff_ne]
    tauto
  have hm : misBad addr w align = true ↔ 64 < addr % 64 + w ∨ addr % align ≠ 0 := by simp [misBad]
  have ha : s.absentBad s.cur addr w = true ↔ inScratch addr = true ∧
      if isDrive s.cur then inRemote addr = true ∨ 0x10000 < addr - Config.homeBase + w
      else if inRemote addr then remoteCa addr ∈ s.retired ∨ (s.col (remoteCa addr)).scratchHas (remoteOff addr) w = false
      else s.here.scratchHas (addr - Config.homeBase) w = false := by
    unfold State.absentBad
    cases inScratch addr <;> cases isDrive s.cur <;> cases inRemote addr <;> simp [State.here]
  have hp : s.remoteBad s.cur addr = true ↔
      inRemote addr = true ∧ isDrive s.cur = false ∧ s.curPart.pol.has (remoteCa addr) = false := by
    simp [State.remoteBad, State.curPart, State.pid, and_assoc]
  unfold State.accessCheck
  simp only [hb, hm, ha, hp]
  rcases h with ⟨rfl, h⟩ | ⟨rfl, h, k⟩ | ⟨rfl, h, k, l⟩ | ⟨rfl, h, k, l, m⟩
  · rw [if_pos h]
  · rw [if_neg h, if_pos k]
  · rw [if_neg h, if_neg k, if_pos l]
  · rw [if_neg h, if_neg k, if_neg l, if_pos m]

theorem checkPieces_none {s : State} {align : Nat} {ps : List Piece}
    (h : ∀ p ∈ ps, s.reaches p.addr p.w align ∧ 0 < p.w) : s.checkPieces align ps = none := by
  simp only [State.checkPieces, List.findSome?_eq_none_iff, Option.map_eq_none_iff]
  exact fun p hp => accessCheck_none (h p hp).1 (h p hp).2

/-! ### Issuing (R199) -/

/-- A change of one thread, and of the next number, changes no memory. -/
theorem sameMemory_thread_id (s : State) (t : ThreadRef) (th : Thread) (n : Nat) :
    SameMemory s { s.setThread t th with nextId := n } :=
  sameMemory_of rfl rfl rfl rfl fun ca => by
    show ((s.setThread t th).col ca).home = _ ∧ ((s.setThread t th).col ca).loft = _ ∧ ((s.setThread t th).col ca).drive = _
    simp

theorem issueIn_issued (s : State) (tag : BitVec 12) (op : AccOp) (ps : List Piece) (ds : List Dest) :
    Issued s (s.issueIn tag op ps ds) op ps tag ds := by
  have e : s.issueIn tag op ps ds = { s.setThread s.cur { s.th with
      out := s.th.out ++ [⟨s.nextId, op, ps, tag, ds, .pending, false⟩],
      cntLd := if op.isLoad then s.th.cntLd + 1 else s.th.cntLd,
      cntSt := if op.isLoad then s.th.cntSt else s.th.cntSt + 1 } with nextId := s.nextId + 1 } := by
    cases h : op.isLoad <;> simp only [State.issueIn, h] <;> rfl
  exact ⟨e, e ▸ sameMemory_thread_id ..⟩

/-- A counter that is not full lets an instruction go on (R200). -/
theorem raising_runs {s : State} {c : Ctr} (f : State → State) (h : s.th.cnt c < 31) : s.raising c f = f s := by
  rw [State.raising, if_neg (by omega)]

/-- A memory instruction whose pieces the core admits issues its access. -/
theorem memOp_issued {s : State} {align : Nat} {op : AccOp} {ps : List Piece} {ds : List Dest}
    (hc : s.th.cnt (if op.isLoad then .ld else .st) < 31) (h : ∀ p ∈ ps, s.reaches p.addr p.w align ∧ 0 < p.w) :
    Issued s (s.memOp align op ps ds) op ps s.th.ctxcur ds := by
  rw [State.memOp, raising_runs _ hc, checkPieces_none h]
  exact issueIn_issued ..

/-- A memory instruction traps at its first piece that the core refuses (R231). -/
theorem memOp_traps {s : State} {align : Nat} {op : AccOp} {ps : List Piece} {ds : List Dest} {c : Cause} {a : Nat}
    (hc : s.th.cnt (if op.isLoad then .ld else .st) < 31) (h : s.checkPieces align ps = some (c, a)) :
    s.memOp align op ps ds = s.trapAt c a := by rw [State.memOp, raising_runs _ hc, h]

/-- A thread's trap changes no more of a column than its lease (R67, R312). -/
theorem endLease_cases (s : State) (t : ThreadRef) :
    s.endLease t = s ∨ ∃ l u, s.endLease t = s.setCol t.ca { s.col t.ca with lease := l, leaseUntil := u } := by
  unfold State.endLease
  split
  · split
    · right
      simp only [updCol_eq]
      split <;> exact ⟨_, _, rfl⟩
    · exact .inl rfl
  · exact .inl rfl

/-- An access that is made at once runs where no command of its thread has a lock of its lines to register; else a fault that holds
one back is delivered, or the thread stalls (R144, R145). -/
theorem afterLocks_cases (ls : List Line) (f : State → State) (s : State) :
    (s.lockers s.cur s.nextId ls true = [] ∧ State.afterLocks ls f s = f s) ∨
    (s.lockers s.cur s.nextId ls true ≠ [] ∧
      ((∃ b, s.lockBlocker s.cur = some b ∧ State.afterLocks ls f s = s.deliver b) ∨ State.afterLocks ls f s = s.stall .again)) := by
  rcases h : s.lockers s.cur s.nextId ls true with _ | ⟨x, l⟩
  · exact .inl ⟨rfl, by simp [State.afterLocks, h]⟩
  · refine .inr ⟨List.cons_ne_nil _ _, ?_⟩
    rcases hb : s.lockBlocker s.cur with _ | b
    · exact .inr (by simp [State.afterLocks, h, hb])
    · exact .inl ⟨b, rfl, by simp [State.afterLocks, h, hb]⟩

/-- An operation of TCMD on a partition: done once it is acknowledged, sent where each controller has a permit, else held (R428, R440). -/
theorem tOperate_cases (s : State) (op : Nat) (ops : List Byte) (p : Nat) (done : State → State) :
    s.tOperate op ops p done = done s ∨ s.tOperate op ops p done = s ∨
    s.tOperate op ops p done = (s.tell p (s.part p).pol.fields).tHold op ops true ∨ s.tOperate op ops p done = s.tHold op ops false := by
  simp only [State.tOperate]
  split
  · split
    · exact .inl rfl
    · exact .inr (.inl rfl)
  · split
    · exact .inr (.inr (.inl rfl))
    · exact .inr (.inr (.inr rfl))

end Sys2Proof.Machine
end

