-- ==== Sys2Proof/Laws/Float.lean ====
section
/-! SUPPORT. What the operations of Float.lean give, each said once: codes and their values, rounding, exact sums, and the packed
sub-elements of vectors. -/

set_option Elab.async false

namespace Sys2Proof.Machine

/-! ### Values -/

theorem units_num (n : Bool) (m : Nat) (e u : Int) :
    (FV.num n m e).units u = (if n then -1 else 1) * (m : Int) * 2 ^ (e - u).toNat := by
  cases n <;> simp [FV.units]

theorem units_scale (n : Bool) (m : Nat) (e u w : Int) (h : u ≤ w) (k : w ≤ e) :
    (FV.num n m e).units u = (FV.num n m e).units w * 2 ^ (w - u).toNat := by
  have : (e - u).toNat = (e - w).toNat + (w - u).toNat := by omega
  rw [units_num, units_num, this, pow_add, ← mul_assoc]

/-- Two numbers compare as their multiples of any unit below both. -/
theorem lt_num (n k : Bool) (m j : Nat) (e h u : Int) (he : u ≤ e) (hh : u ≤ h) :
    (FV.num n m e).lt? (FV.num k j h) = some (decide ((FV.num n m e).units u < (FV.num k j h).units u)) := by
  show some (decide ((FV.num n m e).units (min e h) < (FV.num k j h).units (min e h))) = _
  rw [units_scale n m e u (min e h) (by omega) (by omega), units_scale k j h u (min e h) (by omega) (by omega)]
  have hp : (0 : Int) < 2 ^ (min e h - u).toNat := by positivity
  congr 1
  rw [decide_eq_decide]
  exact (mul_lt_mul_iff_left₀ hp).symm

theorem eq_num (n k : Bool) (m j : Nat) (e h u : Int) (he : u ≤ e) (hh : u ≤ h) :
    (FV.num n m e).eq? (FV.num k j h) = some (decide ((FV.num n m e).units u = (FV.num k j h).units u)) := by
  unfold FV.eq?
  rw [lt_num n k m j e h u he hh, lt_num k n j m h e u hh he]
  simp only [Option.some.injEq]
  by_cases a : (FV.num n m e).units u < (FV.num k j h).units u <;>
    by_cases b : (FV.num k j h).units u < (FV.num n m e).units u <;> simp [a, b] <;> omega

/-! ### Rounding to a multiple -/

theorem roundAt_of_le (mode : RMode) (n : Bool) (m : Nat) (e u : Int) (h : u ≤ e) :
    roundAt mode n m e u = m * 2 ^ (e - u).toNat := by simp [roundAt, h]

/-- The remainder decides whether the count is rounded up. -/
theorem roundAt_cases (mode : RMode) (n : Bool) (m : Nat) (e u : Int) (h : e < u) :
    let d := 2 ^ (u - e).toNat
    let q := m / d
    let r := m % d
    (roundAt mode n m e u = q + 1 ∧ match mode with
      | .rne => d < 2 * r ∨ 2 * r = d ∧ q % 2 = 1 | .rtz => False | .rdn => n = true ∧ r ≠ 0 | .rup => n = false ∧ r ≠ 0) ∨
    (roundAt mode n m e u = q ∧ match mode with
      | .rne => 2 * r < d ∨ 2 * r = d ∧ q % 2 = 0 | .rtz => True | .rdn => n = false ∨ r = 0 | .rup => n = true ∨ r = 0) := by
  intro d q r
  have hk : 0 < (u - e).toNat := by omega
  have hd : d = 2 * 2 ^ ((u - e).toNat - 1) := by
    show 2 ^ (u - e).toNat = _
    rw [← pow_succ', Nat.sub_add_cancel hk]
  have hu : ¬ u ≤ e := by omega
  unfold roundAt
  rw [if_neg hu]
  simp only
  rw [show m / 2 ^ (u - e).toNat = q from rfl, show m % 2 ^ (u - e).toNat = r from rfl]
  generalize hh : 2 ^ ((u - e).toNat - 1) = half at *
  cases mode
  · by_cases a : half < r
    · left; simp [a]; omega
    · by_cases b : r = half
      · by_cases c : q % 2 = 1
        · left; simp [b, c]; omega
        · right; simp [b, c]; omega
      · right; simp [a, b]; omega
  · right; simp
  · cases n <;> by_cases b : r = 0 <;> simp [b]
  · cases n <;> by_cases b : r = 0 <;> simp [b]

/-- The count stays within the powers of two that bound the value. -/
theorem roundAt_le (mode : RMode) (n : Bool) (m : Nat) (e u : Int) (b : Nat) (h : m * 2 ^ (e - u).toNat ≤ b * 2 ^ (u - e).toNat) :
    roundAt mode n m e u ≤ b := by
  by_cases hu : u ≤ e
  · rw [roundAt_of_le _ _ _ _ _ hu]
    have : (u - e).toNat = 0 := by omega
    simpa [this] using h
  · have h0 : (e - u).toNat = 0 := by omega
    have hd : 0 < 2 ^ (u - e).toNat := by positivity
    have hm := Nat.div_add_mod m (2 ^ (u - e).toNat)
    rw [h0] at h
    have key : ∀ q r : Nat, 2 ^ (u - e).toNat * q + r = m → (r = 0 ∧ q ≤ b ∨ q < b) := by
      intro q r hq
      by_cases hr : r = 0
      · left; exact ⟨hr, by subst hr; nlinarith⟩
      · right; by_contra hb; push Not at hb; nlinarith [Nat.pos_of_ne_zero hr]
    have := key _ _ hm
    rcases roundAt_cases mode n m e u (by omega) with ⟨h1, h2⟩ | ⟨h1, -⟩ <;> rw [h1]
    · rcases this with ⟨h3, h4⟩ | h3
      · exfalso; rw [h3] at h2; cases mode <;> simp at h2
        have := Nat.two_pow_pos (u - e).toNat; omega
      · omega
    · omega

theorem le_roundAt (mode : RMode) (n : Bool) (m : Nat) (e u : Int) (b : Nat) (h : b * 2 ^ (u - e).toNat ≤ m * 2 ^ (e - u).toNat) :
    b ≤ roundAt mode n m e u := by
  by_cases hu : u ≤ e
  · rw [roundAt_of_le _ _ _ _ _ hu]
    have : (u - e).toNat = 0 := by omega
    simpa [this] using h
  · have h0 : (e - u).toNat = 0 := by omega
    rw [h0] at h
    have : b ≤ m / 2 ^ (u - e).toNat := (Nat.le_div_iff_mul_le (by positivity)).2 (by simpa using h)
    rcases roundAt_cases mode n m e u (by omega) with ⟨h1, -⟩ | ⟨h1, -⟩ <;> rw [h1] <;> omega

/-! ### Codes -/

/-- A code of a format fits its width. -/
theorem round_lt (f : Fmt) (hn : f.nanCode < 2 ^ (f.mbits + f.ebits)) (hm : f.maxCode < 2 ^ (f.mbits + f.ebits)) (mode : RMode)
    (sat : Bool) (v : FV) : f.round mode sat v < 2 ^ (f.mbits + f.ebits + 1) := by
  have hs : ∀ n, f.signBit n ≤ 2 ^ (f.mbits + f.ebits) := fun n => by cases n <;> simp [Fmt.signBit]
  have h2 : 2 ^ (f.mbits + f.ebits + 1) = 2 ^ (f.mbits + f.ebits) + 2 ^ (f.mbits + f.ebits) := by rw [pow_succ]; omega
  have hi : ∀ n, f.infCode n < 2 ^ (f.mbits + f.ebits + 1) := fun n => by
    unfold Fmt.infCode
    split
    · have h3 : (2 ^ f.ebits - 1) * 2 ^ f.mbits < 2 ^ (f.mbits + f.ebits) := by
        rw [pow_add, mul_comm (2 ^ f.mbits)]
        exact (Nat.mul_lt_mul_right (Nat.two_pow_pos _)).2 (Nat.sub_lt (Nat.two_pow_pos _) Nat.one_pos)
      have := hs n; omega
    · omega
  have ho : ∀ n, f.overflow mode sat n < 2 ^ (f.mbits + f.ebits + 1) := fun n => by
    have := hs n
    have := hi n
    have key : ∀ b : Bool, (if b then f.infCode n else f.signBit n + f.maxCode) < 2 ^ (f.mbits + f.ebits + 1) := fun b => by
      cases b
      · show f.signBit n + f.maxCode < _; omega
      · exact hi n
    exact key _
  cases v with
  | nan => show f.nanCode < _; omega
  | inf n =>
    have := hs n; have := hi n
    show (if sat then _ else _) < _
    split <;> omega
  | num n m e =>
    have := hs n; have := ho n
    show (if m = 0 then _ else if _ ≤ f.maxCode then _ else _) < _
    split
    · omega
    · split <;> omega

theorem f32_round_lt (mode : RMode) (sat : Bool) (v : FV) : f32.round mode sat v < 2 ^ 32 :=
  round_lt f32 (by decide) (by decide) mode sat v

theorem fpFmt_round_lt (t : FpTy) (mode : RMode) (sat : Bool) (v : FV) : (fpFmt t).round mode sat v < 2 ^ fpBits_ t := by
  cases t
  · exact f32_round_lt mode sat v
  · exact round_lt f16 (by decide) (by decide) mode sat v
  · exact round_lt bf16 (by decide) (by decide) mode sat v

/-- A format's sign bit is its highest; a NaN has none. -/
theorem decode_signed (f : Fmt) (x : Nat) (h : f.decode x ≠ .nan) :
    (f.decode x).signed = (x / 2 ^ (f.mbits + f.ebits) % 2 == 1) := by
  unfold Fmt.decode at h ⊢
  simp only at h ⊢
  split at h
  · split at h
    · rename_i a b; rw [if_pos a, if_pos b]; rfl
    · exact absurd rfl h
  · split at h
    · exact absurd rfl h
    · rename_i a b; rw [if_neg a, if_neg b]; split <;> rfl

/-! ### The lesser and the greater number -/

theorem minNum_nan_left (f : Fmt) (a b : Nat) (h : f.decode a = .nan) (k : f.decode b ≠ .nan) : f.minNum a b = b ∧ f.maxNum a b = b := by
  have : (f.decode b).isNan = false := by cases hb : f.decode b <;> simp_all [FV.isNan]
  simp [Fmt.minNum, Fmt.maxNum, h, FV.isNan]

theorem minNum_nan_right (f : Fmt) (a b : Nat) (h : f.decode a ≠ .nan) (k : f.decode b = .nan) : f.minNum a b = a ∧ f.maxNum a b = a := by
  have : (f.decode a).isNan = false := by cases hb : f.decode a <;> simp_all [FV.isNan]
  simp [Fmt.minNum, Fmt.maxNum, k, FV.isNan]

theorem minNum_nan (f : Fmt) (a b : Nat) (h : f.decode a = .nan) (k : f.decode b = .nan) :
    f.minNum a b = f.nanCode ∧ f.maxNum a b = f.nanCode := by simp [Fmt.minNum, Fmt.maxNum, h, k, FV.isNan]

theorem lt_some_not_nan {a b : FV} {r : Bool} (h : a.lt? b = some r) : a.isNan = false ∧ b.isNan = false := by
  cases a <;> cases b <;> simp_all [FV.lt?, FV.isNan]

theorem lt_asymm {a b : FV} (h : a.lt? b = some true) : b.lt? a = some false := by
  cases a with
  | nan => cases b <;> simp [FV.lt?] at h
  | inf n => cases b with
    | nan => simp [FV.lt?] at h
    | inf k => cases n <;> cases k <;> simp_all [FV.lt?]
    | num k j g => cases n <;> simp_all [FV.lt?]
  | num n m e => cases b with
    | nan => simp [FV.lt?] at h
    | inf k => cases k <;> simp_all [FV.lt?]
    | num k j g =>
      rw [lt_num n k m j e g (min e g) (by omega) (by omega)] at h
      rw [lt_num k n j m g e (min e g) (by omega) (by omega)]
      simp at h ⊢; omega

theorem below_of_lt {a b : FV} (h : a.lt? b = some true) : a.below b = true := by simp [FV.below, h]

theorem not_below_of_lt {a b : FV} (h : a.lt? b = some true) : b.below a = false := by
  have h2 := lt_asymm h
  unfold FV.below
  rw [h2]
  cases a <;> cases b <;> simp_all [FV.isZero, FV.signed]
  rename_i n m e k j g
  intro hj hm hk
  subst hj hm
  simp [lt_num n k 0 0 e g (min e g) (by omega) (by omega), units_num] at h

theorem minNum_lt (f : Fmt) (a b : Nat) (h : (f.decode a).lt? (f.decode b) = some true) : f.minNum a b = a ∧ f.maxNum a b = b := by
  obtain ⟨ha, hb⟩ := lt_some_not_nan h
  simp [Fmt.minNum, Fmt.maxNum, ha, hb, below_of_lt h, not_below_of_lt h]

theorem minNum_gt (f : Fmt) (a b : Nat) (h : (f.decode b).lt? (f.decode a) = some true) : f.minNum a b = b ∧ f.maxNum a b = a := by
  obtain ⟨hb, ha⟩ := lt_some_not_nan h
  simp [Fmt.minNum, Fmt.maxNum, ha, hb, below_of_lt h, not_below_of_lt h]

/-! ### Codes by their fields -/

theorem magCode_sub (f : Fmt) (q : Nat) (u : Int) (h : q < 2 ^ f.mbits) : f.magCode q u = q := if_pos h

theorem magCode_top (f : Fmt) (u : Int) : f.magCode (2 ^ (f.mbits + 1)) u = (u + 1 + f.mbits + f.bias).toNat * 2 ^ f.mbits := by
  have : ¬ 2 ^ (f.mbits + 1) < 2 ^ f.mbits := by rw [pow_succ]; have := Nat.two_pow_pos f.mbits; omega
  unfold Fmt.magCode
  rw [if_neg this, if_pos rfl]; simp

theorem magCode_norm (f : Fmt) (q : Nat) (u : Int) (h : ¬ q < 2 ^ f.mbits) (k : q ≠ 2 ^ (f.mbits + 1)) :
    f.magCode q u = (u + f.mbits + f.bias).toNat * 2 ^ f.mbits + (q - 2 ^ f.mbits) := by
  unfold Fmt.magCode
  rw [if_neg h, if_neg k]


/-- A binary32 code by its fields. -/
theorem f32_decode (neg : Bool) (e m : Nat) (he : e < 256) (hm : m < 2 ^ 23) :
    f32.decode ((if neg then 2 ^ 31 else 0) + e * 2 ^ 23 + m) =
      if e = 255 then (if m = 0 then .inf neg else .nan)
      else if e = 0 then .num neg m (-149)
      else .num neg (2 ^ 23 + m) ((e : Int) - 150) := by
  have h1 : ((if neg then 2 ^ 31 else 0) + e * 2 ^ 23 + m) / 2 ^ 31 % 2 = if neg then 1 else 0 := by cases neg <;> simp <;> omega
  have h2 : ((if neg then 2 ^ 31 else 0) + e * 2 ^ 23 + m) / 2 ^ 23 % 2 ^ 8 = e := by cases neg <;> simp <;> omega
  have h3 : ((if neg then 2 ^ 31 else 0) + e * 2 ^ 23 + m) % 2 ^ 23 = m := by cases neg <;> simp <;> omega
  have hn : (((if neg then 2 ^ 31 else 0) + e * 2 ^ 23 + m) / 2 ^ (23 + 8) % 2 == 1) = neg := by
    rw [show 23 + 8 = 31 from rfl, h1]; cases neg <;> rfl
  simp only [Fmt.decode, f32, h2, h3, hn]
  by_cases a : e = 255
  · simp [a]
  · by_cases b : e = 0
    · simp [a, b]
    · simp [a, b]; omega

end Sys2Proof.Machine
end

