-- ==== Sys2Proof/Laws/Scalar.lean ====
section
/-! SUPPORT. What the scalar computations give, in terms of bits and integers. -/

set_option Elab.async false

namespace Sys2Proof.Machine

theorem sub_value (x y : Word) : x - y = BitVec.ofInt 64 ((x.toNat : Int) - y.toNat) := by
  apply BitVec.eq_of_toNat_eq
  rw [BitVec.toNat_sub, BitVec.toNat_ofInt]
  have hx := x.isLt
  have hy := y.isLt
  omega

theorem add_value (x y : Word) : x + y = BitVec.ofNat 64 (x.toNat + y.toNat) := by
  apply BitVec.eq_of_toNat_eq; simp

theorem min_value (x y : Word) : (if y.slt x then y else x) = BitVec.ofInt 64 (min x.toInt y.toInt) := by
  by_cases h : y.toInt < x.toInt
  · rw [if_pos (by simpa [BitVec.slt] using h), min_eq_right (by omega), BitVec.ofInt_toInt]
  · rw [if_neg (by simpa [BitVec.slt] using h), min_eq_left (by omega), BitVec.ofInt_toInt]

theorem max_value (x y : Word) : (if x.slt y then y else x) = BitVec.ofInt 64 (max x.toInt y.toInt) := by
  by_cases h : x.toInt < y.toInt
  · rw [if_pos (by simpa [BitVec.slt] using h), max_eq_right (by omega), BitVec.ofInt_toInt]
  · rw [if_neg (by simpa [BitVec.slt] using h), max_eq_left (by omega), BitVec.ofInt_toInt]

theorem minz_value (x y : Word) : (if y.ult x then y else x) = BitVec.ofNat 64 (min x.toNat y.toNat) := by
  by_cases h : y.toNat < x.toNat
  · rw [if_pos (by simpa [BitVec.ult] using h), min_eq_right (by omega)]; simp
  · rw [if_neg (by simpa [BitVec.ult] using h), min_eq_left (by omega)]; simp

theorem maxz_value (x y : Word) : (if x.ult y then y else x) = BitVec.ofNat 64 (max x.toNat y.toNat) := by
  by_cases h : x.toNat < y.toNat
  · rw [if_pos (by simpa [BitVec.ult] using h), max_eq_right (by omega)]; simp
  · rw [if_neg (by simpa [BitVec.ult] using h), max_eq_left (by omega)]; simp

theorem addsh_value (x y : Word) (n : Nat) : x + (y <<< n) = BitVec.ofNat 64 (x.toNat + y.toNat * 2 ^ n) := by
  apply BitVec.eq_of_toNat_eq; simp [Nat.shiftLeft_eq]

theorem sll_value (x : Word) (n : Nat) : x <<< n = BitVec.ofNat 64 (x.toNat * 2 ^ n) := by
  apply BitVec.eq_of_toNat_eq; simp [Nat.shiftLeft_eq]

theorem srl_value (x : Word) (n : Nat) : x >>> n = BitVec.ofNat 64 (x.toNat / 2 ^ n) := by
  apply BitVec.eq_of_toNat_eq
  simp only [BitVec.toNat_ushiftRight, Nat.shiftRight_eq_div_pow, BitVec.toNat_ofNat]
  rw [Nat.mod_eq_of_lt]; exact lt_of_le_of_lt (Nat.div_le_self _ _) (BitVec.isLt _)

theorem sra_value (x : Word) (n : Nat) : x.sshiftRight n = BitVec.ofInt 64 (x.toInt / ((2 ^ n : Nat) : Int)) := by
  rw [BitVec.sshiftRight, Int.shiftRight_eq_div_pow]

theorem rotl_value (x : Word) (n : Nat) (h : n < 64) : rotl x n = x.rotateLeft n := by
  rw [BitVec.rotateLeft, Nat.mod_eq_of_lt h]; rfl

theorem rotr_value (x : Word) (n : Nat) (h : n < 64) : rotl x ((64 - n) % 64) = x.rotateRight n := by
  rw [BitVec.rotateRight, Nat.mod_eq_of_lt h, BitVec.rotateRightAux, rotl]
  by_cases h0 : n = 0
  · subst h0; ext i hi; simp
  · rw [Nat.mod_eq_of_lt (by omega), show 64 - (64 - n) = n by omega, BitVec.or_comm]

theorem bitField_eq (x : Word) (p w : Nat) : bitField x p w = x.toNat / 2 ^ p % 2 ^ w := rfl

theorem imm_value (x : Word) (i : BitVec 15) : x + imm15 i = BitVec.ofInt 64 (x.toInt + i.toInt) := by
  rw [BitVec.ofInt_add, BitVec.ofInt_toInt]; rfl

theorem ldhi_value (i : BitVec 20) : i.signExtend 64 <<< 15 = BitVec.ofInt 64 (i.toInt * 2 ^ 15) := by
  rw [BitVec.ofInt_mul]
  apply BitVec.eq_of_toNat_eq
  simp [BitVec.signExtend, Nat.shiftLeft_eq, BitVec.toNat_mul]

theorem sext_value (x : Word) (w : SubWidth) : extend (subBits w / 8) true x.toNat = match w with
    | .w8 => (x.truncate 8).signExtend 64 | .w16 => (x.truncate 16).signExtend 64 | .w32 => (x.truncate 32).signExtend 64 := by
  have key : ∀ (n : Nat) (hn : 0 < n), (if decide (2 ^ (n - 1) ≤ x.toNat % 2 ^ n) = true then BitVec.ofInt 64 (((x.toNat % 2 ^ n : Nat) : Int) - (2 ^ n : Nat))
      else BitVec.ofNat 64 (x.toNat % 2 ^ n)) = (x.truncate n).signExtend 64 := by
    intro n hn
    have hp : 2 ^ n = 2 * 2 ^ (n - 1) := by rw [← Nat.pow_succ']; congr 1; omega
    rw [BitVec.signExtend, BitVec.toInt_eq_toNat_cond, BitVec.truncate_eq_setWidth, BitVec.toNat_setWidth]
    by_cases h : 2 ^ (n - 1) ≤ x.toNat % 2 ^ n
    · rw [if_pos (decide_eq_true h), if_neg (by omega)]
    · rw [if_neg (by simpa using h), if_pos (by omega), BitVec.ofInt_natCast]
  cases w
  · simp only [extend, subBits, Bool.true_and]; exact key 8 (by decide)
  · simp only [extend, subBits, Bool.true_and]; exact key 16 (by decide)
  · simp only [extend, subBits, Bool.true_and]; exact key 32 (by decide)

theorem zext_value (x : Word) (w : SubWidth) : extend (subBits w / 8) false x.toNat = match w with
    | .w8 => x &&& 0xFF#64 | .w16 => x &&& 0xFFFF#64 | .w32 => x &&& 0xFFFFFFFF#64 := by
  cases w <;> apply BitVec.eq_of_toNat_eq <;>
    simp only [extend, subBits, Bool.false_and, Bool.false_eq_true, if_false, BitVec.toNat_ofNat, BitVec.toNat_and]
  · rw [show (255 % 2 ^ 64) = 2 ^ 8 - 1 by decide, Nat.and_two_pow_sub_one_eq_mod]; omega
  · rw [show (65535 % 2 ^ 64) = 2 ^ 16 - 1 by decide, Nat.and_two_pow_sub_one_eq_mod]; omega
  · rw [show (4294967295 % 2 ^ 64) = 2 ^ 32 - 1 by decide, Nat.and_two_pow_sub_one_eq_mod]; omega

/-- CTZ: the bits below the count are clear, and the bit at it is set. -/
theorem countTrailing_spec (x n : Nat) : countTrailing x n ≤ n ∧ (∀ i, i < countTrailing x n → x.testBit i = false) ∧
    (countTrailing x n < n → x.testBit (countTrailing x n) = true) := by
  induction n generalizing x with
  | zero => simp [countTrailing]
  | succ n ih =>
    unfold countTrailing
    split
    · next h => refine ⟨by omega, by omega, fun _ => by simp [Nat.testBit_zero, h]⟩
    · next h =>
      obtain ⟨h1, h2, h3⟩ := ih (x / 2)
      refine ⟨by omega, fun i hi => ?_, fun hn => ?_⟩
      · cases i with
        | zero => simp [Nat.testBit_zero]; omega
        | succ i => rw [Nat.testBit_succ]; exact h2 i (by omega)
      · rw [Nat.add_comm, Nat.testBit_succ]; exact h3 (by omega)

/-- POPC counts the set bits. -/
theorem countOnes_spec (x n : Nat) : countOnes x n = (List.range n).countP fun i => x.testBit i := by
  induction n generalizing x with
  | zero => rfl
  | succ n ih =>
    rw [countOnes, ih, List.range_succ_eq_map, List.countP_cons, List.countP_map, Nat.add_comm]
    have h1 : ((fun i => x.testBit i) ∘ Nat.succ) = fun i => (x / 2).testBit i := by
      funext i; exact Nat.testBit_succ x i
    rw [h1, Nat.testBit_zero]
    rcases Nat.mod_two_eq_zero_or_one x with h | h <;> simp [h]

/-- CLZ: the bits above are clear, and the next is set. -/
theorem countLeading_spec (x : Word) : countLeading x ≤ 64 ∧ (∀ i, i < countLeading x → x.getLsbD (63 - i) = false) ∧
    (countLeading x < 64 → x.getLsbD (63 - countLeading x) = true) := by
  have hx := x.isLt
  unfold countLeading blen
  split
  · next h => 
    refine ⟨by omega, fun i _ => ?_, by omega⟩
    rw [BitVec.getLsbD, h, Nat.zero_testBit]
  · next h =>
    have hl : x.toNat.log2 < 64 := (Nat.log2_lt h).2 hx
    refine ⟨by omega, fun i hi => ?_, fun _ => ?_⟩
    · exact Nat.testBit_lt_two_pow (lt_of_lt_of_le Nat.lt_log2_self (Nat.pow_le_pow_right (by decide) (by omega)))
    · rw [show 63 - (64 - (x.toNat.log2 + 1)) = x.toNat.log2 by omega]
      exact Nat.testBit_log2 h

/-- A byte of a byte list as a number. -/
theorem leNat_testBit (l : List Byte) (i : Nat) : (leNat l).testBit i = (l.getD (i / 8) 0).getLsbD (i % 8) := by
  induction l generalizing i with
  | nil => simp [leNat]
  | cons b r ih =>
    rw [leNat, show (256 : Nat) = 2 ^ 8 by rfl, Nat.add_comm, Nat.testBit_two_pow_mul_add _ b.isLt]
    split
    · next h => rw [Nat.div_eq_of_lt h, Nat.mod_eq_of_lt h]; rfl
    · next h =>
      rw [ih, show i / 8 = (i - 8) / 8 + 1 by omega, List.getD_cons_succ, show i % 8 = (i - 8) % 8 by omega]

theorem leBytes_length (n x : Nat) : (leBytes n x).length = n := by
  induction n generalizing x with
  | zero => rfl
  | succ n ih => simp [leBytes, ih]

theorem leBytes_getD (n x i : Nat) : (leBytes n x).getD i 0 = if i < n then BitVec.ofNat 8 (x / 256 ^ i) else 0 := by
  induction n generalizing x i with
  | zero => simp [leBytes]
  | succ n ih =>
    cases i with
    | zero => simp [leBytes]
    | succ i =>
      rw [leBytes, List.getD_cons_succ, ih, Nat.div_div_eq_div_mul, Nat.pow_succ']
      simp

theorem leNat_leBytes (n x : Nat) : leNat (leBytes n x) = x % 256 ^ n := by
  induction n generalizing x with
  | zero => simp [leBytes, leNat, Nat.mod_one]
  | succ n ih =>
    rw [leBytes, leNat, ih, Nat.pow_succ', BitVec.toNat_ofNat, Nat.mod_mul]

/-- BSWAP: each byte comes from its mirror. -/
theorem byteSwap_bit (x : Word) (i : Nat) (hi : i < 64) : (byteSwap x).getLsbD i = x.getLsbD (8 * (7 - i / 8) + i % 8) := by
  have hl : (leBytes 8 x.toNat).reverse.getD (i / 8) 0 = (leBytes 8 x.toNat).getD (7 - i / 8) 0 := by
    have hn : i / 8 < 8 := by omega
    rw [List.getD_eq_getElem?_getD, List.getD_eq_getElem?_getD, List.getElem?_reverse (by rw [leBytes_length]; exact hn), leBytes_length]
  rw [byteSwap, BitVec.getLsbD_ofNat, leNat_testBit, hl, leBytes_getD, if_pos (by omega), BitVec.getLsbD_ofNat,
    show (256 : Nat) = 2 ^ 8 by rfl, ← Nat.pow_mul, Nat.testBit_div_two_pow]
  simp only [hi, decide_true, Bool.true_and, Nat.mod_lt i (by decide : 8 > 0)]
  rw [BitVec.getLsbD]
  congr 1
  omega

/-- BFI: the field's bits come from the source, the others stay. -/
theorem bfi_bit (x y : Word) (p w i : Nat) (hi : i < 64) :
    ((y &&& ~~~(BitVec.ofNat 64 (2 ^ w - 1) <<< p)) ||| (BitVec.ofNat 64 (bitField x 0 w) <<< p)).getLsbD i =
      if p ≤ i ∧ i < p + w then x.getLsbD (i - p) else y.getLsbD i := by
  have h1 : (BitVec.ofNat 64 (2 ^ w - 1) <<< p).getLsbD i = (decide (p ≤ i) && decide (i < p + w)) := by
    rw [BitVec.getLsbD_shiftLeft, BitVec.getLsbD_ofNat, Nat.testBit_two_pow_sub_one]
    by_cases h2 : p ≤ i
    · simp only [hi, h2, show ¬ i < p by omega, show i - p < 64 by omega, decide_true, decide_false, Bool.true_and, Bool.not_false]
      exact decide_eq_decide.2 (by omega)
    · simp [h2, show i < p by omega]
  have h2 : (BitVec.ofNat 64 (bitField x 0 w) <<< p).getLsbD i = (decide (p ≤ i) && decide (i < p + w) && x.getLsbD (i - p)) := by
    rw [BitVec.getLsbD_shiftLeft, BitVec.getLsbD_ofNat, bitField, Nat.pow_zero, Nat.div_one, Nat.testBit_mod_two_pow, BitVec.getLsbD]
    by_cases h2 : p ≤ i
    · simp only [hi, h2, show ¬ i < p by omega, show i - p < 64 by omega, decide_true, decide_false, Bool.true_and, Bool.not_false]
      rw [show decide (i - p < w) = decide (i < p + w) from decide_eq_decide.2 (by omega)]
    · simp [h2, show i < p by omega]
  rw [BitVec.getLsbD_or, BitVec.getLsbD_and, BitVec.getLsbD_not, h1, h2]
  by_cases h3 : p ≤ i <;> by_cases h4 : i < p + w <;> simp [h3, h4, hi]

theorem bfx_value (x : Word) (p w : Nat) : BitVec.ofNat w (bitField x p w) = BitVec.ofNat w (x.toNat / 2 ^ p) := by
  apply BitVec.eq_of_toNat_eq; simp [bitField]

theorem mul_value (x y : Word) : x * y = BitVec.ofInt 64 (x.toInt * y.toInt) := by
  rw [BitVec.ofInt_mul, BitVec.ofInt_toInt, BitVec.ofInt_toInt]

end Sys2Proof.Machine
end

