-- ==== Sys2Proof/Laws/Vector.lean ====
section
/-! SUPPORT. Vector instructions: which elements are active, packed sub-elements, and completion element by element. -/

set_option Elab.async false

namespace Sys2Proof.Machine

theorem mem_actives (s : State) (k : BitVec 2) (i : Nat) :
    i ∈ s.actives k ↔ i < s.lanes ∧ i < s.th.vl ∧ (s.rk k).getLsbD i = true := by
  simp [State.actives, State.active, upto]

theorem vector_runs {s : State} (f : State → State) (h : s.th.vl ≠ 0) : s.vector f = f s := if_neg h

theorem vector_stops {s : State} (f : State → State) (h : s.th.vl = 0) : s.vector f = s.trap .laneClaim := if_pos h

/-! ### Packed sub-elements -/

theorem joinSubs_lt (w : Nat) (f : Nat → Nat) : (joinSubs w f).toNat < 2 ^ 32 := (joinSubs w f).isLt

theorem sub_joinSubs (w : Nat) (hw : w = 32 ∨ w = 16 ∨ w = 8) (f : Nat → Nat) (h : Nat) (hh : h < 32 / w) :
    (joinSubs w f).toNat / 2 ^ (w * h) % 2 ^ w = f h % 2 ^ w := by
  rcases hw with rfl | rfl | rfl
  · obtain rfl : h = 0 := by omega
    simp [joinSubs]
  · have : h = 0 ∨ h = 1 := by omega
    rcases this with rfl | rfl <;> simp [joinSubs] <;> omega
  · have : h = 0 ∨ h = 1 ∨ h = 2 ∨ h = 3 := by omega
    rcases this with rfl | rfl | rfl | rfl <;> simp [joinSubs] <;> omega

theorem sub_joinSubs_lt (w : Nat) (hw : w = 32 ∨ w = 16 ∨ w = 8) (f : Nat → Nat) (h : Nat) (hh : h < 32 / w) (hf : f h < 2 ^ w) :
    (joinSubs w f).toNat / 2 ^ (w * h) % 2 ^ w = f h := by rw [sub_joinSubs w hw f h hh, Nat.mod_eq_of_lt hf]

/-- Packing an element's own sub-elements gives it back. -/
theorem joinSubs_sub (w : Nat) (hw : w = 32 ∨ w = 16) (x : Elem) : joinSubs w (sub w x) = x := by
  have hx := x.isLt
  apply BitVec.eq_of_toNat_eq
  rcases hw with rfl | rfl <;> simp [joinSubs, sub] <;> omega

theorem ityBits_cases (t : IntTy) : ityBits t = 32 ∨ ityBits t = 16 ∨ ityBits t = 8 := by cases t <;> simp [ityBits]

theorem fpBits_cases (t : FpTy) : fpBits_ t = 32 ∨ fpBits_ t = 16 ∨ fpBits_ t = 8 := by cases t <;> simp [fpBits_]

/-- The second operand as the scalar's lowest bits in every sub-element, or the vector's element (R288). -/
theorem second_eq (s : State) (b : BitVec 4) (sb : Bool) (w i : Nat) (hw : w = 32 ∨ w = 16) :
    s.second b sb w i = if sb then (if w = 32 then (s.rs (b.zeroExtend 5)).truncate 32
      else (s.rs (b.zeroExtend 5)).truncate 16 ++ (s.rs (b.zeroExtend 5)).truncate 16) else s.rv b i := by
  cases sb
  · rfl
  · simp only [State.second, if_true]
    rcases hw with rfl | rfl
    · apply BitVec.eq_of_toNat_eq; simp [joinSubs]
    · apply BitVec.eq_of_toNat_eq
      simp only [joinSubs]
      rw [if_neg (by decide), if_pos trivial, if_neg (by decide), BitVec.toNat_append]
      simp only [BitVec.toNat_ofNat, BitVec.toNat_setWidth, BitVec.truncate_eq_setWidth]
      rw [← Nat.shiftLeft_add_eq_or_of_lt (by omega), Nat.shiftLeft_eq]
      omega

/-! ### Completion -/

theorem completes_vec {i : Instr} {s : State} {f : State → State} {d : BitVec 4} {els : List Nat} {g : Nat → Elem}
    (ht : threadOk s.cur = true) (hv : s.th.vl ≠ 0) (hd : decodeTrap i s = none) (hg : i.guard = ⟨0, false⟩)
    (he : exec i s = issueAs i s (State.vector f)) (hf : f s = s.wvs d els g) : Completes i s fun t => VectorWrite s t d els g :=
  completes_vector ⟨ht, hd, by rw [hg]; rfl⟩ he ((vector_runs f hv).trans hf)

theorem completes_lanes {i : Instr} {s : State} {f : State → State} {d : BitVec 4} {els : List Nat} {g : Nat → Elem} {w : Nat}
    {v : Nat → Nat → Nat} (ht : threadOk s.cur = true) (hv : s.th.vl ≠ 0) (hd : decodeTrap i s = none) (hg : i.guard = ⟨0, false⟩)
    (he : exec i s = issueAs i s (State.vector f)) (hf : f s = s.wvs d els g)
    (h : ∀ e h, h < 32 / w → (g e).toNat / 2 ^ (w * h) % 2 ^ w = v e h) : CompletesLanes i s d els w v :=
  ⟨g, completes_vec ht hv hd hg he hf, h⟩

end Sys2Proof.Machine
end

