-- ==== Sys2Proof/Tests/Slice0.lean ====
section
/-! SUPPORT. Tests: the checks of WellFormed, a word of every encoded instruction, single steps, and states that meet the hypotheses
of each statement, clause by clause. Expected results are the spec's own examples, its tables, or worked by hand from its rules. -/

set_option Elab.async false

namespace Sys2Proof.Tests
open Sys2Proof Sys2Proof.Machine

/-! ### Ill-formed instructions -/

def g0 : Guard := ⟨0, false⟩

/-- R192: p0 inverted. -/
theorem test_refuses_guard : (Instr.add 1 2 3 ⟨0, true⟩).wf = false ∧ (Instr.sel 1 2 3 0 true).wf = false := by decide
/-- R223: BRC names p1 to p7. -/
theorem test_refuses_brc : (Instr.brc 0 false 4).wf = false := by decide
/-- R225: a body of 1 to 16,383 pairs. -/
theorem test_refuses_loop : (Instr.loop 1 0).wf = false ∧ (Instr.loop 1 16384).wf = false ∧ (Instr.loop 1 16383).wf = true := by decide
/-- R242: a 32-bit element is not sign extended. -/
theorem test_refuses_vector_load : (Instr.vld 1 0 2 .e32 true).wf = false ∧ (Instr.vlds 1 2 0 3 .e32 true).wf = false ∧
    (Instr.vgath 1 2 0 3 .e32 true).wf = false := by decide
/-- R250: the last destination of a lookup is v15. -/
theorem test_refuses_lookup : (Instr.tlod 13 0 1 0 2 2).wf = false ∧ (Instr.tsmp 12 0 1 0 2 3).wf = false ∧
    (Instr.tsmp 12 0 1 0 2 2).wf = true := by decide
/-- R58: domain levels 0 to 4. -/
theorem test_refuses_level : (Instr.bar 5).wf = false ∧ (Instr.barX 5).wf = false ∧ (Instr.barv 1 2 .opAnd 5).wf = false ∧
    (Instr.barvX 1 2 .opAnd 5).wf = false ∧ (Instr.domq 1 g0 5).wf = false ∧ (Instr.coll 1 2 .gather 5 0).wf = false := by decide
/-- R268, R269: channels 0 to 15, and 16 for RECV. -/
theorem test_refuses_channel : (Instr.recv 1 2 17).wf = false ∧ (Instr.recvq 1 16 g0).wf = false ∧ (Instr.recv 1 2 16).wf = true := by decide
/-- R309: leases of 1 to 32 commands. -/
theorem test_refuses_lease : (Instr.mlease 0).wf = false ∧ (Instr.mlease 33).wf = false := by decide
/-- R310, R313: a region inside the 64 by 64 cells. -/
theorem test_refuses_region : (Instr.mclr 1 0 3 0).wf = false ∧ (Instr.mma 1 2 0 2 0 2 0).wf = false := by decide
/-- R337: PCOVER writes vd + 1 and two different masks. -/
theorem test_refuses_pcover : (Instr.pcover 15 2 1 2 0 7).wf = false ∧ (Instr.pcover 4 2 1 1 0 7).wf = false := by decide
/-- R340: the operations of PBLEND_C. -/
theorem test_refuses_pblend : (Instr.pblendC false 1 2 0 3 .over).wf = false := by decide
/-- R339: a store to a lit plane. -/
theorem test_refuses_plane : (Instr.pst 1 0 2 .lrg).wf = false ∧ (Instr.pstX 1 2 0 .lb).wf = false := by decide
/-- R278: VFPOP writes an even register and the next. -/
theorem test_refuses_vfpop : (Instr.vfpop 5 1).wf = false := by decide
/-- R220: a field inside the register. -/
theorem test_refuses_bit_field : (Instr.bfx 1 2 1 63).wf = false ∧ (Instr.bfxz 1 2 32 32).wf = false ∧ (Instr.bfi 1 2 63 1).wf = false := by decide
/-- R289: VABS of signed elements. -/
theorem test_refuses_vabs : (Instr.vabsInt 1 2 0 .z32).wf = false := by decide
/-- R293: H on the unpacking conversions and VB on the packing ones. -/
theorem test_refuses_vcvt : (Instr.vcvt 1 2 0 0 .f16f32 true).wf = false ∧ (Instr.vcvt 1 2 3 0 .f32f16 false).wf = false := by decide
/-- R299: bitwise reductions of binary32. -/
theorem test_refuses_vred : (Instr.vred 1 2 0 .opAnd .f32).wf = false := by decide
/-- R295: UN of integers, TST of floats. -/
theorem test_refuses_vcmp : (Instr.vcmp 1 2 3 0 .s32 false .un).wf = false ∧ (Instr.vcmp 1 2 3 0 .f32 false .tst).wf = false := by decide
/-- R297: the integer sum of bytes. -/
theorem test_refuses_vdot : (Instr.vdot 1 2 3 0 .f16 true false).wf = false := by decide

/-! ### Words -/

/-- Each word of a list reads as its instruction. -/
def readsAs (l : List (Nat × Instr)) : Bool := l.all fun e => decodeTableWord 32 e.1 == some e.2

/-- 07_encoding and the table: control and system. -/
theorem test_decodes_control_and_system : readsAs [
    (0x03441700, .sysr 20 1047), (0x02C83401, .sysw 12 2100), (0x039FB202, .sysx 25 4018), (0x02000004, .eret),
    (0x020F5605, .scall 3926), (0x02024B06, .bkpt 587), (0x02000007, .ppoint), (0x02000008, .ifence),
    (0x020C7509, .halt 3189), (0x02000011, .fence .column), (0x03C00020, .time 28), (0x05114E67, .wait 17 2 19 19 7),
    (0x06040F65, .br 266085), (0x07EC0BC3, .brc 7 true 789443), (0x099BCC0C, .jal 25 773132), (0x0BD29928, .jalr 29 5 6440),
    (0x0C07A6E5, .loop 15 9957)] = true := by decide

/-- 07_encoding and the table: memory and contexts. -/
theorem test_decodes_memory_and_contexts : readsAs [
    (0x0E613EF3, .ld 6 2 1 7 755), (0x11B2E8BB, .st 27 5 3 2 187), (0x130E23C6, .ldx 16 28 8 ⟨7, true⟩ 6),
    (0x14049D52, .redOp 9 7 ⟨2, true⟩ .opOr .z32), (0x140610D8, .redX 12 4 ⟨1, true⟩),
    (0x154A53E1, .amoSwap 20 20 20 ⟨7, true⟩ .s64), (0x14CBEFE6, .amoCas 12 23 27 ⟨7, true⟩ .z32),
    (0x152890EB, .amoAdd 18 17 4 ⟨1, true⟩ .z64), (0x16E01103, .vld 7 2 4 .e16 true), (0x16C01B8C, .vst 6 3 14 .e32),
    (0x17B60A93, .vlds 13 11 1 10 .e16 true), (0x166E139C, .vsts 3 7 2 14 .e32), (0x16E1DA63, .vgath 7 14 3 9 .e16 true),
    (0x17E11AEA, .vscat 15 8 3 11 .e16), (0x186202C0, .ctxnew 6 4 ⟨5, true⟩), (0x180A8241, .ctxset 21 ⟨4, true⟩),
    (0x18020142, .ctxfold 4 ⟨2, true⟩), (0x18098243, .ctxret 19 ⟨4, true⟩), (0x193382C4, .ctxq 19 7 ⟨5, true⟩),
    (0x1B629B43, .tlod 11 1 4 3 13 3), (0x1A51B44A, .tsmp 2 8 13 2 17 2), (0x1BCE0D50, .resq 14 7 1 21),
    (0x1BEE085C, .resw 15 7 1 1 true), (0x1A000760, .rmfence 29)] = true := by decide

/-- 07_encoding and the table: tasks, messages and engines. -/
theorem test_decodes_tasks_messages_and_engines : readsAs [
    (0x1CB0FFC0, .spawnr 11 1 31 ⟨7, true⟩), (0x1C0301C1, .spawnc 6 ⟨3, true⟩), (0x1C000002, .tend), (0x1C068003, .await 13),
    (0x1C050144, .join 10 ⟨2, true⟩), (0x1CB1DDC5, .stamp 11 3 23 ⟨3, true⟩), (0x1C000006, .yield), (0x1E000004, .bar 4),
    (0x1E00000C, .barX 4), (0x1EEC0813, .barv 14 24 .opMax 3), (0x1E8C881C, .barvX 8 25 .opMax 4),
    (0x1E9003E3, .domq 9 ⟨7, true⟩ 3), (0x200BF8C0, .send 23 30 ⟨1, true⟩), (0x21C42C01, .recv 28 8 11),
    (0x20301DC2, .recvq 3 7 ⟨3, true⟩), (0x203F00C3, .rplay 3 30 ⟨1, true⟩), (0x23B88198, .xsend 27 17 408),
    (0x238040E8, .xrecv 24 232), (0x24000004, .mlease 4), (0x24000800, .mrel), (0x24001095, .mclr 2 1 1 1),
    (0x25961837, .mrot 25 12 55), (0x2539A000, .mrd 19 19), (0x2409A80E, .mrdv 19 14), (0x25AE5689, .mma 26 28 1 1 2 2 9),
    (0x271F8744, .cpy 17 31 1860), (0x27351290, .cpy2d 19 10 10 16), (0x2693AD03, .cpyg 9 7 3331),
    (0x27D632DC, .coll 29 12 .sumx 3 28)] = true := by decide

/-- 07_encoding and the table: pixels, FIFO and lanes. -/
theorem test_decodes_pixels_FIFO_and_lanes : readsAs [
    (0x28AA0000, .psetup 5 5), (0x2972EAC8, .pcover 11 9 1 3 1 11), (0x28503254, .pdepth 2 8 true 2 9 .gt),
    (0x285E311B, .pblend true 15 1 2 4 .opMax), (0x28742A1C, .pblendC true 10 1 1 8 .opMin), (0x282016A3, .pld 1 2 26 .lb),
    (0x29E01FA9, .pst 15 3 30 .db), (0x28D00831, .pstX 6 8 1 .db), (0x2A5F8000, .emit 5 31), (0x2A794000, .emitq 7 18),
    (0x2C040202, .vfpush 2 8 .w32h), (0x2D400148, .vfpop 10 5), (0x2C000210, .vffree 8),
    (0x2ECF0240, .vclaim 12 30 ⟨4, true⟩), (0x2E0000C1, .vrel ⟨1, true⟩)] = true := by decide

/-- 07_encoding and the table: scalar arithmetic and logic. -/
theorem test_decodes_scalar_arithmetic_and_logic : readsAs [
    (0x4191C540, .add 25 3 17 ⟨2, true⟩), (0x4029E741, .sub 2 19 25 ⟨6, true⟩), (0x415BDAC2, .and 21 23 22 ⟨5, true⟩),
    (0x41C7FAC3, .or 28 15 30 ⟨5, true⟩), (0x419675C4, .xor 25 12 29 ⟨3, true⟩), (0x418769C5, .andn 24 14 26 ⟨3, true⟩),
    (0x407617C6, .orn 7 12 5 ⟨7, true⟩), (0x40F0C9C8, .sll 15 1 18 ⟨3, true⟩), (0x40AAFDC9, .srl 10 21 31 ⟨3, true⟩),
    (0x402B3A4A, .sra 2 22 14 ⟨4, true⟩), (0x4032C64B, .rol 3 5 17 ⟨4, true⟩), (0x411F0CCC, .ror 17 30 3 ⟨1, true⟩),
    (0x41C9A350, .min 28 19 8 ⟨6, true⟩), (0x40165751, .max 1 12 21 ⟨6, true⟩), (0x409A62D2, .minz 9 20 24 ⟨5, true⟩),
    (0x419C5ED3, .maxz 25 24 23 ⟨5, true⟩), (0x40E2B35D, .addsh 14 5 12 ⟨6, true⟩ 5),
    (0x41FD8262, .sext 31 27 ⟨4, true⟩ .w32), (0x41A680E6, .zext 26 13 ⟨1, true⟩ .w32), (0x40F882E8, .clz 15 17 ⟨5, true⟩),
    (0x40FE03E9, .ctz 15 28 ⟨7, true⟩), (0x41A982EA, .popc 26 19 ⟨5, true⟩), (0x40CC826B, .bswap 12 25 ⟨4, true⟩),
    (0x409EB2F0, .sel 9 29 12 5 true)] = true := by decide

/-- 07_encoding and the table: scalar immediates and products. -/
theorem test_decodes_scalar_immediates_and_products : readsAs [
    (0x43BD9DC6, .addi 27 27 7622), (0x45FF8ABA, .andi 31 31 2746), (0x467D7E7E, .ori 7 26 32382),
    (0x497BA6DF, .xori 23 23 9951), (0x4A688025, .slli 6 17 37), (0x4B83101E, .srli 24 6 30), (0x4B012015, .srai 16 2 21),
    (0x4B873005, .roli 24 14 5), (0x4AC2C012, .rori 12 5 18), (0x4D5C0881, .ldhi 21 788609),
    (0x4E49E3C1, .cmp 4 19 24 ⟨7, true⟩ .ne), (0x507CDD7D, .cmpi 7 25 .gez 3453), (0x53DEAD40, .mul 29 29 11 ⟨2, true⟩),
    (0x53D812C1, .mulh 29 16 4 ⟨5, true⟩), (0x527CB9C2, .mulhz 7 25 14 ⟨3, true⟩), (0x528A47C4, .div 8 20 17 ⟨7, true⟩),
    (0x535D2345, .divz 21 26 8 ⟨6, true⟩), (0x52FE4BC6, .rem 15 28 18 ⟨7, true⟩), (0x52B906C7, .remz 11 18 1 ⟨5, true⟩)] = true := by decide

/-- 07_encoding and the table: scalar floating point and bit fields. -/
theorem test_decodes_scalar_floating_point_and_bit_fields : readsAs [
    (0x5484D3C0, .fadd 8 9 20 ⟨7, true⟩), (0x55082A41, .fsub 16 16 10 ⟨4, true⟩), (0x54C59EC2, .fmul 12 11 7 ⟨5, true⟩),
    (0x55E212C3, .ffma 30 4 4 ⟨5, true⟩), (0x548E79C4, .fmin 8 28 30 ⟨3, true⟩), (0x542CC7C5, .fmax 2 25 17 ⟨7, true⟩),
    (0x55E48146, .fabs 30 9 ⟨2, true⟩), (0x55A68347, .fneg 26 13 ⟨6, true⟩), (0x546838C9, .fcmp 6 16 14 ⟨1, true⟩ .lt),
    (0x556D8356, .fcvt 22 27 ⟨6, true⟩ .bf16f32), (0x58A60702, .bfx 10 12 28 2), (0x59F521B8, .bfxz 31 10 6 56),
    (0x593C45E4, .bfi 19 24 23 36)] = true := by decide

/-- 07_encoding and the table: vector integers. -/
theorem test_decodes_vector_integers : readsAs [
    (0x60C48980, .vaddInt 6 2 4 1 .z32 true), (0x61AD1B81, .vsubInt 13 6 8 3 .z16 true),
    (0x613C9382, .vmulInt 9 14 4 2 .z16 true), (0x61314983, .vmulh 9 8 10 1 .z32 true),
    (0x61F49384, .vminInt 15 10 4 2 .z16 true), (0x60977385, .vmaxInt 4 11 11 2 .z16 true),
    (0x6119B186, .vand 8 12 13 2 .z32 true), (0x60EAD987, .vor 7 5 6 3 .z32 true), (0x61B83288, .vxor 13 12 1 2 .s16 true),
    (0x61663989, .vandn 11 3 1 3 .z32 true), (0x60CFB98A, .vsll 6 7 13 3 .z32 true), (0x61BAD98B, .vsrl 13 13 6 3 .z32 true),
    (0x60D6D38C, .vsra 6 11 6 2 .z16 true), (0x604DD28D, .vadds 2 6 14 2 .s16 true), (0x60FDF38E, .vsubs 7 14 15 2 .z16 true),
    (0x604C0A0F, .vabsInt 2 6 1 .s16), (0x60F62A90, .vdiv 7 11 1 1 .s16 true), (0x61B05191, .vrem 13 8 2 2 .z32 true),
    (0x6043B192, .vmerge 2 1 13 2 .z32 true)] = true := by decide

/-- 07_encoding and the table: vector floating point. -/
theorem test_decodes_vector_floating_point : readsAs [
    (0x634E5680, .vaddFp 10 7 2 2 .bf16 true), (0x6305AD81, .vsubFp 8 2 13 1 .f16 true),
    (0x62D96D82, .vmulFp 6 12 11 1 .f16 true), (0x6223B683, .vfma 1 1 13 2 .bf16 true),
    (0x62B90D84, .vfms 5 12 8 1 .f16 true), (0x63B30E85, .vminFp 13 9 8 1 .bf16 true),
    (0x626D3686, .vmaxFp 3 6 9 2 .bf16 true), (0x62D01507, .vabsFp 6 8 2 .f16), (0x62F60D08, .vneg 7 11 1 .f16),
    (0x63E60E09, .vrndi 15 3 1 .bf16), (0x642000E0, .vcvt 1 0 0 0 .f32bf16 false), (0x643A09C0, .xtof 1 13 1),
    (0x66FC1600, .vrcp 7 14 2 .bf16), (0x66461E01, .vrsq 2 3 3 .bf16), (0x673E1D02, .vexp2 9 15 3 .f16),
    (0x66D01E03, .vlog2 6 8 3 .bf16), (0x66960D04, .vsin 4 11 1 .f16), (0x66301E05, .vcos 1 8 3 .bf16)] = true := by decide

/-- 07_encoding and the table: vector reductions, comparisons and transfers. -/
theorem test_decodes_vector_reductions_comparisons_and_transfers : readsAs [
    (0x68440850, .vred 2 2 1 .opMax .f32), (0x69B5E900, .vperm 13 10 15 1), (0x684C1AA4, .vslide 2 6 3 true 36),
    (0x697A133F, .vbcast 11 13 2 63), (0x68200C00, .viota 1 1), (0x6A2ED483, .vcmp 1 7 6 2 .f32 true .le),
    (0x6D1F3AC0, .vdot 8 15 9 3 .s8 true true), (0x6FE003C7, .vins 15 15 7), (0x6E1A216B, .vextS32 13 5 43),
    (0x6F005240, .vsplat 8 2 9), (0x6E6061C0, .vinsK 3 7), (0x6E028540, .vextK 1 21), (0x6E08A1FE, .vextZ32 4 7 62)] = true := by decide

/-! ### Small states -/

/-- Thread 0 of column 0, of the only partition, which has every role, its code page and a trap handler. -/
def ctl : State := { State.reset.withFetchWord 32 0x46000000 with sched := [] }
/-- The service thread of its core, D0 of its drive core, and D0's service thread. -/
def svc : State := { ctl with cur := ⟨0, 24⟩ }
def drv : State := { ctl with cur := ⟨0, 32⟩ }
def dsv : State := { ctl with cur := ⟨0, 33⟩ }
/-- Thread 0 with 8 lanes. -/
def vec : State := ctl.upd fun th => { th with vl := 8 }
/-- A state with two scalar registers set. -/
def regs (s : State) (x y : Word) : State := (s.ws 1 x).ws 2 y
/-- What an instruction leaves in s3. -/
def s3 (i : Instr) (s : State) : Option Word := match exec i s with | .next t => some (t.rs 3) | _ => none
/-- What an instruction leaves in s3, of two operands in s1 and s2. -/
def of2 (i : BitVec 5 → BitVec 5 → BitVec 5 → Guard → Instr) (x y : Word) : Option Word := s3 (i 3 1 2 g0) (regs ctl x y)
/-- The cause with which an instruction traps. -/
def traps (i : Instr) (s : State) : Option Nat := match exec i s with
  | .next t => if t.th.park == .trap then some t.th.tcause.toNat else none
  | _ => none

/-! ### Single steps -/

/-- R210: addition wraps. -/
theorem test_add_wraps : of2 .add 0xFFFFFFFFFFFFFFFF 2 = some 1 := by decide
/-- R210: subtraction wraps. -/
theorem test_sub_wraps : of2 .sub 1 2 = some 0xFFFFFFFFFFFFFFFF := by decide
/-- R210: the signed minimum. -/
theorem test_min_signed : of2 .min 0xFFFFFFFFFFFFFFFF 1 = some 0xFFFFFFFFFFFFFFFF := by decide
theorem test_minz_unsigned : of2 .minz 0xFFFFFFFFFFFFFFFF 1 = some 1 := by decide
/-- R210: a shift takes bits 5:0 of its count. -/
theorem test_sll_count : of2 .sll 1 65 = some 2 := by decide
theorem test_sra_sign : of2 .sra 0x8000000000000000 63 = some 0xFFFFFFFFFFFFFFFF := by decide
/-- R217: the high half of a product. -/
theorem test_mulh : of2 .mulh 0xFFFFFFFFFFFFFFFF 2 = some 0xFFFFFFFFFFFFFFFF := by decide
theorem test_mulhz : of2 .mulhz 0xFFFFFFFFFFFFFFFF 2 = some 1 := by decide
/-- R181: division by zero, and the quotient that leaves the range. -/
theorem test_div_zero : of2 .div 7 0 = some 0xFFFFFFFFFFFFFFFF ∧ of2 .rem 7 0 = some 7 := by decide
theorem test_div_min : of2 .div 0x8000000000000000 0xFFFFFFFFFFFFFFFF = some 0x8000000000000000 ∧
    of2 .rem 0x8000000000000000 0xFFFFFFFFFFFFFFFF = some 0 := by decide
/-- R218: 1.0 + 2.0 = 3.0, and the exact sum is rounded once: 1.0 + 2^-24 is a tie to even. -/
theorem test_fadd : of2 .fadd 0x3F800000 0x40000000 = some 0x40400000 := by decide
theorem test_fadd_tie : of2 .fadd 0x3F800000 0x33800000 = some 0x3F800000 := by decide
/-- R176: opposed infinities give the canonical NaN. -/
theorem test_fadd_nan : of2 .fadd 0x7F800000 0xFF800000 = some 0x7FC00000 := by decide
/-- R177: FMIN takes the number. -/
theorem test_fmin_nan : of2 .fmin 0x7FC00000 0x3F800000 = some 0x3F800000 := by decide
/-- R197: a write to s0 is ignored. -/
theorem test_s0_stays : (match exec (.addi 0 0 5) ctl with | .next t => t.rs 0 | _ => 1) = 0 := by decide
/-- R214: LDHI shifts by 15. -/
theorem test_ldhi : s3 (.ldhi 3 1) ctl = some 0x8000 := by decide
/-- R220: BFX sign-extends. -/
theorem test_bfx : s3 (.bfx 3 1 4 3) (regs ctl 0xF0 0) = some 0xFFFFFFFFFFFFFFFF ∧ s3 (.bfxz 3 1 4 3) (regs ctl 0xF0 0) = some 15 := by decide
/-- R223: BRC with offset -4 words branches back to its own address less 16. -/
theorem test_brc_back : (match exec (.brc 1 true 0x1FFFFC) (ctl.upd fun th => { th with ipc := 0x1000, pc := 0x1004 }) with
    | .next t => t.th.pc | _ => 0) = 0xFF0 := by decide
/-- R282: no lanes, no vectors (0x12). -/
theorem test_lane_claim : traps (.vaddInt 1 2 3 0 .s32 false) ctl = some 0x12 := by decide
/-- R357: SCALL is cause 0x15, with its code in TADDR. -/
theorem test_scall : (match exec (.scall 17) ctl with | .next t => (t.th.tcause.toNat, t.th.taddr) | _ => (0, 0)) = (0x15, 17) := by decide
/-- R194: ERET at the general level is PRIV (0x13); R12: a drive instruction on a control core is illegal (0x01). -/
theorem test_priv : traps .eret ctl = some 0x13 ∧ traps (.emit 1 2) ctl = some 0x01 := by decide
/-- R231: a load that leaves its line is misaligned (0x03), and one past 2^48 is out of range (0x04). -/
theorem test_load_traps : traps (.ld 3 1 0 3 0) (regs ctl 60 0) = some 0x03 ∧ traps (.ld 3 1 0 3 0) (regs ctl 0xFFFFFFFFFFF9 0) = some 0x04 := by decide
/-- R199, R200: a load raises the load counter; at 31 it waits. -/
theorem test_load_counts : (match exec (.ld 3 1 0 3 0) (regs ctl 64 0) with | .next t => t.th.cntLd | _ => 0) = 1 ∧
    (match exec (.ld 3 1 0 3 0) ((regs ctl 64 0).upd fun th => { th with cntLd := 31 }) with | .next t => t.th.run | _ => .idle) = .stalled := by decide
/-- R66: VCLAIM of 4 groups of 8 free ones is granted whole, and of 9 is illegal. -/
theorem test_vclaim : (match exec (.vclaim 3 1 g0) (regs ctl 4 0) with | .next t => (t.rs 3, t.th.vl) | _ => (0, 0)) = (4, 32) ∧
    traps (.vclaim 3 1 g0) (regs ctl 9 0) = some 0x01 := by decide
/-- R289: 16-bit lanes do not carry into each other. -/
theorem test_vadd_16 : (match exec (.vaddInt 1 2 3 0 .s16 false)
      ((vec.wvs 2 [0] fun _ => 0x0001FFFF#32).wvs 3 [0] fun _ => 0x00010001#32) with | .next t => t.rv 1 0 | _ => 0) = 0x00020000#32 := by decide
/-- R354: SYSR of VL on a drive core reads 16. -/
theorem test_sysr_vl : s3 (.sysr 3 0) drv = some 16 := by decide
/-- R367: at 70 °C with 10 mV of droop READING is 90 and TEMP 0x460. -/
theorem test_thsense : s3 (.sysr 3 0x032) (ctl.updCol 0 fun c => { c with temp := 0x460, droop := 10 }) = some 0x000A0460005A := by decide
/-- R343: an emission of 256 by 1 pixels does not fit: its region word is illegal. -/
theorem test_emit_region : traps (.emit 1 2) (regs drv 100 0) = some 0x01 := by decide
/-- R433: an error of +4,000 ticks is withheld, and REFSTAT reads slewing; within 5, locked. -/
theorem test_reference : (match exec (.referencePulse 1) { ctl with almanac := 1000004000 } with | .next t => (t.ref.state, t.ref.slew) | _ => (9, 0)) = (1, -4000) ∧
    (match exec (.referencePulse 1) { ctl with almanac := 1000000005 } with | .next t => t.ref.state | _ => 9) = 2 := by decide
/-- Log 1: a placed word is fetched and runs: ADD s3, s1, s2 as the first instruction. -/
theorem test_step_runs : (match step ((State.reset.withFetchWord 32 0x40308800).upd fun th => (th.ws 1 5).ws 2 6) with
    | .next t => (t.thread ⟨0, 0⟩).rs 3 | _ => 0) = 11 := by decide

/-! ### States that meet the statements' hypotheses, clause by clause -/

theorem test_meets_DecodeOfEncode : (Instr.ld 31 31 3 7 1023).wf = true ∧ encodeNat (.ld 31 31 3 7 1023) = some 0x0FFFFFFF ∧
    (Instr.loop 31 16383).wf = true ∧ encodeNat (.loop 31 16383) = some 0x0C0FBFFF := by decide
theorem test_meets_StepsKeepMemoryCanonical : State.reset.memOk = true ∧ ∃ t, step { State.reset with sched := [.tick 1] } = .next t :=
  ⟨by decide, _, rfl⟩
theorem test_meets_FloorNeverFalls : ∃ t, step { State.reset with sched := [.ev .deviceReset] } = .next t := ⟨_, rfl⟩

/-- One word, and a pair of two words, at the pc of a thread that may run. -/
def one : State := State.reset.withFetchWord 32 0x40308800
def two : State := { one with cellar := mwrite one.cellar 0x10000 (leBytes 8 0x428400018E728810) }
theorem test_meets_StepsRunDecoded : one.sched = [.run ⟨0, 0⟩] ∧ State.mayRun { one with sched := [] } ⟨0, 0⟩ = true ∧
    (one.thread ⟨0, 0⟩).pc.toNat % 8 = 0 ∧ (one.thread ⟨0, 0⟩).buffered (one.thread ⟨0, 0⟩).pc.toNat = none ∧
    State.readPair ({ one with sched := [], cur := ⟨0, 0⟩ }.noteIssue ⟨0, 0⟩) ⟨0, 0⟩ (one.thread ⟨0, 0⟩).pc.toNat = .ok 0x40308800 ∧
    decodeNat 0x40308800 = some (.add 3 1 2 g0) ∧ decodeTrap (.add 3 1 2 g0) one = none ∧ one.th.out = [] ∧
    one.readsOut ⟨0, 0⟩ (one.needs (.add 3 1 2 g0)) = false := by decide
theorem test_meets_StepsRunDecoded_second : (0x40308800 * 2 ^ 32 + 0x46000000) / 2 ^ 31 % 2 = 0 ∧
    (one.upd fun th => { th with pc := 4, ibuf := [(0, BitVec.ofNat 64 (0x40308800 * 2 ^ 32 + 0x46000000))] }).th.buffered 4 =
      some (0x40308800 * 2 ^ 32 + 0x46000000) := by decide
theorem test_meets_StepsRunDecoded_pair : 0x428400018E728810 / 2 ^ 31 % 2 = 1 ∧ 0x428400018E728810 / 2 ^ 32 < 2 ^ 31 ∧
    State.readPair ({ two with sched := [], cur := ⟨0, 0⟩ }.noteIssue ⟨0, 0⟩) ⟨0, 0⟩ (two.thread ⟨0, 0⟩).pc.toNat = .ok 0x428400018E728810 ∧
    two.bundleTrap (0x428400018E728810 % 2 ^ 31) (0x428400018E728810 / 2 ^ 32) (.ld 7 5 0 2 16) (.addi 8 8 1) = none ∧
    decodeNat (0x428400018E728810 % 2 ^ 31) = some (.ld 7 5 0 2 16) ∧ decodeNat (0x428400018E728810 / 2 ^ 32) = some (.addi 8 8 1) := by decide
theorem test_meets_StepsRunDecoded_traps : decodeNat 0x7FFFFFFF = none ∧ (0xFFFFFFFF : Nat) / 2 ^ 31 % 2 = 1 ∧ (4 : Nat) % 8 ≠ 0 ∧
    two.bundleTrap 0x40308800 0x42840001 (.add 3 1 2 g0) (.addi 8 8 1) = some .illegalBundle := by decide

/-- A general and a drive thread, an always-true guard and a false one. -/
theorem test_meets_ScalarArithmetic : threadOk ctl.cur = true ∧ threadOk drv.cur = true ∧ ctl.guardTrue g0 = true ∧
    ctl.guardTrue ⟨1, false⟩ = false ∧ (0 : BitVec 6).toNat + (63 : BitVec 6).toNat + 1 ≤ 64 := by decide
theorem test_meets_ScalarBitsAndProducts : threadOk ctl.cur = true ∧ ctl.guardTrue g0 = true ∧ ctl.rs 2 = 0 ∧
    (regs ctl (BitVec.intMin 64) (BitVec.allOnes 64)).rs 1 = BitVec.intMin 64 ∧
    (regs ctl (BitVec.intMin 64) (BitVec.allOnes 64)).rs 2 = BitVec.allOnes 64 ∧ (regs ctl 7 2).rs 2 ≠ 0 := by decide
theorem test_meets_Comparisons : threadOk ctl.cur = true ∧ ctl.guardTrue g0 = true ∧ f32.decode 0x7FC00000 = .nan ∧
    f32.decode 0x7F800000 = .inf false ∧ f32.decode 0xFF800000 = .inf true ∧ f32.decode 0x3F800000 = .num false (2 ^ 23) (-23) ∧ (Instr.fcmp 1 2 3 g0 .un).wf = true ∧
    ctl.guardTrue ⟨1, false⟩ = false := by decide
theorem test_meets_FloatRounding : (255 : Nat) < 256 ∧ (2 ^ 23 - 1 : Nat) < 2 ^ 23 ∧ (1 : Nat) ≠ 0 ∧ roundAt .rne false 3 0 1 = 2 ∧
    roundAt .rtz true 3 0 1 = 1 ∧ roundAt .rdn true 3 0 1 = 2 ∧ roundAt .rup false 3 0 1 = 2 := by decide
theorem test_meets_ScalarFloats : threadOk ctl.cur = true ∧ ctl.guardTrue g0 = true ∧ f32.decode 0x7FC00000 = .nan ∧
    f32.decode 0x3F800000 ≠ .nan ∧ (f32.decode 0x3F800000).lt? (f32.decode 0x40000000) = some true ∧
    (f32.decode 0xFF800000).lt? (f32.decode 0x7F800000) = some true ∧ (regs ctl (2 ^ 31) 0).rs 1 = 2 ^ 31 := by decide
theorem test_meets_VectorIntegers : threadOk ctl.cur = true ∧ ctl.th.vl = 0 ∧ threadOk vec.cur = true ∧ vec.th.vl ≠ 0 ∧
    vec.actives 0 = [0, 1, 2, 3, 4, 5, 6, 7] ∧ drv.th.vl ≠ 0 ∧ (drv.actives 0).length = 16 := by decide
theorem test_meets_VectorFloats : threadOk vec.cur = true ∧ vec.th.vl ≠ 0 ∧ threadOk drv.cur = true ∧ drv.th.vl ≠ 0 := by decide
theorem test_meets_SpecialFunctions : threadOk vec.cur = true ∧ vec.th.vl ≠ 0 ∧ (1 : Nat) * 2 ^ ((8 : Int).toNat) < 512 ∧ (3 : Nat) ≠ 0 ∧
    (5 : Int) % 2 = 1 ∧ (4 : Int) % 2 ≠ 1 := by decide
theorem test_meets_VectorConversions : threadOk vec.cur = true ∧ vec.th.vl ≠ 0 := by decide
theorem test_meets_VectorComparisonsAndDots : threadOk vec.cur = true ∧ vec.th.vl ≠ 0 := by decide
theorem test_meets_CrossLaneAndTransfers : threadOk vec.cur = true ∧ vec.th.vl ≠ 0 ∧ vec.actives 1 = [] ∧ vec.actives 0 ≠ [] ∧
    f32.decode (vec.rv 1 0).toNat ≠ .nan ∧ (Instr.vperm 15 15 15 3).wf = true := by decide

theorem test_meets_ControlTransfers : threadOk ctl.cur = true ∧ ctl.rp 1 = false ∧ ctl.rp 0 = true := by decide
/-- No loop, one loop that a body ends inside or at, and two. -/
def looped (n : Nat) : State := regs (ctl.upd fun th => { th with ipc := 0x1000, loops := List.replicate n ⟨0x1008, 0x1010, 2⟩ }) 3 0
theorem test_meets_HardwareLoops : threadOk ctl.cur = true ∧ isDrive ctl.cur = false ∧ (looped 0).th.loops = [] ∧ (looped 0).rs 1 ≠ 0 ∧
    (looped 0).rs 2 = 0 ∧ (looped 1).th.loops = [⟨0x1008, 0x1010, 2⟩] ∧ 0x1000 + 8 * 1 < (0x1010 : Word).toNat ∧
    ¬ (0x1000 + 8 * 2 < (0x1010 : Word).toNat) ∧ (looped 2).th.loops.length = 2 := by decide
theorem test_meets_HardwareLoops_end : let th := { (looped 1).th with ipc := 0x1014, held := false, taken := false }
    th.loops = [⟨0x1008, 0x1010, 2⟩] ∧ th.park ≠ .trap ∧ (0x1010 : Word) = th.ipc - BitVec.ofNat 64 (th.ipc.toNat % 8) ∧
    th.ipc.toNat % 8 / 4 = 1 ∧ th.run ≠ .waiting ∧ th.run ≠ .stalled ∧ th.park ≠ .preempt .waiting ∧
    ({ th with run := .waiting, pc := 0x1018 }).run = .waiting ∧ false = decide (({ th with pc := 0x1018 }).pc = th.ipc + 8) := by decide
theorem test_meets_WaitsFencesLanes : threadOk ctl.cur = true ∧ isDrive ctl.cur = false ∧ ctl.th.out = [] ∧ ctl.th.engFaults = [] ∧
    ctl.th.cntLd = 0 ∧ ctl.th.cntSt = 0 ∧ ctl.th.cntCp = 0 ∧ ctl.th.cntTl = 0 ∧ ctl.th.cntFx = 0 ∧ ctl.th.preReq = none ∧
    (ctl.upd fun th => { th with cntLd := 1 }).th.cntLd ≠ 0 ∧ ctl.guardTrue g0 = true ∧ (regs ctl 8 0).rs 1 = 8 ∧ (regs ctl 9 0).rs 1 = 9 := by decide
/-- A thread with a store behind a faulted load, and with a load behind a faulted store. -/
def deferred (first second : AccOp) : State := ctl.upd fun th => { th with
  out := [⟨7, first, [⟨0, Config.imgWindow, 8, 5⟩], 0, [], .fault .protection Config.imgWindow false, false⟩, ⟨8, second, [⟨0, 0x40, 8, 5⟩], 0, [], .pending, false⟩]
  cntLd := 1, cntSt := 1 }
theorem test_meets_WaitsFencesLanes_faults : let s := deferred (.ld 3 true) .st
    let u := deferred .st (.ld 3 true)
    (s.th.out.head?.map fun a => a.op.isLoad) = some true ∧ (0 : BitVec 5).toNat < s.th.cntLd ∧
    (∀ b ∈ u.th.out, b.op.isLoad = true → b.status = .pending ∨ u.th.cntLd ≤ 0) ∧ (0 : BitVec 5).toNat < u.th.cntSt ∧
    (∀ b ∈ s.th.out, b.status ≠ .pending → ∀ a ∈ s.stuck s.cur (fun a => a.id == b.id),
      if a.op.isLoad then s.th.cntLd ≤ 1 else s.th.cntSt ≤ 0) := by decide +kernel
theorem test_meets_WaitsFencesLanes_short : let s := ctl.updThread ⟨0, 1⟩ fun th => { th with laneReq := 8, laneHeld := 4 }
    (s.thread ⟨0, 1⟩).laneHeld < (s.thread ⟨0, 1⟩).laneReq ∧ 1 ≠ s.cur.tid := by decide
theorem test_meets_WaitsFencesLanes_ppoint : let s := ctl.upd fun th => { th with preReq := some 0 }
    threadOk s.cur = true ∧ s.th.preReq ≠ none ∧ s.th.phase = none ∧ s.here.lease = none ∧ s.th.out = [] ∧ s.th.engFaults = [] ∧
    s.th.cntFx = 0 ∧ isDrive drv.cur = true ∧ drv.th.preReq = none := by decide

/-- The same states with another policy, with column 0 changed, and with another task. -/
def pol (s : State) (f : Policy → Policy) : State := s.updCurPart fun p => { p with pol := f p.pol }
def col (s : State) (f : Column → Column) : State := s.updCol s.cur.ca f
def tasked (s : State) (o c : Bool) : State :=
  s.upd fun th => { th with task := some ⟨⟨0, 0, 0, 5, o, false, c, if o then 1 else 0, 0, 0, 0, 0, 0, 0⟩, []⟩ }

/-- One access, pending. -/
def pendingAcc (op : AccOp) : State := ctl.upd fun th => { th with out := [⟨7, op, [⟨0, Config.imgWindow, 8, 5⟩], 0, [], .pending, false⟩], cntSt := 1 }
/-- A home scratch, an address in the image, and one in another column's scratch. -/
def home : Nat := Config.homeBase
theorem test_reaches : ctl.reaches 56 8 1 ∧ ctl.reaches (home + 0xFFFF8) 8 8 := by unfold State.reaches State.scratchOpen; decide
theorem test_meets_ScalarAccesses : threadOk ctl.cur = true ∧ ctl.guardTrue g0 = true ∧ ctl.th.cntLd < 31 ∧ ctl.th.cntSt < 31 ∧
    inScratch 56 = false ∧ ctl.th.ordered = false ∧ ctl.curPart.live 0 = true ∧ ctl.outside 0 = false ∧
    ((56 : Nat) : Int) = (ctl.rs 1).toNat + (7 : BitVec 10).toInt * (8 : Nat) := by decide
theorem test_meets_ScalarAccesses_traps : 2 ^ 48 < 0xFFFFFFFFFFF9 + 8 ∧ 64 < 60 % 64 + 8 ∧ 8 % 32 ≠ 0 ∧
    inScratch home = true ∧ inRemote home = false ∧ ctl.here.scratchHas (0x300000 - 8) 8 = false ∧
    inScratch (home + 0x300000 - 8) = true ∧ inRemote (Config.scratchBase + 8 * 2 ^ 22) = true ∧
    remoteCa (Config.scratchBase + 8 * 2 ^ 22) = 8 ∧ ctl.curPart.pol.has 8 = false ∧ remoteHigh (Config.scratchBase + 8 * 2 ^ 22) = 0 := by decide
theorem test_meets_ScalarAccesses_order : ctl.coreTraps 0xFFFFFFFFFFF9 8 1 .addrRange ∧ ctl.coreTraps 60 8 1 .misaligned ∧
    ctl.coreTraps (home + 0x300000 - 8) 8 8 .scratchAbsent ∧ ctl.coreTraps (Config.scratchBase + 8 * 2 ^ 22) 8 8 .protection := by
  refine ⟨.inl ⟨rfl, .inl (by decide)⟩, .inr (.inl ⟨rfl, by decide, by decide⟩), .inr (.inr (.inl ⟨rfl, by decide, by decide, by decide, ?_⟩)),
    .inr (.inr (.inr ⟨rfl, by decide, by decide, ?_, by decide⟩))⟩
  · exact (by decide : ctl.here.scratchHas (home + 0x300000 - 8 - Config.homeBase) 8 = false)
  · exact fun h => (by decide : ¬ (remoteCa (Config.scratchBase + 8 * 2 ^ 22) ∈ ctl.retired ∨
      (ctl.col (remoteCa (Config.scratchBase + 8 * 2 ^ 22))).scratchHas (remoteOff (Config.scratchBase + 8 * 2 ^ 22)) 8 = false)) h.2
theorem test_meets_ScalarAccesses_rest : ((ctl.rs 1).toNat : Int) + (-1 : BitVec 10).toInt * (8 : Nat) < 0 ∧ ctl.curPart.live 9 = false ∧
    (tasked ctl true false).outside 0 = true ∧ (tasked ctl true false).th.ordered = true ∧ inScratch home = true ∧
    (∀ x ∈ (pendingAcc .st).th.out, x.status = .pending) ∧ (pendingAcc .st).th.cntSt ≠ 0 ∧ ctl.th.engFaults = [] := by decide +kernel
theorem test_meets_VectorAccesses_stops : ctl.th.vl = 0 ∧ vec.th.cntSt < 31 ∧ 1 ∈ vec.actives 0 ∧ (∀ m ∈ vec.actives 0, m < 1 → m = 0) ∧
    ((0 : Nat) : Int) + 1 * (-4 : Int) < 0 := by decide
theorem test_meets_VectorAccesses_refused : vec.reaches 60 4 1 ∧ vec.coreTraps 62 4 1 .misaligned := by
  exact ⟨by unfold State.reaches State.scratchOpen; decide, .inr (.inl ⟨rfl, by decide, by decide⟩)⟩
theorem test_meets_VectorAccesses : threadOk vec.cur = true ∧ vec.th.vl ≠ 0 ∧ vec.th.cntLd < 31 ∧
    (∀ i ∈ vec.actives 0, (((fun i => 4 * i) i : Nat) : Int) = (vec.rs 1).toNat + i * (4 : Nat)) ∧ inScratch 62 = false ∧ 64 < 62 % 64 + 4 := by decide
/-- A load of the code page and a store to home scratch, outstanding. -/
def flying (op : AccOp) (addr w : Nat) (d : List Dest) : State :=
  ctl.upd fun th => { th with out := [⟨7, op, [⟨0, addr, w, 5⟩], 0, d, .pending, false⟩], cntLd := 1, cntSt := 1 }
theorem test_meets_AccessesPerform : let s := flying (.ld 3 true) Config.imgWindow 8 [.s 3]
    s.accessOf ⟨0, 0⟩ 7 = some ⟨7, .ld 3 true, [⟨0, Config.imgWindow, 8, 5⟩], 0, [.s 3], .pending, false⟩ ∧
    s.canPerform ⟨0, 0⟩ ⟨7, .ld 3 true, [⟨0, Config.imgWindow, 8, 5⟩], 0, [.s 3], .pending, false⟩ = true ∧ (s.thread ⟨0, 0⟩).ordered = false ∧
    inScratch Config.imgWindow = false ∧
    (match s.judge ⟨0, 0⟩ (AccOp.ld 3 true).kind ((AccOp.ld 3 true).context 0) false false Config.imgWindow with
      | .ok x => x.back == .cellar 0x10000 && !s.poisoned 0 x.back
      | .error _ => false) = true := by decide
theorem test_meets_AccessesPerform_home : let s := flying .st (home + 64) 8 []
    s.canPerform ⟨0, 0⟩ ⟨7, .st, [⟨0, home + 64, 8, 5⟩], 0, [], .pending, false⟩ = true ∧ isDrive s.cur = false ∧
    s.scratchLock ⟨0, 0⟩ AccOp.st.kind (home + 64) 7 = false ∧ s.poison = [] := by decide

/-- A 1 by 1 map of one level, at Config.imgWindow: base 0x40000000, map 0x50000000. -/
def lodWord (base : Nat) : List Byte :=
  leBytes 8 base ++ leBytes 8 0x50000000 ++ leBytes 8 0 ++ leBytes 2 1 ++ leBytes 2 1 ++ [1, 0, 0]
def lod (base : Nat) : State := regs { vec with cellar := mwrite vec.cellar 0x10000 (lodWord base) } (BitVec.ofNat 64 Config.imgWindow) 0
def lodRead (base : Nat) : Option Nat := match (lod base).loadBase (lod base).cur Config.imgWindow 64 with
  | .ok (_, x) => some x
  | .error _ => none
def lodGrant : State := pol (lod 0x40000000) fun p => { p with reslo := 0x50000000, reshi := 0x60000000 }
theorem test_meets_Lookups : (lod 0x40000000).th.vl ≠ 0 ∧ (lod 0x40000000).th.cntLd < 31 ∧ (lod 0x40000000).th.cntSt < 31 ∧
    isDrive (lod 0x40000000).cur = false ∧ (lodRead 0x40000000).bind (lodDesc (lod 0x40000000).curPart.grbase) = some ⟨0x40000000, 0x50000000, 0, 1, 1, 1, 0, 0, 0⟩ ∧
    lodDesc 0 ((lodRead 0x40000001).getD 0) = none ∧ (lodRead 0x40000001).isSome ∧ (lod 1).actives 0 ≠ [] ∧
    ((lod 1).rv 1 0).toNat / 2 ^ 28 < 1 ∧ ((lod 1).rv 1 0).toNat % 2 ^ 28 < 1 * 1 ∧ ¬ 1 < 1 ∧
    lodGrant.curPart.pol.resid = true ∧ lodGrant.curPart.pol.reslo ≤ 0x50000000 ∧ 0x50000000 + (1 + 7) / 8 ≤ lodGrant.curPart.pol.reshi ∧
    lodGrant.th.ordered = false ∧ (tasked lodGrant true false).th.ordered = true ∧ lodGrant.th.out = [] ∧ ctl.th.vl = 0 ∧
    lodGrant.th.out.all (fun o => !o.op.isAmo) = true := by decide +kernel
theorem test_meets_Lookups_traps : lodGrant.reaches Config.imgWindow 64 1 ∧ vec.coreTraps 62 64 1 .misaligned := by
  exact ⟨by unfold State.reaches State.scratchOpen; decide +kernel, .inr (.inl ⟨rfl, by decide, by decide⟩)⟩

/-- Tag 2 live under base with one cell, tag 3 live at depth 3, tag 1 the own tag of an ordered task. -/
def tagged : State := (pol ctl fun p => { p with taglim := 6 }).updCurPart fun p => { p with
  tags := [(1, ⟨true, 0, 1⟩), (2, ⟨true, 0, 1⟩), (3, ⟨true, 2, 3⟩)]
  cells := [⟨2, Config.imgWindow / 64, 7, 3⟩] }
theorem test_meets_ContextTags : threadOk tagged.cur = true ∧ 4096 ≤ (regs tagged 4096 0 |>.rs 1).toNat ∧ tagged.rs 2 = 0 ∧
    tagged.curPart.live 4 = false ∧ tagged.curPart.tag 2 = some ⟨true, 0, 1⟩ ∧ tagged.curPart.tag 3 = some ⟨true, 2, 3⟩ ∧
    tmem tagged.parts tagged.pid = true ∧ (tagged.sweep tagged.pid).curPart.pol.taglim = 6 ∧ (tagged.sweep tagged.pid).curPart.pool ≠ 0 ∧
    (tagged.sweep tagged.pid).frontierWaits = false ∧ tagged.th.cntSt = 0 ∧ tagged.th.out = [] ∧
    (tasked tagged true false).th.ordered = true ∧ (tasked tagged true false).th.ownTag = 1 ∧
    (tasked tagged true false).curPart.below 1 4 2 = false ∧ (tasked tagged true false).curPart.below 1 4 1 = true ∧
    tagged.th.waited = false ∧ (tagged.upd fun th => { th with waited := true, preReq := some 0 }).mustPark tagged.cur = true ∧
    tagged.th.engFaults = [] ∧ tagged.th.cntLd = 0 ∧ tagged.th.cntCp = 0 ∧ tagged.th.cntTl = 0 ∧ tagged.th.cntFx = 0 := by decide +kernel
theorem test_meets_ContextTags_fold : tagged.engineNames tagged.pid 2 = false ∧
    (tagged.curPart.cells.filter fun c => c.tag == 2) = [⟨2, Config.imgWindow / 64, 7, 3⟩] ∧
    (match tagged.translate tagged.pid (Config.imgWindow / 64 * 64) with | .ok l => l.back == .cellar 0x10000 | .error _ => false) = true ∧
    tagged.curPart.below 2 4 3 = true ∧ tagged.engineNames tagged.pid 3 = false ∧ 0x10000 % 64 = 0 ∧ tagged.bad (0x10000 / 64) = false := by decide +kernel
theorem test_meets_ContextTags_clean : tagged.poison = [] := rfl

/-- Priority 1, class 0, at column 0; and eight slots already reserved. -/
def reserved (n : Nat) : State := regs ((pol ctl fun p => { p with qback := 0 }).updCurPart fun p => { p with
  slots := (upto n).map fun i => ⟨Config.queueBacking + 64 * i, ⟨0, 0⟩, 0, 0, 1, 0⟩ }) 0 1
theorem test_meets_Spawning : threadOk (reserved 7).cur = true ∧ isDrive (reserved 7).cur = false ∧ ((reserved 7).rs 2).toNat / 4 % 8 = 0 ∧
    (24 : Word).toNat / 4 % 8 = 6 ∧ caOk 0 = true ∧ (reserved 7).curPart.pol.has 0 = true ∧ 0 ∉ (reserved 7).retired ∧ caOk 4095 = false ∧
    caOk 8 = true ∧ (reserved 7).curPart.pol.has 8 = false ∧ ((reserved 7).curPart.slots.filter fun e => e.owner == (reserved 7).cur).length < 8 ∧
    8 ≤ ((reserved 8).curPart.slots.filter fun e => e.owner == (reserved 8).cur).length ∧ (reserved 7).th.waited = false ∧
    (reserved 7).queueFull 0 0 1 = false ∧ ((reserved 7).upd fun th => { th with wait := .spawn 8 1 }).th.wait = .spawn 8 1 ∧
    (reserved 7).queueFull 0 8 1 = false := by decide +kernel
theorem test_meets_Spawning_full : let s := reserved 7
    (s.updCurPart fun p => { p with slots := p.slots ++ (upto 25).map fun i => ⟨Config.queueBacking + 64 * (10 + i), ⟨0, 1⟩, 0, 0, 1, 0⟩ }).queueFull 0 0 1
      = true := by decide +kernel

/-- A slot of thread 0, empty or with a record whose reserved bit 12 of FLAGS is set. -/
def slotted (data : BitVec 512) : State := regs ((ctl.updCurPart fun p => { p with
  slots := [⟨Config.queueBacking, ⟨0, 0⟩, 0, 0, 1, data⟩] }).upd fun th => { th with resv := [Config.queueBacking] })
  (BitVec.ofNat 64 Config.queueBacking) 1
theorem test_meets_CommittingAndEnding : (slotted 0).heldSlot ((slotted 0).rs 1) = some ⟨Config.queueBacking, ⟨0, 0⟩, 0, 0, 1, 0⟩ ∧
    (slotted 0).heldSlot 64 = none ∧ (slotted 0).th.cntSt < 31 ∧ (slotted 0).th.out = [] ∧ (slotted 0).recordTrap 0 = none ∧
    (slotted 0).recordTrap (BitVec.ofNat 512 (2 ^ 268)) = some .illegalInstr ∧ (slotted 0).th.ordered = false ∧
    (tasked (slotted 0) true false).th.ordered = true ∧ inScratch 64 = false ∧ ((slotted 0).col 0).holder = some (slotted 0).pid ∧
    (((slotted 0).updCol 0 fun c => { c with holder := some 7 }).col 0).holder ≠ some (slotted 0).pid := by decide +kernel
theorem test_meets_CommittingAndEnding_end : ctl.th.task = none ∧ isDrive ctl.cur = false ∧ isService ctl.cur = false ∧ ctl.th.engFaults = [] ∧
    (tasked ctl false false).th.task = some ⟨⟨0, 0, 0, 5, false, false, false, 0, 0, 0, 0, 0, 0, 0⟩, []⟩ ∧ ctl.curPart.otaskOf 1 = none ∧
    ctl.here.lease = none ∧ (col ctl fun c => { c with lease := some (0, 4) }).here.lease = some (0, 4) ∧ ctl.th.preReq = none ∧
    (match ctl.awaitPage Config.imgWindow with
      | .ok x => (ctl.readLine ctl.pid x 0).toNat / 2 ^ (8 * 36) % 2 ^ 32 == 0
      | .error _ => false) = true := by decide +kernel
theorem test_meets_CommittingAndEnding_waits : let s := { ctl with cellar := mwrite ctl.cellar 0x10024 [1] }
    (match s.awaitPage Config.imgWindow with
      | .ok x => (s.readLine s.pid x 0).toNat / 2 ^ (8 * 36) % 2 ^ 32 == 1
      | .error _ => false) = true := by decide +kernel

/-- Thread 0 waits in barrier (2, 1), whose domain is its column, with a vote; and n more without. -/
def barred (n : Nat) : State :=
  let s := (col ctl fun c => { c with domid := 0x100 }).updCurPart fun p => { p with barWait := [((2, 1), 5)] }
  let s := s.updThread ⟨0, 0⟩ fun th => { th with run := .waiting, wait := .barrier 2 true (some (.opMax, 5, 3)) }
  s.each (upto n) fun s i => s.updThread ⟨0, i + 1⟩ fun th => { th with run := .waiting, wait := .barrier 2 true none }
theorem test_meets_BarriersAndVotes : isDrive ctl.cur = false ∧ ctl.th.ordered = false ∧ ctl.th.phase = none ∧ ctl.th.preReq = none ∧
    ctl.th.out = [] ∧ (ctl.upd fun th => { th with phase := some 0 }).th.phase ≠ none ∧
    (BitVec.truncate 3 (2 : Word)) = 2 ∧ decodeTrap (.barvX 3 1 .opMax 2) ctl = none ∧ decodeTrap (.domq 3 g0 4) ctl = none := by decide +kernel
/-- What lets it release, but for the columns that have arrived. -/
def mayRelease (s : State) : Bool := let ws := s.waiters 2 1 (s.domain (s.part 0).pol 2 1)
  (s.part 0).resident && ws != [] && ws.all (fun t => (s.thread t).cntSt == 0) && s.orderedDone 0 ws && s.mayRelease 0 2 1
theorem test_meets_BarriersAndVotes_release : mayRelease (barred 0) = true ∧ mayRelease (barred 1) = true ∧
    (barred 0).waiters 2 1 [0] = [⟨0, 0⟩] ∧ (barred 0).domain ((barred 0).part 0).pol 2 1 = [0] ∧ [0].Nodup ∧
    (barred 0).voteOf ⟨0, 0⟩ = (true, some (.opMax, 5, 3)) ∧ (barred 1).voteOf ⟨0, 1⟩ = (true, none) ∧
    (∀ n < 24, (barred 0).barrierOf ⟨0, n⟩ = some (2, 1) ∨ (((barred 0).thread ⟨0, n⟩).run = .idle ∧ (barred 0).poppable 0 0 = false)) ∧
    mayRelease ctl = false := by decide +kernel
theorem test_meets_BarriersAndVotes_more : ((barred 0).part 0).here = true ∧ (barred 0).th.cntLd = 0 ∧ ((barred 0).sweep 0).orderedDone 0 [⟨0, 0⟩] = true ∧
    (barred 0).voteOf ⟨0, 0⟩ ≠ (false, none) ∧ ((barred 0).voteOf ⟨0, 0⟩).2.map (fun e => e.1) ≠ ((barred 1).voteOf ⟨0, 1⟩).2.map (fun e => e.1) ∧
    (deferred (.ld 3 true) .st).waitFault ⟨0, 0⟩ 0 0 = (deferred (.ld 3 true) .st).th.out.head? := by decide +kernel
theorem test_meets_BarriersAndVotes_watchdog : let s := (pol (barred 0) fun p => { p with barwd := 3 })
    ((s.part 0).barWait.find? fun b => b.1 == (2, 1)) = some ((2, 1), 5) ∧ s.waiters 2 1 (s.heldBy 0) ≠ [] ∧
    5 + 1000 * (s.part 0).pol.barwd < ({ s with almanac := 3006 } : State).now ∧ s.now ≤ 5 + 1000 * 3 ∧
    ((barred 0).part 0).pol.barwd = 0 := by decide +kernel

/-- A message from the home scratch at offset 64 to the header column 0, channel 1; and to a drive core, channel 2. -/
def sending (w : Word) : State := regs ctl (BitVec.ofNat 64 (home + 64)) w
theorem test_meets_Messages : decodeTrap (.send 1 2 g0) ctl = none ∧ ctl.th.cntFx < 31 ∧ inRemote (home + 65) = false ∧
    (home + 65) % 64 ≠ 0 ∧ inScratch 64 = false ∧ inScratch (home + 64) = true ∧ inRemote (home + 64) = false ∧
    ((sending 0x10000).rs 2).toNat / 65536 % 16 = 1 ∧ caOk 4095 = false ∧ caOk 0 = true ∧ ctl.curPart.pol.pres = true ∧
    ctl.curPart.pol.has 0 = true ∧ 0 ∉ ctl.retired ∧ ctl.curPart.pol.has 9 = false ∧ ctl.th.out = [] ∧ ctl.presHolder = some 0 := by decide +kernel
theorem test_meets_Messages_reaches : (sending 0).reaches (home + 64) 64 64 ∧ (sending 0).reaches 64 64 64 := by
  unfold State.reaches State.scratchOpen; decide +kernel
/-- A message on channel 1, arrived in an inbox; and the image of one on the home scratch, spilled. -/
def msg : Msg := ⟨3, none, 0, false, BitVec.ofNat 128 (2 ^ 24), 9, 0, 0⟩
def inboxed (s : State) : State := col (regs s (BitVec.ofNat 64 (home + 64)) 0) fun c => { c with inbox := [msg], dinbox := [msg] }
def spilled (s : State) (n : Nat) : State := col (inboxed s) fun c => { c with
  inbox := List.replicate n msg, spill := tset c.spill 1 1, home := mwrite c.home 67 [1] }
theorem test_meets_Messages_receive : isService ctl.cur = false ∧ decodeTrap (.recv 3 1 16) svc = none ∧ decodeTrap (.recv 3 1 1) ctl = none ∧
    decodeTrap (.rplay 3 1 g0) svc = none ∧ decodeTrap (.recvq 3 1 g0) drv = none ∧ (home + 64) % 16 = 0 ∧ (home + 72) % 16 ≠ 0 ∧
    (inboxed ctl).here.inbox.head? = some msg ∧ msg.hdr.toNat / 2 ^ 24 % 16 = 1 ∧ ctl.here.inbox = [] ∧ svc.th.preReq = none ∧
    (mread (spilled svc 0).here.home 64 80).foldr (fun b x => b.toNat + 256 * x) 0 / 2 ^ 24 % 16 = 1 ∧
    tget (spilled svc 0).here.spill 1 0 = 1 ∧ tget svc.here.spill 1 0 = 0 ∧ (spilled svc 64).here.inbox.length = 64 := by decide +kernel

/-- Thread 0 in an exchange phase since tick 0; route: east, delivered at the first column, slot 2. -/
def phased : State := regs ({ ctl with almanac := 40 }.upd fun th => { th with phase := some 0 }) (BitVec.ofNat 64 (2 ^ 60 + 3 * 2 ^ 58 + 2)) 0
theorem test_meets_ExchangePhases : phased.th.cntFx < 31 ∧ (phased.rs 1).toNat / 2 ^ 60 = 1 ∧ (phased.rs 1).toNat / 2 ^ 58 % 4 = 3 ∧
    (∀ i < 24, 0 < i → (phased.rs 1).toNat / 2 ^ (58 - 2 * i) % 4 = 0) ∧
    phased.curPart.pol.route 0 1 [3] = ⟨[(0, 1)], [1], false⟩ ∧ phased.retiredLinks = [] ∧ phased.retired = [] ∧ phased.th.ordered = false ∧
    ¬ 0 + 20 * 2 < phased.now ∧ 0 + 20 * 1 < phased.now ∧ ({ phased.curPart.pol with roles := 3 } : Policy).route 0 3 [3] = ⟨[], [], true⟩ ∧ phased.curPart.pol.torus = true ∧
    ¬ 4096 ≤ 2 + (1 + 31) / 32 - 1 ∧ (BitVec.ofNat 64 (2 ^ 44) : Word).toNat = 2 ^ 44 := by decide +kernel
theorem test_meets_ExchangePhases_receive : phased.th.phase = some 0 ∧ ctl.th.phase = none ∧ phased.here.xcount = 0 ∧
    (phased.rs 2).toNat % 65536 ≤ phased.here.xcount ∧ ¬ (phased.rs 1).toNat % 65536 ≤ phased.here.xcount ∧
    0 + 20 * (2 : BitVec 14).toNat ≤ phased.now ∧ ¬ 0 + 20 * (3 : BitVec 14).toNat ≤ phased.now := by decide +kernel
theorem test_meets_ExchangePhases_route : let p := fetchPolicy
    p.rows = 4 ∧ p.cols = 8 ∧ p.originCol + p.cols ≤ 64 ∧ p.torus = true ∧ p.originRow = 0 ∧
    ({ p with roles := 3 } : Policy).torus = false ∧ 7 + 1 = p.cols := by decide +kernel
def moving (launched : Bool) (todo : List (Line × Bool)) (landing : List (Nat × Nat)) : State :=
  { phased with xfers := [⟨9, ⟨0, 0⟩, 0, 64, 1, 2, 0, [1], launched, List.replicate 64 5, todo, landing, [], false⟩] }
theorem test_meets_ExchangePhases_moves : (moving false [] []).xferOf 9 =
      some ⟨9, ⟨0, 0⟩, 0, 64, 1, 2, 0, [1], false, List.replicate 64 5, [], [], [], false⟩ ∧
    0 + 20 * 2 ≤ (moving false [] []).now ∧ (moving false [] []).performedBefore ⟨0, 0⟩ 9 = true ∧
    ((moving false [(.home 0 0, false)] []).xferOf 9).map (·.todo) ≠ some [] ∧ ((moving true [] []).col 1).xopen = [] ∧ [1].erase 1 = [] ∧
    [1, 2].erase 1 ≠ [] ∧ (((moving true [] []).updCol 1 fun c => { c with xopen := [0] }).col 1).xopen ≠ [] ∧ (moving true [] []).locks = [] ∧
    (∃ l ∈ ({ moving true [] [] with locks := [⟨.home 1 1, false, 4⟩] } : State).locks, l.line ∈ [scratchLine 1 64]) ∧
    ((moving true [] [(1, 12)]).xferOf 9).bind (fun f => f.landing.find? fun l => l.1 == 1) = some (1, 12) ∧
    (phased.thread ⟨0, 0⟩).preReq = none ∧ (phased.thread ⟨0, 0⟩).out = [] := by decide +kernel
/-- What XSEND asks of earlier commands and transfers, and of the locks. -/
theorem test_meets_ExchangePhases_earlier : phased.cmds = [] ∧ phased.xfers = [] ∧ phased.locks = [] ∧
    (∃ y ∈ (moving false [(.home 0 0, false)] []).xfers, y.t = phased.cur ∧ y.todo ≠ [] ∧ y.id < 10) := by decide +kernel
/-- A transfer whose source is poisoned loft; one that is to have landed, with its target open and shut. -/
theorem test_meets_ExchangePhases_poisoned : ({ phased with poison := [⟨.loft 0 0, 1, 0⟩] }.updCol 0 fun c => { c with ways := 2 }).rangeTaint ⟨0, 0⟩
      [(Config.homeBase + 0x100000, 64 * 1)] = some (.loft 0 0) ∧ phased.rangeTaint ⟨0, 0⟩ [(Config.homeBase + 0, 64 * 1)] = none := by decide +kernel
theorem test_meets_ExchangePhases_lands : let s : State := { moving true [] [] with almanac := 200, cur := ⟨1, 0⟩ }
    (s.xferOf 9).map (fun x => (decide (x.lines ≤ 32), x.clash, x.targets.contains s.cur.ca, decide (x.date + 60 ≤ s.now), s.mayLand x s.cur.ca)) =
      some (true, false, true, true, true) ∧ s.landingDue 1 = true ∧ s.landingDue 2 = false ∧
    (∃ x ∈ s.xfers, ∃ y ∈ s.xfers, y.date ≤ x.date) := by decide +kernel

theorem test_meets_VerticalFifo : decodeTrap (.vfpush 1 2 .w32) ctl = none ∧ ctl.th.cntFx < 31 ∧ ctl.th.ordered = false ∧
    ctl.curPart.pol.pres = true ∧ (pol ctl fun p => { p with roles := 2 }).curPart.pol.pres = false ∧ decodeTrap (.vfpop 4 1) drv = none ∧
    decodeTrap (.vffree 1) drv = none ∧ (col drv fun c => { c with fifo := [⟨3, ⟨0, 0⟩, 7, 1, 0⟩] }).here.fifo = [⟨3, ⟨0, 0⟩, 7, 1, 0⟩] ∧
    drv.here.fifo = [] ∧ (4 : BitVec 4).toNat % 2 = 0 ∧ drv.th.preReq = none := by decide +kernel
theorem test_meets_VerticalFifo_entry : let s := col ctl fun c => { c with pushes := [⟨3, ⟨0, 0⟩, 7, 1, 0⟩] }
    s.presHolder = some 0 ∧ (s.colOf 0 0).upReq = false ∧ ((s.updCol 0 fun c => { c with upReq := true }).colOf 0 0).upReq = true ∧
    (s.col 0).fifo.length < 16 ∧ (s.threadOf 0 ⟨0, 0⟩).doneBefore 3 = true ∧ (s.thread ⟨0, 0⟩).out = [] ∧ (s.thread ⟨0, 0⟩).preReq = none := by decide +kernel

/-! Engines. -/

/-- Thread 0 holds the lease of its column's matrix unit, for n commands more. -/
def leased (n : Nat) : State := col ctl fun c => { c with lease := some (0, n) }
/-- Threads 3 and 5 wait in MLEASE. -/
def queued : State := (ctl.updThread ⟨0, 3⟩ fun th => { th with run := .stalled, wait := .mlease 2 }).updThread ⟨0, 5⟩
  fun th => { th with run := .stalled, wait := .mlease 4 }
theorem test_meets_MatrixLeases : (leased 4).here.lease = some ((leased 4).cur.tid, 4) ∧ (leased 4).th.waited = false ∧
    ctl.here.lease = none ∧ ctl.th.preReq = none ∧ (∀ m < 32, (ctl.thread ⟨0, m⟩).run ≠ .stalled) ∧ (leased 4).th.cntTl < 31 ∧
    ((leased 4).upd fun th => { th with waited := true, wait := .mlease 4 }).th.wait = .mlease 4 := by decide +kernel
theorem test_meets_MatrixLeases_grant : (queued.col 0).lastLease < 32 ∧ (queued.col 0).lease = none ∧ (queued.thread ⟨0, 3⟩).run = .stalled ∧
    (queued.thread ⟨0, 3⟩).wait = .mlease 2 ∧ (∀ m < 32, (queued.thread ⟨0, m⟩).run = .stalled →
      (3 + 31 - (queued.col 0).lastLease) % 32 ≤ (m + 31 - (queued.col 0).lastLease) % 32) := by decide +kernel

/-- Operand words: the home scratch at its start and at offset 0x1000; an operand outside the address space. -/
def operands (s : State) : State := (regs s (BitVec.ofNat 64 home) (BitVec.ofNat 64 (home + 0x1000))).upd fun th => { th with mstra := 64, mstrb := 64 }
theorem test_meets_MatrixCommands : let s := operands (leased 2)
    s.here.lease = some (s.cur.tid, 2) ∧ s.th.cntTl < 31 ∧ s.th.engFaults = [] ∧ (s.rs 1).toNat / 2 ^ 48 % 2 ^ 15 = 0 ∧
    (BitVec.ofNat 64 (2 ^ 48) : Word).toNat / 2 ^ 48 % 2 ^ 15 ≠ 0 ∧ s.th.ordered = false ∧ home % 4 = 0 ∧ (home + 0x1000) % 4 = 0 ∧
    s.th.mstra.toNat % 4 = 0 ∧ ¬ s.th.mfmta.toNat ∈ [0x10, 0x11, 0x12, 0x17, 0x1A, 0x1E] ∧
    ((0x10 : BitVec 5).toNat ∈ [0x10, 0x11, 0x12, 0x17, 0x1A, 0x1E]) ∧ s.rangeTrap 4 [(home, home), (home + 0x1000, home + 0x1000), (64, home + 64), (64, home + 64)] [(home, 64)] = none ∧
    (s.rangeTrap 4 [(home + 2, home + 2)] [(home, 64)]).isSome ∧
    (∃ e ∈ (s.upd fun th => { th with engFaults := [⟨.tl, .protection, 0, false, 1⟩] }).th.engFaults, e.ctr = .tl) ∧ (tasked s true false).th.ordered = true := by decide +kernel
theorem test_meets_MatrixCommands_reached : ∀ l ∈ linesOf (home + 0x1000) 128, (leased 2).reaches l 64 64 := by
  unfold State.reaches State.scratchOpen; decide +kernel
theorem test_meets_MatrixCommands_rotate : (∀ x ∈ ctl.curPart.pol.block 0 2 2, ctl.curPart.pol.has x = true ∧ x ∉ ctl.retired) ∧
    (∃ x ∈ ctl.curPart.pol.block 0 8 8, ctl.curPart.pol.has x = false) ∧ ¬ 0x100000 + ctl.here.loftSize < 0x1000 + 64 * 64 ∧
    0x100000 + ctl.here.loftSize < 0x3FFFC0 + 64 * 64 ∧ 0x1002 % 4 ≠ 0 := by decide +kernel
theorem test_meets_MatrixCommands_read : 7 / 2 ^ 7 % 2 = 0 ∧ ¬ 10 < 7 % 16 ∧ 10 < 11 % 16 ∧ (7 : Nat) ≤ 7 ∧ vec.th.vl ≠ 0 ∧ ctl.th.vl = 0 ∧
    ¬ 3 < 3 + 0 ∧ 3 < 3 + 1 := by decide
/-- Four address lists: outside the space, misplaced, absent from scratch, another partition's. -/
theorem test_meets_MatrixCommands_ranges : (ctl.rangeTrap 64 [] [(2 ^ 48, 64)]).map (·.1) = some .addrRange ∧
    (ctl.rangeTrap 64 [(home + 4, home + 4)] [(home, 64)]).map (·.1) = some .misaligned ∧
    (ctl.rangeTrap 64 [(home, home)] [(home + 0x300000, 64)]).map (·.1) = some .scratchAbsent ∧
    (ctl.rangeTrap 64 [] [(Config.scratchBase + 8 * 2 ^ 22, 64)]).map (·.1) = some .protection := by decide +kernel

theorem test_meets_CopyCommandsAndLocks : let s := operands ctl
    s.th.cntCp < 31 ∧ (s.rs 1).toNat / 2 ^ 48 % 2 ^ 15 = 0 ∧ (2 ^ 50) / 2 ^ 48 % 2 ^ 15 ≠ 0 ∧ s.th.ordered = false ∧ home % 64 = 0 ∧
    Config.homeBase ≤ (s.rs 2).toNat ∧ (64 : Nat) < Config.homeBase ∧
    (∀ q < 2, 0 ≤ ((home : Nat) : Int) + (s.th.cstrs.toInt) * (q : Nat)) ∧
    s.rangeTrap 64 [(home, home), (home + 0x1000, home + 0x1000)] [(home, 64), (home + 0x1000, 64)] = none := by decide +kernel
/-- A copy whose second lock is another command's. -/
def copying (todo : List (Line × Bool)) (reg : Bool) : State := { ctl with
  cmds := [⟨5, ⟨0, 0⟩, .cpy ⟨home, 0⟩ ⟨home + 0x1000, 0⟩ 1 1 0 0, todo, reg, 0, .pending, [], [], false, []⟩]
  locks := [⟨.home 0 64, true, 4⟩] }
theorem test_meets_CopyCommandsAndLocks_register : let s := copying [(.home 0 0, false), (.home 0 64, true)] false
    (s.cmdOf 5).map (·.todo) = some [(.home 0 0, false), (.home 0 64, true)] ∧ s.performedBefore ⟨0, 0⟩ 5 = true ∧
    (∀ k ∈ s.locks, ¬ (k.line = .home 0 0 ∧ k.owner ≠ 5)) ∧ (∃ k ∈ s.locks, k.line = .home 0 64 ∧ k.owner ≠ 5 ∧ k.wr = true) ∧
    (s.thread ⟨0, 0⟩).preReq = none ∧ (∀ x ∈ s.cmds, x.t = ⟨0, 0⟩ → 5 ≤ x.id) ∧ s.xfers = [] ∧ (s.thread ⟨0, 0⟩).out = [] := by decide +kernel
/-- The index array of a CPYG stands in scratch that the column has not. -/
theorem test_meets_CopyCommandsAndLocks_gone : ctl.goneRange ⟨0, 0⟩ [(home + 0x300000, 8 * 1)] = some (home + 0x300000) ∧
    ctl.goneRange ⟨0, 0⟩ [(home, 8 * 1)] = none := by decide +kernel
theorem test_meets_CopyCommandsAndLocks_transfer : let s := moving false [(.home 0 0, false)] []
    s.cmdOf 9 = none ∧ (s.xferOf 9).map (·.todo) = some [(.home 0 0, false)] ∧ s.cmds = [] ∧ (∀ y ∈ s.xfers, 9 ≤ y.id) := by decide +kernel
theorem test_meets_CopyCommandsAndLocks_last : let s := col (leased 0) fun c => { c with leaseUntil := some 6 }
    (CmdOp.mclr 0 0 16 16).isMatrix = true ∧ (s.col 0).lease = some (0, 0) ∧ (s.col 0).leaseUntil = some 6 ∧ s.cmds = [] ∧
    (leased 0 |>.col 0).leaseUntil = none := by decide +kernel

theorem test_meets_CommandsComplete : let s := copying [] true
    (s.cmdOf 5).map (fun c => (c.registered, c.status, c.rows, c.id)) = some (true, .pending, 0, 5) ∧ isDrive ⟨0, 0⟩ = false ∧
    0 + 64 * 1 ≤ 0x1000 ∧ 0x1000 + 64 * 1 ≤ 0x100000 := by decide +kernel
/-- One matrix command of each shape. -/
def working (op : CmdOp) : State := { leased 0 with cmds := [⟨5, ⟨0, 0⟩, op, [], true, 0, .pending, [], [], false, []⟩] }
def homeOpnd (off : Nat) : MatOpnd := ⟨⟨Config.homeBase + off, 0⟩, 1, 64, 0, 0⟩
theorem test_meets_CommandsComplete_matrix :
    (∀ op ∈ [CmdOp.mclr 0 0 16 16, .mma 0 0 16 16 32 (homeOpnd 0) (homeOpnd 0x1000) false, .mrdv 2 0 0 ⟨0, 0, false, 0⟩ 8],
      ((working op).cmdOf 5).map (fun c => (c.op, c.registered, c.status, c.sentOn)) = some (op, true, .pending, false) ∧
      ((working op).cmds.takeWhile fun x => x.id != 5) = []) ∧
    (matFmt 1).kind ≠ .scaled ∧ 0x1000 + 16 * 64 + (matFmt 1).rowBytes 32 ≤ 0x100000 := by decide +kernel
theorem test_meets_CommandsComplete_cells : (-128 : Int) ≤ -126 ∧ (-126 : Int) + 128 = (2 : Nat) ∧ (⟨0, 2, 0⟩ : AccCell).code ≠ 0 ∧
    (⟨0, 0, 0⟩ : AccCell).residue < 255 := by decide
theorem test_meets_CommandsComplete_sound :
    (∀ j < 32, (((leased 0).col 0).cell 0 j).residue = (((leased 0).col 0).cell 0 j).v.toNat % 255) ∧
    (let c := (col (leased 0) fun c => { c with acc := tset c.acc 0 ⟨7, 0, 8⟩ }).col 0
     ∃ j < 16, 0 ≤ j ∧ j < 0 + 8 * (32 / dstWidth 0) ∧ j ≤ 63 ∧ (c.cell 0 j).residue ≠ (c.cell 0 j).v.toNat % 255) := by decide +kernel

theorem test_meets_Rotations : let s := { ctl.updCol 1 (fun c => { c with mrots := 1, rotsSent := [0] }) with
      cmds := [⟨5, ⟨0, 0⟩, .mrot 32 2 2 0 0 0 0x1000 1 1 64 64 0, [], true, 0, .pending, [], [], true, [(1, 64, [7])]⟩] }
    (s.cmdOf 5).map (fun c => (c.sentOn, c.sends)) = some (true, [(1, 64, [7])]) ∧ s.locks = [] ∧
    (∀ x ∈ [((1 : Nat), (64 : Nat), ([7] : List Byte))], s.rotSent x.1 0 = true) ∧ 64 + 1 ≤ 0x100000 := by decide +kernel
theorem test_meets_Rotations_lost : 0x100000 + (ctl.col 1).loftSize < 0x2FFFFF + 64 ∧ ¬ 0x100000 + (ctl.col 1).loftSize < 64 + 1 := by decide +kernel
theorem test_meets_Rotations_block : 0 < 2 ∧ 3 < fetchPolicy.rows ∧ 7 < fetchPolicy.cols ∧ fetchPolicy.originCol + fetchPolicy.cols ≤ 64 := by decide

/-! Pixels. -/

/-- The drive thread with 16 lanes; with a triangle (0, 0), (256, 0), (0, 256) in v1; and one whose first corner is far. -/
def corner (x : Int) : State := drv.wvs 1 [0, 2, 5] fun i => if i = 0 then BitVec.ofInt 32 x else 256
theorem test_meets_TrianglesAndCoverage : decodeTrap (.psetup 2 1) drv = none ∧ drv.th.vl = 16 ∧ drv.guardTrue g0 = true ∧
    ((corner 0).rv 1 2).toInt = 256 ∧ ((corner 0).rv 1 5).toInt = 256 ∧ (2 : Int) ^ 22 < ((corner (2 ^ 22 + 1)).rv 1 0).toInt ∧
    ¬ (2 : Int) ^ 22 < ((corner (2 ^ 22)).rv 1 0).toInt ∧ decodeTrap (.pcover 4 2 1 2 0 7) drv = none ∧ (1 : BitVec 2) ≠ 2 := by decide +kernel
/-- Legal, at rate code 3, with bits above 31, and at the last row that two rows of elements do not fit. -/
theorem test_meets_TrianglesAndCoverage_words : (0x4008 : Nat) / 2 ^ 14 % 4 = 1 ∧ 0x4008 < 2 ^ 32 ∧ 0x4008 % 2 ^ 14 % 8 = 0 ∧
    0xC000 / 2 ^ 14 % 4 = 3 ∧ 2 ^ 32 ≤ 2 ^ 32 ∧ 127 < (127 * 128) / 128 + 16 / 8 - 1 ∧ 8 < (7 * 128) / 128 % 8 + 16 / 8 ∧
    ¬ 8 < (6 * 128) / 128 % 8 + 16 / 8 := by decide

theorem test_meets_PixelsAndBlending : isDrive drv.cur = true ∧ drv.th.vl ≠ 0 ∧ drv.th.vl ≤ 16 ∧ drv.th.vl % 8 = 0 ∧ drv.here.blend = [] ∧
    drv.here.seqr = [] ∧ (∀ i ∈ drv.actives 0, (drv.rv 1 i).toNat < 2 ^ 14) ∧ drv.tileTrap (drv.rs 1) = none ∧ drv.here.blend.length < 64 ∧
    2 ^ 14 ≤ ((drv.wvs 1 [3] fun _ => 0x4000).rv 1 3).toNat ∧
    64 ≤ (col drv fun c => { c with blend := List.replicate 64 ⟨.add, 0, []⟩ }).here.blend.length := by decide +kernel
theorem test_meets_PixelsAndBlending_hit : let s := col drv fun c => { c with blend := [⟨.add, 0, [⟨0, 1, 1, 1, 0⟩]⟩] }
    (∃ e ∈ s.here.blend, ∃ q ∈ e.pix, ∃ p ∈ s.blendSources 1 2 0 (s.rs 1), p.idx = q.idx) := by decide +kernel

/-- A region word: 8 by 4 pixels at (0, 0), all classes, D 100; at tick 1000. -/
def emitting (T : Word) : State := regs { drv with almanac := 1000 } T (BitVec.ofNat 64 (7 * 2 ^ 14 + 3 * 2 ^ 21 + 100 * 2 ^ 34 + 7 * 2 ^ 58))
theorem test_meets_Emissions : let x := ((emitting 1000).rs 2).toNat
    x / 2 ^ 61 % 8 = 0 ∧ x / 2 ^ 28 % 64 = 0 ∧ x / 2 ^ 58 % 8 = 7 ∧ x / 2 ^ 34 % 2 ^ 24 = 100 ∧ (emitting 0).here.blend = [] ∧
    (emitting 0).here.seqr.length < 16 ∧ (emitting 1000).now ≤ 1000 ∧ 950 < (emitting 950).now ∧ (emitting 950).now < 950 + 100 ∧
    900 + 100 ≤ (emitting 900).now ∧ 128 < 127 + 2 ∧ drv.th.preReq = none := by decide +kernel
def held (copied : Bool) : Emission := ⟨3, 1000, 1100, 0, 0, 8, 4, 7, copied⟩
theorem test_meets_Emissions_end : let s (b : Bool) (n : Word) : State := col { drv with almanac := n } fun c => { c with seqr := [held b] }
    ((s false 1000).col 0).seqr.find? (fun y => y.id == 3) = some (held false) ∧ (held false).x0 + (held false).w ≤ 128 ∧
    (held false).t ≤ (s false 1000).now ∧ (s false 999).now < (held false).t ∧ (held true).stop ≤ (s true 1100).now ∧
    (s true 1099).now < (held true).stop := by decide +kernel
theorem test_meets_PixelsAndBlending_driven : (held true).cls.getLsbD 2 = true ∧ (held true).t ≤ 1099 ∧ (1099 : Nat) < (held true).stop ∧
    (held true).x0 ≤ 129 % 128 ∧ 129 % 128 < (held true).x0 + (held true).w ∧ (held true).y0 ≤ 129 / 128 ∧
    129 / 128 < (held true).y0 + (held true).h ∧ ¬ (1100 : Nat) < (held true).stop := by decide

/-! System registers, traps and progress. -/

/-- A free, a control-only, a service-level, a drive-only, a reserved and a firmware register. -/
theorem test_meets_SystemRegisterReads : decodeTrap (.sysr 3 0x042) ctl = none ∧ decodeTrap (.sysr 3 0x010) ctl = none ∧
    (decodeTrap (.sysr 3 0x010) drv).isSome ∧ decodeTrap (.sysr 3 0x020) svc = none ∧ (decodeTrap (.sysr 3 0x020) ctl).isSome ∧
    decodeTrap (.sysr 3 0x050) drv = none ∧ traps (.sysr 3 0x050) ctl = some 0x13 ∧ traps (.sysr 3 0x7FF) ctl = some 0x01 ∧
    traps (.sysr 3 0x800) ctl = some 0x13 ∧ (decodeTrap (.sysx 3 0x033) ctl).isSome ∧ decodeTrap (.sysw 3 0x062) ctl = none := by decide +kernel
def writing (v : Word) : State := regs svc 0 v
theorem test_meets_SystemRegisterWrites : decodeTrap (.sysw 2 0x001) svc = none ∧ decodeTrap (.sysx 2 0x020) svc = none ∧
    ((writing 3).rs 2).toNat < 4 ∧ ¬ ((writing 4).rs 2).toNat < 4 ∧ (6 : Nat) % 32 % 2 = 0 ∧ ¬ ctl.curPart.pol.loftq < 0 ∧
    (pol svc fun p => { p with loftq := 0 }).curPart.pol.loftq < (16 - 2 % 32) * 0x20000 ∧ (0x012 : Nat) < 0x030 ∧ ¬ (0x041 : Nat) < 0x030 ∧
    (8 : Nat) ≤ 0x10008 % 32 ∧ 0x10008 / 2 ^ 12 * 2 ^ 12 % (16 * 2 ^ 8) = 0 ∧ 0x10008 / 2 ^ 5 % 2 ^ 7 = 0 ∧
    ctl.registeredBefore ⟨0, 0⟩ ctl.nextId = true ∧ (copying [] false).registeredBefore ⟨0, 0⟩ 6 = false := by decide +kernel
def stalledOn (r : BitVec 12) (v : Word) : State := ctl.upd fun th => { th with run := .stalled, wait := .sysw r v (some 3) }
theorem test_meets_SystemRegisterWrites_stalled (r : BitVec 12) : ((stalledOn r 2).thread ⟨0, 0⟩).run = .stalled ∧
    ((stalledOn r 2).thread ⟨0, 0⟩).wait = .sysw r 2 (some 3) := ⟨rfl, rfl⟩
theorem test_meets_SystemRegisterWrites_force : ((stalledOn 0x030 2).col 0).loftChange = none ∧ tmem ctl.parts 0 = true ∧
    (ctl.curPart.grhead - (0 : Word).truncate 32).toNat ≤ 0 := by decide +kernel

/-- A shrink to 4 ways in progress, free and held back. -/
def shrinking (locks : List Machine.Lock) : State := { col { ctl with almanac := 5000 } (fun c => { c with ways := 2, loftChange := some ⟨⟨0, 0⟩, 4, 0, false⟩ })
  with locks := locks }
theorem test_meets_LoftwaysAndGate : ((shrinking []).col 0).loftChange = some ⟨⟨0, 0⟩, 4, 0, false⟩ ∧ ((shrinking []).col 0).ways < 4 ∧
    (shrinking []).locks = [] ∧ (16 - 4) * 0x20000 ≤ 64 * (12 * 0x20000 / 64) ∧
    (∃ k ∈ (shrinking [⟨.loft 0 (12 * 0x20000 / 64), false, 9⟩]).locks, k.line = .loft 0 (12 * 0x20000 / 64)) ∧
    (pol (shrinking []) fun p => { p with reconf := 100 }).curPart.pol.reconf < (shrinking []).now ∧ ¬ 5000 < (shrinking []).now ∧
    (shrinking []).now ≤ 0 + (shrinking []).curPart.pol.reconf := by decide +kernel
theorem test_meets_LoftwaysAndGate_gate : let s := col drv fun c => { c with upReq := true }
    s.presHolder = some 0 ∧ (s.colOf 0 0).upReq = true ∧ (s.colOf 0 0).upState = false ∧
    (pol drv fun p => { p with roles := 2 }).presHolder = none ∧ (s.col 0).fifo = [] ∧ (drv.col 0).upReq = false := by decide +kernel

theorem test_meets_TrapEntry : isService ctl.cur = false ∧ Cause.illegalInstr ≠ .machineCheck ∧ Cause.illegalInstr ≠ .quota ∧
    (ctl.part 0).tvecEn = true ∧ ctl.here.lease = none ∧ (leased 3).here.lease = some (0, 3) ∧ isService svc.cur = true ∧
    (ctl.updCurPart fun p => { p with tvecEn := false }).curPart.tvecEn = false := by decide +kernel
/-- Thread 1 has trapped; and thread 0 of the same core too. -/
def trapped : State := ctl.updThread ⟨0, 1⟩ fun th => { th with run := .parked, park := .trap, tpc := 64, tcause := 1 }
theorem test_meets_TrapEntry_delivery : (trapped.thread ⟨0, 1⟩).park = .trap ∧ (trapped.thread ⟨0, 1⟩).preReq = none ∧
    (trapped.thread ⟨0, 1⟩).out = [] ∧ (trapped.thread ⟨0, 24⟩).run = .dormant ∧ (trapped.thread ⟨0, 24⟩).preReq = none ∧
    (∀ n < 1, (trapped.thread ⟨0, n⟩).park ≠ .trap) ∧ (ctl.thread ⟨0, 1⟩).park ≠ .trap ∧ isService ⟨0, 1⟩ = false ∧
    (let s := (deferred (.ld 3 true) .st).upd fun th => { th with run := .parked, park := .trap, out := th.out.take 1 }
     ∀ a ∈ s.th.out, ∃ b ∈ s.stuck ⟨0, 0⟩ (fun o => o.status != .pending), b.id = a.id) ∧
    ((leased 3).thread ⟨0, 0⟩).cntTl = 0 ∧ ((leased 3).col 0).leaseUntil.isNone := by decide +kernel
theorem test_meets_TrapsByDesign : ctl.curPart.tvecEn = true ∧ svc.th.tstat.toNat / 2 ^ 30 = 0 ∧ (svc.thread ⟨0, 0⟩).park ≠ .handled ∧
    svc.th.out = [] ∧ encodeNat (.emit 1 2) ≠ none ∧ (Instr.emit 1 2).onKind false = false ∧ (Instr.add 1 2 3 ⟨1, true⟩).onKind false = true ∧
    ctl.guardTrue ⟨1, false⟩ = false := by decide +kernel
theorem test_meets_TrapsByDesign_waits : let s (st : Status) : State := svc.upd fun th => { th with out := [⟨7, .st, [⟨0, 64, 8, 5⟩], 0, [], st, false⟩] }
    (s (.firmware 64)).th.out.head?.map (·.status) = some (.firmware 64) ∧ isService svc.cur = true ∧
    (s (.fault .protection 64 false)).th.out.map (·.status) = [.fault .protection 64 false] := by decide +kernel
theorem test_meets_TrapsByDesign_return : let s := svc.updThread ⟨0, 0⟩ fun th => { th with run := .parked, park := .handled }
    (s.thread ⟨0, 0⟩).park = .handled ∧ (s.thread ⟨0, 0⟩).reissue = none ∧ (s.thread ⟨0, 0⟩).tied = false ∧ (⟨0, 0⟩ : ThreadRef) ≠ s.cur ∧
    s.th.tstat.toNat / 2 ^ 6 % 32 = 0 := by decide +kernel
/-- Thread 0 has trapped at an access of its, deferred; it is to be reissued, or dropped. -/
def owing (tstat : BitVec 32) : State := (svc.updThread ⟨0, 0⟩ fun th => { th with
  run := .parked, park := .handled, reissue := some 7, cntLd := 1, out := [⟨7, .ld 3 true, [⟨0, Config.imgWindow, 8, 5⟩], 0, [], .fault .protection 64 false, false⟩] }).upd
  fun th => { th with tstat := tstat }
theorem test_meets_TrapsByDesign_reissue : (owing 4).th.tstat.toNat / 4 % 2 = 1 ∧ (owing 0).th.tstat.toNat / 4 % 2 = 0 ∧ (owing 4).th.tstat.toNat / 2 ^ 30 = 0 ∧
    ((owing 0).thread ⟨0, 0⟩).reissue = some 7 ∧ (((owing 0).thread ⟨0, 0⟩).out.find? (fun b => b.id == 7)).isSome = true ∧
    ((owing 0).thread ⟨0, 0⟩).park = .handled ∧ (owing 4).th.tstat.toNat / 2 ^ 6 % 32 = 0 := by decide +kernel

/-- Thread 0 held by each wait: over (first) and not over (second). -/
def waitsFor (w : Wait) (f : Thread → Thread) : State := { ctl with almanac := 2000000 }.upd fun th => f { th with run := .stalled, wait := w }
def resumes (s : State) : Bool := match exec (.stallResume ⟨0, 0⟩) s with
  | .next t => (t.thread ⟨0, 0⟩).run == .ready
  | _ => false
theorem test_meets_StallsEnd : resumes (waitsFor (.room .ld) id) = true ∧ resumes (waitsFor (.room .ld) fun th => { th with cntLd := 31 }) = false ∧
    resumes (waitsFor (.limits 0 0 0 0 0) id) = true ∧ resumes (waitsFor (.limits 0 0 0 0 0) fun th => { th with cntSt := 1 }) = false ∧
    resumes (waitsFor .sequencer id) = true ∧ resumes (waitsFor .fifo id) = false ∧ resumes (waitsFor .foldStores id) = true ∧
    resumes (waitsFor (.xrecv 3 0 0) id) = true ∧ resumes (waitsFor (.xrecv 3 1 0) id) = false ∧ resumes (waitsFor (.copies []) id) = true ∧
    resumes (waitsFor (.spawn 0 0) id) = true ∧ resumes (waitsFor .again id) = true ∧ ctl.th.run ≠ .stalled ∧
    (waitsFor .foldStores fun th => { th with preReq := some 0 }).mustPark ⟨0, 0⟩ = true ∧ (waitsFor .fifo id).mustPark ⟨0, 0⟩ = false := by decide +kernel
theorem test_meets_StallsEnd_limits : let s := waitsFor .tagFree id
    s.th.since + s.curPart.pol.ctxlim < s.now ∧ s.th.since + s.curPart.pol.spawnlim < s.now ∧
    ctl.now ≤ ctl.th.since + ctl.curPart.pol.ctxlim ∧ (5 : Nat) ≤ s.now := by decide +kernel

/-- A plain record and an ordered one, queued at priorities 1 and 0. -/
def rec_ (o : Bool) : Rec := ⟨0x1000, 0, 0, 5, o, false, false, 0, 0, 0, 0, 1, 2, 3⟩
def queuedRecs : State := pol ({ ctl with almanac := 70000 }.updCol 0 fun c => { c with
    q1 := [⟨rec_ false, 1, 0, [], 0, none, 0⟩], q0 := [⟨rec_ true, 2, 0, [], 64, some (⟨0, 5⟩, 9), 0⟩]
    threads := tset c.threads 0 Thread.reset }) fun p => { p with taglim := 4 }
theorem test_meets_QueuesAndOrder : (queuedRecs.col 0).holder = some 0 ∧ (queuedRecs.thread ⟨0, 0⟩).run = .idle ∧
    (queuedRecs.thread ⟨0, 0⟩).preReq = none ∧ (queuedRecs.part 0).resident = true ∧ (queuedRecs.part 0).asked = false ∧
    ((queuedRecs.sweep 0).part 0).pool ≠ 0 ∧ (queuedRecs.sweep 0).frontier 0 = 5 ∧
    ((queuedRecs.sweep 0).col 0).q1 = [⟨rec_ false, 1, 0, [], 0, none, 0⟩] ∧ ((queuedRecs.part 0).freeTags ≠ []) ∧ 0 ∉ queuedRecs.retired ∧
    (queuedRecs.part 0).here = true ∧ (queuedRecs.sweep 0).frontierWants 0 = false ∧
    (((queuedRecs.sweep 0).threadOf 0 ⟨0, 5⟩).out.all fun a => decide (9 ≤ a.id)) = true := by decide +kernel
/-- The popped record's slot is poisoned, or not. -/
theorem test_meets_QueuesAndOrder_poisoned : (∃ e ∈ ({ queuedRecs with poison := [⟨.slot 0 64, 4, 0⟩] } : State).poison, e.at_ = .slot 0 64) ∧
    queuedRecs.poison = [] ∧ (∃ e ∈ ({ ctl with poison := [⟨.slot 0 Config.queueBacking, 4, 0⟩] } : State).poison,
      e.at_ = .slot ctl.pid Config.queueBacking) := by decide +kernel
theorem test_meets_QueuesAndOrder_aging : (queuedRecs.col 0).queue 0 = [⟨rec_ true, 2, 0, [], 64, some (⟨0, 5⟩, 9), 0⟩] ∧ 0 + 65536 ≤ queuedRecs.now ∧
    (queuedRecs.col 0).queue 1 = [⟨rec_ false, 1, 0, [], 0, none, 0⟩] ++ [] ∧ 1 ≤ 2 := by decide +kernel
/-- An ordered task at its TEND. -/
def ending (tie : Bool) : State := ((tasked ctl true false).updCurPart fun p => { p with
    tags := [(1, ⟨true, 0, 1⟩)], otasks := [⟨1, { rec_ true with stamp := 5 }, 0, [], [], [], [], 0, tie, [], 0⟩] }).upd
  fun th => { th with run := .waiting, wait := .commit }
theorem test_meets_QueuesAndOrder_commit : ((ending false).part 0).otaskOf (ending false).th.ownTag =
      some ⟨1, { rec_ true with stamp := 5 }, 0, [], [], [], [], 0, false, [], 0⟩ ∧ (ending false).frontier 0 = 5 ∧ tmem (ending false).parts 0 = true ∧
    ((ending false).part 0).cells = [] ∧ ((ending false).part 0).live 1 = true ∧
    (((ending true).part 0).otaskOf 1).map (·.tie) = some true ∧ ((ending false).part 0).here = true := by decide +kernel
/-- The task's cell lies in a poisoned line, in a page that no longer translates, in one that does. -/
def committing (page : Nat) (poison : List Poison) : State := { (ending false).updCurPart fun p => { p with cells := [⟨1, page * 1024, 7, 3⟩] } with
  poison := poison }
def commits (s : State) : Option (Option Place × Bool) := ((s.part 0).otaskOf 1).map fun o => (s.commitTaint 0 o, s.commitReady 0 o)
theorem test_meets_QueuesAndOrder_ready : commits (committing (Config.imgWindow / 65536) []) = some (none, true) ∧ commits (committing 9 []) = some (none, false) ∧
    commits (committing (Config.imgWindow / 65536) [⟨.cellar (0x10000 / 64), 1, 0⟩]) = some (some (.cellar (0x10000 / 64)), true) := by decide +kernel
theorem test_meets_QueuesAndOrder_abort : (ending false).runner 0 1 = some ⟨0, 0⟩ ∧ ((ending false).col 0).holder = some 0 ∧
    ((ending false).part 0).pol.columns.all (fun ca => let c := (ending false).colOf 0 ca; (c.q0 ++ c.q1 ++ c.q2 ++ c.q3).isEmpty) = true ∧
    (ending false).frontier 0 ≠ 6 := by decide +kernel

/-- A message on its way: from the host, to a column; the service thread to wake for a spill. -/
theorem test_meets_MessagesArrive : let s := { ctl with net := [{ msg with part := 0 }] }
    s.net.find? (fun x => x.id == 3) = some { msg with part := 0 } ∧ (s.colOf 0 0).inbox.length + (s.colOf 0 0).replay.length < 64 ∧
    (s.col 0).holder = some 0 ∧ s.spillEntry 0 false = none ∧ (∀ a ∈ (s.threadOf 0 ⟨0, 0⟩).out, 3 ≤ a.id) ∧ s.retired = [] := by decide +kernel
def spilling : State := (ctl.updCurPart fun p => { p with launch := some { fetchLaunch with spill := some 0x2000 } }).updCol 0 (fun c => { c with
  spill := tset c.spill 1 1 }) |>.updThread ⟨0, 0⟩ fun th => { th with run := .waiting, wait := .recv 1 }
theorem test_meets_MessagesArrive_spill : spilling.spillEntry 0 false = some 0x2000 ∧ spilling.spillCause 0 false = true ∧
    (spilling.thread ⟨0, 24⟩).run = .dormant ∧ (spilling.thread ⟨0, 24⟩).preReq = none ∧ spilling.trapWaits ⟨0, 24⟩ = false := by decide +kernel
theorem test_meets_MessagesArrive_runs : (spilling.col 0).holder = some 0 ∧ (spilling.part 0).resident = true ∧ (spilling.part 0).asked = false ∧
    spilling.presHolder = some 0 ∧ (pol spilling fun p => { p with roles := 2 }).presHolder ≠ some 0 := by decide +kernel

/-! Pre-emption, faults and sensors. -/

/-- The partition leaves; thread 0's request is at tick 0, of an exchange phase or of none. -/
def leaving (now : Word) (phase : Option Nat) : State :=
  ({ ctl with almanac := now }.updCurPart fun p => { p with leaving := true }).upd fun th => { th with preReq := some 0, phase := phase }
theorem test_meets_Preemption : ((leaving 0 none).part 0).leaving = true ∧ ((leaving 0 none).part 0).asked = false ∧ 0 ∈ (leaving 0 none).heldBy 0 ∧
    ((leaving 0 none).thread ⟨0, 0⟩).run = .ready ∧ ((leaving 0 none).col 0).threads.any (fun e => e.1 == 0) = true ∧
    (leaving 0 none).th.preReq = some 0 ∧ (leaving 0 none).th.ordered = false ∧ (leaving 0 (some 0)).th.phase ≠ none ∧
    fetchLaunch.dist = 1024 ∧ 5 * (1024 + 4096) ≤ 16 * ((leaving 1600 none).now - 0) ∧ ¬ 5 * (1024 + 4096) ≤ 16 * ((leaving 1599 none).now - 0) ∧
    ctl.th.preReq = none := by decide +kernel
/-- No thread waits in the leaving partition: every one is listed, or at reset. -/
theorem tget_cases {α : Type} (l : Tbl α) (k : Nat) (d : α) : tget l k d = d ∨ ∃ e ∈ l, tget l k d = e.2 := by
  induction l with
  | nil => exact .inl rfl
  | cons e l ih =>
    rw [tget]
    split
    · exact .inr ⟨e, List.mem_cons_self .., rfl⟩
    · exact ih.imp id fun ⟨x, hx, h⟩ => ⟨x, List.mem_cons_of_mem _ hx, h⟩
theorem test_meets_Preemption_calm (y : ThreadRef) : ((leaving 0 none).thread y).run ≠ .waiting := by
  have base : ∀ n, (Thread.resetAt n).run ≠ .waiting := by
    intro n; unfold Thread.resetAt; split <;> [decide; (split <;> [decide; (split <;> decide)])]
  have listed : ∀ e ∈ (leaving 0 none).cols, ∀ f ∈ e.2.threads, f.2.run ≠ .waiting := by decide +kernel
  unfold State.thread State.col
  rcases tget_cases (leaving 0 none).cols y.ca Column.reset with h | ⟨e, he, h⟩
  · rw [h]; exact base _
  · rw [h]
    rcases tget_cases e.2.threads y.tid (Thread.resetAt y.tid) with h | ⟨f, hf, h⟩
    · exact (congrArg Thread.run h).trans_ne (base _)
    · exact (congrArg Thread.run h).trans_ne (listed e he f hf)
theorem test_meets_Preemption_threads : let told : State := { leaving 0 none with links := [(0, ⟨7, [⟨0, 1, none⟩]⟩)] }
    (∃ n ∈ (told.part 0).pol.fields, ∃ c ∈ (tget told.links n Link.reset).cmds, c.part = 0 ∧ c.fault = none) ∧ (leaving 0 none).links = [] ∧
    (let w := (leaving 0 none).upd fun th => { th with run := .waiting, wait := .barrier 2 false none }
     w.th.run = .waiting ∧ w.th.phase = none ∧ (w.col 0).lease = none ∧ w.th.cntLd = 0 ∧ w.th.cntFx = 0) ∧
    (let o := (ending false).upd fun th => { th with preReq := some 0, run := .ready, wait := .none }
     o.th.ordered = true ∧ (o.th.task.map fun k => k.r.stamp.toNat) = some (o.frontier 0) ∧
     (o.th.task.map fun k => k.r.stamp.toNat) ≠ some ((o.updCol 0 fun c => { c with
       q0 := [⟨{ rec_ true with stamp := 1 }, 2, 0, [], 64, none, 0⟩] }).frontier 0)) ∧
    (let l := (leaving 0 none).upd fun th => { th with run := .stalled, wait := .sysw 0x030 2 none }
     l.th.wait = .sysw 0x030 2 none) := by decide +kernel
/-- A rival of the same fields waits, entitled: the resident one has spent its quantum. -/
def rivals (prio : Nat) : State := { ctl with
  almanac := 20000000
  parts := [(0, { fetchPartition with spent := true }), (1, { fetchPartition with
    pol := { fetchPolicy with part := 1, prio := prio }, resident := false, wants := some 5 })] }
theorem test_meets_Preemption_rivals : ((rivals 0).part 1).wants ≠ none ∧ ((rivals 0).part 1).coming = false ∧ ((rivals 0).part 1).evicted = false ∧
    (rivals 0).parts.map (·.1) = [0, 1] ∧ ((rivals 0).part 0).pol.prio = ((rivals 0).part 1).pol.prio ∧ ((rivals 0).part 0).spent = true ∧
    ((rivals 0).part 0).coming = false ∧ ((rivals 0).part 0).wants = none ∧ tmem (rivals 0).parts 1 = true ∧
    ctl.curPart.resident = true ∧ ctl.curPart.spent = false ∧ ctl.curPart.quantumFrom + 1000 * ctl.curPart.pol.quantum ≤ (rivals 0).now ∧
    tmem ctl.parts 3 = false ∧ ((rivals 0).parts.map fun e => e.1).Nodup ∧ ((rivals 0).part 0).pol.fields.Nodup ∧
    (∀ f ∈ ((rivals 0).part 0).pol.fields, 0 < (tget (rivals 0).links f Link.reset).permits) ∧
    (∃ f ∈ ((rivals 0).part 0).pol.fields, (tget ({ rivals 0 with links := [(0, ⟨0, []⟩)] } : State).links f Link.reset).permits = 0) ∧
    ((rivals 0).part 0).resident = true ∧ ((rivals 0).part 0).leaving = false ∧ ((leaving 0 none).part 0).leaving = true := by decide +kernel
/-- PEVICT of the resident partition: sent, answered once it has gone; beside another command. -/
theorem test_meets_Preemption_pevict : let s (busy begun : Bool) : State := { rivals 0 with
      boot := { (rivals 0).boot with running := true }, fns := [(0, { HostFn.reset with pfcmd := 5, pfBusy := busy, pfStarted := begun })] }
    (s false false).boot.running = true ∧ ((s false false).fn 0).pfBusy = false ∧ ((s true true).fn 0).pfcmd.toNat % 65536 = 5 ∧
    ((s true true).fn 0).pfcmd.toNat / 2 ^ 64 % 2 ^ 64 = 0 % 2 ^ 64 ∧ ((s true true).fn 0).pfStarted = true ∧ ((s true false).fn 0).pfStarted = false ∧
    (s true true).links = [] ∧ ((s true true).part 0).evicted = false ∧ (∃ c ∈ (tget ({ s true true with links := [(72, ⟨7, [⟨0, 1, none⟩]⟩)] } : State).links 72
      Link.reset).cmds, c.part = 0 ∧ c.fault = none) := by decide +kernel
/-- A column that partition 0 leaves, which partition 1 waits to enter; and a context of partition 1 with an error. -/
theorem test_meets_Preemption_comes : let s := ((rivals 0).updPart 0 fun p => { p with leaving := true, asked := true }).updPart 1 fun p => { p with coming := true }
    (s.part 1).pol.has 0 = true ∧ (s.col 0).holder = some 0 ∧ (s.part 1).coming = true ∧ (s.part 1).otasks = [] ∧ s.saved = [] ∧
    (∃ v ∈ ({ s with saved := [⟨1, 0, s.col 0, true⟩] } : State).saved, v.part = 1 ∧ v.ca = 0 ∧ v.bad = true) := by decide +kernel
theorem test_meets_Preemption_taint : ctl.poison = [] ∧
    [⟨.loft 0 3, 1, 0⟩].find? (fun y : Poison => match y.at_ with | .loft k _ => k == 0 | _ => false) = some ⟨.loft 0 3, 1, 0⟩ := by decide +kernel
theorem test_meets_Preemption_exchange :
    (let s := (leaving 0 none).updCurPart fun p => { p with asked := true }
     (s.part 0).pol.has 0 = true ∧ (s.part 0).pol.has 9 = false ∧ (s.col 0).holder = some 0 ∧ (s.col 0).loftChange = none ∧ s.cmds = [] ∧ s.xfers = [] ∧
       (((s.upd fun th => { th with run := .parked }).col 0).threads.all fun e => decide (32 ≤ e.1) || e.2.run == .parked || e.2.run == .dormant) = true) ∧
    (let s := (ctl.updCol 0 fun c => { c with holder := none }).updPart 0 fun p => { p with coming := true }
     (s.col 0).holder = none ∧ (s.part 0).coming = true ∧ (s.part 0).resident = true) := by decide +kernel

/-- An idle partition 2, a page with an open record, and one that the image window maps. -/
def served (records : List (Nat × Nat)) (ev : Word) : State := { ctl with
  parts := ctl.parts ++ [(2, { fetchPartition with launch := none })], records := records
  posted := [⟨0, 9, 1, 0, true, false, false, false⟩], fns := [(0, { HostFn.reset with evbase := ev, evsize := 8 })] }
theorem test_meets_FaultCommands : tmem (served [] 0).parts 2 = true ∧ ((served [] 0).part 2).launch = none ∧ tmem (served [] 0).parts 5 = false ∧
    ((served [] 0).part 0).launch.map (·.ended) = some none ∧ (0x90000 : Nat) / 65536 = 9 ∧ (served [] 0).maps 0 9 = false ∧
    ctl.maps 0 (Config.imgWindow / 65536) = true ∧ ctl.mappedBytes 0 ≤ (ctl.part 0).pol.memq ∧ (0, 9) ∈ (served [(0, 9)] 0).records ∧
    (served [] 0).cellarLeaves 0 = [] ∧ (∃ k ∈ ((served [] 0).updPart 0 fun p => { p with refused := [(0x80000, 0x20000)] }).part 0 |>.refused,
      k.1 ≤ 9 * 65536 ∧ 9 * 65536 < k.1 + k.2) := by decide +kernel
/-- R436, R442: page 9's entry names the host page 0x20000 for migration. -/
def migrating (memq : Nat) : State := let s := served [] 0
  { s.updPart 0 fun p => { p with root := 0x100000, pol := { p.pol with memq := memq } } with
    cellar := mwrite (mwrite (mwrite (mwrite s.cellar 0x100000 (leBytes 8 0x101001)) 0x101000 (leBytes 8 0x102001)) 0x102000 (leBytes 8 0x103001))
      (0x103000 + 72) (leBytes 8 (0x20000 + 512 + 32 + 22)) }
theorem test_meets_FaultCommands_migrate : (migrating 0x100000).maps 0 9 = false ∧
    (migrating 0x100000).migEntry 0 9 = some (0x103048, BitVec.ofNat 64 (0x20000 + 512 + 32 + 22)) ∧
    (migrating 0x100000).frameFree 1 = false ∧ ((migrating 0).part 0).refused.isEmpty := by decide +kernel
/-- TCMD free, with a SETROOT of partition 2 that waits, and with an INVAL; a table line that is poisoned. -/
theorem test_meets_FaultCommands_takes : let s (t : Bool) (c : BitVec 512) : State := { served [] 0 with
      boot := { ctl.boot with running := true }, fns := [(0, { HostFn.reset with tBusy := t, tcmd := c })] }
    (s false 0).boot.running = true ∧ ctl.boot.running = false ∧ ((s false 0).fn 0).tBusy = false ∧
    ((s true (BitVec.ofNat 512 (1 + 2 ^ 64 * 2))).fn 0).tcmd.toNat % 65536 = 1 ∧
    ((s true (BitVec.ofNat 512 (1 + 2 ^ 64 * 2))).fn 0).tcmd.toNat / 2 ^ 64 % 2 ^ (64 * 2) = 2 % 2 ^ 64 + 2 ^ 64 * (0 : Word).toNat ∧
    ((s true 2).fn 0).tBusy = true ∧ ((s true 2).fn 0).tcmd.toNat % 65536 ≠ 1 ∧ (0 : Word).toNat + 4096 ≤ Config.cellarEnd ∧
    ¬ (2 ^ 47 : Nat) + 4096 ≤ Config.cellarEnd := by decide +kernel
theorem test_meets_FaultCommands_clean : (match (migrating 0x100000).translate 0 (9 * 65536) with | .error (.poison _) => false | _ => true) = true ∧
    (match ({ migrating 0x100000 with poison := [⟨.cellar (0x103000 / 64 + 1), 3, 0⟩] } : State).translate 0 (9 * 65536) with
      | .error (.poison x) => x == .cellar (0x103000 / 64 + 1)
      | _ => false) = true := by decide +kernel
/-- Each table holds one entry, its k-th, and the table at 0 none. -/
theorem migrating_zero {t n k i : Nat} (hn : n ≤ 512)
    (h : (t, k) ∈ [(0, 0), (0x100000, 0), (0x101000, 0), (0x102000, 0), (0x103000, 9)]) (hi : i < n) (hk : i ≠ k) :
    read64 (migrating 0x100000).cellar (t + 8 * i) = 0 := by
  have hc : ∀ c ∈ (migrating 0x100000).cellar, c.1 = 65539 ∨ c.1 / 8 ∈ [0x20000, 0x20200, 0x20400, 0x20609] := by decide +kernel
  refine read64_away fun c h' => ?_
  simp only [List.mem_cons, Prod.mk.injEq, List.not_mem_nil, or_false] at h hc
  rcases h with ⟨rfl, rfl⟩ | ⟨rfl, rfl⟩ | ⟨rfl, rfl⟩ | ⟨rfl, rfl⟩ | ⟨rfl, rfl⟩ <;> rcases hc c h' with h | h | h | h | h <;> omega
theorem migrating_tables {lo n t k : Nat} (hn : n ≤ 9) (h : (t, k) ∈ [(0, 0), (0x100000, 0), (0x101000, 0), (0x102000, 0), (0x103000, 9)]) :
    ∀ i ∈ entriesOf lo n, i ≠ k → read64 (migrating 0x100000).cellar (t + 8 * i) = 0 :=
  fun _ hi => migrating_zero (Nat.le_refl _) h (entriesOf_lt hn hi)
theorem test_migrating_tables : (migrating 0x100000).tablesFrom levels 0x100000 = [0x100000, 0x101000, 0x102000, 0x103000] :=
  tablesFrom_one (mem_entriesOf (k := 0) (by decide) (by decide)) (migrating_tables (by decide) (by decide))
    (tablesFrom_one (mem_entriesOf (k := 0) (by decide) (by decide)) (migrating_tables (by decide) (by decide))
      (tablesFrom_one (mem_entriesOf (k := 0) (by decide) (by decide)) (migrating_tables (by decide) (by decide))
        (tablesFrom_one (mem_entriesOf (k := 9) (by decide) (by decide)) (migrating_tables (by decide) (by decide)) (by decide +kernel))))
set_option maxRecDepth 4096 in
theorem test_migrating_leaves : (migrating 0x100000).leaves 0 = [] :=
  leavesFrom_one (mem_entriesOf (k := 0) (by decide) (by decide)) (migrating_tables (t := 0x100000) (by decide) (by decide))
    (leavesFrom_one (mem_entriesOf (k := 0) (by decide) (by decide)) (migrating_tables (t := 0x101000) (by decide) (by decide))
      (leavesFrom_one (mem_entriesOf (k := 0) (by decide) (by decide)) (migrating_tables (t := 0x102000) (by decide) (by decide))
        (leavesFrom_one (mem_entriesOf (k := 9) (by decide) (by decide)) (migrating_tables (t := 0x103000) (by decide) (by decide))
          (by decide +kernel))))
theorem test_migrating_blank : (migrating 0x100000).tablesFrom levels 0 = [0] ∧ (migrating 0x100000).leaves 2 = [] := by
  have h0 : (0 : Nat) ∈ entriesOf 39 9 := mem_entriesOf (by decide) (by decide)
  have hr : ((migrating 0x100000).part 2).root.toNat = 0 := by decide +kernel
  refine ⟨tablesFrom_one h0 (migrating_tables (by decide) (by decide)) (by decide +kernel), ?_⟩
  show State.leavesFrom _ levels ((migrating 0x100000).part 2).root.toNat 0 = []
  rw [hr]
  unfold levels
  exact leavesFrom_one h0 (migrating_tables (by decide) (by decide)) (by decide +kernel)
theorem test_meets_FaultCommands_memq : (migrating 0x100000).mappedBytes 0 + 65536 ≤ 0x100000 := by
  rw [mapped_of_blank test_migrating_leaves]
  decide +kernel
theorem test_meets_FaultCommands_frame : (migrating 0x100000).frameFree 20 = true := by
  have h : ∀ e ∈ (migrating 0x100000).parts, e = (0, (migrating 0x100000).part 0) ∨ e = (2, (migrating 0x100000).part 2) := by
    decide +kernel
  unfold State.frameFree State.usedFrames
  simp only [Bool.and_eq_true, decide_eq_true_eq, Bool.not_eq_true', ← Bool.not_eq_true, List.contains_iff_mem, List.mem_flatMap,
    not_exists, not_and]
  refine ⟨by decide, fun e he => ?_⟩
  rcases h e he with rfl | rfl
  · have hr : ((migrating 0x100000).part 0).root.toNat = 0x100000 := by decide +kernel
    simp only [hr, test_migrating_tables, test_migrating_leaves]
    decide +kernel
  · have hr : ((migrating 0x100000).part 2).root.toNat = 0 := by decide +kernel
    simp only [hr, test_migrating_blank]
    decide +kernel
theorem test_meets_FaultCommands_quota : ((migrating 0).part 0).pol.memq < (migrating 0).mappedBytes 0 + 65536 := by
  have h : ((migrating 0).part 0).pol.memq = 0 := by decide +kernel
  omega
theorem test_meets_FaultCommands_service : (served [] 0x1000).posted = [⟨0, 9, 1, 0, true, false, false, false⟩] ∧ (served [] 0x1000).migEntry 0 9 = none ∧
    ((served [] 0x1000).fn 0).evbase ≠ 0 ∧ ((served [] 0).fn 0).evbase = 0 ∧
    ((served [] 0x1000).fn 0).evtail - ((served [] 0x1000).fn 0).evhead < 2 ^ ((served [] 0x1000).fn 0).evsize ∧
    (let f := { (served [] 0x1000).fn 0 with evtail := 256 }; 2 ^ f.evsize ≤ f.evtail - f.evhead) := by decide +kernel

/-- A fault at column ca, and a batch. -/
def raised (ca : Nat) (routers : List RouterEntry) (n : Nat) : State := { ctl with
  almanac := 3000
  faults := [⟨4, 0, 9, ca, true, false, false, false, ca⟩], routers := routers
  batches := [⟨7, if n < 32 then 2000 else 1000, List.replicate n ⟨0, 9, true, false⟩⟩] }
theorem test_meets_FaultTree : (raised 1 [] 1).faults.find? (fun x => x.id == 4) = some ⟨4, 0, 9, 1, true, false, false, false, 1⟩ ∧
    (raised 1 [] 1).batches.find? (fun x => x.ca == 7) = some ⟨7, 2000, [⟨0, 9, true, false⟩]⟩ ∧ 1 % 64 % 8 ≠ 0 ∧ 64 % 64 % 8 = 0 ∧ 64 / 64 % 4 ≠ 0 ∧
    0 % 64 % 8 = 0 ∧ 0 / 64 % 4 = 0 ∧ (∃ r ∈ (raised 1 [⟨1, 0, 9, 1⟩] 1).routers, r.ca = 1 ∧ r.part = 0 ∧ r.page = 9) ∧
    16 ≤ ((raised 1 (List.replicate 16 ⟨1, 0, 8, 1⟩) 1).routers.filter fun r => r.ca == 1).length ∧
    1000 + 2000 ≤ (raised 1 [] 1).now ∧ ¬ 2000 + 2000 ≤ (raised 1 [] 1).now ∧
    (raised 1 [] 32).batches.all (fun b => decide (32 ≤ b.entries.length)) = true ∧
    (let s : State := { raised 1 [] 1 with faults := [⟨3, 0, 8, 1, true, false, false, false, 1⟩, ⟨4, 0, 9, 1, true, false, false, false, 1⟩] }
     ∃ x ∈ s.faults.takeWhile (fun x => x.id != 4), x.ca = 1 ∧ x.port = (⟨4, 0, 9, 1, true, false, false, false, 1⟩ : FaultMsg).port) := by decide +kernel
/-- An access that waits for page 9, a copy that waits for it alone, and one that waits for page 8 too. -/
def waking : State := { (flying .st 0x90000 8 []).upd fun th => { th with out := th.out.map fun a => { a with status := .firmware 0x90000 } } with
  records := [(0, 9)]
  cmds := [⟨5, ⟨0, 0⟩, .cpy ⟨home, 0⟩ ⟨home + 0x1000, 0⟩ 1 1 0 0, [], true, 0, .firmware 0x90000, [0x90000], [], false, []⟩,
    ⟨6, ⟨0, 0⟩, .cpy ⟨home, 0⟩ ⟨home + 0x1000, 0⟩ 1 1 0 0, [], true, 0, .firmware 0x90000, [0x90000, 0x80000], [], false, []⟩] }
theorem test_meets_FaultTree_wake : 0 ∈ waking.heldBy 0 ∧ (∃ e ∈ (waking.col 0).threads, e.1 = 0) ∧
    (waking.th.out.map fun a => a.status) = [.firmware 0x90000] ∧ waking.missed 0 9 (waking.faultOrigin 0 0x90000) = false ∧
    waking.owns 0 ⟨0, 0⟩ = true ∧ (waking.cmds.map fun c => (c.waits, c.op.isMatrix)) = [([0x90000], false), ([0x90000, 0x80000], false)] ∧
    0x90000 / 65536 = 9 ∧ 0x80000 / 65536 ≠ 9 := by decide +kernel

theorem test_meets_KillsAndTrips : tmem ctl.parts 0 = true ∧ 0 ∈ (ctl.part 0).pol.columns ∧ (ctl.col 0).holder = some 0 ∧
    (ctl.part 0).launch = some fetchLaunch ∧ 9 ∉ (ctl.part 0).pol.columns ∧ (pol ctl fun p => { p with roles := 0 }).curPart.pol.pres = false ∧
    (ctl.parts.map fun e => e.1).Nodup ∧ (115 * 16 : Nat) < ((ctl.updCol 0 fun c => { c with temp := 1841 }).col 0).temp.toNat ∧
    (ctl.col 0).temp.toNat ≤ 115 * 16 ∧ ctl.boot.barred = false ∧ (ctl.chan 0).temp ≤ 105 * 16 ∧
    105 * 16 < ({ ctl with chans := [(0, { Channel.reset with temp := 1681 })] }.chan 0).temp ∧ fetchLaunch.ended = none ∧
    ((ctl.updPart 0 fun p => { p with launch := some { fetchLaunch with ended := some (3, 0x18, 0, 7) } }).part 0).launch.bind (·.ended) = some (3, 0x18, 0, 7) ∧
    (ctl.part 0).resident = true ∧ 5 / 64 < 36 ∧ ((leaving 0 none).part 0).leaving = true := by decide +kernel
theorem test_meets_KillsAndTrips_once : Sensor.column 0 ∉ ctl.boot.trips ∧ Sensor.cellar 0 ∉ ctl.boot.trips ∧
    (∃ x ∈ ({ ctl.boot with trips := [.column 0] }).trips, x = .column 0) := by decide

theorem test_meets_SensorsAndReference : (5 : Nat) < 576 ∧ caOk 130 = true ∧ 130 / 128 * 32 + 130 % 64 / 2 = 33 ∧ (0 : Nat) / 128 * 32 + 0 % 64 / 2 = 0 ∧
    ctl.ref.slew = 0 ∧ ctl.ref.phase = 0 ∧ (∃ d ∈ (moving true [] []).dueTicks, (moving true [] []).now < d) ∧ (0 : Int) < ({ ctl.ref with slew := 5 }).slew ∧ ({ ctl.ref with slew := -5 }).slew < 0 ∧
    ctl.ref.state = 0 ∧ ({ ctl.ref with state := 2 }).state ≠ 3 ∧ (90 * 16 : Nat) < 1441 ∧ ¬ (90 * 16 : Nat) < 1440 := by decide +kernel
theorem test_meets_SensorsAndReference_pulse :
    (({ ctl with almanac := 998999999 } : State).almanac.toNat : Int) - ((10 ^ 9 * 1 : Nat) + ctl.almOff.toInt) < -(10 ^ 6) ∧
    -(10 ^ 6 : Int) ≤ (({ ctl with almanac := 999000000 } : State).almanac.toNat : Int) - ((10 ^ 9 * 1 : Nat) + ctl.almOff.toInt) := by decide +kernel

/-! Launches, host and fleet. -/

/-- A device that runs, its partition free of launches and bound to function 1, whose ring holds n records. -/
def hosted (n : Nat) : State := { ctl with
  boot := { ctl.boot with running := true }
  parts := tset ctl.parts 0 { fetchPartition with launch := none }
  fns := [(1, { HostFn.reset with bound := some 0, lqbase := 0x10000, lqsize := 4, cqsize := 4, lqtail := n })] }
theorem test_meets_HostRegistersAndDoorbells : (hosted 1).boot.recovery = false ∧ (hosted 0).boot.running = true ∧ (hosted 0).boot.barred = false ∧
    ((hosted 1).fn 1).lqhead ≠ ((hosted 1).fn 1).lqtail ∧ ((hosted 0).fn 1).lqhead = ((hosted 0).fn 1).lqtail ∧ ((hosted 0).fn 0).fwBusy = false ∧
    ({ HostFn.reset with fwBusy := true }).fwBusy = true ∧ ((hosted 0).fn 0).pfBusy = false ∧ ((hosted 0).fn 0).tBusy = false ∧
    ({ HostFn.reset with pfBusy := true, tBusy := true }).pfBusy = true ∧ ({ HostFn.reset with pfBusy := true, tBusy := true }).tBusy = true ∧ 2 ^ 4 < (17 + 2 ^ 64 - 0) % 2 ^ 64 ∧ ¬ 2 ^ 4 < (16 + 2 ^ 64 - 0) % 2 ^ 64 ∧
    ((hosted 0).fn 2).bound = none ∧ ((hosted 1).part 0).launch = none ∧ ((hosted 1).part 0).leaving = false ∧ (ctl.part 0).launch ≠ none ∧
    3072 < leNat (mread (mwrite [] 0x1000C (leBytes 4 3073)) (0x10000 + 64 * (0 % 2 ^ 4) + 12) 4) ∧
    (((hosted 1).fn 1).cqtail + 2 ^ 64 - ((hosted 1).fn 1).cqhead) % 2 ^ 64 < 2 ^ ((hosted 1).fn 1).cqsize ∧
    ¬ (16 + 2 ^ 64 - 0) % 2 ^ 64 < 2 ^ 4 ∧ (hosted 1).net = [] ∧ (∃ m ∈ ({ hosted 1 with net := [{ msg with fromPart := 17 }] } : State).net,
      m.from_ = none ∧ m.fromPart = 16 + 1) ∧ (7 : Word).toNat % 65536 ≤ 7 ∧ 7 < (8 : Word).toNat % 65536 := by decide +kernel
theorem test_meets_HostRegistersAndDoorbells_recovery : let s := { ctl with boot := { ctl.boot with recovery := true } }
    s.boot.recovery = true ∧ 0x010 < 0x400 := by decide

/-- R399, R400: an image of one text section of a word pair, one symbol and one control entry. -/
def image : List Byte := [0x5A, 0x50, 0x49, 0x31] ++ leBytes 2 1 ++ leBytes 2 0 ++ leBytes 4 1024 ++ leBytes 2 4 ++ leBytes 2 8 ++
  leBytes 4 1 ++ leBytes 4 64 ++ List.replicate 24 0 ++ leBytes 4 1 ++ leBytes 4 88 ++ leBytes 4 1 ++ leBytes 4 96 ++
  ([0, 3] ++ List.replicate 6 0 ++ leBytes 8 8 ++ leBytes 8 104) ++ List.replicate 8 0 ++ List.replicate 8 0 ++ leBytes 8 0x46000000
def launching : State := { hosted 1 with
  hostMem := mwrite (mwrite [] 0x20000 image) 0x10000 (leBytes 8 0x20000 ++ leBytes 4 112) }
theorem test_meets_LaunchEntry : ((launching.fn 1).bound, (launching.fn 1).lqhead, (launching.fn 1).lqtail) = (some 0, 0, 1) ∧
    tmem launching.parts 0 = true ∧ (mread launching.hostMem (0x10000 + 40) 24 = List.replicate 24 0) ∧
    leNat (mread launching.hostMem (0x10000 + 12) 4) = 0 ∧
    (match (launching.unbound 0).bindImage (launching.part 0).pol ((launching.unbound 0).mappedBytes 0)
        (mread launching.hostMem (leNat (mread launching.hostMem 0x10000 8)) (leNat (mread launching.hostMem 0x10008 4))) with
      | .ok b => imagePages b.z.sects == 1 && b.entry 0 == some (BitVec.ofNat 64 Config.imgWindow) && b.entry 1 == none
      | .error _ => false) = true ∧ (launching.unbound 0).frameFree 5 = true := by decide +kernel

/-- A launch that is done, one past its limit, one that has ended. -/
def launched (l : Launch) : State := { ctl.updCol 0 (fun c => { c with threads := [] }) with
  almanac := 9000, parts := [(0, { fetchPartition with launch := some l })], fns := [(0, { HostFn.reset with cqsize := 4 })] }
theorem test_meets_LaunchEnds : ((launched fetchLaunch).part 0).launch = some fetchLaunch ∧ fetchLaunch.ended = none ∧ fetchLaunch.start ≠ none ∧
    ((launched fetchLaunch).part 0).slots = [] ∧ (((launched fetchLaunch).part 0).pol.columns.all fun ca =>
      let c := (launched fetchLaunch).colOf 0 ca; c.threads.isEmpty && c.q0.isEmpty && c.q1.isEmpty && c.q2.isEmpty && c.q3.isEmpty) = true ∧
    ((launched fetchLaunch).cols.all fun e => (e.2.thread 32).run == .idle) = true ∧
    (let l : Launch := { fetchLaunch with tlimit := 8 }; l.tlimit ≠ 0 ∧ 1000 * l.tlimit < l.ran + ((launched l).now - max 0 (l.start.getD 0))) ∧
    (let l : Launch := { fetchLaunch with ended := some (0, 0, 0, 7) }; ((launched l).part 0).launch = some l) ∧
    ((launched fetchLaunch).part 0).migrated = [] ∧ ((launched fetchLaunch).fn 0).cqtail + 2 ^ 64 - ((launched fetchLaunch).fn 0).cqhead - 2 ^ 64 < 2 ^ 4 ∧
    (ctl.col 0).threads ≠ [] ∧ ((launched fetchLaunch).part 0).quantumFrom = 0 := by decide +kernel
/-- The ended launch has a migrated page, and a line of its frame is poisoned. -/
theorem test_meets_LaunchEnds_poisoned : let m : Migrated := ⟨9, 0x20000, 20, true, 0x103048⟩
    let s : State := { launched { fetchLaunch with ended := some (0, 0, 0, 7) } with poison := [⟨.cellar (20 * 1024), 3, 0⟩] }
    (0 : Nat) ≠ 3 ∧ m.wr = true ∧ (∃ i < 1, ∃ e ∈ s.poison, e.at_ = .cellar (m.frame * 1024 + i)) ∧
    (launched fetchLaunch).poison = [] := by decide +kernel

/-- Function 1 of the partition, its window at the image window; a fenced partition. -/
def barred2 : State := { hosted 0 with fns := [(1, { HostFn.reset with bound := some 0, vfwin := BitVec.ofNat 64 Config.imgWindow, msgtgt := 0x1001 })] }
theorem test_meets_HostAccesses : (barred2.fn 0).winbase.toNat % 64 = 0 ∧ 0x1000 + 8 ≤ Config.cellarEnd ∧ Config.cellarEnd < Config.cellarEnd - 4 + 8 ∧
    barred2.boot.recovery = false ∧ barred2.poison = [] ∧ (barred2.fn 1).bound = some 0 ∧ (barred2.fn 2).bound = none ∧ 8 % 64 + 8 ≤ 64 ∧
    (match barred2.translate 0 (Config.imgWindow + 8) with | .ok x => x.back == .cellar 0x10008 && x.cls != .lod | .error _ => false) = true ∧
    (match barred2.translate 0 64 with | .ok _ => false | .error _ => true) = true ∧ 0x10008 % 64 = (Config.imgWindow + 8) % 64 ∧
    (barred2.part 0).launch = none ∧ barred2.net = [] ∧ 6 ≤ (barred2.fn 0).barBits ∧ 0x1000 + 8 ≤ 2 ^ (barred2.fn 0).barBits ∧
    ¬ 2 ^ 40 + 8 ≤ 2 ^ (barred2.fn 0).barBits ∧ (Config.imgWindow + 8) % 64 = 8 % 64 ∧
    (∃ e ∈ ({ barred2 with poison := [⟨.cellar (0x10008 / 64), 1, 0⟩] } : State).poison, e.at_ = .cellar (0x10008 / 64)) := by decide +kernel
theorem test_meets_HostAccesses_messages : (barred2.fn 1).msgtgt.toNat % 4096 = 1 ∧ (barred2.fn 1).msgtgt.getLsbD 12 = true ∧ 1 / 64 ≤ 35 ∧
    (barred2.part 0).pol.pres = true ∧ (barred2.part 0).pol.has 1 = true ∧ (barred2.part 0).pol.has 9 = false ∧
    (tget ({ barred2 with links := [(3, ⟨7, [⟨0, 1, none⟩]⟩)] } : State).links 3 Link.reset).cmds = [⟨0, 1, none⟩] ∧ (tget barred2.links 3 Link.reset).cmds = [] ∧
    1 ∉ barred2.retired := by decide +kernel
/-- A poisoned table line behind a VF's address; queue backing with a slot and without; the argument block of a launch; both links. -/
theorem test_meets_HostAccesses_places : let s := barred2.updPart 0 fun p => { p with launch := some fetchLaunch, slots := [⟨Config.queueBacking, ⟨0, 0⟩, 0, 0, 1, 0⟩] }
    (match ({ s with poison := [⟨.cellar 0, 3, 0⟩] } : State).translate 0 64 with | .error (.poison _) => true | _ => false) = true ∧
    (match s.translate 0 (Config.queueBacking + 8) with | .ok x => x.back == .slot (Config.queueBacking + 8) && x.cls != .lod | .error _ => false) = true ∧
    (match s.translate 0 (Config.fwWindow + 8) with | .ok x => x.back == .arg 8 && x.cls != .lod | .error _ => false) = true ∧
    ((s.part 0).slotAt (Config.queueBacking + 8)).isSome = true ∧ (s.part 0).slotAt (Config.queueBacking + 64) = none ∧
    ((s.queued (s.part 0).pol).all fun e => e.2.addr != Config.queueBacking + 64) = true := by decide +kernel
theorem test_meets_HostAccesses_links : let s : State := { barred2 with links := [(3, ⟨7, [⟨0, 1, none⟩]⟩)] }
    (tget s.links 3 Link.reset).cmds = [⟨0, 1, none⟩] ∧ 0 < (tget s.links (72 + 3) Link.reset).permits ∧
    (tget ({ s with links := [(75, ⟨0, []⟩)] } : State).links (72 + 3) Link.reset).permits = 0 := by decide +kernel

/-- The curve's zero point as a key, and the signature of zeroes that verifies any message under it (RFC 8032's equation). -/
def zeroKey : List Byte := 1 :: List.replicate 56 0
def zeroSig : List Byte := zeroKey ++ List.replicate 57 0
theorem zero_add : Crypto.Point.zero.add Crypto.Point.zero = Crypto.Point.zero := by decide +kernel
theorem zero_mul (k n : Nat) : Crypto.Point.zero.mul k n = Crypto.Point.zero := by
  induction n generalizing k with
  | zero => rfl
  | succ n ih => simp only [Crypto.Point.mul, ih, zero_add, ite_self]
theorem mul_zero_times (p : Crypto.Point) (n : Nat) : p.mul 0 n = Crypto.Point.zero := by
  induction n with
  | zero => rfl
  | succ n ih => simp only [Crypto.Point.mul, Nat.zero_div, ih, zero_add, Nat.zero_mod, Nat.zero_ne_one, if_false]
theorem verify_zero (m : List Byte) : Crypto.verify zeroKey m zeroSig = true := by
  have hk : Crypto.Point.decode zeroKey = some Crypto.Point.zero := by decide +kernel
  have hr : zeroSig.take 57 = zeroKey := by decide +kernel
  have hs : leNat (zeroSig.drop 57) = 0 := by decide +kernel
  have hl : zeroSig.length = 114 := by decide +kernel
  have ho : 0 < Crypto.order := by decide +kernel
  have he : Crypto.Point.zero.same Crypto.Point.zero = true := by decide +kernel
  simp only [Crypto.verify, hr, hk, hs, mul_zero_times, zero_mul, zero_add, hl, ho, he, beq_self_eq_true, decide_true, Bool.and_true]
theorem root_accepts (key : Config.rootKey = zeroKey) (s : State) (r : List Byte) (e : Envelope) (he : envelopeOf r = some e)
    (hs : e.bytes.drop (64 + e.body.length) = zeroSig) (ht : e.ty ≠ 4 ∧ e.ty ≠ 7 ∧ e.forDevice s.ownId = true ∧
      (e.ty = 1 → e.svn ≤ 0xFFFF ∧ s.boot.floor ≤ e.svn)) : s.rootAccepts r = some e := by
  have hv : e.signed Config.rootKey = true := by rw [key, Envelope.signed, hs]; exact verify_zero _
  simp only [State.rootAccepts, he, hv, ht, true_and]
  exact if_pos ⟨ht.1, ht.2.1, ht.2.2.2⟩

/-- A record of R454 of a type, device, SVN and body, so signed. -/
def header (ty dev svn : Nat) (body : List Byte) : List Byte :=
  [0x4E, 0x5A, 0x52, 0x31] ++ leBytes 1 ty ++ leBytes 1 (if ty = 4 ∨ ty = 7 then 1 else 0) ++ leBytes 2 0 ++ leBytes 4 svn ++
    leBytes 4 body.length ++ leBytes 8 dev ++ List.replicate 40 0 ++ body
def signedRecord (ty dev svn : Nat) (body : List Byte) : Envelope := ⟨ty, svn, dev, body, header ty dev svn body ++ zeroSig⟩
/-- A policy body in range: partition 3, one field. -/
def policyBody : List Byte := leBytes 1 3 ++ leBytes 1 0 ++ leBytes 1 0 ++ leBytes 1 0 ++ leBytes 1 0 ++ leBytes 1 4 ++ leBytes 2 0x5F ++
  leBytes 4 10000 ++ leBytes 4 1048576 ++ leBytes 4 4096 ++ leBytes 4 16384 ++ leBytes 4 16384 ++ leBytes 4 4096 ++ leBytes 4 0 ++
  leBytes 4 0 ++ leBytes 8 0x100000 ++ leBytes 8 0x10000 ++ leBytes 4 4096 ++ leBytes 2 0xEE ++ List.replicate 66 0
/-- Flash holds the owner's certificate; the device runs, is number 9, has slot A of SVN 5 and slot B of SVN 6, which runs on trial;
host memory holds a FLOOR record of 3. -/
def owned : State := { hosted 0 with
  flash := [(0, (signedRecord 5 0 1 zeroKey).bytes)]
  boot := { (hosted 0).boot with
    identity := some [], devid := 9, nonce := 7, slotA := (signedRecord 1 0 5 []).bytes, slotB := (signedRecord 1 0 6 []).bytes, trial := true, slot := true }
  hostMem := mwrite [] 0x1000 (signedRecord 6 0 1 [3, 0]).bytes }
theorem owned_cert (key : Config.rootKey = zeroKey) : owned.ownerCert = some (signedRecord 5 0 1 zeroKey) := by
  have h : owned.rootAccepts (signedRecord 5 0 1 zeroKey).bytes = some (signedRecord 5 0 1 zeroKey) :=
    root_accepts key _ _ _ (by decide +kernel) (by decide +kernel) (by decide +kernel)
  have hf : owned.flash = [(0, (signedRecord 5 0 1 zeroKey).bytes)] := rfl
  simp only [State.ownerCert, hf, List.filterMap_cons, h, List.filterMap_nil]; rfl
theorem owner_accepts (key : Config.rootKey = zeroKey) (e : Envelope) (ht : e.ty = 4 ∨ e.ty = 7) (he : envelopeOf e.bytes = some e)
    (hs : e.bytes.drop (64 + e.body.length) = zeroSig) (hd : e.forDevice owned.ownId = true) : owned.accepts e.ty e.bytes = some e := by
  have hv : e.signed (signedRecord 5 0 1 zeroKey).body = true := by
    show Crypto.verify zeroKey _ _ = true
    rw [hs]; exact verify_zero _
  simp only [State.accepts, if_pos ht, he, owned_cert key, hd, hv, and_self, if_true]

theorem test_meets_PartitionCommands (key : Config.rootKey = zeroKey) :
    owned.accepts 4 (signedRecord 4 0 1 policyBody).bytes = some (signedRecord 4 0 1 policyBody) :=
  owner_accepts key (signedRecord 4 0 1 policyBody) (by decide) (by decide +kernel) (by decide +kernel) (by decide +kernel)
theorem test_meets_PartitionCommands_bodies : bodyOk policyBody = true ∧ bodyOk [] = false ∧ tmem (hosted 0).parts (policyOf policyBody).part = false ∧
    (hosted 0).parts.length < 16 ∧ (policyOf policyBody).pres = false ∧ (ctl.accepts 4 []).isNone = true ∧ tmem (hosted 0).parts 0 = true ∧
    tmem (hosted 0).parts 7 = false ∧ (hosted 0).roomFor ((hosted 0).owedBy 0) = true ∧
    (let s := { hosted 1 with fns := [(1, { (hosted 1).fn 1 with cqtail := 16 })] }; s.roomFor (s.owedBy 0) = false) ∧
    ((hosted 0).fn 2).bound = none ∧ ((hosted 0).fn 1).bound ≠ none ∧ ((hosted 0).fn 1).lqhead = ((hosted 0).fn 1).lqtail := by decide +kernel
theorem test_meets_PartitionCommands_sent : let s (busy begun : Bool) (c : BitVec 512) : State := { hosted 0 with
      fns := (hosted 0).fns ++ [(0, { HostFn.reset with pfcmd := c, pfBusy := busy, pfStarted := begun })] }
    (s true true 2).boot.running = true ∧ ((s true true 2).fn 0).pfcmd.toNat % 65536 = 2 ∧ ((s true true 2).fn 0).pfcmd.toNat / 2 ^ 64 % 2 ^ 64 = 0 % 2 ^ 64 ∧
    ((s true true 2).fn 0).pfStarted = true ∧ ((s false false 0).fn 0).pfStarted = false ∧ ((s true false 2).fn 0).pfcmd.toNat % 65536 ≠ 1 ∧
    (s true true 2).links = [] ∧ (∀ f ∈ ((s true true 2).part 0).pol.fields, 0 < (tget (s true true 2).links f Link.reset).permits) ∧
    ((s true true 2).part 0).pol.fields.Nodup ∧ ((s true true 2).part 0).migrated = [] := by decide +kernel

theorem slot_accepts (key : Config.rootKey = zeroKey) (svn : Nat) (h : svn = 5 ∨ svn = 6) :
    owned.accepts 1 (signedRecord 1 0 svn []).bytes = some (signedRecord 1 0 svn []) := by
  have hr : owned.rootAccepts (signedRecord 1 0 svn []).bytes = some (signedRecord 1 0 svn []) := by
    rcases h with rfl | rfl <;> exact root_accepts key _ _ _ (by decide +kernel) (by decide +kernel) (by decide +kernel)
  simp only [State.accepts, hr]; rfl
theorem test_meets_FirmwareAndBoot (key : Config.rootKey = zeroKey) :
    owned.accepts 6 (owned.hostRecord 0x1000) = some (signedRecord 6 0 1 [3, 0]) ∧ owned.firmwareOk false = true := by
  have hm : owned.hostRecord 0x1000 = (signedRecord 6 0 1 [3, 0]).bytes := by decide +kernel
  have hr : owned.rootAccepts (signedRecord 6 0 1 [3, 0]).bytes = some (signedRecord 6 0 1 [3, 0]) :=
    root_accepts key _ _ _ (by decide +kernel) (by decide +kernel) (by decide +kernel)
  have ha : owned.boot.slotBytes false = (signedRecord 1 0 5 []).bytes := rfl
  constructor
  · rw [hm]; simp only [State.accepts, hr]; rfl
  · rw [State.firmwareOk, ha, slot_accepts key 5 (.inl rfl)]; rfl
theorem test_meets_FirmwareAndBoot_running : owned.boot.running = true ∧ ctl.boot.running = false ∧ owned.boot.trial = true ∧
    owned.boot.slot ≠ owned.boot.active ∧ 3 ≤ 64 ∧ 64 < 65 ∧ leNat (((signedRecord 1 0 6 []).bytes.drop 8).take 4) = 6 ∧ ¬ 6 < 3 ∧
    (owned.accepts 6 []).isNone = true ∧ (ctl.accepts 7 []).isNone = true ∧ (hosted 0).boot.recovery = false ∧
    owned.boot.bootTick + 900 * 10 ^ 9 < ({ owned with almanac := 900000000001 } : State).now ∧ owned.now ≤ owned.boot.bootTick + 900 * 10 ^ 9 ∧
    (owned.fn 0).fwBusy = false ∧ ¬ ((0 : BitVec 512).toNat % 65536 = 2) ∧ owned.mayCancel = true ∧ (ctl.boot.running = false ∧ ctl.boot.recovery = false) ∧
    ({ hosted 1 with fns := [(1, { (hosted 1).fn 1 with cqtail := 16 })] } : State).mayCancel = false := by decide +kernel
/-- Two valid copies, of which the first governs; and none. -/
theorem test_meets_FirmwareAndBoot_copies : (BootCopy.made 1 false true 2).valid = true ∧ BootCopy.blank.valid = false ∧
    (BootCopy.made 1 false true 0).valid = true ∧ BootCopy.blank.seq ≤ (BootCopy.made 1 false true 2).seq := by decide +kernel
def rollBody : List Byte := leBytes 8 owned.boot.nonce.toNat ++ [0]
theorem test_meets_FirmwareAndBoot_rollback (key : Config.rootKey = zeroKey) :
    owned.accepts 7 (signedRecord 7 9 1 rollBody).bytes = some (signedRecord 7 9 1 rollBody) ∧ owned.rollTarget rollBody = some false := by
  refine ⟨owner_accepts key (signedRecord 7 9 1 rollBody) (by decide) (by decide +kernel) (by decide +kernel) (by decide +kernel), ?_⟩
  have h : rollBody.length = 9 ∧ at_ rollBody 0 8 = owned.boot.nonce.toNat ∧ at_ rollBody 8 1 ≤ 1 ∧ (at_ rollBody 8 1 == 1) = false := by decide +kernel
  simp only [State.rollTarget, h, (test_meets_FirmwareAndBoot key).2, and_self, if_true]
theorem test_meets_QuotesAndSnapshots : (hosted 0).boot.running = true ∧ (List.replicate 32 (0 : Byte)).length = 32 ∧ (hosted 0).boot.alias_ = none ∧
    ({ (hosted 0).boot with alias_ := some [] }).alias_ = some [] ∧ 3 ≤ 15 ∧ ¬ (15 < 0xFF ∧ 0xFF ≠ 0xFF) ∧ ((hosted 0).fn 0).fwBusy = false := by decide

/-! Clauses of accesses and lookups. -/

def img : Nat := Config.imgWindow
/-- One access of thread 0, outstanding, in a state. -/
def issued (s : State) (op : AccOp) (pieces : List Piece) (tag : BitVec 12) (d : List Dest) : State :=
  s.upd fun th => { th with out := [⟨7, op, pieces, tag, d, .pending, false⟩], cntLd := 1, cntSt := 1 }
def judged (s : State) (k : Kind) (tag : BitVec 12) (addr : Nat) : Option Backing :=
  match s.judge s.cur k tag false s.th.ordered addr with
  | .ok x => if s.taint s.pid x tag = none ∧ x.ext then some x.back else none
  | .error _ => none
/-- What an access that may perform meets of the first hypotheses. -/
def performs (s : State) : Bool :=
  match s.accessOf s.cur 7 with
  | some a => s.canPerform s.cur a && s.partOf s.cur == some s.pid && threadOk s.cur && tmem s.parts s.pid &&
      a.pieces.all fun pc => decide (0 < pc.w) && decide (pc.w < 64) && decide (pc.idx < 64) && decide (pc.addr % 64 + pc.w ≤ 64)
  | none => false

/-- A load and a store under tag 2, which has a cell at that line, and one under tag 3, two below it, which has none. -/
theorem test_meets_AccessesPerform_context : (∀ op ∈ [AccOp.ld 3 true, .st], ∀ tag ∈ [(2 : BitVec 12), 3],
      let s := issued tagged op [⟨0, img, 8, 5⟩] tag [.s 3]
      performs s = true ∧ judged s op.kind tag img = some (.cellar 0x10000) ∧ op.context tag = tag) ∧ tagged.poison = [] ∧
    (tagged.curPart.cellAt 2 (img / 64)).isSome = true ∧ tagged.curPart.cellAt 3 (img / 64) = none ∧
    (tagged.curPart.tag 2).map (·.parent) = some 0 ∧ (tagged.curPart.tag 3).map (·.parent) = some 2 := by decide +kernel
/-- The same load and a reduction of an ordered task. -/
theorem test_meets_AccessesPerform_ordered : (∀ op ∈ [AccOp.ld 3 true, .red .add .z64, .redx],
      let s := issued (tasked (ending false) true false) op [⟨0, img, 8, 5⟩] 1 [.s 3]
      performs s = true ∧ s.th.ordered = true ∧ judged s op.kind (if op = .ld 3 true then 1 else 0) img = some (.cellar 0x10000) ∧ s.th.ownTag = 1 ∧
      ((s.part 0).otaskOf 1).isSome = true) := by decide +kernel
/-- Stores in home, loft, drive and another column's scratch. -/
def remote (ca off : Nat) : Nat := Config.scratchBase + ca * 2 ^ 22 + off
def lofty : State := (ctl.updCol 0 fun c => { c with ways := 8 }).updCol 1 fun c => { c with ways := 8, holder := some 0 }
theorem test_meets_AccessesPerform_scratch : (∀ a ∈ [home + 64, home + 0x100000, remote 1 64, remote 1 0x100000],
      let s := issued lofty .st [⟨0, a, 8, 5⟩] 0 []
      performs s = true ∧ s.th.ordered = false ∧ s.scratchLock s.cur .store a 7 = false ∧ s.scratchTaint s.cur a = none) ∧
    (let s := issued drv .st [⟨0, home + 64, 8, 5⟩] 0 []
     performs s = true ∧ isDrive s.cur = true ∧ s.scratchLock s.cur .store (home + 64) 7 = false ∧ s.scratchTaint s.cur (home + 64) = none) ∧
    inRemote (remote 1 64) = true ∧ remoteHigh (remote 1 64) = 0 ∧ remoteRow (remote 1 64) = 0 ∧ remoteCa (remote 1 64) = 1 ∧ remoteOff (remote 1 64) = 64 ∧
    1 ∉ ctl.retired ∧ 8 ≤ lofty.here.loftSize ∧ 8 ≤ (lofty.col 1).loftSize := by decide +kernel
/-- A vector load of two elements, one of which lies in no page, and a vector store. -/
theorem test_meets_AccessesPerform_pieces : (let s (b : Nat) := issued vec (.vld 2 true) [⟨0, img, 4, 0⟩, ⟨1, b, 4, 0⟩] 0 [.v 2 0, .v 2 1]
      (∀ b ∈ [img + 4, Config.queueBacking], performs (s b) = true ∧ inScratch b = false) ∧ (s Config.queueBacking).th.ordered = false ∧ (s Config.queueBacking).poison = [] ∧
      judged (s (img + 4)) .load 0 img = some (.cellar 0x10000) ∧ judged (s (img + 4)) .load 0 (img + 4) = some (.cellar 0x10004) ∧
      (match (s Config.queueBacking).judge ⟨0, 0⟩ .load 0 false false Config.queueBacking with | .error (.fault c) => c == .protection | _ => false) = true) ∧
    performs (issued vec .st [⟨0, img, 4, 9⟩, ⟨1, img + 4, 4, 7⟩] 0 []) = true := by decide +kernel
theorem test_meets_AccessesPerform_stores (c : Mem) : let s := issued vec .st [⟨0, img, 4, 9⟩, ⟨1, img + 4, 4, 7⟩] 0 []
    ∀ pc ∈ [(⟨0, img, 4, 9⟩ : Piece), ⟨1, img + 4, 4, 7⟩], ∃ x, ({ s with cellar := c } : State).judge ⟨0, 0⟩ .store 0 false false pc.addr = .ok x ∧
      x.back = .cellar (0x10000 + 4 * pc.idx) := by
  intro s pc h
  simp only [List.mem_cons, List.not_mem_nil, or_false] at h
  rcases h with rfl | rfl <;> exact ⟨_, rfl, rfl⟩

/-- The image window's pages: shared, LOD and synchronised; a surface of 128 by 128 texels of one page, of two levels, with a ring. -/
def texedAt (map : Nat) : State := { (pol (vec.updCurPart fun p => { p with
    fwPages := p.fwPages ++ [⟨img / 65536 + 1, 0x20000 + 3 + 16⟩, ⟨img / 65536 + 2, 0x30000 + 3 + 16⟩,
      ⟨img / 65536 + 3, 0x40000 + 3 + 8 + 32⟩]
    grbase := BitVec.ofNat 64 (img + 0x30000 + 4) }) fun p => { p with reslo := img, reshi := img + 0x8000 }) with
  cellar := mwrite vec.cellar 0x10000 (leBytes 8 (img + 0x10000) ++ leBytes 8 map ++ leBytes 8 (img + 0x30000) ++ leBytes 2 128 ++
    leBytes 2 128 ++ [2, 1, 0, 0] ++ leBytes 2 5) }
def texed : State := texedAt (img + 0x1000)
def surface : LodDesc := ⟨img + 0x10000, img + 0x1000, img + 0x30000, 128, 128, 2, 1, 0, 5⟩
def texel : List Lookup := [⟨0, 0x50000, 0x60000, 0⟩, ⟨3, 0, 0, 1⟩]
/-- A lookup before its reads, after them, and the status accesses, each of v4 on. -/
def looking (s : State) (seen : Option Seen) : State := issued s (.tex false 4 2 img texel seen) [] 0 []
def fallen : Seen := ⟨surface, [⟨1, [0]⟩, ⟨1, []⟩]⟩
def descs (s : State) : Option LodDesc := match s.loadBase s.cur img 64 with
  | .ok (_, x) => lodDesc s.curPart.grbase x
  | .error _ => none
theorem test_meets_Lookups_reads : let s := looking texed none
    performs s = true ∧ ((s.th.out.map (·.id)).Nodup ∧ (texel.map (·.idx)).Nodup) ∧ (∀ e ∈ texel, e.idx < 64) ∧ descs s = some surface ∧
    (surface.loff 2 + 7) / 8 = 1 ∧ inScratch (surface.map + 0) = false ∧ judged s .load 0 surface.map = some (.cellar 0x11000) ∧
    (match s.translate 0 surface.map with | .ok x => x.cls == .shared | .error _ => false) = true ∧ (2 : Nat) ≤ 4 ∧
    min 0 (surface.levels - 1) < surface.tail ∧ (surface.taps false 0 0x50000 0x60000).map (fun q => surface.page 0 q.x q.y) = [0] := by decide +kernel
/-- The descriptor has gone; its map is another's, or write-locked. -/
theorem test_meets_Lookups_reads_else : descs (looking { texed with cellar := [] } none) = none ∧
    (match (looking { texed with cellar := [] } none).loadBase ⟨0, 0⟩ img 64 with | .ok _ => true | .error _ => false) = true ∧
    (let s := { looking texed none with locks := [⟨.mem 0 (surface.map / 64), true, 4⟩] }
     descs s = some surface ∧ (match s.judge ⟨0, 0⟩ .load 0 false false surface.map with | .error (.fault .rangeLock) => true | _ => false) = true) ∧
    descs (looking (texedAt (img + 0x30000)) none) = some { surface with map := img + 0x30000 } ∧
    (match (texedAt (img + 0x30000)).translate 0 (img + 0x30000) with | .ok x => x.cls != .shared | .error _ => false) = true := by decide +kernel
theorem test_meets_Lookups_returns : let s := looking texed (some fallen)
    performs s = true ∧ texel.length = fallen.found.length ∧
    (∀ y ∈ texel.zip fallen.found, ∀ q ∈ surface.taps false y.2.level y.1.u.toNat y.1.v.toNat,
      addrBad (surface.texel y.2.level q.x q.y) surface.b = false ∧
      (match s.translate 0 (surface.texel y.2.level q.x q.y) with
        | .ok x => x.cls == .lod && !s.writeLocked (.mem 0 x.line) && (s.taint 0 x 0).isNone
        | .error _ => false) = true) ∧ surface.ring ≠ 0 ∧ s.curPart.grbase.toNat % 32 ≠ 0 ∧
    (texel.zip fallen.found).flatMap (fun y => y.2.pages.map fun q => (min y.1.lreq (surface.levels - 1), y.2.level, q)) = [(0, 1, 0)] ∧
    (match s.offers ⟨0, 0⟩ surface [(0, 1, 0)] with | .ok _ => true | .error _ => false) = true := by decide +kernel
def at1 : Nat := surface.texel 1 2 3
/-- The first texel's line is write-locked; its page is no LOD page; RESQ's and RESW's bits. -/
theorem test_meets_Lookups_returns_else :
    (let s := { looking texed (some fallen) with locks := [⟨.mem 0 (at1 / 64), true, 4⟩] }
     (match s.translate 0 at1 with | .ok x => x.cls == .lod && s.writeLocked (.mem 0 x.line) | .error _ => false) = true ∧ surface.taps false 1 0x50000 0x60000 = [⟨65536, 2, 3⟩]) ∧
    (let s := looking texed (some { fallen with desc := { surface with base := img } })
     addrBad img 4 = false ∧ (match s.translate 0 img with | .ok x => x.cls != .lod | .error _ => false) = true) ∧
    performs (issued texed (.resq 4 (img + 0x1000) [(0, some 3), (5, none)]) [] 0 [.v 4 0, .v 4 5]) = true ∧
    judged (issued texed (.resq 4 (img + 0x1000) [(0, some 3)]) [] 0 []) .load 0 (img + 0x1000) = some (.cellar 0x11000) ∧
    performs (issued texed (.resw 4 (img + 0x1000) true [(0, some 3), (2, some 3), (5, none)]) [] 0 [.v 4 0, .v 4 2, .v 4 5]) = true ∧
    ([(0, some 3), (2, some 3), (5, none)].map (·.1) : List Nat).Nodup := by decide +kernel
theorem test_meets_Lookups_writes (c : Mem) : let s := issued texed (.resw 4 (img + 0x1000) true [(0, some 3), (5, none)]) [] 0 [.v 4 0, .v 4 5]
    ∃ x, ({ s with cellar := c } : State).translate 0 (img + 0x1000 + 3 / 8) = .ok x ∧ x.cls = .shared ∧ x.w = true ∧ x.back = .cellar 0x11000 ∧
      ({ s with cellar := c } : State).writeLocked (.mem 0 x.line) = false ∧ ({ s with cellar := c } : State).readLocked (.mem 0 x.line) = false :=
  ⟨_, rfl, rfl, rfl, rfl, rfl, rfl⟩
/-- RMFENCE beside no lookup of its map, beside one that has read it, and after it has waited for that one. -/
theorem test_meets_Lookups_fence : let s := looking (regs texed (BitVec.ofNat 64 img) 0) (some fallen)
    texed.unregistered texed.cur = [] ∧ (∃ th ∈ s.heldThreads s.pid, ∃ o ∈ th.out, o.id = 7 ∧ o.op = .tex false 4 2 img texel (some fallen)) ∧
    (∀ th ∈ texed.heldThreads texed.pid, th.out = []) ∧ (∀ o ∈ s.th.out, o.reswOf surface.map = false) ∧ s.th.waited = false ∧
    surface.map + 1 ≤ s.curPart.pol.reshi ∧ s.curPart.pol.reslo ≤ surface.map ∧
    (s.upd fun th => { th with waited := true, wait := .lookups [7] }).th.wait = .lookups [7] := by decide +kernel
/-- Taps: of bytes, with a NaN, with an infinity, of numbers. -/
theorem test_meets_Lookups_taps : (List.map (·.1) [((65536 : Nat), ([1, 2, 3, 4] : List Byte))]).sum ≤ 65536 ∧ f32.decode (leNat [0, 0, 0xC0, 0x7F]) = .nan ∧
    f16.decode (leNat ([0x00, 0x7C].take 2)) = .inf false ∧ f16.decode (leNat [0x00, 0x3C]) = .num false 1024 (-10) := by decide +kernel
/-- A record offered: known, to a full ring, written, to a page not synchronised, to none. -/
def keyed (n : Nat) : State := col texed fun c => { c with filter := (upto n).map fun i => ⟨5, 0, i, 0⟩ }
def ringAt (s : State) (g : Nat) : State := s.updCurPart fun p => { p with grbase := BitVec.ofNat 64 g }
theorem test_meets_Lookups_ring : (keyed 64).partOf ⟨0, 0⟩ = some 0 ∧ tmem (keyed 0).parts 0 = true ∧
    (∃ k ∈ ((keyed 1).here.filter.filter fun k => decide ((keyed 1).almanac.toNat < k.born + 2 ^ 20)), k.rid = surface.rid ∧ k.level = 0 ∧ k.page = 0) ∧
    (∀ k ∈ ((keyed 64).here.filter.filter fun k => decide ((keyed 64).almanac.toNat < k.born + 2 ^ 20)), ¬ (k.rid = surface.rid ∧ k.level = 0 ∧ k.page = 99)) ∧
    64 ≤ (keyed 64).here.filter.length ∧ surface.rid < 2 ^ 16 ∧
    (let p := (texed.updCurPart fun p => { p with grhead := 16 }).curPart; ¬ (p.grhead - p.grtail).toNat < 2 ^ 4) ∧
    (texed.curPart.grhead - texed.curPart.grtail).toNat < 2 ^ 4 ∧ texed.curPart.grbase.toNat / 2 ^ 12 % 2 ^ 36 * 4096 + 16 * 0 = img + 0x30000 ∧
    (match (ringAt texed (img + 4)).translate 0 img with | .ok x => x.cls != .sync | .error _ => false) = true ∧
    (match (ringAt texed (0x90000 + 4)).translate 0 0x90000 with | .error (.absent _) => true | _ => false) = true ∧
    (match (ringAt { migrating 0x100000 with poison := [⟨.cellar (0x103000 / 64 + 1), 3, 0⟩] } (0x90000 + 4)).translate 0 0x90000 with
      | .error (.poison _) => true
      | _ => false) = true := by decide +kernel

/-! Clauses of contexts, tasks and messages. -/

/-- Tag 2 with two cells, tag 3 below it with one of theirs and one more; tag 5 dead, and free. -/
def folding : State := (regs tagged 2 3).updCurPart fun p => { p with
  tags := p.tags ++ [(5, ⟨false, 2, 1⟩)]
  cells := [⟨2, img / 64, 7, 3⟩, ⟨2, img / 64 + 2, 9, 1⟩, ⟨3, img / 64 + 4, 4, 2⟩, ⟨3, img / 64, 5, 1⟩] }
theorem test_meets_ContextTags_freed : folding.curPart.tag 5 = some ⟨false, 2, 1⟩ ∧ folding.tagFreed folding.pid 5 = true ∧
    folding.cur.ca ∈ folding.heldBy folding.pid ∧
    (∃ o ∈ (issued folding .st [⟨0, img, 8, 5⟩] 5 []).th.out, o.tag = 5) ∧
    (match folding.translate 0 img with | .ok l => l.ext && folding.slotOk 0 ⟨0, 0⟩ l.back && l.permits .store 0 false | .error _ => false) = true := by
  decide +kernel
theorem test_meets_ContextTags_folds : folding.poison = [] ∧ (folding.rs 1).toNat = 2 ∧ folding.curPart.tag 2 = some ⟨true, 0, 1⟩ ∧
    folding.curPart.tag 3 = some ⟨true, 2, 3⟩ ∧ folding.engineNames folding.pid 2 = false ∧ folding.engineNames folding.pid 3 = false ∧
    (∀ n ∈ [(2 : BitVec 12), 3], ((folding.curPart.cells.filter fun c => c.tag == n).map (·.line)).Nodup ∧
      (folding.curPart.cells.filter fun c => c.tag == n).length = 2 ∧ ∀ c ∈ folding.curPart.cells, c.mask ≠ 0) ∧
    folding.curPart.cells.length < folding.curPart.pol.cellq ∧ tmem folding.parts folding.pid = true ∧
    folding.curPart.cellAt 2 (img / 64 + 4) = none ∧ (pol folding fun p => { p with cellq := 4 }).curPart.pol.cellq ≤ folding.curPart.cells.length ∧
    ((folding.curPart.cells.filter fun c => c.tag == 3).head?.map fun c => folding.curPart.cellAt 2 c.line) = some none := by decide +kernel
theorem test_meets_ContextTags_lines (m : Mem) : ∀ c ∈ folding.curPart.cells, ∃ l, ({ folding with cellar := m } : State).translate 0 (c.line * 64) = .ok l ∧
    l.back = .cellar (0x10000 + (c.line - img / 64) * 64) ∧ l.ext = true ∧ l.line = c.line := by
  intro c h
  have h : c ∈ [(⟨2, img / 64, 7, 3⟩ : Cell), ⟨2, img / 64 + 2, 9, 1⟩, ⟨3, img / 64 + 4, 4, 2⟩, ⟨3, img / 64, 5, 1⟩] := h
  simp only [List.mem_cons, List.not_mem_nil, or_false] at h
  rcases h with rfl | rfl | rfl | rfl <;> exact ⟨_, rfl, rfl, rfl, rfl⟩

/-- The plain choice reads low; it reads high and another reads low; all read high. -/
def warm (cas : List Nat) : State := (cas.foldl (fun s i => s.updCol i fun c => { c with temp := 0x640 }) ctl).updCurPart fun p => { p with
  thdisp := 95 }
def reading (s : State) (ca : Nat) : Nat := min 0xFFFF ((s.col ca).temp.toNat / 16 + 2 * (s.col ca).droop.toNat)
theorem test_meets_Spawning_place : (warm [0]).members (warm [0]).curPart.pol = ctl.members ctl.curPart.pol ∧ (ctl.members ctl.curPart.pol).take 2 = [0, 1] ∧
    reading (warm []) 0 ≤ (warm []).curPart.thdisp.toNat ∧ (warm [0]).curPart.places = [] ∧
    ¬ reading (warm [0]) 0 ≤ (warm [0]).curPart.thdisp.toNat ∧ reading (warm [0]) 1 ≤ (warm [0]).curPart.thdisp.toNat ∧
    0 + 1 ≤ ((warm [0]).curPart.pdist.toNat : Int) ∧ -((warm [0]).curPart.pdist.toNat : Int) ≤ 0 - 1 ∧
    (∀ ca ∈ ctl.members ctl.curPart.pol, ¬ reading (warm (ctl.members ctl.curPart.pol)) ca ≤ (warm (ctl.members ctl.curPart.pol)).curPart.thdisp.toNat) := by decide +kernel

/-- A plain task with C whose PARENT lies at a place, with a JOIN of n there, and with its written-back record or without. -/
def joining (parent n : Nat) (held : Bool) : State := { (ctl.upd fun th => { th with
    task := some ⟨⟨0, 0, BitVec.ofNat 64 parent, 5, false, false, true, 0, 0, 0, 0, 0, 0, 0⟩, []⟩ }).updCurPart fun p => { p with
    wb := if held then [⟨img, 0, 1, [], 0⟩] else [] } with cellar := mwrite ctl.cellar 0x10024 (leBytes 4 n) }
def joinLeft (s : State) : Option Int := match s.judge s.cur .red 0 false s.th.ordered (img + 36) with
  | .ok x => if s.taint s.pid x 0 = none then
      some (BitVec.ofNat 32 (leNat (s.readXlat s.pid x 0 (img + 36) 4) + 0xFFFFFFFF)).toInt else none
  | .error _ => none
theorem test_meets_CommittingAndEnding_joins : joinLeft (joining img 2 true) = some 1 ∧ joinLeft (joining img 1 false) = some 0 ∧
    joinLeft (joining img 1 true) = some 0 ∧ joinLeft (joining img 0 false) = some (-1) ∧
    ((joining img 1 true).curPart.wb.find? fun e => e.addr == img) = some ⟨img, 0, 1, [], 0⟩ ∧ (joining img 1 false).curPart.wb = [] ∧
    inScratch img = false ∧ inScratch home = true ∧ (joining img 1 true).th.ordered = false ∧
    ((joining img 1 true).th.task.map fun k => (k.r.o, k.r.c, k.r.parent.toNat)) = some (false, true, img) ∧
    (match (joining Config.queueBacking 1 false).judge ⟨0, 0⟩ .red 0 false false (Config.queueBacking + 36) with
      | .error (.fault c) => c == .protection
      | _ => false) = true := by decide +kernel
theorem test_meets_CommittingAndEnding_joins_reach : (joining img 1 true).reaches img 64 64 ∧ (joining home 1 true).reaches home 64 64 ∧
    (joining 62 1 true).coreTraps 62 64 64 .misaligned ∧ (joining Config.queueBacking 1 false).reaches Config.queueBacking 64 64 := by
  refine ⟨?_, ?_, .inr (.inl ⟨rfl, by decide, by decide⟩), ?_⟩ <;> unfold State.reaches State.scratchOpen <;> decide +kernel
theorem test_meets_CommittingAndEnding_yield : (Config.recordSlots - Config.homeBase + 64 * 0) / 64 = 0xFFA00 / 64 ∧
    (∃ e ∈ ({ ctl with poison := [⟨.home 0 (0xFFA00 / 64), 1, 0⟩] } : State).poison, e.at_ = .home 0 (0xFFA00 / 64)) ∧ ctl.poison = [] := by decide +kernel

theorem test_meets_BarriersAndVotes_general : (∃ w ∈ (barred 0).waiters 2 1 ((barred 0).heldBy 0), isService w = false) ∧
    (let s := (barred 0).updThread ⟨0, 0⟩ fun _ => Thread.reset
     let u := s.updThread ⟨0, 24⟩ fun th => { th with run := .waiting, wait := .barrier 2 true none }
     ∀ w ∈ u.waiters 2 1 (u.heldBy 0), isService w = true) ∧ isService svc.cur = true ∧
    (∃ b ∈ (barred 0).curPart.barWait, b.1 = (2, 1)) := by decide +kernel

/-- The payload's line, and a line at the edge of a received entry, are poisoned; no command of the thread is to register. -/
theorem test_meets_Messages_poisoned : (sending 0).unregistered (sending 0).cur = [] ∧ isDrive (sending 0).cur = false ∧
    (∃ e ∈ ({ sending 0 with poison := [⟨windowPlace 0 64, 1, 0⟩] } : State).poison, e.at_ = windowPlace 0 (home + 64 - Config.homeBase)) ∧
    (sending 0).poison = [] ∧ (copying [(.home 0 0, false)] false).unregistered ⟨0, 0⟩ ≠ [] ∧
    (∃ e ∈ ({ inboxed ctl with poison := [⟨.home 0 2, 1, 0⟩] } : State).poison, e.at_ = .home 0 2) ∧ (64 + 80 > 64 * 2) ∧
    ¬ (64 ≤ 64 * 2 ∧ 64 * 2 + 64 ≤ 64 + 80) ∧ (inboxed ctl).unregistered ⟨0, 0⟩ = [] ∧ (inboxed ctl).th.out = [] := by decide +kernel
theorem test_meets_ExchangePhases_place : (moving true [] [(1, 12)]).xfers.map (fun f => (f.doff % 64, f.data.length, f.lines)) = [(0, 64, 1)] ∧
    (moving true [] [(1, 12)]).xfers.map (fun f => decide (f.doff + 64 * f.lines ≤ 0x100000)) = [true] ∧
    (∀ a ∈ (phased.thread ⟨0, 0⟩).out, a.op.isAmo = false) := by decide +kernel

/-! Clauses of commands and pixels. -/

def turns (reg : Bool) : State := { ctl with cmds := [⟨4, ⟨0, 1⟩, .mclr 0 0 16 16, [], reg, 0, .pending, [], [], false, []⟩,
  ⟨5, ⟨0, 0⟩, .mclr 0 0 16 16, [], false, 0, .pending, [], [], false, []⟩] }
theorem test_meets_CopyCommandsAndLocks_turn : ((turns true).cmdOf 5).map (fun c => (c.op.isMatrix, c.registered)) = some (true, false) ∧
    (∀ x ∈ (turns true).cmds, x.t.ca = 0 → x.op.isMatrix = true → x.id < 5 → x.registered = true) ∧
    (∃ x ∈ (turns false).cmds, x.t.ca = 0 ∧ x.op.isMatrix = true ∧ x.id < 5 ∧ x.registered = false) := by decide +kernel
/-- A copy of two rows of a line each within a page of memory, and the copies that an index array names; their pages do not move with
what they hold. -/
def copies (op : CmdOp) (srcs : List Opnd) : State := { ctl with cmds := [⟨5, ⟨0, 0⟩, op, [], true, 0, .pending, [], srcs, false, []⟩] }
def rowsOf : CmdOp := .cpy ⟨img, 0⟩ ⟨img + 0x1000, 0⟩ 2 1 128 64
theorem test_meets_CommandsComplete_copies : (∀ s ∈ [copies rowsOf [], copies (.cpyg ⟨img + 0x1000, 0⟩ img 2 0) [⟨img, 0⟩, ⟨img + 128, 0⟩]],
      (s.cmdOf 5).map (fun c => (c.registered, c.status, c.rows)) = some (true, .pending, 0) ∧ s.partOf ⟨0, 0⟩ = some 0 ∧ s.poison = []) ∧
    (∀ j < 2, inScratch (img + 128 * j) = false ∧ inScratch (img + 0x1000 + 64 * j) = false) ∧
    (∀ i < 2, ∀ j < 2, 0x10000 + 128 * i + 64 ≤ 0x11000 + 64 * j) ∧ img + 0x1000 < 2 ^ 48 := by decide +kernel
theorem test_meets_CommandsComplete_lines (m : Mem) : ∀ a ∈ [(0 : Nat), 128, 0x1000, 0x1040], ∃ x,
    ({ copies rowsOf [] with cellar := m } : State).translate 0 (img + a) = .ok x ∧ x.permitsEngine false 0 = true ∧ x.permitsEngine true 0 = true ∧
      x.back = .cellar (0x10000 + a) := by
  intro a h
  simp only [List.mem_cons, List.not_mem_nil, or_false] at h
  rcases h with rfl | rfl | rfl | rfl <;> exact ⟨_, rfl, rfl, rfl, rfl⟩
/-- The COLLs of a domain of one column, of every kind. -/
def joined (k : CollKind) : State := { col ctl fun c => { c with domid := 0x100 } with
  cmds := [⟨5, ⟨0, 0⟩, .coll k 2 1 home (home + 0x1000) 0 1, [], true, 0, .pending, [], [], false, []⟩] }
theorem test_meets_CommandsComplete_colls : (∀ k ∈ [CollKind.bcast, .gather, .sumf, .sumx], let s := joined k
      (s.cmdOf 5).map (fun c => s.collPeers c == s.cmds && s.collSize c == 1 && c.status == .pending) = some true ∧ s.poison = [] ∧
      (s.cmds.map fun x => x.t.ca).Nodup ∧ (s.cmds.map (·.id)).Nodup ∧ s.th.preReq = none ∧ s.th.out = []) ∧
    0 + 64 * 1 ≤ 0x100000 ∧ 0x1000 + 64 * 1 ≤ 0x100000 := by decide +kernel
/-- The row of an operand of a Q format, its scale bytes beside it, in home scratch, in another column's, in memory under tag 2. -/
def qRow (at_ : Nat) (tag : BitVec 12) : Option (List FV) := match (tagged.updCol 1 fun c => { c with home := [(0, 0x38)] }).operandRow ⟨0, 0⟩
    ⟨⟨at_, tag⟩, 0x10, 64, at_ + 0x1000, 64⟩ 8 0 with
  | .ok l => some l
  | .error _ => none
theorem test_meets_CommandsComplete_rows : (qRow home 0).isSome ∧ (qRow (remote 1 0) 0).isSome ∧ (qRow img 2).isSome ∧ tagged.curPart.live 2 = true ∧
    tagged.slotOk 0 ⟨0, 0⟩ (.cellar 0x10000) = true ∧ (matFmt 0x10).kind = .scaled ∧ tagged.poison = [] ∧ 1 ∉ tagged.retired ∧
    (tagged.col 1).scratchHas 0 1 = true ∧ (tagged.scratchByte 1 0).isSome ∧ (tagged.byteAt 0 2 img).isSome := by decide +kernel
theorem test_meets_CommandsComplete_scales : (0 : Nat) < 8 ∧ (([0x5F] : List Byte).getD (0 / 8) 0).toNat / 64 = 1 ∧
    (([0x7F] : List Byte).getD (0 / 8) 0).toNat % 64 = 63 ∧ ((0x10, 1, 0x02) : Nat × Nat × Nat).2.1 = 1 := by decide
/-- MRD of one row of 16 cells, to home scratch with and without scale bytes, and to a page of memory. -/
def reads (dst d scl : Nat) : State := working (.mrd ⟨dst, 0⟩ 64 0 0 1 16 ⟨d, 0, false, 0⟩ scl 64)
theorem test_meets_CommandsComplete_read : (∀ s ∈ [reads home 0 0, reads home 7 (home + 0x1000), reads img 0 0],
      (s.cmdOf 5).map (fun c => (c.registered, c.status, c.sentOn, c.rows)) = some (true, .pending, false, 0) ∧ s.poison = [] ∧
      s.partOf ⟨0, 0⟩ = some 0 ∧ ∀ j < 16, ((s.col 0).cell 0 j).residue = ((s.col 0).cell 0 j).v.toNat % 255) ∧
    (16 : Nat) % 16 = 0 ∧ 0 + 1 * 64 + 16 * dstWidth 0 / 8 ≤ 0x100000 ∧ 0x1000 + 1 * 64 + 16 / 8 ≤ 0x100000 ∧ inScratch (img + 0 * 64) = false ∧
    (img + 0 * 64) % 64 + 16 * dstWidth 0 / 8 ≤ 64 := by decide +kernel
theorem test_meets_CommandsComplete_read_lines (m : Mem) : ∃ x, ({ reads img 0 0 with cellar := m } : State).translate 0 (img + 0 * 64) = .ok x ∧
    x.permitsEngine true 0 = true ∧ x.back = .cellar 0x10000 := ⟨_, rfl, rfl, rfl⟩

/-- An MROT of a block of 2 by 2 columns whose products are to be made, at its first step, and before the step before has landed. -/
def rotating (num : Nat) (acc : Tbl AccCell) : State := { ctl.updCol 0 (fun c => { c with acc := acc }) with
  cmds := [⟨5, ⟨0, 0⟩, .mrot 32 2 2 0 0 0 0x1000 1 1 1 1 num, [], true, 0, .pending, [], [], false, []⟩] }
theorem test_meets_Rotations_products : let s := rotating 0 []
    (s.cmdOf 5).map (fun c => (c.registered, c.status, c.sentOn)) = some (true, .pending, false) ∧ s.partOf ⟨0, 0⟩ = some 0 ∧
    (s.cmds.takeWhile fun x => x.id != 5) = [] ∧ (matFmt (1 : BitVec 5).toNat).kind ≠ .scaled ∧ 0 + 64 * 1 ≤ 0x100000 ∧ 0x1000 + 64 * 1 ≤ 0x100000 ∧
    s.poison = [] ∧ 0x1000 + 63 * 1 + 0 + (matFmt (1 : BitVec 5).toNat).rowBytes 32 ≤ 0x100000 ∧
    (∃ x ∈ (s.part 0).pol.block 0 2 2, x ≠ 0 ∧ (s.part 0).pol.west x 2 = 0) ∧ (s.col 1).rotsSent = [] ∧ (s.part 0).pol.west 0 2 ≠ 0 := by decide +kernel
theorem test_meets_Rotations_cells : (((rotating 0 [(0, ⟨7, 0, 8⟩)]).col 0).cell 0 0).residue ≠ (((rotating 0 [(0, ⟨7, 0, 8⟩)]).col 0).cell 0 0).v.toNat % 255 ∧
    (∀ i < 64, ∀ j < 64, (((rotating 0 []).col 0).cell i j).residue = (((rotating 0 []).col 0).cell i j).v.toNat % 255) := by decide +kernel
/-- Two buffers to land; one to a column that has not sent its own, and one whose lines another command locks. -/
def landing (sent : List Nat) (locks : List Machine.Lock) : State := { (ctl.updCol 1 fun c => { c with rotsSent := sent }).updCol 64 fun c => { c with
    rotsSent := sent } with
  locks := locks
  cmds := [⟨5, ⟨0, 0⟩, .mrot 32 2 2 0 0 0 0x1000 1 1 1 1 0, [], true, 0, .pending, [], [], true, [(1, 0, List.replicate 64 7), (64, 0x1000, List.replicate 64 9)]⟩] }
def landingHeld (s : State) : Bool := s.cmds.all fun c => c.sends.any fun x => !(s.col x.1).rotsSent.contains 0 ||
  s.locks.any fun l => (linesOf x.2.1 x.2.2.length).any fun o => scratchLine x.1 o == l.line
theorem test_meets_Rotations_both : landingHeld (landing [0] []) = false ∧ landingHeld (landing [] []) = true ∧
    landingHeld (landing [0] [⟨scratchLine 64 0x1000, false, 4⟩]) = true ∧
    (∀ x ∈ [((1 : Nat), (0 : Nat), (List.replicate 64 7 : List Byte)), (64, 0x1000, List.replicate 64 9)], x.2.2 ≠ [] ∧ x.2.1 + x.2.2.length ≤ 0x100000) ∧
    (landing [0] []).poison = [] ∧ isDrive ⟨0, 0⟩ = false := by decide +kernel

/-- An emission over the core's pixels, its copy made or to be made, beside a buffer that is empty or holds an entry there. -/
def covered (copied full : Bool) : State := col drv fun c => { c with
  seqr := [⟨3, 1000, 1100, 0, 0, 8, 4, 7, copied⟩], blend := if full then [⟨.add, 0, [⟨0, 1, 1, 1, 0⟩]⟩] else [] }
def toCopy (s : State) (cls : BitVec 3) (n : Nat) : Bool := s.here.seqr.any fun q => !q.copied && decide (q.cls &&& cls ≠ 0) &&
  decide (q.x0 ≤ n % 128) && decide (n % 128 < q.x0 + q.w) && decide (q.y0 ≤ n / 128) && decide (n / 128 < q.y0 + q.h)
theorem test_meets_PixelsAndBlending_copies : (∀ n ∈ [0, 1, 2, 3, 4, 5, 6, 7, 128], ∀ full ∈ [true, false],
      (∀ cls ∈ [(7 : BitVec 3), 3, 4], toCopy (covered false full) cls n = true) ∧ toCopy (covered true full) 7 n = false ∧
      toCopy (covered false full) 0 n = false) ∧
    (covered false false).here.blend = [] ∧ (∃ e ∈ (covered false true).here.blend, ∃ q ∈ e.pix, q.idx = 0) ∧ (covered false true).here.blend.length < 64 ∧
    (let x := ((covered false true).rs 1).toNat
     x / 2 ^ 14 % 4 ≠ 3 ∧ x < 2 ^ 32 ∧ x % 2 ^ 14 % 8 = 0 ∧ x % 2 ^ 14 / 128 + 16 / 8 - 1 ≤ 127 ∧ x % 2 ^ 14 / 128 % 8 + 16 / 8 ≤ 8) ∧
    (covered false true).tileTrap ((covered false true).rs 1) = none ∧ (covered false true).actives 0 = [0, 1, 2, 3, 4, 5, 6, 7, 8, 9, 10, 11, 12, 13, 14, 15] ∧
    (∀ p ∈ (covered false true).blendSources 1 2 0 ((covered false true).rs 1), toCopy (covered false true) 7 p.idx = true) := by decide +kernel
theorem test_meets_PixelsAndBlending_leads : let s := drv
    s.actives 0 ≠ [] ∧ (s.actives 0)[0]? = some 0 ∧ (s.blendSources 1 2 0 (s.rs 1)).length = (s.actives 0).length := by decide +kernel
theorem test_meets_Emissions_drains : let s := col (emitting 1000) fun c => { c with blend := [⟨.add, 0, [⟨0, 1, 1, 1, 0⟩]⟩] }
    (s.rs 2).toNat / 2 ^ 34 % 2 ^ 24 ≠ 0 ∧ s.here.blend ≠ [] ∧ toCopy s 7 0 = false ∧
    toCopy (col s fun c => { c with seqr := [held false] }) 7 0 = true := by decide +kernel

/-! Clauses of the system, faults, launches and the host. -/

theorem test_meets_SystemRegisterWrites_gate : let s := stalledOn 0x034 1
    (s.col 0).holder = some 0 ∧ ((s.updCol 0 fun c => { c with holder := some 7 }).col 0).holder ≠ some 0 ∧ s.partOf ⟨0, 0⟩ = some 0 ∧
    s.presHolder = some 0 ∧ (pol s fun p => { p with roles := 2 }).presHolder = none := by decide +kernel
/-- The writer of a change has gone with its task; a drive core asked to gate, and one that has. -/
theorem test_meets_LoftwaysAndGate_stops : let s := col (shrinking []) fun c => { c with loftChange := some ⟨⟨0, 0⟩, 4, 0, true⟩ }
    (s.col 0).loftChange = some ⟨⟨0, 0⟩, 4, 0, true⟩ ∧ (s.col 0).ways < 4 ∧ s.locks = [] ∧
    (let d := col drv fun c => { c with upReq := true }
     (d.colOf 0 0).upReq = true ∧ (d.col 0).fifo = [] ∧ ((d.updCol 0 fun c => { c with upState := true }).colOf 0 0).upState = true ∧ 32 ≤ drv.cur.tid) := by
  decide +kernel
/-- A thread with a lease, without one, and a service thread that a request may start, with one that runs. -/
theorem test_meets_TrapEntry_request : let s : State := { ctl with sched := [.request ⟨0, 24⟩ 0x1000 0x20 0 0] }
    s.sched = [.request ⟨0, 24⟩ 0x1000 0x20 0 0] ∧ threadOk ⟨0, 24⟩ = true ∧ isService ⟨0, 24⟩ = true ∧ s.partOf ⟨0, 24⟩ = some 0 ∧
    (s.part 0).resident = true ∧ (s.part 0).asked = false ∧ (s.part 0).launch = some fetchLaunch ∧ fetchLaunch.ended = none ∧
    0 ∉ s.retired ∧ (s.thread ⟨0, 24⟩).run = .dormant ∧ (s.thread ⟨0, 24⟩).preReq = none ∧ (s.thread ⟨0, 0⟩).run ≠ .dormant ∧
    (s.col 0).lease ≠ some (0, 4) ∧ (leased 4).here.lease = some (0, 4) ∧ (leased 4).th.cntTl = 0 ∧ isDrive ⟨0, 0⟩ = false := by decide +kernel
theorem test_meets_TrapsByDesign_halt : tmem ctl.parts 0 = true ∧ 0 ∈ (ctl.part 0).pol.columns ∧ (ctl.col 0).holder = some 0 ∧
    (ctl.part 0).pol.pres = true ∧ (pol ctl fun p => { p with roles := 2 }).curPart.pol.pres = false ∧ (ctl.col 1).holder ≠ some 0 ∧
    (∃ c ∈ (copying [] true).cmds, (copying [] true).owns 0 c.t = true ∧ c.id = 5) := by decide +kernel
/-- A wait for lookups that are over or not; one for all accesses, with a command still to register. -/
theorem test_meets_StallsEnd_lookups : resumes (waitsFor (.lookups [7]) id) = true ∧
    resumes (waitsFor (.lookups [7]) fun th => { th with out := [⟨7, .tex false 4 2 img texel (some fallen), [], 0, [], .pending, false⟩] }) = false ∧
    (waitsFor .again id).unregistered ⟨0, 0⟩ = [] ∧
    (let s := { copying [(.home 0 0, false)] false with almanac := 5 }.upd fun th => { th with run := .stalled, wait := .again }
     s.unregistered ⟨0, 0⟩ = [5] ∧ (∀ b ∈ s.th.out, b.status = .pending) ∧ resumes s = false) := by decide +kernel
theorem test_meets_QueuesAndOrder_change : let s := (ending false).updCol 0 fun c => { c with loftChange := some ⟨⟨0, 0⟩, 4, 0, false⟩ }
    s.runner 0 1 = some ⟨0, 0⟩ ∧ (s.col 0).loftChange = some ⟨⟨0, 0⟩, 4, 0, false⟩ ∧ (s.col 0).holder = some 0 ∧
    ((s.updCol 0 fun c => { c with loftChange := some ⟨⟨0, 3⟩, 4, 0, false⟩ }).col 0).loftChange = some ⟨⟨0, 3⟩, 4, 0, false⟩ ∧
    (∃ e ∈ ({ queuedRecs with poison := [⟨.home 0 (0xFFA00 / 64), 4, 0⟩] } : State).poison, e.at_ = .home 0 (0xFFA00 / 64)) := by decide +kernel
/-- A poisoned line of the column that gives its context up, in home scratch and in loft; a fault on its way is no answer owed. -/
theorem test_meets_Preemption_scratch : let inCol (x : Place) : Bool := match x with | .home k _ | .loft k _ => k == 0 | _ => false
    ([⟨.home 0 3, 1, 0⟩] : List Poison).find? (fun y => inCol y.at_) = some ⟨.home 0 3, 1, 0⟩ ∧
    (∀ e ∈ ([⟨.home 1 3, 1, 0⟩, ⟨.cellar 3, 1, 0⟩] : List Poison), inCol e.at_ = false) ∧
    (∀ c ∈ ([⟨0, 1, some ⟨0, 9, 1, 0, true, false, false, false⟩⟩] : List LinkCmd), c.part ≠ 0 ∨ c.fault ≠ none) := by decide

/-- SETROOT of partition 2 to be sent, sent, and answered; its controller without a permit, and with its command. -/
def telling (begun : Bool) (l : Tbl Link) : State := { served [] 0 with
  boot := { ctl.boot with running := true }
  fns := [(0, { HostFn.reset with tBusy := true, tStarted := begun, tcmd := BitVec.ofNat 512 (1 + 2 ^ 64 * 2) })], links := l }
def answered (s : State) (p : Nat) : Bool := (s.part p).pol.fields.all fun f => [f, 72 + f].all fun k =>
  (tget s.links k Link.reset).cmds.all fun c => c.part != p || c.fault.isSome
def permitted (s : State) (p : Nat) : Bool := (s.part p).pol.fields.all fun k => decide (0 < (tget s.links k Link.reset).permits)
theorem test_meets_FaultCommands_sent : ((telling false []).fn 0).tStarted = false ∧ permitted (telling false []) 2 = true ∧
    permitted (telling false [(0, ⟨0, []⟩)]) 2 = false ∧ ((telling true []).fn 0).tStarted = true ∧ answered (telling true []) 2 = true ∧
    answered (telling true [(72, ⟨7, [⟨2, 1, none⟩]⟩)]) 2 = false ∧ ((telling true []).part 2).pol.fields = [0] ∧
    ((telling true []).fn 0).tcmd.toNat % 65536 = 1 ∧ ((telling true []).part 2).launch = none ∧ (telling true []).boot.running = true := by decide +kernel
/-- RESOLVE of an open record's page, told. -/
theorem test_meets_FaultCommands_resolves : let s : State := { telling true [] with
      records := [(0, 9)], fns := [(0, { HostFn.reset with tBusy := true, tStarted := true, tcmd := BitVec.ofNat 512 (3 + 2 ^ 128 * 0x90000) })] }
    (0, 9) ∈ s.records ∧ tmem s.parts 0 = true ∧ answered s 0 = true ∧ (s.fn 0).tcmd.toNat % 65536 = 3 ∧ s.maps 0 9 = false ∧
    ((s.part 0).refused = []) ∧ (match s.translate 0 (9 * 65536) with | .error (.poison _) => false | _ => true) = true := by decide +kernel
/-- A fault at a corner, its controller's link with a permit and without; ranges for field 0 and for another. -/
def cornered (l : Tbl Link) : State := { raised 0 [] 1 with links := l }
def range (ca : Nat) : Posted := ⟨0, 9, 2, ca, true, false, false, false⟩
theorem test_meets_FaultTree_corner : 0 % 64 % 8 = 0 ∧ 0 / 64 % 4 = 0 ∧ (tget (cornered []).links 72 Link.reset).permits ≠ 0 ∧
    (tget (cornered [(72, ⟨0, []⟩)]).links 72 Link.reset).permits = 0 ∧
    ({ ctl with ranges := [range 8, range 0] } : State).ranges = [range 8] ++ range 0 :: [] ∧ 8 * ((range 8).ca / 64 / 4) + (range 8).ca % 64 / 8 ≠ 0 ∧
    8 * ((range 0).ca / 64 / 4) + (range 0).ca % 64 / 8 = 0 ∧ (∀ x ∈ ctl.ranges, 8 * (x.ca / 64 / 4) + x.ca % 64 / 8 ≠ 0) := by decide +kernel
/-- Thread 0 parked for firmware at its own instruction, its context in its column, and put away. -/
def parked (away : Bool) : State :=
  let s := ctl.upd fun th => { th with run := .parked, park := .firmware, wait := .page 0 0x90000 false }
  if away then { s.updCol 0 (fun _ => { Column.reset with holder := some 7 }) with saved := [⟨0, 0, s.col 0, false⟩] } else s
theorem test_meets_FaultTree_fails : (∀ b ∈ [true, false], let th := (parked b).threadOf 0 ⟨0, 0⟩
      th.park = .firmware ∧ th.wait = .page 0 0x90000 false ∧ th.out = [] ∧ ((parked b).part 0).tvecEn = true) ∧
    ((parked false).col 0).holder = some 0 ∧ ((parked true).col 0).holder ≠ some 0 ∧ 0x90000 / 65536 = 9 := by decide +kernel
/-- A partition's written-back records: with JOIN above 0, at 0, and in no page. -/
theorem test_meets_KillsAndTrips_stranded : Stranded (joining img 2 true) 0 = 1 ∧ Stranded (joining img 0 true) 0 = 0 ∧
    Stranded ((joining img 0 false).updCurPart fun p => { p with wb := [⟨0x90000, 0, 1, [], 0⟩] }) 0 = 1 ∧
    (∀ k < 20, k ≠ 0 → tmem ctl.parts k = false) := by decide +kernel
theorem test_meets_HostRegistersAndDoorbells_bound : ((hosted 1).fn 1).bound = some 0 ∧ tmem (hosted 1).parts 0 = true ∧ ((hosted 1).fn 2).bound = none := by
  decide +kernel
/-- A launch to be told, told, and answered; an image that does not bind. -/
def ready (told : Bool) (l : Tbl Link) : State := { launching.updPart 0 (fun p => { p with told := told }) with links := l }
theorem test_meets_LaunchEntry_told : ((ready false []).part 0).told = false ∧ permitted (ready false []) 0 = true ∧
    permitted (ready false [(0, ⟨0, []⟩)]) 0 = false ∧ ((ready true []).part 0).told = true ∧ answered (ready true []) 0 = true ∧
    answered (ready true [(0, ⟨7, [⟨0, 1, none⟩]⟩)]) 0 = false ∧ ((ready true []).part 0).pol.fields.Nodup ∧
    ((launching.fn 1).cqtail + 2 ^ 64 - (launching.fn 1).cqhead) % 2 ^ 64 < 2 ^ (launching.fn 1).cqsize := by decide +kernel
theorem test_meets_LaunchEntry_unbound : let s : State := { hosted 1 with hostMem := mwrite [] 0x10000 (leBytes 8 0x20000 ++ leBytes 4 112) }
    (match (s.unbound 0).bindImage (s.part 0).pol ((s.unbound 0).mappedBytes 0)
        (mread s.hostMem (leNat (mread s.hostMem 0x10000 8)) (leNat (mread s.hostMem 0x10008 4))) with
      | .ok _ => false
      | .error _ => true) = true := by decide +kernel
theorem test_meets_HostAccesses_fault : let s : State := { ctl with links := [(72, ⟨7, [⟨0, 1, some (range 0)⟩]⟩)] }
    (tget s.links 72 Link.reset).cmds = [⟨0, 1, some (range 0)⟩] ∧ (tget ctl.links 72 Link.reset).cmds = [] ∧ 72 ≤ 72 := by decide +kernel
def ringWaits (s : State) : Bool := s.fns.any fun e => e.2.bound == some 0 && decide (((s.fn e.1).lqtail + 2 ^ 64 - (s.fn e.1).lqhead) % 2 ^ 64 ≠ 0)
theorem test_meets_PartitionCommands_waits : ringWaits (hosted 1) = true ∧ ringWaits (hosted 0) = false ∧ ((hosted 1).part 0).launch = none ∧ ((hosted 1).part 0).migrated = [] := by decide +kernel
/-- One record waits in the ring of a function that no partition has. -/
theorem test_meets_FirmwareAndBoot_unbound : let s : State := { owned with parts := [], fns := [(1, { (hosted 1).fn 1 with bound := none })] }
    s.parts = [] ∧ (s.fn 1).bound = none ∧ ((s.fn 1).lqtail + 2 ^ 64 - (s.fn 1).lqhead) % 2 ^ 64 = 1 ∧ s.boot.running = true ∧ s.mayCancel = true := by
  decide +kernel
end Sys2Proof.Tests
end

section
/-! The comparisons that write a predicate: CMP and CMPI (R215, R216) on words, FCMP (R219) on binary32 values. What each condition says is
stated once, of `cmpHolds` and `fcmpHolds`; the instructions complete by `completes_pred`. -/

namespace Sys2Proof.Machine

/-! ### The conditions on words (R215) -/

theorem and_eq_zero_iff_no_common_bit (x y : Word) : x &&& y = 0 ↔ ∀ n, x.getLsbD n = true → y.getLsbD n = false := by
  constructor
  · intro h n hx
    have hn : (x &&& y).getLsbD n = false := by rw [h]; exact BitVec.getLsbD_zero
    simpa [hx] using hn
  · intro h
    refine BitVec.eq_of_getLsbD_eq fun n _ => ?_
    rw [BitVec.getLsbD_and, show (0 : Word).getLsbD n = false from BitVec.getLsbD_zero]
    cases hx : x.getLsbD n
    · rfl
    · exact h n hx

/-- What a condition of R215's table says of two words. -/
def CmpHoldsOf (c : CmpCond) (x y : Word) : Prop :=
  match c with
  | .eq => x = y
  | .ne => x ≠ y
  | .lt => x.toInt < y.toInt
  | .ge => y.toInt ≤ x.toInt
  | .ltz => x.toNat < y.toNat
  | .gez => y.toNat ≤ x.toNat
  | .tst => ∃ n, x.getLsbD n = true ∧ y.getLsbD n = true
  | .ntst => ∀ n, x.getLsbD n = true → y.getLsbD n = false

theorem cmpHolds_iff (c : CmpCond) (x y : Word) : cmpHolds c x y = true ↔ CmpHoldsOf c x y := by
  cases c with
  | eq => exact beq_iff_eq
  | ne => exact bne_iff_ne
  | lt => exact decide_eq_true_iff
  | ge => simp [cmpHolds, CmpHoldsOf, BitVec.slt]
  | ltz => exact decide_eq_true_iff
  | gez => simp [cmpHolds, CmpHoldsOf, BitVec.ult]
  | tst =>
    have h := not_congr (and_eq_zero_iff_no_common_bit x y)
    simpa [cmpHolds, CmpHoldsOf] using h
  | ntst => exact beq_iff_eq.trans (and_eq_zero_iff_no_common_bit x y)

/-! ### The order of binary32 values (R219) -/

theorem lt_nan (a b : FV) (h : a = .nan ∨ b = .nan) : a.lt? b = none := by
  rcases h with rfl | rfl
  · rfl
  · cases a <;> rfl

theorem eq_nan (a b : FV) (h : a = .nan ∨ b = .nan) : a.eq? b = none := by
  rw [FV.eq?, lt_nan a b h]

/-- Equality is that neither of two values is below the other. -/
theorem eq_of_lt_gt {a b : FV} {p q : Bool} (h : a.lt? b = some p) (k : b.lt? a = some q) : a.eq? b = some (!p && !q) := by
  rw [FV.eq?, h, k]

/-- What FCMP answers of two numbers, from whether the first is below the second and whether they are equal. -/
def fcmpOfOrder (c : FcmpCond) (below equal : Bool) : Bool :=
  match c with
  | .eq => equal
  | .lt => below
  | .le => below || equal
  | .un => false

theorem fcmpHolds_of_order {x y : Nat} {p q : Bool} (c : FcmpCond) (h : (f32.decode x).lt? (f32.decode y) = some p)
    (k : (f32.decode x).eq? (f32.decode y) = some q) : fcmpHolds c x y = fcmpOfOrder c p q := by
  obtain ⟨hx, hy⟩ := lt_some_not_nan h
  cases c <;> simp [fcmpHolds, fcmpOfOrder, h, k, hx, hy]

theorem fcmpHolds_nan {x y : Nat} (c : FcmpCond) (h : f32.decode x = .nan ∨ f32.decode y = .nan) :
    fcmpHolds c x y = match c with | .un => true | _ => false := by
  have hlt := lt_nan _ _ h
  have heq := eq_nan _ _ h
  cases c with
  | un => rcases h with h | h <;> simp [fcmpHolds, FV.isNan, h]
  | eq | lt | le => simp [fcmpHolds, hlt, heq]

theorem isNan_eq_false {a : FV} (h : a ≠ .nan) : a.isNan = false := by
  cases a with
  | nan => exact absurd rfl h
  | inf _ | num _ _ _ => rfl

theorem fcmpHolds_un_of_numbers {x y : Nat} (hx : f32.decode x ≠ .nan) (hy : f32.decode y ≠ .nan) : fcmpHolds .un x y = false := by
  simp [fcmpHolds, isNan_eq_false hx, isNan_eq_false hy]

theorem fcmpHolds_inf_inf {x y : Nat} {n : Bool} (c : FcmpCond) (hx : f32.decode x = .inf n) (hy : f32.decode y = .inf n) :
    fcmpHolds c x y = match c with | .eq => true | .le => true | _ => false := by
  have hlt : (f32.decode x).lt? (f32.decode y) = some false := by rw [hx, hy]; cases n <;> rfl
  have hgt : (f32.decode y).lt? (f32.decode x) = some false := by rw [hx, hy]; cases n <;> rfl
  rw [fcmpHolds_of_order c hlt (eq_of_lt_gt hlt hgt)]
  cases c <;> rfl

theorem fcmpHolds_inf_num {x y : Nat} {n k : Bool} {m : Nat} {e : Int} (c : FcmpCond) (hx : f32.decode x = .inf n)
    (hy : f32.decode y = .num k m e) : fcmpHolds c x y = match c with | .lt => n | .le => n | _ => false := by
  have hlt : (f32.decode x).lt? (f32.decode y) = some n := by rw [hx, hy]; rfl
  have hgt : (f32.decode y).lt? (f32.decode x) = some (!n) := by rw [hx, hy]; rfl
  rw [fcmpHolds_of_order c hlt (eq_of_lt_gt hlt hgt)]
  cases c <;> cases n <;> rfl

theorem fcmpHolds_num_inf {x y : Nat} {n k : Bool} {m : Nat} {e : Int} (c : FcmpCond) (hx : f32.decode x = .num k m e)
    (hy : f32.decode y = .inf n) : fcmpHolds c x y = match c with | .lt => !n | .le => !n | _ => false := by
  have hlt : (f32.decode x).lt? (f32.decode y) = some (!n) := by rw [hx, hy]; rfl
  have hgt : (f32.decode y).lt? (f32.decode x) = some n := by rw [hx, hy]; rfl
  rw [fcmpHolds_of_order c hlt (eq_of_lt_gt hlt hgt)]
  cases c <;> cases n <;> rfl

/-- Finite values compare as their multiples of any unit at or below both exponents, so that the zeros of both signs are equal. -/
theorem fcmpHolds_num_num {x y : Nat} {n k : Bool} {m j : Nat} {e h u : Int} (c : FcmpCond) (hx : f32.decode x = .num n m e)
    (hy : f32.decode y = .num k j h) (he : u ≤ e) (hh : u ≤ h) :
    fcmpHolds c x y = true ↔ match c with
      | .eq => (FV.num n m e).units u = (FV.num k j h).units u
      | .lt => (FV.num n m e).units u < (FV.num k j h).units u
      | .le => (FV.num n m e).units u ≤ (FV.num k j h).units u
      | .un => False := by
  have hlt := lt_num n k m j e h u he hh
  have heq := eq_num n k m j e h u he hh
  rw [← hx, ← hy] at hlt heq
  rw [fcmpHolds_of_order c hlt heq, hx, hy]
  cases c with
  | eq | lt => exact decide_eq_true_iff
  | le => simp [fcmpOfOrder, le_iff_lt_or_eq]
  | un => exact iff_of_false Bool.false_ne_true not_false

/-! ### The instructions -/

/-- FCMP's minor functions are 0x08 to 0x0B in the order of the conditions' codes. -/
theorem encode_fcmp_minor {q : BitVec 3} {a b : BitVec 5} {g : Guard} {c : FcmpCond} (h : (Instr.fcmp q a b g c).wf = true) :
    (encode (.fcmp q a b g c)).map (fun w => w.toNat % 64) = some (8 + c.code) := by
  have hc := FcmpCond.code_lt c
  simp only [encode, h, if_true, encodeNat, guardBits, Option.map_some, BitVec.toNat_ofNat, Option.some.injEq]
  omega

theorem exec_cmp (q : BitVec 3) (a b : BitVec 5) (g : Guard) (c : CmpCond) (s : State) :
    exec (.cmp q a b g c) s = issueAs (.cmp q a b g c) s fun s => s.wp q (cmpHolds c (s.rs a) (s.rs b)) := rfl

theorem exec_cmpi (q : BitVec 3) (a : BitVec 5) (c : CmpCond) (i : BitVec 12) (s : State) :
    exec (.cmpi q a c i) s = issueAs (.cmpi q a c i) s fun s => s.wp q (cmpHolds c (s.rs a) (i.signExtend 64)) := rfl

theorem exec_fcmp (q : BitVec 3) (a b : BitVec 5) (g : Guard) (c : FcmpCond) (s : State) :
    exec (.fcmp q a b g c) s = issueAs (.fcmp q a b g c) s fun s => s.wp q (fcmpHolds c (s.f32s a) (s.f32s b)) := rfl

theorem cmp_completes {s : State} (q : BitVec 3) (a b : BitVec 5) {g : Guard} (c : CmpCond) (ht : threadOk s.cur = true)
    (hg : s.guardTrue g = true) : Completes (.cmp q a b g c) s fun t => PredWrite s t q (cmpHolds c (s.rs a) (s.rs b)) :=
  completes_pred ⟨ht, rfl, hg⟩ (exec_cmp q a b g c s) rfl

theorem cmpi_completes {s : State} (q : BitVec 3) (a : BitVec 5) (c : CmpCond) (i : BitVec 12) (ht : threadOk s.cur = true) :
    Completes (.cmpi q a c i) s fun t => PredWrite s t q (cmpHolds c (s.rs a) (i.signExtend 64)) :=
  completes_pred ⟨ht, rfl, guardTrue_always s⟩ (exec_cmpi q a c i s) rfl

theorem fcmp_completes {s : State} (q : BitVec 3) (a b : BitVec 5) {g : Guard} (c : FcmpCond) (ht : threadOk s.cur = true)
    (hg : s.guardTrue g = true) : Completes (.fcmp q a b g c) s fun t => PredWrite s t q (fcmpHolds c (s.f32s a) (s.f32s b)) :=
  completes_pred ⟨ht, rfl, hg⟩ (exec_fcmp q a b g c s) rfl

theorem cmp_skips {s : State} (q : BitVec 3) (a b : BitVec 5) {g : Guard} (c : CmpCond) (ht : threadOk s.cur = true)
    (hg : s.guardTrue g = false) : exec (.cmp q a b g c) s = .next s :=
  (exec_cmp q a b g c s).trans (issueAs_skips ht rfl hg)

theorem fcmp_skips {s : State} (q : BitVec 3) (a b : BitVec 5) {g : Guard} (c : FcmpCond) (ht : threadOk s.cur = true)
    (hg : s.guardTrue g = false) : exec (.fcmp q a b g c) s = .next s :=
  (exec_fcmp q a b g c s).trans (issueAs_skips ht rfl hg)

/-- Settles O10: each instruction completes by writing what its condition answers, and each clause is what `cmpHolds` or `fcmpHolds`
answers of such operands. -/
theorem comparisons : Obligations.Comparisons := by
  unfold Obligations.Comparisons
  refine ⟨fun q a b g c hwf => ?_, fun s q a b g c k ht hg => ⟨cmp_skips q a b c ht hg, fcmp_skips q a b k ht hg⟩,
    fun s q a b g c i ht => ⟨fun hg => ?_, ?_⟩, fun s q a b g c ht hg => ?_⟩
  · rw [encode_fcmp_minor hwf]
    cases c <;> rfl
  · exact ⟨_, cmpHolds_iff c _ _, cmp_completes q a b c ht hg⟩
  · exact ⟨_, cmpHolds_iff c _ _, cmpi_completes q a c i ht⟩
  · refine ⟨_, fcmp_completes q a b c ht hg, fcmpHolds_nan c, ?_, fun n hx hy => fcmpHolds_inf_inf c hx hy,
      fun n k m e hx hy => fcmpHolds_inf_num c hx hy, fun n k m e hx hy => fcmpHolds_num_inf c hx hy, ?_⟩
    · rintro hx hy rfl
      exact fcmpHolds_un_of_numbers hx hy
    · intro n m e k j h u hx hy he hh
      have hcmp := fcmpHolds_num_num c hx hy he hh
      simp only [units_num] at hcmp
      exact hcmp

end Sys2Proof.Machine
end

section
/-! Reductions and the other cross-lane operations (R299 to R302), and the transfers between scalar registers, vector elements and masks
(R303). What a reduction gives is proved along its list of active elements by `redList_meets`; the instructions complete by
`completes_vec`. -/

namespace Sys2Proof.Machine

/-! ### A reduction along its list (R299) -/

/-- What holds of a fold's start and is kept by each further element holds of the whole list. -/
theorem foldl_meets {P : List Elem → Elem → Prop} {f : Elem → Elem → Elem} {l : List Elem} {v : Elem} (hl : l ≠ [])
    (start : P l v) (step : ∀ l v y, l ≠ [] → P l v → P (l ++ [y]) (f v y)) (r : List Elem) : P (l ++ r) (r.foldl f v) := by
  induction r generalizing l v with
  | nil => rwa [List.append_nil]
  | cons y r ih =>
    rw [List.append_cons]
    exact ih (List.concat_ne_nil y l) (step l v y hl start)

theorem redList_one_int {t : RedTy} (o : RedKind) (mode : RMode) (ht : t ≠ .f32) (x : Elem) : redList o t mode [x] = x := by
  simp [redList, ht]

theorem redList_one_f32 {o : RedKind} (mode : RMode) (ho : o ≠ .add) (x : Elem) :
    redList o .f32 mode [x] = redPair o .f32 x x := by
  simp [redList, ho]

/-- Every reduction but the exact sum combines its elements in pairs, from what it gives of the first alone. -/
theorem redList_cons {o : RedKind} {t : RedTy} (mode : RMode) (h : t = .f32 → o ≠ .add) (x : Elem) (r : List Elem) :
    redList o t mode (x :: r) = r.foldl (redPair o t) (redList o t mode [x]) := by
  by_cases ht : t = .f32
  · simp [redList, ht, h ht]
  · simp [redList, ht]

/-- What holds of the identity and of one element alone, and is kept by each further element, holds of the reduction. -/
theorem redList_meets {P : List Elem → Elem → Prop} {o : RedKind} {t : RedTy} {mode : RMode} (h : t = .f32 → o ≠ .add)
    (empty : P [] (redIdentity o t)) (one : ∀ x, P [x] (redList o t mode [x]))
    (step : ∀ l v y, l ≠ [] → P l v → P (l ++ [y]) (redPair o t v y)) (l : List Elem) : P l (redList o t mode l) := by
  cases l with
  | nil => exact empty
  | cons x r =>
    rw [redList_cons mode h]
    exact foldl_meets (List.cons_ne_nil x []) (one x) step r

/-! ### Integer sums and bits -/

section
variable {t : RedTy} (mode : RMode) (ht : t ≠ .f32)
include ht

theorem redList_add_int (l : List Elem) : redList .add t mode l = BitVec.ofNat 32 (l.map BitVec.toNat).sum := by
  refine redList_meets (P := fun l v => v = BitVec.ofNat 32 (l.map BitVec.toNat).sum) (fun e => absurd e ht) ?_ (fun x => ?_)
    (fun l v y _ h => ?_) l
  · cases t <;> rfl
  · rw [redList_one_int _ _ ht]; simp
  · rw [redPair, h]
    apply BitVec.eq_of_toNat_eq
    simp

theorem redList_and_bit {j : Nat} (hj : j < 32) (l : List Elem) :
    (redList .opAnd t mode l).getLsbD j = true ↔ ∀ x ∈ l, x.getLsbD j = true := by
  refine redList_meets (P := fun l v => v.getLsbD j = true ↔ ∀ x ∈ l, x.getLsbD j = true) (fun e => absurd e ht) ?_ (fun x => ?_)
    (fun l v y _ h => ?_) l
  · have hones : redIdentity .opAnd t = BitVec.allOnes 32 := by cases t <;> rfl
    rw [hones, BitVec.getLsbD_allOnes]
    simpa using hj
  · simp [redList_one_int _ _ ht]
  · simp [redPair, h, or_imp, forall_and]

theorem redList_or_bit (j : Nat) (l : List Elem) :
    (redList .opOr t mode l).getLsbD j = true ↔ ∃ x ∈ l, x.getLsbD j = true := by
  refine redList_meets (P := fun l v => v.getLsbD j = true ↔ ∃ x ∈ l, x.getLsbD j = true) (fun e => absurd e ht) ?_ (fun x => ?_)
    (fun l v y _ h => ?_) l
  · have hzero : redIdentity .opOr t = 0#32 := by cases t <;> rfl
    simp [hzero]
  · simp [redList_one_int _ _ ht]
  · simp [redPair, h, or_and_right, exists_or]

theorem redList_xor_bit (j : Nat) (l : List Elem) :
    (redList .opXor t mode l).getLsbD j = true ↔ (l.countP fun x => x.getLsbD j) % 2 = 1 := by
  refine redList_meets (P := fun l v => v.getLsbD j = true ↔ (l.countP fun x => x.getLsbD j) % 2 = 1) (fun e => absurd e ht) ?_
    (fun x => ?_) (fun l v y _ h => ?_) l
  · have hzero : redIdentity .opXor t = 0#32 := by cases t <;> rfl
    simp [hzero]
  · rw [redList_one_int _ _ ht, List.countP_singleton]
    cases x.getLsbD j <;> simp
  · rw [redPair, BitVec.getLsbD_xor, List.countP_append, List.countP_singleton]
    cases hy : y.getLsbD j
    · simpa using h
    · simp only [Bool.xor_true, Bool.not_eq_true', ← Bool.not_eq_true, h, if_true]
      omega

/-! ### The least and the greatest integer -/

/-- Where each pair gives the one of a lower key, a reduction gives one of its elements, and none has a lower key. -/
theorem redList_least {o : RedKind} (key : Elem → Int) (pair : ∀ x y, redPair o t x y = if key y < key x then y else x)
    {l : List Elem} (hl : l ≠ []) : redList o t mode l ∈ l ∧ ∀ x ∈ l, key (redList o t mode l) ≤ key x := by
  refine redList_meets (P := fun l v => l ≠ [] → v ∈ l ∧ ∀ x ∈ l, key v ≤ key x) (fun e => absurd e ht) (absurd rfl) (fun x _ => ?_)
    (fun l v y hl h _ => ?_) l hl
  · simp [redList_one_int _ _ ht]
  · obtain ⟨hmem, hle⟩ := h hl
    rw [pair]
    by_cases hlt : key y < key v
    · rw [if_pos hlt]
      exact ⟨List.mem_concat_self, List.forall_mem_append.2 ⟨fun x hx => hlt.le.trans (hle x hx), List.forall_mem_singleton.2 le_rfl⟩⟩
    · rw [if_neg hlt]
      exact ⟨List.mem_append_left _ hmem, List.forall_mem_append.2 ⟨hle, List.forall_mem_singleton.2 (not_lt.1 hlt)⟩⟩
end

theorem redList_min_s32 (mode : RMode) {l : List Elem} (hl : l ≠ []) :
    redList .opMin .s32 mode l ∈ l ∧ ∀ x ∈ l, (redList .opMin .s32 mode l).toInt ≤ x.toInt :=
  redList_least mode (by decide) BitVec.toInt (fun x y => by simp [redPair, BitVec.slt]) hl

theorem redList_max_s32 (mode : RMode) {l : List Elem} (hl : l ≠ []) :
    redList .opMax .s32 mode l ∈ l ∧ ∀ x ∈ l, x.toInt ≤ (redList .opMax .s32 mode l).toInt := by
  simpa using redList_least mode (by decide) (fun x => -x.toInt) (fun x y => by simp [redPair, BitVec.slt]) hl

theorem redList_min_z32 (mode : RMode) {l : List Elem} (hl : l ≠ []) :
    redList .opMin .z32 mode l ∈ l ∧ ∀ x ∈ l, (redList .opMin .z32 mode l).toNat ≤ x.toNat := by
  simpa using redList_least mode (by decide) (fun x => x.toNat) (fun x y => by simp [redPair, BitVec.ult]) hl

theorem redList_max_z32 (mode : RMode) {l : List Elem} (hl : l ≠ []) :
    redList .opMax .z32 mode l ∈ l ∧ ∀ x ∈ l, x.toNat ≤ (redList .opMax .z32 mode l).toNat := by
  simpa using redList_least mode (by decide) (fun x => -(x.toNat : Int)) (fun x y => by simp [redPair, BitVec.ult]) hl

/-! ### The lesser and the greater number of many (R177) -/

theorem inf_lt_iff (n : Bool) {b : FV} (hb : b.isNan = false) : (FV.inf n).lt? b = some true ↔ n = true ∧ b ≠ .inf true := by
  cases b with
  | nan => cases hb
  | inf k => simp [FV.lt?]
  | num _ _ _ => simp [FV.lt?]

theorem lt_inf_iff (n : Bool) {a : FV} (ha : a.isNan = false) : a.lt? (.inf n) = some true ↔ n = false ∧ a ≠ .inf false := by
  cases a with
  | nan => cases ha
  | inf k => simp [FV.lt?, and_comm]
  | num _ _ _ => simp [FV.lt?]

/-- Where a is below c, every number has a below it or is below c. -/
theorem lt_or_lt_of_lt {a b c : FV} (h : a.lt? c = some true) (hb : b ≠ .nan) : a.lt? b = some true ∨ b.lt? c = some true := by
  obtain ⟨ha, hc⟩ := lt_some_not_nan h
  cases b with
  | nan => exact absurd rfl hb
  | inf k =>
    cases k with
    | true => exact .inr ((inf_lt_iff true hc).2 ⟨rfl, fun e => by simp [e, lt_inf_iff true ha] at h⟩)
    | false => exact .inl ((lt_inf_iff false ha).2 ⟨rfl, fun e => by simp [e, inf_lt_iff false hc] at h⟩)
  | num k j g =>
    cases a with
    | nan => cases ha
    | inf n => exact .inl ((inf_lt_iff n rfl).2 ⟨((inf_lt_iff n hc).1 h).1, nofun⟩)
    | num n m e =>
      cases c with
      | nan => cases hc
      | inf p => exact .inr ((lt_inf_iff p rfl).2 ⟨((lt_inf_iff p rfl).1 h).1, nofun⟩)
      | num p q i =>
        have he : min e (min g i) ≤ e := min_le_left _ _
        have hg : min e (min g i) ≤ g := (min_le_right _ _).trans (min_le_left _ _)
        have hi : min e (min g i) ≤ i := (min_le_right _ _).trans (min_le_right _ _)
        rw [lt_num _ _ _ _ _ _ _ he hi] at h
        rw [lt_num _ _ _ _ _ _ _ he hg, lt_num _ _ _ _ _ _ _ hg hi]
        simp only [Option.some.injEq, decide_eq_true_eq] at h ⊢
        omega

/-- x does not lie beyond v, for a minimum below it and for a maximum above it; a NaN lies beyond nothing. -/
def NotBeyond (o : RedKind) (v x : FV) : Prop := if o = .opMin then x.lt? v ≠ some true else v.lt? x ≠ some true

theorem notBeyond_nan (o : RedKind) (v : FV) : NotBeyond o v .nan := by
  unfold NotBeyond
  split
  · rw [lt_nan _ _ (.inl rfl)]; exact nofun
  · rw [lt_nan _ _ (.inr rfl)]; exact nofun

theorem lt_self_ne_true (v : FV) : v.lt? v ≠ some true := fun h => by simpa [h] using lt_asymm h

theorem notBeyond_self (o : RedKind) (v : FV) : NotBeyond o v v := by
  unfold NotBeyond
  split <;> exact lt_self_ne_true v

theorem notBeyond_trans {o : RedKind} {w v x : FV} (hwv : NotBeyond o w v) (hvx : NotBeyond o v x) (hv : v ≠ .nan) :
    NotBeyond o w x := by
  unfold NotBeyond at *
  split at hwv
  · rw [if_pos ‹_›] at hvx ⊢
    exact fun h => (lt_or_lt_of_lt h hv).elim hvx hwv
  · rw [if_neg ‹_›] at hvx ⊢
    exact fun h => (lt_or_lt_of_lt h hv).elim hwv hvx

/-! What a pair of binary32 elements gives, the minimum and the maximum alike: a lone number, the canonical NaN of two, and of two
numbers one that the other does not lie beyond. -/

section
variable {o : RedKind} (ho : o = .opMin ∨ o = .opMax) {x y : Elem}
include ho

theorem redPair_nan (hx : f32.decode x.toNat = .nan) (hy : f32.decode y.toNat = .nan) : redPair o .f32 x y = 0x7FC00000#32 := by
  obtain ⟨hmin, hmax⟩ := minNum_nan f32 _ _ hx hy
  rcases ho with rfl | rfl
  · exact congrArg (BitVec.ofNat 32) hmin
  · exact congrArg (BitVec.ofNat 32) hmax

theorem redPair_nan_left (hx : f32.decode x.toNat = .nan) (hy : f32.decode y.toNat ≠ .nan) : redPair o .f32 x y = y := by
  obtain ⟨hmin, hmax⟩ := minNum_nan_left f32 _ _ hx hy
  rcases ho with rfl | rfl
  · simp [redPair, hmin]
  · simp [redPair, hmax]

theorem redPair_nan_right (hx : f32.decode x.toNat ≠ .nan) (hy : f32.decode y.toNat = .nan) : redPair o .f32 x y = x := by
  obtain ⟨hmin, hmax⟩ := minNum_nan_right f32 _ _ hx hy
  rcases ho with rfl | rfl
  · simp [redPair, hmin]
  · simp [redPair, hmax]

theorem redPair_numbers (hx : f32.decode x.toNat ≠ .nan) (hy : f32.decode y.toNat ≠ .nan) :
    redPair o .f32 x y = x ∧ NotBeyond o (f32.decode x.toNat) (f32.decode y.toNat) ∨
      redPair o .f32 x y = y ∧ NotBeyond o (f32.decode y.toNat) (f32.decode x.toNat) := by
  have not_lt {a b : FV} (h : a.below b = false) : a.lt? b ≠ some true := fun k => by simp [below_of_lt k] at h
  have not_gt {a b : FV} (h : a.below b = true) : b.lt? a ≠ some true := fun k => by simp [not_below_of_lt k] at h
  rcases ho with rfl | rfl
  · cases h : (f32.decode y.toNat).below (f32.decode x.toNat)
    · exact .inl ⟨by simp [redPair, Fmt.minNum, isNan_eq_false, hx, hy, h], not_lt h⟩
    · exact .inr ⟨by simp [redPair, Fmt.minNum, isNan_eq_false, hx, hy, h], not_gt h⟩
  · cases h : (f32.decode x.toNat).below (f32.decode y.toNat)
    · exact .inl ⟨by simp [redPair, Fmt.maxNum, isNan_eq_false, hx, hy, h], not_lt h⟩
    · exact .inr ⟨by simp [redPair, Fmt.maxNum, isNan_eq_false, hx, hy, h], not_gt h⟩
end

/-- What R177 asks of the lesser or the greater number of a list: the canonical NaN where all are NaN, else a number of the list
that none lies beyond. -/
structure ExtremeNumber (o : RedKind) (l : List Elem) (v : Elem) : Prop where
  canonical : l ≠ [] → (∀ x ∈ l, f32.decode x.toNat = .nan) → v = 0x7FC00000#32
  extreme : (∃ x ∈ l, f32.decode x.toNat ≠ .nan) →
    v ∈ l ∧ f32.decode v.toNat ≠ .nan ∧ ∀ x ∈ l, NotBeyond o (f32.decode v.toNat) (f32.decode x.toNat)

theorem ExtremeNumber.nil (o : RedKind) (v : Elem) : ExtremeNumber o [] v := ⟨fun h => absurd rfl h, by simp⟩

theorem ExtremeNumber.of_all_nan (o : RedKind) {l : List Elem} (h : ∀ x ∈ l, f32.decode x.toNat = .nan) :
    ExtremeNumber o l 0x7FC00000#32 :=
  ⟨fun _ _ => rfl, fun ⟨x, hx, hn⟩ => absurd (h x hx) hn⟩

theorem ExtremeNumber.of_number {o : RedKind} {l : List Elem} {v : Elem} (hv : v ∈ l) (hn : f32.decode v.toNat ≠ .nan)
    (h : ∀ x ∈ l, NotBeyond o (f32.decode v.toNat) (f32.decode x.toNat)) : ExtremeNumber o l v :=
  ⟨fun _ hall => absurd (hall v hv) hn, fun _ => ⟨hv, hn, h⟩⟩

theorem redPair_extreme {o : RedKind} (ho : o = .opMin ∨ o = .opMax) {l : List Elem} {v : Elem} (hl : l ≠ [])
    (h : ExtremeNumber o l v) (y : Elem) : ExtremeNumber o (l ++ [y]) (redPair o .f32 v y) := by
  by_cases hnum : ∃ x ∈ l, f32.decode x.toNat ≠ .nan
  · obtain ⟨hmem, hv, hbeyond⟩ := h.extreme hnum
    have keeps (hy : NotBeyond o (f32.decode v.toNat) (f32.decode y.toNat)) : ExtremeNumber o (l ++ [y]) v :=
      .of_number (List.mem_append_left _ hmem) hv (List.forall_mem_append.2 ⟨hbeyond, List.forall_mem_singleton.2 hy⟩)
    by_cases hy : f32.decode y.toNat = .nan
    · rw [redPair_nan_right ho hv hy]
      exact keeps (hy ▸ notBeyond_nan o _)
    · rcases redPair_numbers ho hv hy with ⟨he, hb⟩ | ⟨he, hb⟩ <;> rw [he]
      · exact keeps hb
      · exact .of_number List.mem_concat_self hy
          (List.forall_mem_append.2 ⟨fun x hx => notBeyond_trans hb (hbeyond x hx) hv, List.forall_mem_singleton.2 (notBeyond_self o _)⟩)
  · have hall : ∀ x ∈ l, f32.decode x.toNat = .nan := by simpa using hnum
    have hv : f32.decode v.toNat = .nan := by rw [h.canonical hl hall]; decide
    by_cases hy : f32.decode y.toNat = .nan
    · rw [redPair_nan ho hv hy]
      exact .of_all_nan o (List.forall_mem_append.2 ⟨hall, List.forall_mem_singleton.2 hy⟩)
    · rw [redPair_nan_left ho hv hy]
      exact .of_number List.mem_concat_self hy
        (List.forall_mem_append.2 ⟨fun x hx => hall x hx ▸ notBeyond_nan o _, List.forall_mem_singleton.2 (notBeyond_self o _)⟩)

theorem redPair_self_extreme {o : RedKind} (ho : o = .opMin ∨ o = .opMax) (x : Elem) : ExtremeNumber o [x] (redPair o .f32 x x) := by
  by_cases hx : f32.decode x.toNat = .nan
  · rw [redPair_nan ho hx hx]
    exact .of_all_nan o (by simpa using hx)
  · rw [(redPair_numbers ho hx hx).elim And.left And.left]
    exact .of_number (List.mem_singleton_self x) hx (by simpa using notBeyond_self o _)

theorem redList_extreme {o : RedKind} (ho : o = .opMin ∨ o = .opMax) (mode : RMode) (l : List Elem) :
    ExtremeNumber o l (redList o .f32 mode l) := by
  have hadd : o ≠ .add := by rintro rfl; simp at ho
  refine redList_meets (fun _ => hadd) (ExtremeNumber.nil o _) (fun x => ?_) (fun l v y hl h => redPair_extreme ho hl h y) l
  rw [redList_one_f32 mode hadd]
  exact redPair_self_extreme ho x

theorem redList_add_f32 (mode : RMode) {l : List Elem} (hl : l ≠ []) :
    redList .add .f32 mode l = BitVec.ofNat 32 (f32.round mode false (sumExact mode (l.map fun x => f32.decode x.toNat))) := by
  cases l with
  | nil => exact absurd rfl hl
  | cons x r => rfl

/-! ### The instructions -/

/-- VPERM's bits 7:0 of func11 are zero (R300). -/
theorem encode_vperm_low {d a b : BitVec 4} {k : BitVec 2} (h : (Instr.vperm d a b k).wf = true) :
    (encode (.vperm d a b k)).map (fun w => w.toNat % 256) = some 0 := by
  simp only [encode, h, if_true, encodeNat, Option.map_some, BitVec.toNat_ofNat, Option.some.injEq]
  omega

theorem vred_completes {s : State} (d a : BitVec 4) (k : BitVec 2) (o : RedKind) (t : RedTy) (ht : threadOk s.cur = true)
    (hv : s.th.vl ≠ 0) : Completes (.vred d a k o t) s fun u =>
      VectorWrite s u d [0] fun _ => redList o t s.rmode ((s.actives k).map (s.rv a)) :=
  completes_vec ht hv rfl rfl rfl rfl

/-- VINS writes one element, or none at or above VL (R303). -/
theorem vins_completes {s : State} (d : BitVec 4) (r : BitVec 5) (n : BitVec 6) (ht : threadOk s.cur = true) (hv : s.th.vl ≠ 0) :
    Completes (.vins d r n) s fun u =>
      if n.toNat < s.th.vl then VectorWrite s u d [n.toNat] (fun _ => (s.rs r).truncate 32) else u = s := by
  refine completes_of ⟨ht, rfl, rfl⟩ rfl (vector_runs _ hv) ?_
  split
  · exact vectorWrite_wvs s d [n.toNat] fun _ => (s.rs r).truncate 32
  · rfl

/-- Settles O18: a reduction completes by writing what `redList` gives of its active elements, and each clause on it is what that list
gives; the other forms complete by the write that their rule states. -/
theorem crossLaneAndTransfers : Obligations.CrossLaneAndTransfers := by
  unfold Obligations.CrossLaneAndTransfers
  refine ⟨fun d a b k hwf => encode_vperm_low hwf, fun s d a b k n o ht hv => ?_, fun s d k r n ht hv => ?_⟩
  · intro mode act xs red
    have completes (o : RedKind) (t : RedTy) : red o t (redList o t mode xs) := vred_completes d a k o t ht hv
    refine ⟨fun t htype => ?_, fun hnil => ?_, fun hxs => ?_, fun ho => ?_, completes_vec ht hv rfl rfl rfl rfl,
      completes_vec ht hv rfl rfl rfl rfl, completes_vec ht hv rfl rfl rfl rfl, completes_vec ht hv rfl rfl rfl rfl, ?_⟩
    · have hint : t ≠ .f32 := by rintro rfl; simp at htype
      exact ⟨redList_add_int mode hint xs ▸ completes .add t, ⟨_, completes .opAnd t, fun j hj => redList_and_bit mode hint hj xs⟩,
        ⟨_, completes .opOr t, fun j _ => redList_or_bit mode hint j xs⟩, ⟨_, completes .opXor t, fun j _ => redList_xor_bit mode hint j xs⟩⟩
    · have identity (o : RedKind) (t : RedTy) : red o t (redIdentity o t) := by simpa [hnil, redList] using completes o t
      exact ⟨identity _ _, identity _ _, identity _ _, identity _ _, identity _ _, identity _ _, identity _ _⟩
    · obtain ⟨hmins, hles⟩ := redList_min_s32 mode hxs
      obtain ⟨hmaxs, hges⟩ := redList_max_s32 mode hxs
      obtain ⟨hminz, hlez⟩ := redList_min_z32 mode hxs
      obtain ⟨hmaxz, hgez⟩ := redList_max_z32 mode hxs
      exact ⟨⟨_, hmins, completes _ _, hles⟩, ⟨_, hmaxs, completes _ _, hges⟩, ⟨_, hminz, completes _ _, hlez⟩,
        ⟨_, hmaxz, completes _ _, hgez⟩, redList_add_f32 mode hxs ▸ completes .add .f32⟩
    · have hext := redList_extreme ho mode xs
      exact ⟨_, completes o .f32, hext.canonical, hext.extreme⟩
    · exact completes_vec ht hv rfl rfl rfl (by simp only [act, List.countP_eq_length_filter])
  · have runs {i : Instr} (hd : decodeTrap i s = none) (hg : i.guard = ⟨0, false⟩) : Runs i s := ⟨ht, hd, by rw [hg]; rfl⟩
    exact ⟨vins_completes d r n ht hv, completes_scalar (runs rfl rfl) rfl (vector_runs _ hv),
      completes_scalar (runs rfl rfl) rfl (vector_runs _ hv), completes_vec ht hv rfl rfl rfl rfl,
      completes_mask (runs rfl rfl) rfl (vector_runs _ hv), completes_scalar (runs rfl rfl) rfl (vector_runs _ hv)⟩

end Sys2Proof.Machine
end

section
/-! Emissions (R343, R344, R347): a region word's emission and the pixels that it covers, the copy of draw values to lit values, and
what EMIT and EMITQ do. The blend buffer's drain and the wait for copies (R341, R346) are stated of any instruction that drains first. -/

namespace Sys2Proof.Machine

/-! ### Changes of a column's pixels alone -/

/-- d is c but for its pixels. -/
def Column.OnlyPixels (c d : Column) : Prop := d = { c with pixels := d.pixels }

theorem Column.OnlyPixels.refl (c : Column) : c.OnlyPixels c := rfl

theorem Column.OnlyPixels.trans {c d e : Column} (h : c.OnlyPixels d) (k : d.OnlyPixels e) : c.OnlyPixels e := by
  unfold Column.OnlyPixels at *
  rw [k, h]

theorem Column.onlyPixels_setPixel (c : Column) (n : Nat) (p : Pixel) : c.OnlyPixels (c.setPixel n p) := rfl

theorem Column.onlyPixels_foldl {α : Type} {f : Column → α → Column} (h : ∀ (c : Column) x, c.OnlyPixels (f c x)) (l : List α)
    (c : Column) : c.OnlyPixels (l.foldl f c) := by
  induction l generalizing c with
  | nil => exact .refl c
  | cons x l ih => exact (h c x).trans (ih (f c x))

theorem pixel_setPixel (c : Column) (k n : Nat) (p : Pixel) : (c.setPixel k p).pixel n = if n = k then p else c.pixel n :=
  tget_tset _ _ _ _ _

/-- Memory stays when a column changes outside its scratch, whatever the next number and the telemetry become. -/
theorem becomes_setCol (s : State) (ca : Nat) {c : Column} (n : Nat) (tele : Tbl ColTele) (home : c.home = (s.col ca).home := by rfl)
    (loft : c.loft = (s.col ca).loft := by rfl) (drive : c.drive = (s.col ca).drive := by rfl) :
    Becomes s { s.setCol ca c with nextId := n, colTele := tele } { s.setCol ca c with nextId := n, colTele := tele } := by
  refine ⟨rfl, sameMemory_of rfl rfl rfl rfl fun x => ?_⟩
  show ((s.setCol ca c).col x).home = _ ∧ ((s.setCol ca c).col x).loft = _ ∧ ((s.setCol ca c).col x).drive = _
  by_cases h : x = ca
  · subst h; simp [home, loft, drive]
  · simp [col_setCol_other, h]

theorem Column.OnlyPixels.seqr {c d : Column} (h : c.OnlyPixels d) (l : List Emission) :
    { d with seqr := l } = { c with pixels := d.pixels, seqr := l } := by rw [h]

/-! ### The copy of an emission (R344) -/

/-- A pixel after its draw values are copied to its lit values in the classes. -/
def Pixel.copyDraw (cls : BitVec 3) (p : Pixel) : Pixel :=
  { p with
    litR := if cls.getLsbD 0 then p.drawR else p.litR
    litG := if cls.getLsbD 1 then p.drawG else p.litG
    litB := if cls.getLsbD 2 then p.drawB else p.litB }

theorem copyDraw_copyDraw (cls : BitVec 3) (p : Pixel) : (p.copyDraw cls).copyDraw cls = p.copyDraw cls := by
  have twice (b : Bool) (x y : BitVec 16) : (if b then x else if b then x else y) = if b then x else y := by cases b <;> rfl
  simp only [Pixel.copyDraw, twice]

/-- The pixels of an emission's region, row by row. -/
def Emission.region (e : Emission) : List Nat := (upto e.h).flatMap fun j => (upto e.w).map fun i => 128 * (e.y0 + j) + e.x0 + i

theorem covers_iff (e : Emission) (n : Nat) :
    e.covers n = true ↔ e.x0 ≤ n % 128 ∧ n % 128 < e.x0 + e.w ∧ e.y0 ≤ n / 128 ∧ n / 128 < e.y0 + e.h := by
  simp [Emission.covers, and_assoc]

/-- A region that ends within the 128 pixels of a row lists the pixels that it covers. -/
theorem mem_region {e : Emission} (hw : e.x0 + e.w ≤ 128) (n : Nat) : n ∈ e.region ↔ e.covers n = true := by
  simp only [Emission.region, upto, List.mem_flatMap, List.mem_map, List.mem_range, covers_iff]
  constructor
  · rintro ⟨j, hj, i, hi, rfl⟩
    omega
  · rintro ⟨hx, hx', hy, hy'⟩
    exact ⟨n / 128 - e.y0, by omega, n % 128 - e.x0, by omega, by omega⟩

theorem light_eq_foldl (c : Column) (e : Emission) :
    c.light e = e.region.foldl (fun c k => c.setPixel k ((c.pixel k).copyDraw e.cls)) c := by
  simp only [Emission.region, List.foldl_flatMap, List.foldl_map]
  rfl

theorem onlyPixels_light (c : Column) (e : Emission) : c.OnlyPixels (c.light e) := by
  rw [light_eq_foldl]
  exact Column.onlyPixels_foldl (fun c k => c.onlyPixels_setPixel k _) _ c

/-- Pixels that an idempotent function is applied to in turn. -/
theorem pixel_foldl_setPixel {g : Pixel → Pixel} (hg : ∀ p, g (g p) = g p) (l : List Nat) (c : Column) (n : Nat) :
    (l.foldl (fun c k => c.setPixel k (g (c.pixel k))) c).pixel n = if n ∈ l then g (c.pixel n) else c.pixel n := by
  induction l generalizing c with
  | nil => rfl
  | cons k l ih =>
    rw [List.foldl_cons, ih, pixel_setPixel]
    by_cases h : n = k
    · subst h
      simp [hg]
    · simp [h]

theorem pixel_light (c : Column) {e : Emission} (hw : e.x0 + e.w ≤ 128) (n : Nat) :
    (c.light e).pixel n = if e.covers n = true then (c.pixel n).copyDraw e.cls else c.pixel n := by
  rw [light_eq_foldl, pixel_foldl_setPixel (copyDraw_copyDraw e.cls)]
  simp only [mem_region hw]

/-! ### The copies that a drain awaits (R341, R346) -/

theorem buffered_iff (s : State) (n : Nat) : Buffered s n ↔ n ∈ s.here.blendPixels := by
  simp [Buffered, Column.blendPixels]

theorem mem_uncopied (s : State) (cls : BitVec 3) (pix : List Nat) (n : Nat) :
    n ∈ s.here.uncopied cls pix ↔ ∃ q, ToCopy s cls (· ∈ pix) q ∧ q.id = n := by
  simp only [Column.uncopied, List.mem_map, List.mem_filter, Bool.and_eq_true, Bool.not_eq_true', bne_iff_ne, List.any_eq_true,
    covers_iff, ToCopy, and_assoc]

theorem uncopied_eq_nil {s : State} {cls : BitVec 3} {pix : List Nat} :
    s.here.uncopied cls pix = [] ↔ ∀ q, ¬ ToCopy s cls (· ∈ pix) q := by
  simp only [List.eq_nil_iff_forall_not_mem, mem_uncopied]
  exact ⟨fun h q hq => h q.id ⟨q, hq, rfl⟩, fun h _ ⟨q, hq, _⟩ => h q hq⟩

theorem afterCopies_runs {s : State} {cls : BitVec 3} {pix : List Nat} (f : State → State) (h : s.here.uncopied cls pix = []) :
    s.afterCopies cls pix f = f s := by
  simp only [State.afterCopies, h]

theorem afterCopies_stalls {s : State} {cls : BitVec 3} {pix : List Nat} (f : State → State) (h : s.here.uncopied cls pix ≠ []) :
    s.afterCopies cls pix f = s.stall (.copies (s.here.uncopied cls pix)) := by
  unfold State.afterCopies
  split
  · contradiction
  · rfl

/-- An instruction that runs f after its copies stalls while there are some. -/
theorem awaitsCopies_of {i : Instr} {s : State} {F f : State → State} {cls : BitVec 3} {P : Nat → Prop} {pix : List Nat}
    (hP : ∀ n, P n ↔ n ∈ pix) (hr : Runs i s) (he : exec i s = issueAs i s F) (hF : F s = s.afterCopies cls pix f) :
    AwaitsCopies i s cls P := by
  obtain rfl : P = (· ∈ pix) := funext fun n => propext (hP n)
  rintro ⟨q, hq⟩
  have hne : s.here.uncopied cls pix ≠ [] := fun h => uncopied_eq_nil.1 h q hq
  exact completes_of hr he (hF.trans (afterCopies_stalls f hne)) ⟨_, mem_uncopied s cls pix, threadBecomes s _⟩

/-! ### The drain of the blend buffer (R341) -/

theorem onlyPixels_blendEntry (c : Column) (e : Blend) : c.OnlyPixels (c.blendEntry e) :=
  Column.onlyPixels_foldl (f := fun c b => c.blendPix e.op b) (fun c b => c.onlyPixels_setPixel b.idx _) e.pix c

theorem drain_frame (c : Column) : c.drain = { c with pixels := c.drain.pixels, blend := [] } := by
  have h := Column.onlyPixels_foldl onlyPixels_blendEntry (c.blend.foldr insertBlend []) c
  exact congrArg (fun d : Column => { d with blend := [] }) h

theorem drain_of_empty {c : Column} (h : c.blend = []) : c.drain = c := by
  cases c
  cases h
  rfl

theorem blend_drain (c : Column) : c.drain.blend = [] := rfl

theorem drain_threads (c : Column) : c.drain.threads = c.threads := by rw [drain_frame]

/-- With no copy of a buffered pixel to await, the buffer is drained before f. -/
theorem drained_runs {s : State} (f : State → State) (h : ∀ q, ¬ ToCopy s 7 (Buffered s) q) :
    s.drained f = f (s.setCol s.cur.ca s.here.drain) := by
  rw [show Buffered s = (· ∈ s.here.blendPixels) from funext fun n => propext (buffered_iff s n)] at h
  exact afterCopies_runs _ (uncopied_eq_nil.2 h)

theorem drained_of_empty {s : State} (f : State → State) (h : s.here.blend = []) : s.drained f = f (s.setCol s.cur.ca s.here) := by
  have hnone : ∀ q, ¬ ToCopy s 7 (Buffered s) q := fun _ ⟨_, _, _, _, ⟨_, he, _⟩, _⟩ => List.not_mem_nil (h ▸ he)
  rw [drained_runs f hnone, drain_of_empty h]

/-- An instruction that runs f after the drain drains first: on the drained column it finds nothing more to drain. -/
theorem drainsFirst_of {i : Instr} {s : State} {F f : State → State} (hr : Runs i s) (hr' : Runs i (s.setCol s.cur.ca s.here.drain))
    (he : ∀ u, exec i u = issueAs i u F) (hF : F s = s.drained f)
    (hF' : F (s.setCol s.cur.ca s.here.drain) = (s.setCol s.cur.ca s.here.drain).drained f) : DrainsFirst i s := by
  constructor
  · exact awaitsCopies_of (buffered_iff s) hr (he s) hF
  · intro h
    have hempty : (s.setCol s.cur.ca s.here.drain).here.blend = [] := by simp [blend_drain]
    rw [he, he, issueAs_runs hr, issueAs_runs hr', hF, hF', drained_runs f h, drained_of_empty f hempty]
    simp

/-! ### Region words (R343) -/

/-- A region word that R343 refuses, DUR aside. -/
def RegionRefused (x : Word) : Prop :=
  bitsOf x 61 3 ≠ 0 ∨ bitsOf x 28 6 ≠ 0 ∨ bitsOf x 58 3 = 0 ∨ 128 < bitsOf x 0 7 + (bitsOf x 14 7 + 1) ∨
    128 < bitsOf x 7 7 + (bitsOf x 21 7 + 1)

/-- A region word's emission before it has a number and a tick; its end is its duration. -/
def regionEmission (x : Word) : Emission :=
  ⟨0, 0, bitsOf x 34 24, bitsOf x 0 7, bitsOf x 7 7, bitsOf x 14 7 + 1, bitsOf x 21 7 + 1, BitVec.ofNat 3 (bitsOf x 58 3), false⟩

theorem regionOf_refused {x : Word} {dur : Bool} (h : RegionRefused x ∨ dur = true ∧ bitsOf x 34 24 = 0) : regionOf x dur = none := by
  unfold RegionRefused at h
  exact if_pos (by tauto)

theorem regionOf_legal {x : Word} {dur : Bool} (h : ¬ RegionRefused x) (hd : dur = true → bitsOf x 34 24 ≠ 0) :
    regionOf x dur = some (regionEmission x) := by
  unfold RegionRefused at h
  exact if_neg (by tauto)

theorem regionEmission_fits {x : Word} (h : ¬ RegionRefused x) : (regionEmission x).x0 + (regionEmission x).w ≤ 128 := by
  unfold RegionRefused at h
  simp only [regionEmission]
  omega

theorem regionEmission_cls_toNat (x : Word) : (regionEmission x).cls.toNat = bitsOf x 58 3 := by
  simp [regionEmission, bitsOf]

theorem regionEmission_cls_bit (x : Word) (j : Nat) : (regionEmission x).cls.getLsbD j = (bitsOf x 58 3).testBit j := by
  rw [← BitVec.testBit_toNat, regionEmission_cls_toNat]

/-! ### EMIT (R343, R344) -/

/-- The emission with number n, from tick t on. -/
def Emission.issued (e : Emission) (n t : Nat) : Emission := { e with id := n, t := t, stop := t + e.stop }

section
variable {s : State} {t : Nat} (e : Emission)

theorem emitNow_queues (h : s.now ≤ t) : s.emitNow t e =
    { s.setCol s.cur.ca { s.here with seqr := s.here.seqr ++ [e.issued s.nextId t] } with nextId := s.nextId + 1 } :=
  if_pos h

theorem emitNow_late (h : t < s.now) (hstop : s.now < t + e.stop) : s.emitNow t e =
    { s.setCol s.cur.ca { s.here with
        seqr := s.here.seqr ++ [{ e.issued s.nextId t with copied := true }]
        late := true
        lateCnt := satInc s.here.lateCnt
        pixels := (s.here.light (e.issued s.nextId t)).pixels } with
      nextId := s.nextId + 1
      colTele := (s.updTele s.cur.ca fun x => { x with lateTotal := x.lateTotal + 1 }).colTele } := by
  have hcopied (c : Column) (hc : s.here.OnlyPixels c) :
      { c with seqr := s.here.seqr ++ [{ e.issued s.nextId t with copied := true }], late := true, lateCnt := satInc s.here.lateCnt } =
      { s.here with seqr := s.here.seqr ++ [{ e.issued s.nextId t with copied := true }], late := true,
                    lateCnt := satInc s.here.lateCnt, pixels := c.pixels } := by
    rw [hc]
  rw [← hcopied _ (onlyPixels_light s.here (e.issued s.nextId t))]
  exact (if_neg (Nat.not_le.2 h)).trans (if_pos hstop)

theorem emitNow_missed (h : t + e.stop ≤ s.now) (hstop : e.stop ≠ 0) : s.emitNow t e =
    { s.setCol s.cur.ca { s.here with missed := true, missCnt := satInc s.here.missCnt } with
      nextId := s.nextId + 1
      colTele := (s.updTele s.cur.ca fun x => { x with missTotal := x.missTotal + 1 }).colTele } := by
  have hlate : ¬ s.now ≤ t := by omega
  exact (if_neg hlate).trans (if_neg (Nat.not_lt.2 h))
end

/-- EMIT of emission e at tick t once its drain is done: it waits for a free entry of the sequencer. -/
def emitDrained (t : Nat) (e : Emission) (s : State) : State :=
  if 16 ≤ s.here.seqr.length then s.stall .sequencer else s.emitNow t e

/-- EMIT's effect on a thread that runs it. -/
def emitEffect (a b : BitVec 5) (s : State) : State :=
  match regionOf (s.rs b) true with
  | none => s.trap .illegalInstr
  | some e => s.drained (emitDrained (s.rs a).toNat e)

theorem exec_emit (a b : BitVec 5) (s : State) : exec (.emit a b) s = issueAs (.emit a b) s (emitEffect a b) := rfl

theorem decodeTrap_emit (a b : BitVec 5) (s : State) :
    decodeTrap (.emit a b) s = if !isDrive s.cur then some .illegalInstr else none := rfl

theorem runs_emit {s : State} (a b : BitVec 5) (ht : threadOk s.cur = true) (hd : isDrive s.cur = true) : Runs (.emit a b) s :=
  ⟨ht, by simp [decodeTrap_emit, hd], guardTrue_always s⟩

theorem emitEffect_refused {s : State} (a : BitVec 5) {b : BitVec 5} (h : RegionRefused (s.rs b) ∨ bitsOf (s.rs b) 34 24 = 0) :
    emitEffect a b s = s.trap .illegalInstr := by
  rw [emitEffect, regionOf_refused (h.imp_right fun hd => ⟨rfl, hd⟩)]

section
variable {s : State} (a : BitVec 5) {b : BitVec 5} (hr : ¬ RegionRefused (s.rs b)) (hd : bitsOf (s.rs b) 34 24 ≠ 0)
include hr hd

theorem emitEffect_legal : emitEffect a b s = s.drained (emitDrained (s.rs a).toNat (regionEmission (s.rs b))) := by
  rw [emitEffect, regionOf_legal hr fun _ => hd]

theorem emit_drainsFirst (ht : threadOk s.cur = true) (hdrive : isDrive s.cur = true) : DrainsFirst (.emit a b) s := by
  have hrs (r : BitVec 5) : (s.setCol s.cur.ca s.here.drain).rs r = s.rs r :=
    congrArg (fun th : Thread => th.rs r) (thread_setCol_threads s _ _ _ (drain_threads _))
  refine drainsFirst_of (runs_emit a b ht hdrive) (runs_emit a b ht hdrive) (exec_emit a b) (emitEffect_legal a hr hd) ?_
  rw [emitEffect_legal a (by rwa [hrs]) (by rwa [hrs]), hrs, hrs]

/-- With nothing to drain, EMIT acts at once. -/
theorem emit_completes {P : State → Prop} (ht : threadOk s.cur = true) (hdrive : isDrive s.cur = true) (hb : s.here.blend = [])
    (h : P (emitDrained (s.rs a).toNat (regionEmission (s.rs b)) (s.setCol s.cur.ca s.here))) : Completes (.emit a b) s P :=
  completes_of (runs_emit a b ht hdrive) (exec_emit a b s) ((emitEffect_legal a hr hd).trans (drained_of_empty _ hb)) h
end

theorem emitDrained_full {s : State} (t : Nat) (e : Emission) (h : 16 ≤ s.here.seqr.length) :
    emitDrained t e s = s.stall .sequencer := if_pos h

theorem emitDrained_free {s : State} (t : Nat) (e : Emission) (h : s.here.seqr.length < 16) :
    emitDrained t e s = s.emitNow t e := if_neg (Nat.not_le.2 h)

/-! A column written back as it stands, as the drain of an empty buffer leaves it, makes no difference to what EMIT does next. -/

theorem here_setCol_here (s : State) : (s.setCol s.cur.ca s.here).here = s.here := col_setCol_same _ _ _

theorem setThread_setCol_here (s : State) (th : Thread) : (s.setCol s.cur.ca s.here).setThread s.cur th = s.setThread s.cur th := by
  unfold State.setThread
  rw [col_setCol_same, setCol_setCol]
  rfl

theorem stall_setCol_here (s : State) (w : Wait) : (s.setCol s.cur.ca s.here).stall w = s.stall w := by
  have hth : (s.setCol s.cur.ca s.here).th = s.th := thread_setCol_threads s _ _ _ rfl
  simp only [State.stall, State.holdAs, upd_eq, setCol_cur, hth, setThread_setCol_here]
  rfl

theorem emitNow_setCol_here {s : State} {e : Emission} (t : Nat) (he : e.stop ≠ 0) :
    (s.setCol s.cur.ca s.here).emitNow t e = s.emitNow t e := by
  have hnow : (s.setCol s.cur.ca s.here).now = s.now := rfl
  rcases Nat.lt_or_ge t s.now with hlate | hearly
  · rcases Nat.lt_or_ge s.now (t + e.stop) with hbefore | hafter
    · rw [emitNow_late e (hnow ▸ hlate) (hnow ▸ hbefore), emitNow_late e hlate hbefore, here_setCol_here, setCol_cur, setCol_setCol]
      rfl
    · rw [emitNow_missed e (hnow ▸ hafter) he, emitNow_missed e hafter he, here_setCol_here, setCol_cur, setCol_setCol]
      rfl
  · rw [emitNow_queues e (hnow ▸ hearly), emitNow_queues e hearly, here_setCol_here, setCol_cur, setCol_setCol]
    rfl

/-! ### EMITQ (R347) -/

/-- The latest end of a column's emissions that overlap e and lie beyond a tick, or 0. -/
def Column.latestEnd (c : Column) (e : Emission) (now : Nat) : Nat :=
  ((c.seqr.filter fun f => f.overlaps e && decide (now < f.stop)).map (·.stop)).foldl max 0

theorem latestEnd_spec (c : Column) (e : Emission) (now : Nat) :
    (∀ f ∈ c.seqr, f.overlaps e = true → now < f.stop → f.stop ≤ c.latestEnd e now) ∧
      (c.latestEnd e now = 0 ∨ ∃ f ∈ c.seqr, f.overlaps e = true ∧ now < f.stop ∧ f.stop = c.latestEnd e now) := by
  generalize hm : c.latestEnd e now = m
  have hmax : (0 :: (c.seqr.filter fun f => f.overlaps e && decide (now < f.stop)).map (·.stop)).max? = some m := congrArg some hm
  obtain ⟨hmem, hle⟩ := List.max?_eq_some_iff.1 hmax
  constructor
  · intro f hf ho hn
    exact hle _ (List.mem_cons_of_mem _ (List.mem_map_of_mem (List.mem_filter.2 ⟨hf, by simp [ho, hn]⟩)))
  · simpa [and_assoc] using hmem

/-- EMITQ's effect on a thread that runs it. -/
def emitqEffect (a b : BitVec 5) (s : State) : State :=
  match regionOf (s.rs b) false with
  | none => s.trap .illegalInstr
  | some e => s.ws a (BitVec.ofNat 64 (s.here.latestEnd e s.now))

theorem exec_emitq (a b : BitVec 5) (s : State) : exec (.emitq a b) s = issueAs (.emitq a b) s (emitqEffect a b) := rfl

theorem decodeTrap_emitq (a b : BitVec 5) (s : State) :
    decodeTrap (.emitq a b) s = if !isDrive s.cur then some .illegalInstr else none := rfl

theorem runs_emitq {s : State} (a b : BitVec 5) (ht : threadOk s.cur = true) (hd : isDrive s.cur = true) : Runs (.emitq a b) s :=
  ⟨ht, by simp [decodeTrap_emitq, hd], guardTrue_always s⟩

theorem emitqEffect_refused {s : State} (a : BitVec 5) {b : BitVec 5} (h : RegionRefused (s.rs b)) :
    emitqEffect a b s = s.trap .illegalInstr := by
  rw [emitqEffect, regionOf_refused (.inl h)]

theorem emitqEffect_legal {s : State} (a : BitVec 5) {b : BitVec 5} (h : ¬ RegionRefused (s.rs b)) :
    emitqEffect a b s = s.ws a (BitVec.ofNat 64 (s.here.latestEnd (regionEmission (s.rs b)) s.now)) := by
  rw [emitqEffect, regionOf_legal h fun hd => absurd hd Bool.false_ne_true]

theorem overlaps_regionEmission (f : Emission) (x : Word) :
    f.overlaps (regionEmission x) = true ↔ f.cls.toNat &&& bitsOf x 58 3 ≠ 0 ∧
      bitsOf x 0 7 < f.x0 + f.w ∧ f.x0 < bitsOf x 0 7 + (bitsOf x 14 7 + 1) ∧
      bitsOf x 7 7 < f.y0 + f.h ∧ f.y0 < bitsOf x 7 7 + (bitsOf x 21 7 + 1) := by
  have hcls : f.cls &&& (regionEmission x).cls = 0 ↔ f.cls.toNat &&& bitsOf x 58 3 = 0 := by
    rw [BitVec.toNat_eq, BitVec.toNat_and, regionEmission_cls_toNat]
    rfl
  simp only [Emission.overlaps, Bool.and_eq_true, bne_iff_ne, ne_eq, hcls, decide_eq_true_eq]
  simp only [regionEmission]
  tauto

/-! ### The copy and the end of an emission as steps (R344) -/

section
variable {s : State} {ca : Nat} {x : Emission} (h : (s.col ca).seqr.find? (fun y => y.id == x.id) = some x)
include h

theorem exec_emissionCopy : exec (.emissionCopy ca x.id) s =
    .next (if !x.copied && decide (x.t ≤ s.now) then
      s.setCol ca { (s.col ca).light x with
        seqr := (s.col ca).seqr.map fun y => if y.id = x.id then { y with copied := true } else y }
    else s) := by
  show Host.Outcome.next _ = _
  rw [h]
  rfl

theorem exec_emissionEnd : exec (.emissionEnd ca x.id) s =
    .next (if x.copied && decide (x.stop ≤ s.now) then
      s.setCol ca { s.col ca with seqr := (s.col ca).seqr.filter fun y => y.id != x.id }
    else s) := by
  show Host.Outcome.next _ = _
  rw [h]
  rfl
end

/-! ### The statement -/

theorem copyDraw_regionEmission (x : Word) (p : Pixel) : p.copyDraw (regionEmission x).cls = { p with
    litR := if (bitsOf x 58 3).testBit 0 then p.drawR else p.litR
    litG := if (bitsOf x 58 3).testBit 1 then p.drawG else p.litG
    litB := if (bitsOf x 58 3).testBit 2 then p.drawB else p.litB } := by
  simp only [Pixel.copyDraw, regionEmission_cls_bit]

/-- Settles O40: EMIT drains first and then does what `emitNow` does by the tick, EMITQ reads `latestEnd`, and the copy and the end of a
held emission are steps that wait for their ticks. -/
theorem emissions : Obligations.Emissions := by
  unfold Obligations.Emissions
  constructor
  · intro s a b ht hdrive x T bits W H D bad em in_ sat meets
    refine ⟨fun h => ?_, fun h => ?_, fun hbad hD => emit_drainsFirst a hbad hD ht hdrive, fun hbad hD hblend hfull => ?_,
      fun hbad hD hblend hfree => ?_, fun hbad => ?_⟩
    · rw [exec_emit, issueAs_runs (runs_emit a b ht hdrive), emitEffect_refused a h]
    · rw [exec_emitq, issueAs_runs (runs_emitq a b ht hdrive), emitqEffect_refused a h]
    · refine emit_completes a hbad hD ht hdrive hblend ?_
      rw [emitDrained_full _ _ (by rwa [here_setCol_here]), stall_setCol_here]
      exact threadBecomes s _
    · refine emit_completes a hbad hD ht hdrive hblend ?_
      rw [emitDrained_free _ _ (by rwa [here_setCol_here]), emitNow_setCol_here _ hD]
      refine ⟨fun hearly => ?_, fun hlate hbefore => ?_, fun hafter => ?_⟩
      · rw [emitNow_queues _ hearly]
        exact becomes_setCol s s.cur.ca _ _
      · rw [emitNow_late _ hlate hbefore]
        refine ⟨_, _, becomes_setCol s s.cur.ca _ _, fun n => ?_⟩
        have hfit : ((regionEmission (s.rs b)).issued s.nextId T).x0 + ((regionEmission (s.rs b)).issued s.nextId T).w ≤ 128 :=
          regionEmission_fits hbad
        exact (pixel_light s.here hfit n).trans (if_congr (covers_iff _ n) (copyDraw_regionEmission (s.rs b) _) rfl)
      · rw [emitNow_missed _ hafter hD]
        exact ⟨_, becomes_setCol s s.cur.ca _ _⟩
    · obtain ⟨hle, hmem⟩ := latestEnd_spec s.here (regionEmission (s.rs b)) s.now
      have hmeets (f : Emission) : meets f ↔ s.now < f.stop ∧ f.overlaps (regionEmission (s.rs b)) = true :=
        and_congr_right fun _ => (overlaps_regionEmission f (s.rs b)).symm
      refine completes_of (runs_emitq a b ht hdrive) (exec_emitq a b s) (emitqEffect_legal a hbad) ⟨_, scalarWrite_ws s a _, ?_, ?_⟩
      · exact fun f hf h => hle f hf ((hmeets f).1 h).2 ((hmeets f).1 h).1
      · exact hmem.imp_right fun ⟨f, hf, ho, hn, he⟩ => ⟨f, hf, (hmeets f).2 ⟨hn, ho⟩, he⟩
  · intro s ca x hfind hw c in_
    refine ⟨fun hcopied htick => ?_, fun h => ?_, fun hcopied hend => ?_, fun h => ?_⟩
    · refine ⟨_, exec_emissionCopy hfind, ((s.col ca).light x).pixels, ?_, fun n => ?_⟩
      · rw [if_pos (by simp [hcopied, htick]), (onlyPixels_light (s.col ca) x).seqr]
        exact becomes_setCol s ca _ _
      · exact (pixel_light c hw n).trans (if_congr (covers_iff x n) rfl rfl)
    · rw [exec_emissionCopy hfind, if_neg (by rcases h with h | h <;> simp [h])]
    · refine ⟨_, exec_emissionEnd hfind, ?_⟩
      rw [if_pos (by simp [hcopied, hend])]
      exact becomes_setCol s ca _ _
    · rw [exec_emissionEnd hfind, if_neg (by rcases h with h | h <;> simp [h])]

end Sys2Proof.Machine
end
